-- ==== Sys2Proof/Word.lean ====
section
/-! DEFINITION. The word types of the N16 (R50, R79, R106) and the sparse table type that holds
register files, memories and record tables. -/

namespace Sys2Proof

/-- A 32-bit scalar register, lane or semaphore (R50). -/
abbrev Word := BitVec 32
/-- A 64-bit address, pair or control word (R52, R79). -/
abbrev Word64 := BitVec 64
/-- One byte of memory (R1). -/
abbrev Byte := BitVec 8
/-- A 64-lane vector register: lane i is bits [32i+31:32i] (R53). -/
abbrev VecReg := BitVec 2048
/-- A predicate register: lane i is bit i (R53). -/
abbrev Pred := BitVec 64

/-- A table over `Nat` keys with a default for every key that is not listed. Its one canonical
form (`FMap.wf`): keys strictly rising, and no listed value equal to the default. -/
structure FMap (α : Type) where
  cells : List (Nat × α)
  deriving DecidableEq, Repr

end Sys2Proof
end

