-- ==== Sys2Proof/Config.lean ====
section
/-! DEFINITION. What an implementation fixes and the manual leaves open. The `opaque` constants are free values:
nothing can evaluate them, so a statement holds whatever they are. -/

namespace Sys2Proof.Config

/-- A free natural number, applied to the counter `State.free` (log entry 20). -/
opaque freeNat : Nat → Nat
/-- What another module's memory answers to a read within a step (log entry 21): the counter `State.free`, the cycle of the
reader, the address. -/
opaque spanRead : Nat → Nat → Nat → Nat
/-- The correctly rounded result of a function at an argument, where the search of `Machine/Transc.lean` has not
decided it: function number, format number, argument bits (log entry 24). -/
opaque undecided : Nat → Nat → Nat → Nat
/-- Whether an image's RSASSA-PSS RSA-4096 signature is valid under the root key with this digest (R411): digest, image. -/
opaque signatureOk : Nat → Nat → Bool
/-- The security version that a signed image carries (R411). -/
opaque imageVersion : Nat → Nat
/-- SHA-512 (R411, R412), of bytes written as one number. -/
opaque sha512 : Nat → Nat
/-- AES key unwrap under the module's key-wrapping key (R390): `none` if the integrity value does not check. -/
opaque keyUnwrap : Nat → Option Nat
/-- Whether a TSS-protected packet authenticates under a key (R382, R388): key, message bytes as one number. -/
opaque tssOk : Nat → Nat → Bool
/-- The certificate chain of the module's slot (R412). -/
opaque certificate : List Nat
/-- The signature of an SPDM response under the module identity key (R412), of a transcript. -/
opaque spdmSign : List Nat → List Nat
/-- The SPDM encoding of the answer to a request that the manual leaves to SPDM 1.3 (R412): request number, its
parameters. -/
opaque spdmAnswer : Nat → List Nat → List Nat
/-- The version that a handover structure written by the active firmware image carries (R369): image. -/
opaque handoverVersion : Nat → Nat
/-- The length that it carries (R369): image, number of queues. -/
opaque handoverLength : Nat → Nat → Nat
/-- A byte that a firmware image brings into a packet core's private SRAM (R367): image, byte number. -/
opaque sramImage : Nat → Nat → Byte
/-- Whether a firmware image knows a handover version (R369). -/
opaque knowsVersion : Nat → Nat → Bool
/-- What an error record's information fields hold where the manual names them without a layout (R362): the code of the
record and the facts that they tell (log entry 25). -/
opaque errInfo : Nat → List Nat → Nat
/-- The bytes of the partition map and boot configuration that measurement 6 covers (R412), as one number: arrangement,
module number and the rest of the configuration. -/
opaque bootBytes : List Nat → Nat
/-- Power that a consumer asks for in the next period (R413): consumer, counter. -/
opaque demand : Nat → Nat → Nat

end Sys2Proof.Config
end

