-- ==== Sys2Proof/Machine/Map.lean ====
section
/-! DEFINITION. Reading and writing sparse tables (`FMap`): the canonical form is kept by every write. -/

namespace Sys2Proof

/-- The table that lists nothing. -/
def FMap.empty {α : Type} : FMap α := ⟨[]⟩

/-- The value listed for `k`, if any. -/
def lookupCell {α : Type} (k : Nat) : List (Nat × α) → Option α
  | [] => none
  | (k', v) :: t => if k' = k then some v else lookupCell k t

/-- The value at `k`: the listed one, else the default `d`. -/
def FMap.get {α : Type} (d : α) (m : FMap α) (k : Nat) : α := (lookupCell k m.cells).getD d

/-- The value listed at `k`, with no default. -/
def FMap.find {α : Type} (m : FMap α) (k : Nat) : Option α := lookupCell k m.cells

/-- Removes every entry of key `k`. -/
def eraseCell {α : Type} (k : Nat) : List (Nat × α) → List (Nat × α)
  | [] => []
  | (k', v) :: t => if k' = k then eraseCell k t else (k', v) :: eraseCell k t

/-- Puts `(k, v)` into a list of rising keys, in place of an entry of key `k`. -/
def insertCell {α : Type} (k : Nat) (v : α) : List (Nat × α) → List (Nat × α)
  | [] => [(k, v)]
  | (k', v') :: t =>
    if k < k' then (k, v) :: (k', v') :: t
    else if k = k' then (k, v) :: t
    else (k', v') :: insertCell k v t

/-- Writes `v` at `k`; writing the default removes the entry. -/
def FMap.set {α : Type} [DecidableEq α] (d : α) (m : FMap α) (k : Nat) (v : α) : FMap α :=
  if v = d then ⟨eraseCell k m.cells⟩ else ⟨insertCell k v m.cells⟩

/-- Writes `v` at `k` in a table that has no default value (an absent key stays absent). -/
def FMap.put {α : Type} (m : FMap α) (k : Nat) (v : α) : FMap α := ⟨insertCell k v m.cells⟩

/-- Removes `k` from a table that has no default value. -/
def FMap.del {α : Type} (m : FMap α) (k : Nat) : FMap α := ⟨eraseCell k m.cells⟩

/-- Changes the value at `k`. -/
def FMap.upd {α : Type} [DecidableEq α] (d : α) (m : FMap α) (k : Nat) (f : α → α) : FMap α :=
  m.set d k (f (m.get d k))

/-- The keys listed, in rising order. -/
def FMap.keys {α : Type} (m : FMap α) : List Nat := m.cells.map (·.1)

/-- Applies `f` to every listed value of a table without default. -/
def FMap.mapVals {α : Type} (m : FMap α) (f : Nat → α → α) : FMap α :=
  ⟨m.cells.map fun kv => (kv.1, f kv.1 kv.2)⟩

/-- Applies `f` to every listed value of a table with default `d`; what becomes the default is listed no longer. -/
def FMap.mapAll {α : Type} [DecidableEq α] (d : α) (m : FMap α) (f : α → α) : FMap α :=
  ⟨(m.cells.map fun kv => (kv.1, f kv.2)).filter fun kv => !decide (kv.2 = d)⟩

/-- The keys are strictly rising. -/
def risingKeys {α : Type} : List (Nat × α) → Bool
  | [] => true
  | [_] => true
  | (k, _) :: (k', v') :: t => decide (k < k') && risingKeys ((k', v') :: t)

/-- The canonical form of a table with default `d`. -/
def FMap.wf {α : Type} [DecidableEq α] (d : α) (m : FMap α) : Bool :=
  risingKeys m.cells && m.cells.all fun kv => !(decide (kv.2 = d))

end Sys2Proof
end

