-- ==== Sys2Proof/Syntax.lean ====
section
/-! DEFINITION. The syntax of Syuri (R79 to R105) and of the module's events: one constructor of `Instr`
for each row of the opcode table. The body structures are the formats of R83 to R89 and R101, less the
fields that the constructor itself fixes (major opcode, sub-opcode, kind, command op). -/

namespace Sys2Proof

/-- The guard of every word: truth table and three predicate selectors (R67, R81). -/
structure Guard where
  tt : BitVec 8
  pa : BitVec 4
  pb : BitVec 4
  pc : BitVec 4
  deriving DecidableEq, Repr

/-- The R format (R83) without its sub-opcode. -/
structure RBody where
  dst : BitVec 6
  a : BitVec 6
  b : BitVec 6
  c : BitVec 6
  ka : Bool
  kb : Bool
  kc : Bool
  m : Bool
  deriving DecidableEq, Repr

/-- The I and M formats (R84, R89). -/
structure IBody where
  dst : BitVec 6
  a : BitVec 6
  imm : BitVec 24
  deriving DecidableEq, Repr

/-- The V format (R86) with the parts of its fn field (R87). -/
structure VBody where
  vd : BitVec 5
  va : BitVec 5
  vb : BitVec 5
  vc : BitVec 5
  ty : BitVec 4
  var : BitVec 4
  nan : Bool
  sat : Bool
  rnd : BitVec 2
  ka : Bool
  kb : Bool
  kc : Bool
  fz : Bool
  deriving DecidableEq, Repr

/-- The P format (R88). -/
structure PBody where
  pair : BitVec 3
  zk : Bool
  a : BitVec 6
  b : BitVec 6
  cond : BitVec 4
  rest : BitVec 16
  deriving DecidableEq, Repr

/-- The orders of R98. -/
inductive Order where
  | rlx | acq | rel | ar | sc
  deriving DecidableEq, Repr

/-- The scopes of R98 and R247. -/
inductive Scope where
  | seq | tile | die | dev | sys
  deriving DecidableEq, Repr

/-- The fn field of ordered accesses, fences and atomics (R98): bit 7 (`wide`), bit 6 (`sgn`), order
and scope. For 0x7C and 0x7D `wide` is the low bit of the size field. -/
structure MemSpec where
  wide : Bool
  sgn : Bool
  ord : Order
  scope : Scope
  deriving DecidableEq, Repr

/-- A command word (R101, R102) without its major and op. Field k is `fk`. -/
structure CmdBody where
  widx : BitVec 8
  wthr : BitVec 8
  rflag : BitVec 11
  sidx : BitVec 8
  sinc : BitVec 8
  f0 : BitVec 16
  f1 : BitVec 16
  f2 : BitVec 16
  f3 : BitVec 16
  f4 : BitVec 16
  f5 : BitVec 16
  f6 : BitVec 16
  f7 : BitVec 16
  f8 : BitVec 16
  f9 : BitVec 16
  f10 : BitVec 16
  deriving DecidableEq, Repr

/-- The atomic read-modify-write operations (R197). -/
inductive AtomOp where
  | add | and | or | xor | min (signed : Bool) | max (signed : Bool) | xchg | cas
  deriving DecidableEq, Repr

/-- What a span request from another module asks for (R383, R384). -/
inductive SpanOp where
  | load
  | store
  | atomic (op : AtomOp)
  deriving DecidableEq, Repr

/-- A span request as it arrives: source module, number of the message at its source, key-table index it is protected with, target address
in this module, operation, bytes, operand and compare value (R383); and what another module alone can say of its agent (R248 to
R252): whether the access acquires and releases at sys scope, and the locations of that module whose release sequences the
agent has acquired there (address and bytes). -/
structure SpanReq where
  src : Nat
  no : Nat
  key : Nat
  addr : Nat
  op : SpanOp
  bytes : Nat
  data : Nat
  cmp : Nat
  acq : Bool
  rel : Bool
  seen : List (Nat × Nat)
  deriving DecidableEq, Repr

/-- What an application core or a device does (R245, R248). -/
inductive HostOp where
  | load
  | store
  | amo (op : AtomOp)
  | fence
  deriving DecidableEq, Repr

/-- One access of an application core or a PCIe or CXL device to a physical address (R245, R248). -/
structure HostAccess where
  agent : Nat
  addr : Nat
  bytes : Nat
  op : HostOp
  data : Nat
  cmp : Nat
  aq : Bool
  rl : Bool
  deriving DecidableEq, Repr

/-- The signed boot configuration and images that the boot ROM reads (R406, R411). -/
structure BootConfig where
  rootKey : Nat
  image : Nat
  version : Nat
  policyImage : Nat
  packetImage : Nat
  seqImage : Nat
  arr : Nat
  moduleNo : Nat
  deriving DecidableEq, Repr

/-- Why a ring die stops accepting (R394). -/
inductive DieFault where
  | power | heldInReset | controlError | slotNotWhole
  deriving DecidableEq, Repr

/-- UET delivery modes (R382). -/
inductive UetMode where
  | rud | uud | rod | rudi
  deriving DecidableEq, Repr

/-- One UET packet at a port (R382): delivery mode, whether another feature outside R382 is used, source,
key index, the resource index, message identity, its fragment place, total length and bytes. -/
structure UetPacket where
  port : Nat
  mode : UetMode
  otherFeature : Bool
  src : Nat
  key : Nat
  tag : Nat
  ring : Nat
  msg : Nat
  frag : Nat
  frags : Nat
  len : Nat
  bytes : List Byte
  cyc : Nat
  deriving DecidableEq, Repr

/-- The control fields whose write has no behaviour of its own (R4): the live copy of a QCB (R358),
error-ring control entries (R362), ASID records (R371), RAS counters (R403), power blocks (R413),
landing-ring fields (R385), span peer entries (R383), and page-pool entries of R379. -/
inductive CtlReg where
  | qcbBase (q : Nat) | qcbLsz (q : Nat) | qcbAsid (q : Nat) | qcbEn (q : Nat) | qcbSup (q : Nat) | qcbEslot (q : Nat)
  | ringBase (n : Nat) | ringLsz (n : Nat) | ringTail (n : Nat) | ringAsid (n : Nat)
  | asidRecord (n : Nat)
  | rasCounter (block : Nat) (word : Nat)
  | powerFloor (i : Nat) | powerCap (i : Nat)
  | lrBase (n : Nat) | lrLsz (n : Nat) | lrPolicy (n : Nat) | lrAsid (n : Nat) | lrKey (n : Nat) | lrEn (n : Nat) | lrTail (n : Nat) | lrOvf (n : Nat)
  | spanPeer (n : Nat)
  | poolBase (die : Nat) (asid : Nat) | poolCount (die : Nat) (asid : Nat)
  deriving DecidableEq, Repr

/-- The steps of the machine: every control word and command word of Syuri, and every module event of
the opcode table. -/
inductive Instr where
  | add (g : Guard) (b : RBody)
  | sub (g : Guard) (b : RBody)
  | and (g : Guard) (b : RBody)
  | or (g : Guard) (b : RBody)
  | xor (g : Guard) (b : RBody)
  | andn (g : Guard) (b : RBody)
  | shl (g : Guard) (b : RBody)
  | shr (g : Guard) (b : RBody)
  | sra (g : Guard) (b : RBody)
  | rot (g : Guard) (b : RBody)
  | min (g : Guard) (b : RBody)
  | max (g : Guard) (b : RBody)
  | minn (g : Guard) (b : RBody)
  | maxn (g : Guard) (b : RBody)
  | clz (g : Guard) (b : RBody)
  | popc (g : Guard) (b : RBody)
  | brev (g : Guard) (b : RBody)
  | sel (g : Guard) (b : RBody)
  | mul (g : Guard) (b : RBody)
  | mulh (g : Guard) (b : RBody)
  | mulhn (g : Guard) (b : RBody)
  | div (g : Guard) (b : RBody)
  | divn (g : Guard) (b : RBody)
  | rem (g : Guard) (b : RBody)
  | remn (g : Guard) (b : RBody)
  | addI (g : Guard) (b : IBody)
  | subI (g : Guard) (b : IBody)
  | andI (g : Guard) (b : IBody)
  | orI (g : Guard) (b : IBody)
  | xorI (g : Guard) (b : IBody)
  | andnI (g : Guard) (b : IBody)
  | shlI (g : Guard) (b : IBody)
  | shrI (g : Guard) (b : IBody)
  | sraI (g : Guard) (b : IBody)
  | rotI (g : Guard) (b : IBody)
  | minI (g : Guard) (b : IBody)
  | maxI (g : Guard) (b : IBody)
  | minnI (g : Guard) (b : IBody)
  | maxnI (g : Guard) (b : IBody)
  | mulI (g : Guard) (b : IBody)
  | divI (g : Guard) (b : IBody)
  | divnI (g : Guard) (b : IBody)
  | remI (g : Guard) (b : IBody)
  | remnI (g : Guard) (b : IBody)
  | movi (g : Guard) (b : IBody)
  | moviH (g : Guard) (b : IBody)
  | addp (g : Guard) (b : RBody)
  | leap (g : Guard) (b : RBody)
  | addpi (g : Guard) (b : IBody)
  | cmp (g : Guard) (b : PBody)
  | cmpi (g : Guard) (b : PBody)
  | plog (g : Guard) (b : PBody)
  | pmovPred (g : Guard) (b : RBody)
  | pmovFromPair (g : Guard) (b : RBody)
  | pmovToPair (g : Guard) (b : RBody)
  | pany (g : Guard) (b : RBody)
  | pall (g : Guard) (b : RBody)
  | pcnt (g : Guard) (b : RBody)
  | plive (g : Guard) (b : IBody)
  | br (g : Guard) (off : BitVec 32)
  | bri (g : Guard) (b : RBody)
  | call (g : Guard) (off : BitVec 32)
  | calli (g : Guard) (b : RBody)
  | ret (g : Guard) (b : RBody)
  | loop (g : Guard) (b : IBody)
  | lbrk (g : Guard) (b : RBody)
  | lidx (g : Guard) (b : IBody)
  | nop (g : Guard) (b : IBody)
  | yieldI (g : Guard) (b : IBody)
  | exit (g : Guard) (b : IBody)
  | trap (g : Guard) (b : IBody)
  | launch (g : Guard) (b : IBody)
  | launchP (g : Guard) (b : IBody)
  | shape (g : Guard) (b : IBody)
  | ralloc (g : Guard) (b : RBody)
  | join (g : Guard) (b : IBody)
  | leave (g : Guard) (b : IBody)
  | cbar (g : Guard) (b : IBody)
  | rng (g : Guard) (b : IBody)
  | rngset (g : Guard) (b : RBody)
  | rngsetSplit (g : Guard) (b : RBody)
  | rsub (g : Guard) (b : RBody)
  | segdone (g : Guard) (b : IBody)
  | rtag (g : Guard) (b : IBody)
  | ldN8 (g : Guard) (b : IBody)
  | ldI8 (g : Guard) (b : IBody)
  | ldN16 (g : Guard) (b : IBody)
  | ldI16 (g : Guard) (b : IBody)
  | ld32 (g : Guard) (b : IBody)
  | ld64 (g : Guard) (b : IBody)
  | st8 (g : Guard) (b : IBody)
  | st16 (g : Guard) (b : IBody)
  | st32 (g : Guard) (b : IBody)
  | st64 (g : Guard) (b : IBody)
  | ldc32 (g : Guard) (b : IBody)
  | ldc64 (g : Guard) (b : IBody)
  | ldOrdered (g : Guard) (b : RBody) (m : MemSpec)
  | stOrdered (g : Guard) (b : RBody) (m : MemSpec)
  | fence (g : Guard) (b : RBody) (m : MemSpec)
  | pref (g : Guard) (b : IBody)
  | aadd (g : Guard) (b : RBody) (m : MemSpec)
  | aand (g : Guard) (b : RBody) (m : MemSpec)
  | aor (g : Guard) (b : RBody) (m : MemSpec)
  | axor (g : Guard) (b : RBody) (m : MemSpec)
  | amin (g : Guard) (b : RBody) (m : MemSpec)
  | amax (g : Guard) (b : RBody) (m : MemSpec)
  | axchg (g : Guard) (b : RBody) (m : MemSpec)
  | acas (g : Guard) (b : RBody) (m : MemSpec)
  | ldt (g : Guard) (b : RBody)
  | stt (g : Guard) (b : RBody)
  | ldv (g : Guard) (b : VBody)
  | ldvCol (g : Guard) (b : VBody)
  | ldvIdx (g : Guard) (b : VBody)
  | stv (g : Guard) (b : VBody)
  | stvCol (g : Guard) (b : VBody)
  | stvIdx (g : Guard) (b : VBody)
  | rdf (g : Guard) (b : IBody)
  | fill (g : Guard) (b : RBody)
  | waits (g : Guard) (b : RBody)
  | waitsDec (g : Guard) (b : RBody)
  | sig (g : Guard) (b : RBody)
  | semset (g : Guard) (b : RBody)
  | semrd (g : Guard) (b : RBody)
  | qcnt (g : Guard) (b : RBody)
  | qdrn (g : Guard) (b : RBody)
  | lease (g : Guard) (b : RBody)
  | unlease (g : Guard) (b : RBody)
  | chain (g : Guard) (b : RBody)
  | vadd (g : Guard) (b : VBody)
  | vsub (g : Guard) (b : VBody)
  | vmul (g : Guard) (b : VBody)
  | vfma (g : Guard) (b : VBody)
  | vmin (g : Guard) (b : VBody)
  | vmax (g : Guard) (b : VBody)
  | vabs (g : Guard) (b : VBody)
  | vneg (g : Guard) (b : VBody)
  | vand (g : Guard) (b : VBody)
  | vor (g : Guard) (b : VBody)
  | vxor (g : Guard) (b : VBody)
  | vshl (g : Guard) (b : VBody)
  | vshr (g : Guard) (b : VBody)
  | vsra (g : Guard) (b : VBody)
  | vcmp (g : Guard) (b : VBody)
  | vcvt (g : Guard) (b : VBody)
  | vrcp (g : Guard) (b : VBody)
  | vrsq (g : Guard) (b : VBody)
  | vexp2 (g : Guard) (b : VBody)
  | vlog2 (g : Guard) (b : VBody)
  | vsinc (g : Guard) (b : VBody)
  | vred (g : Guard) (b : VBody)
  | vscan (g : Guard) (b : VBody)
  | vperm (g : Guard) (b : VBody)
  | vshufRot (g : Guard) (b : VBody)
  | vshufSlide (g : Guard) (b : VBody)
  | vshufZiplo (g : Guard) (b : VBody)
  | vshufZiphi (g : Guard) (b : VBody)
  | vshufUnze (g : Guard) (b : VBody)
  | vshufUnzo (g : Guard) (b : VBody)
  | vshufRev (g : Guard) (b : VBody)
  | vbcast (g : Guard) (b : VBody)
  | vbcastL (g : Guard) (b : VBody)
  | vmov (g : Guard) (b : VBody)
  | vmovX (g : Guard) (b : VBody)
  | vmovI (g : Guard) (b : VBody)
  | vsel (g : Guard) (b : VBody)
  | viota (g : Guard) (b : VBody)
  | viotaP (g : Guard) (b : VBody)
  | pushc (g : Guard) (b : VBody)
  | popcV (g : Guard) (b : VBody)
  | popcD (g : Guard) (b : VBody)
  | popcClr (g : Guard) (b : VBody)
  | gets (g : Guard) (b : IBody)
  | sets (g : Guard) (b : IBody)
  | eret (g : Guard) (b : IBody)
  | wfi (g : Guard) (b : IBody)
  | ctxsv (g : Guard) (b : IBody)
  | ctxld (g : Guard) (b : IBody)
  | tlbinvPage (g : Guard) (b : RBody) (dev : Bool)
  | tlbinvAsid (g : Guard) (b : RBody) (dev : Bool)
  | tlbinvAll (g : Guard) (b : RBody) (dev : Bool)
  | rtabw (g : Guard) (b : RBody)
  | rtabwWin (g : Guard) (b : RBody)
  | sptw (g : Guard) (b : RBody)
  | sptwRd (g : Guard) (b : RBody)
  | mma (g : Guard) (c : CmdBody)
  | xld (g : Guard) (c : CmdBody)
  | accrd (g : Guard) (c : CmdBody)
  | accld (g : Guard) (c : CmdBody)
  | tcopy (g : Guard) (c : CmdBody)
  | tmcast (g : Guard) (c : CmdBody)
  | twin (g : Guard) (c : CmdBody)
  | tfill (g : Guard) (c : CmdBody)
  | scat (g : Guard) (c : CmdBody)
  | attn (g : Guard) (c : CmdBody)
  | kvapp (g : Guard) (c : CmdBody)
  | kvrot (g : Guard) (c : CmdBody)
  | kvevict (g : Guard) (c : CmdBody)
  | undefinedInstruction (word : BitVec 64)
  | engineCommandStart (die tile eng pusher : Nat)
  | engineCommandComplete (die tile eng idx : Nat)
  | tmcastGranuleDelivery (die tile idx rcv : Nat)
  | enginePageResume (die tile eng idx : Nat)
  | mmaDrain (die tile ksteps : Nat)
  | chainComplete (die tile chain : Nat)
  | leaseGrant (die tile cyc : Nat)
  | leaseExpiry (die tile cyc : Nat)
  | queueDelivery (uid idx ext : Nat)
  | postedStoreAck (msg : Nat)
  | launchRecordAccept (die cyc : Nat)
  | taskPlacement (die seq cyc : Nat)
  | parkedRestore (uid seq cyc : Nat)
  | timeSliceExpiry (die seq cyc : Nat)
  | priorityAging (uid cyc : Nat)
  | starvationOrdering (uid cyc : Nat)
  | stealRequest (die thief victim cyc : Nat)
  | stealBackoffExpiry (die seq cyc : Nat)
  | cohortBarrierComplete (die id cyc : Nat)
  | futureRetry (uid cyc : Nat)
  | counterLowering (die idx cyc : Nat)
  | shapeConfirmation (die record cyc : Nat)
  | tailRecordEntry (die record cyc : Nat)
  | pageWalkComplete (die idx : Nat)
  | pageResume (die reqno : Nat)
  | evictionStart (asid va leaf backing : Nat)
  | evictionShootdownDone (idx : Nat)
  | ringSlot (ring : Nat)
  | colBypassTakeover (ring idx : Nat)
  | dieFenceOrder (die cyc : Nat)
  | ringImageArrival (ring : Nat)
  | ringImageReread (ring die : Nat) (ok : Bool)
  | laneTest (lane : Nat) (ok : Bool)
  | patrolScrub (die : Nat)
  | queueDoorbellWrite (q : Nat)
  | qcbCommit (q gen : Nat)
  | queueReset (q : Nat)
  | queueResetComplete (q : Nat)
  | guldonNop (q : Nat)
  | guldonLaunch (q : Nat)
  | guldonIlaunch (q : Nat)
  | guldonCopy (q : Nat)
  | guldonSignal (q : Nat)
  | guldonWait (q : Nat)
  | guldonWaitSatisfied (q : Nat)
  | guldonLoop (q : Nat)
  | guldonCond (q : Nat)
  | guldonRestore (q : Nat)
  | guldonDoorbell (q : Nat)
  | prologueEnd (die : Nat)
  | packetCompletion (q pkt : Nat)
  | heartbeatWrite (core cyc : Nat)
  | watchdogReset (core cyc : Nat)
  | firmwareUpdate (image version cyc : Nat)
  | updateRollback (cyc : Nat)
  | spanRequestArrival (req : SpanReq)
  | spanResend (msg cyc : Nat)
  | spanUndeliverable (msg cyc : Nat)
  | ingestMessageLanding (idx : Nat)
  | ingestReassemblyTimeout (idx cyc : Nat)
  | ingestBufferedLanding (idx : Nat)
  | snapshotRequest (ring : Nat)
  | keyInstall (index wrapped cyc : Nat)
  | keyInstallDone (cyc : Nat)
  | budgetWrite (watts : Nat)
  | powerArbitration (cyc : Nat)
  | getVersion
  | getCapabilities
  | negotiateAlgorithms (asym hash : Nat)
  | getDigests
  | getCertificate (slot off len : Nat)
  | challenge (slot nonce : Nat)
  | getMeasurements (index nonce : Nat)
  | moduleReset (boot : BootConfig)
  | dieCalibrated (die : Nat)
  | fullServiceStart (cyc : Nat)
  | registerWrite (reg : CtlReg) (value : Nat)
  | dieFailure (die : Nat) (cause : DieFault)
  | uetPacketArrival (pkt : UetPacket)
  | landingRingEnable (ring : Nat)
  | recoveryImage (image : Nat)
  | applicationCoreAccess (acc : HostAccess)
  | deviceMemoryAccess (acc : HostAccess)
  deriving DecidableEq, Repr

end Sys2Proof
end

