-- ==== Sys2Proof/Machine/State.lean ====
section
/-! DEFINITION. The state of one N16 module, as plain data: every register, memory, table, queue and record that
the manual gives the part, the reasons a step can stop, and the state right after reset. A key of a table over
dies is the die number (0-15 ring dies, 16-19 attention dies); over sequencers 256 * die + %seq; over tiles
64 * die + tile. Times are cycles of the die clock. -/

namespace Sys2Proof.Machine

/-- Why a step stops. A trap of the manual (R336, R337) is never one of these: it is a next state. -/
inductive Fault where
  /-- Raised by every access to a physical address behind which the module has no memory and no control
  structure (R9, R370). Safe: the model stops where the manual says nothing exists. -/
  | noMemory (addr : Nat)
  deriving DecidableEq, Repr

/-- Why a step has no next state. -/
inductive Refusal where
  /-- Raised by an arm of `exec` that has no meaning yet. Safe. -/
  | notModelled (mnemonic : String)
  /-- Raised by an event whose enabling condition in the manual does not hold in the state: the event cannot
  happen there. Safe: the manual has no such step. -/
  | notEnabled (event : String)
  /-- Raised by a word when the sequencer in focus has no instance or handler that can issue it. Safe. -/
  | noInstance
  deriving DecidableEq, Repr

/-! ## One instruction stream -/

/-- A FIFO queue register (R54, R55). `head` is the absolute number of the head position; its physical place is
`head` modulo the depth. An item is `none` while its producer is pending, else the entry and its taint bit. -/
structure Queue (α : Type) where
  head : Nat
  items : List (Option (α × Bool))
  deriving DecidableEq, Repr

/-- The empty queue. -/
def Queue.empty {α : Type} : Queue α := ⟨0, []⟩

/-- What a fixed-latency result writes when it lands (R62): the register, its value and its taint (R65). The
mask of a vector or predicate write has the lanes that the guard allowed. -/
inductive Write where
  | s (n : Nat) (v : Word) (taint : Bool)
  | v (n : Nat) (val : VecReg) (mask : Pred) (taint : Bool)
  | p (n : Nat) (val : Pred) (mask : Pred) (taint : Bool)
  | q (n pos : Nat) (v : Word) (taint : Bool)
  | vq (n pos : Nat) (val : VecReg) (taint : Bool)
  deriving DecidableEq, Repr

/-- A fixed-latency result in flight: it lands at cycle `land` (R62 to R64). The list is in issue order. -/
structure Flight where
  land : Nat
  w : Write
  deriving DecidableEq, Repr

/-- How the bytes of a load become queue entries (R190, R200). -/
inductive LoadForm where
  | zext (n : Nat) | sext (n : Nat) | w32 | w64 | elem (fmt : Nat)
  deriving DecidableEq, Repr

/-- One lane of a global `LDV`: off by its guard, a value already known, a physical address still to read, or the message
that reads another module and what the stream itself has stored there, as for a scalar load; `poisoned` is a value read with
an uncorrectable error at `pa` (R402). -/
inductive LaneSrc where
  | off | val (w : Word) | mem (pa : Nat) | span (msg : Nat) (own : List (Nat × Nat)) | poisoned (pa : Nat) (w : Word)
  deriving DecidableEq, Repr

/-- Where the result of a variable-latency instruction comes from (R55, R56). -/
inductive ProdSrc where
  /-- A load not yet performed: physical address, bytes, form. -/
  | mem (pa n : Nat) (form : LoadForm)
  /-- A value that is already decided (an atomic's old value, a captured load). -/
  | known (ws : List Word)
  /-- A load already performed that read an uncorrectable error at `pa`: its delivery makes the abort due (R402). -/
  | poisoned (pa : Nat) (ws : List Word)
  /-- A load or atomic whose home is another module, sent as the numbered message: the delivery names the value. `own`
  lists, by byte number, what the stream itself has stored there before (R192, R259). -/
  | span (msg : Nat) (form : LoadForm) (own : List (Nat × Nat))
  /-- The lanes of a global `LDV`, with their element format. -/
  | lanes (fmt : Nat) (ls : List LaneSrc)
  /-- The status of chain `c` of the tile (R216). -/
  | chain (c : Nat)
  /-- The extent that `SHAPE` read from the cell of the stream's own record: it is delivered after that record's
  confirmation (R304). -/
  | extent (w : Word)
  deriving DecidableEq, Repr

/-- An issued variable-latency producer: its queue, whether a vector queue, its first position, its number of
entries, its source, taint, whether later accesses wait for it (R194), whether it came from `LDC` (R193), the scope of its
acquire (R248), and whether its address is tainted (R257). -/
structure Producer where
  vec : Bool
  q : Nat
  pos : Nat
  cnt : Nat
  src : ProdSrc
  taint : Bool
  acq : Bool
  ldc : Bool
  scope : Option Nat
  byTaint : Bool
  deriving DecidableEq, Repr

/-- A loop-stack entry (R70, R143). -/
structure LoopEntry where
  count : Word
  start : Word64
  stop : Word64
  deriving DecidableEq, Repr

/-- The register files of one instruction stream (R50, R54, R65, R69). Tables list only what is not zero. -/
structure Regs where
  s : FMap Word
  v : FMap VecReg
  p : FMap Pred
  q : FMap (Queue Word)
  vq : FMap (Queue VecReg)
  staint : BitVec 64
  vtaint : BitVec 32
  ptaint : BitVec 16
  plive : BitVec 16
  deriving DecidableEq, Repr

/-- The control stacks, innermost and newest first (R70, R139 to R147), `%sp` and the spill depth. -/
structure Stacks where
  loops : List LoopEntry
  rets : List Word64
  rsd : Word
  sp : Word64
  deriving DecidableEq, Repr

/-- What an agent knows of an old value (R252, R253): that a write carried to it, or a value that it has read, is newer
than old value `old`; the position of that write or read, and the narrowest scope of the releases and acquires that have
carried it so far (5: program order alone). -/
structure Know where
  old : Nat
  pos : Nat
  scope : Nat
  deriving DecidableEq, Repr

/-- The head of a release sequence (R249, R250): position and scope of the release, and what is carried to it. -/
structure Head where
  pos : Nat
  scope : Nat
  view : List Know
  deriving DecidableEq, Repr

/-- What the memory model keeps of an agent: the position of its last access (R247), what is carried to it (R252), the
release fences that head its later plain writes (R251), the release sequences that its loads have read (for an acquire
fence, R251), and those that its `LDC`s have read (R257). -/
structure Ledger where
  pos : Nat
  view : List Know
  rels : List Head
  seen : List Head
  cons : List Head
  deriving DecidableEq, Repr

/-- One instruction stream: what a sequencer steps through. `posted` holds the message numbers of posted stores
and pushed span writes not yet acknowledged (R195, R259), `undeliv` that one of them was undeliverable (R267),
`cmdErr` that the command-error abort is due (R222), `check` that a machine-check abort is due (R402),
`issued` counts issued words (R43, R364), `ord` is its part of the memory model, `image` the launch record that a `LAUNCH`
has read and that waits for the launch queue (R150), `away` the bytes that the stream has last stored in other modules (R192). -/
structure Ctx where
  pc : Word64
  regs : Regs
  st : Stacks
  flights : List Flight
  prods : List Producer
  posted : List Nat
  undeliv : Bool
  cmdErr : Bool
  check : Bool
  issued : Nat
  ord : Ledger
  image : Option (BitVec 256)
  away : FMap Nat
  deriving DecidableEq, Repr

/-! ## Command words -/

/-- A tensor descriptor as read (R75). -/
structure Desc where
  handle : Nat
  space : Nat
  strict : Bool
  fmt : Nat
  ndim : Nat
  tile : Nat
  scaleh : Nat
  sbw : Nat
  skdim : Nat
  base : Nat
  pad : Nat
  extent : List Nat
  stride : List Int
  va : Nat
  deriving DecidableEq, Repr

/-- A panel tag (R237): ASID, format, scale handle, sbw, skdim and source origin. -/
structure PanelTag where
  asid : Nat
  fmt : Nat
  scaleh : Nat
  sbw : Nat
  skdim : Nat
  sx0 : Int
  sx1 : Int
  deriving DecidableEq, Repr

/-- The command of an engine word (R223, R322). -/
inductive EngOp where
  | mma | xld | accrd | accld | tcopy | tmcast | twin | tfill | scat | attn | kvapp | kvrot | kvevict
  deriving DecidableEq, Repr

/-- A command word as it stands in an input queue or an engine (R101, R102, R218 to R221): its resolved operand
fields, wait and signal, the pusher (instance, position), ASID, error queue, the descriptors and panel tag read at
the push, the presentation of `seg`, whether it counts under a lease, its chain and word number, its first K-group
(R229), whether it came back from a frame (R352), whether it is a suspended command whose
wait is over and whose rows stand in accumulator memory (R230), whether it stood in its queue before the words of a frame were
pushed for its pusher (R352), its position (R245), its words, what is carried to it (R258), whether firmware pushed it (R368), and
the saved elements that a restored one finds in its rows when it enters (R352). -/
structure Cmd where
  op : EngOp
  f : List Nat
  widx : Nat
  wthr : Nat
  sidx : Nat
  sinc : Nat
  uid : Nat
  pusher : Nat
  asid : Nat
  queue : Option Nat
  pcAt : Nat
  descs : List Desc
  tag : Option PanelTag
  pres : Option Nat
  chain : Option (Nat × Nat)
  group : Nat
  restored : Bool
  suspended : Bool
  ahead : Bool
  pos : Nat
  words : List Word64
  view : List Know
  firm : Bool
  rows : List Nat
  deriving DecidableEq, Repr

/-! ## Instances -/

/-- What an instruction stream is (R23, R277, R333, R339, R363). -/
inductive Kind where
  | block | segBlock | prologue | handler | firmware
  deriving DecidableEq, Repr

/-- The states of R49 (a retired instance is no longer listed); `awaiting` is the squashed instance that waits for its future (R43), `trapped` the
instance that its sequencer's handler deals with (R339), `held` one parked by `%eact` = 3 (R346), `exited` a
prologue whose `EXIT` has completed and on which the front end has yet to act (R363). -/
inductive Status where
  | accepted | ready | resident | running | blocked | parked | held | awaiting | trapped | exited
  deriving DecidableEq, Repr

/-- What a blocked or parked instance waits for (R45, R348 `wkind`). `granted` is a wait already granted. -/
inductive Wait where
  | none
  | waits (ref thr : Word) (granted : Bool)
  | waitsDec (ref thr : Word) (granted : Bool)
  | cbar (id : Nat) (done : Bool)
  | lease (n : Nat) (granted : Bool)
  | commit (released : Bool)
  | page (arrived : Bool)
  deriving DecidableEq, Repr

/-- Who an instance is: level (R333), ASID, die, `%task`, `%blk`, `%ext`, `%tag`, its launch record (none for
segment tasks and prologues), its Guldon queue if its work descends from one (R362), its priority (R20). -/
structure Who where
  kind : Kind
  level : Nat
  asid : Nat
  die : Nat
  task : Word
  blk : Word
  ext : Word
  tag : Word64
  recNo : Option Nat
  queue : Option Nat
  prio : Nat
  deriving DecidableEq, Repr

/-- The range of an instance (R35): current bounds, whether stealable (R155), the bounds that a restart
gets (R43), and whether `RNGSET` has replaced the starting range. -/
structure Range where
  lo : Word
  hi : Word
  steal : Bool
  lo0 : Word
  hi0 : Word
  set : Bool
  deriving DecidableEq, Repr

/-- What the die scheduler keeps of an instance (R44 to R49, R335, R353): status, sequencer and slot, age, ready
cycles counted so far and since when it is ready, ordered by age alone, waits, frame slot or frame address,
accumulator slot, stack, tile it must run on (R29), the mark of R335, the causes for which a park has found no frame and
was counted (R353: 0 a wait, 2 a pre-emption, from 3 on a page by its number), pre-emption requested, at a pre-emption point (R48), the `CTXSV`
frame of a held instance (R343), the drained commands of its frame as they were pushed (R230), and the tile that saved its
rows or frame (R346, R352). -/
structure Sched where
  status : Status
  seq : Option Nat
  slot : Nat
  age : Nat
  waited : Nat
  since : Nat
  byAge : Bool
  wait : Wait
  blockedAt : Nat
  committed : Bool
  frame : Option Nat
  accSlot : Option Nat
  stack : Option Nat
  tile : Option Nat
  noStack : Bool
  noFrame : List Nat
  preempt : Bool
  point : Bool
  heldAt : Option Nat
  saved : List Cmd
  accTile : Option Nat
  deriving DecidableEq, Repr

/-- Predicted-shape facts of an instance (R296) and segment-task facts (R277, R283): unconfirmed; surplus when
confirmed while trapped (R342); presentation and segment task it belongs to; has executed `SEGDONE`; the values
of s1, s2:s3, s4:s5 and the PC that a restart gets (R22); the descriptor's cohort and whether its join is still due
(R38); the bounds of a predicted block's share, whether it ends beyond the arena's capacity, and its record's arena field
(R297, R302). -/
structure Extra where
  pred : Bool
  unconf : Bool
  surplus : Bool
  pres : Option Nat
  segTask : Option Nat
  segDone : Bool
  s1 : Word
  arg2 : Word64
  arg4 : Word64
  entry : Word64
  cohort : Nat
  joinDue : Bool
  share : Nat × Nat
  beyond : Bool
  arena : Nat
  deriving DecidableEq, Repr

/-- A task instance, prologue, firmware program or handler context (R22, R339, R363). `coh` is its cohort (R152). -/
structure Inst where
  who : Who
  ctx : Ctx
  range : Range
  sched : Sched
  coh : Option Nat
  ex : Extra
  deriving DecidableEq, Repr

/-- One sequencer (R45, R334, R339): its issue cycle, resident slots, running instruction stream, trapped
instance, the per-sequencer special registers, the physical address of the last `CTXSV` frame since trap entry, the steal state (R36)
the cycle at which its time slice began (R48), and the instance that it has left and whose pending producers deliver
before the next one issues (R45). -/
structure Seq where
  clk : Nat
  slots : FMap Nat
  running : Option Nat
  trapped : Option Nat
  cause : Word
  epc : Word64
  tval : Word64
  eact : Word
  eslot : Word
  hdb : Word
  ctxsv : Option Word64
  refusals : Nat
  backoff : Option Nat
  slice : Nat
  left : Option Nat
  deriving DecidableEq, Repr

/-! ## Tiles -/

/-- A live TALLOC allocation of a tile (R78): owner, handle, first byte, bytes, commands writing into it that
have started and not completed, and whether a write has completed (R29). -/
structure Alloc where
  asid : Nat
  handle : Nat
  base : Nat
  size : Nat
  writers : Nat
  written : Bool
  deriving DecidableEq, Repr

/-- A condensing stream (R181): its elements with their taint, position counter and owner ASID. -/
structure Stream where
  items : List (Word × Bool)
  pos : Word
  owner : Option Nat
  deriving DecidableEq, Repr

/-- A command that has entered its engine (R218, R219): elements done so far, the page that it waits for (R222),
granules delivered per receiver (R240), its span stores not yet acknowledged (R220), what it has read of
its source and still needs (a `TMCAST`'s elements, R239; the indices of a `SCAT`'s window, R243; an `ATTN`'s slots, R325), number of the
entry, and the elements written of the granule under way per receiver (R222). -/
structure Running where
  eng : Nat
  cmd : Cmd
  done : Nat
  page : Option Nat
  gran : FMap Nat
  posted : List Nat
  data : List Nat
  no : Nat
  part : FMap Nat
  deriving DecidableEq, Repr

/-- A matrix lease (R212, R213): its holder's position (0-3 the sequencers, 4 the chain port), instance, commands
left, grant cycle, commands pushed under it and not yet entered, and whether it has ended. -/
structure Lease where
  pos : Nat
  uid : Nat
  left : Nat
  since : Nat
  pushed : Nat
  ended : Bool
  deriving DecidableEq, Repr

/-- A command chain (R214 to R216): instance, producer queue position, address, words, next word, words
completed, stop (code + 256 · word), values of s0 to s55, position of the issuing sequencer, what `CHAIN` released (R258). -/
structure Chain where
  uid : Nat
  asid : Nat
  queue : Option Nat
  addr : Nat
  count : Nat
  next : Nat
  done : Nat
  stop : Option Nat
  regs : FMap Word
  pos : Nat
  q : Nat
  qpos : Nat
  view : List Know
  deriving DecidableEq, Repr

/-- The engines of a tile (R218, R219, R212): input queues by 8 * engine + pusher, commands that have entered,
restored words (R352), lease and the last holder, round-robin places, chains, entries so far. Engines: 0 matrix,
1 copy, 2 scatter-accumulate, 3 attention. -/
structure Engines where
  queues : FMap (List Cmd)
  running : List Running
  restored : List Cmd
  lease : Option Lease
  asks : List (Nat × Nat × Nat)
  lastPos : Nat
  ceLast : Nat
  saeLast : Nat
  chains : FMap Chain
  nextChain : Nat
  entries : Nat
  deriving DecidableEq, Repr

/-- One tile (R10): semaphores, `.DEC` waiters in arrival order (R209), tile memory, allocations, accumulator
elements by 256 * row + column, local panel elements by ((panel * 2048 + k) * 256 + n), panel tags, streams,
engines, the window copies held (presentation numbers, oldest first, R280), the bytes with an uncorrectable error
(R402; accumulator elements count from 2^32, local panel elements from 2^33, `seg` elements from 2^34), what the next redundant K-steps will find (R232): 0 equal, 1 a corrected mismatch, 2 a mismatch; and the release sequences of
its semaphores (R209, R250). -/
structure Tile where
  sems : FMap Word
  decq : List (Nat × Nat × Word)
  mem : FMap Byte
  allocs : List Alloc
  acc : FMap (BitVec 96)
  lp : FMap Nat
  tags : FMap PanelTag
  streams : FMap Stream
  eng : Engines
  held : List Nat
  bad : List Nat
  upsets : List Nat
  semHeads : FMap (List Head)
  deriving DecidableEq, Repr

/-! ## Dies -/

/-- The die-shared special registers (R334). -/
structure DieRegs where
  tvec : Word64
  hasid : Word
  fpool : Word64
  fpn : Word
  fpacc : Word64
  rasfa : Word
  rcfg : Word
  ctxbase : Word64
  rslotc : Word64
  stkpool : Word64
  stkn : Word
  stksz : Word
  deriving DecidableEq, Repr

/-- A launch record before acceptance (R24): image, ASID, Guldon queue and packet, who wrote it, whether it is a
tail of a record (R300), the release of its launch (R248). -/
structure Image where
  bits : BitVec 256
  asid : Nat
  queue : Option Nat
  pkt : Option Nat
  byP : Bool
  addr : Nat
  tail : Option Nat
  rel : Option Head
  deriving DecidableEq, Repr

/-- An accepted launch record (R24, R27, R31, R32, R298): image, descriptor, ASID, queue and packet, order in its
matcher, dependence counter, latched presentation condition (R30), whether all conditions have held, live instances,
extent (predicted, then confirmed), confirmation, arena base, capacity and unit (R301), shape cell, blocks of a tail that
has not been accepted, ended before start (R31), retired, unretired launches whose cont names it, the releases that the
start of its blocks acquires (R34, R248), and what its own retirement carries (R248). -/
structure Rec where
  img : BitVec 256
  desc : BitVec 1024
  asid : Nat
  queue : Option Nat
  pkt : Option Nat
  order : Nat
  ctr : Word
  presOk : Bool
  started : Bool
  live : List Nat
  ep : Nat
  confirmed : Bool
  arena : Nat × Nat × Nat
  shapePa : Nat
  tailDue : Nat
  ended : Bool
  retired : Bool
  holders : Nat
  rels : List Head
  out : List Know
  deriving DecidableEq, Repr

/-- A barrier cohort (R38): current members, pending joiners, members that have arrived, members that
leave, pending joiners that already arrived for the next barrier, cycle of the last arrival, what the arrivals carry
(R248). -/
structure Cohort where
  members : List Nat
  pending : List Nat
  arrived : List Nat
  leaving : List Nat
  early : List Nat
  lastAt : Nat
  view : List Know
  deriving DecidableEq, Repr

/-- A registered future waiter (R204, R206): cell address, instance, and whether it waits by `SHAPE` for its own
record's cell (R304). -/
structure Waiter where
  cell : Nat
  uid : Nat
  own : Bool
  deriving DecidableEq, Repr

/-- A counter lowering on its way (R205): record, ASID and queue of the work that filled the future. -/
structure Lowering where
  recNo : Nat
  asid : Nat
  queue : Option Nat
  deriving DecidableEq, Repr

/-- The die scheduler (R23 to R49): launch queue, accepted records, their order so far, tails that wait for room
(R300), future waiters of the die as a home (R206), instances that retry (R206) with the cycle, lowerings due,
confirmations due, cohorts, cohorts whose barrier is complete, stacks, frame slots and accumulator slots in use,
page parks (request number, instance), the predictor table with the last operation on it (cycle, rank, record or sequencer;
R306). -/
structure Scheduler where
  launchq : List Image
  recs : FMap Rec
  order : Nat
  tails : List Nat
  waiters : List Waiter
  retries : List (Nat × Nat)
  lowerings : List Lowering
  confirms : List Nat
  cohorts : FMap Cohort
  stackIds : List Nat
  frames : List Nat
  accs : List Nat
  parks : List (Nat × Nat)
  predictor : FMap (BitVec 128)
  tableOp : Nat × Nat × Nat
  deriving DecidableEq, Repr

/-- A cached translation (R374): ASID, page base, size log2, physical base and
permissions. -/
structure TlbEntry where
  asid : Nat
  va : Nat
  sz : Nat
  pa : Nat
  r : Bool
  w : Bool
  x : Bool
  deriving DecidableEq, Repr

/-- A walk in progress or waiting (R374): ASID, address, kind (0 read, 1 write, 2 fetch, 3 both), the waiting
instance. -/
structure Walk where
  asid : Nat
  va : Nat
  kind : Nat
  uid : Nat
  deriving DecidableEq, Repr

/-- A segment in the ring (R12, R269): ASID and ordinal, and the key of its elements. -/
structure Segment where
  asid : Nat
  ord : Nat
  id : Nat
  deriving DecidableEq, Repr

/-- One position in a transit store: an image of the ring position's segment, if any; whether it must be re-read
(R397); the die that forwarded it empty after a failed re-read and puts the segment back (R397). -/
structure Position where
  seg : Option Segment
  torn : Bool
  out : Option Nat
  deriving DecidableEq, Repr

/-- A presentation at a die (R275, R280): its ASID, ordinal, tag, segment, slot t, the entry and parameter-block
word read at the first formation point (R273, R410), saddle depth, contexts listed so far, segment tasks, saddle
ended, no task is created (R273), tiles whose copy was freed by an overrun (R280), the cycle of its first
formation point, whether a block has executed `SEGDONE`. -/
structure Pres where
  asid : Nat
  ord : Nat
  tag : Word64
  seg : Nat
  slot : Nat
  entry : BitVec 256
  opb : Word64
  depth : Nat
  listed : List Nat
  tasks : List Nat
  ended : Bool
  unclaimed : Bool
  lost : List Nat
  cyc : Nat
  segDone : Bool
  deriving DecidableEq, Repr

/-- A segment task (R277): presentation, contexts with how they were gathered (through next; from skipping), live
blocks, blocks that have neither retired nor executed `SEGDONE`, gather-list slot, cycle of gathering, what its retired
blocks carry. -/
structure SegTask where
  pres : Nat
  ctxs : List (Nat × Bool × Bool)
  live : List Nat
  undone : List Nat
  list : Nat
  cyc : Nat
  out : List Know
  deriving DecidableEq, Repr

/-- The ring side of a ring die (R269 to R286, R394 to R400): transit store, presentations, segment tasks, the
tag table and windows (R272, R408), the rot of each segment's last presentation and the largest so far (R286),
bypass seen, insertions less drops outstanding (R398), the due presentation (ordinal, rotation) of
returned contexts (R278), fence order, stopped, and what the segment tasks that listed a context carry to later ones
(R277). -/
structure RingSide where
  transit : List Position
  pres : FMap Pres
  nextPres : Nat
  tasks : FMap SegTask
  nextTask : Nat
  tagTab : FMap (BitVec 256)
  tagWin : FMap (BitVec 64)
  rots : FMap Nat
  maxRot : Nat
  bypassed : Bool
  owed : Nat
  dues : FMap (Nat × Nat)
  fence : Option Nat
  stopped : Bool
  carried : FMap (List Know)
  deriving DecidableEq, Repr

/-- One ring or attention die: cycle counter (`%cyc`), special registers, scheduler, TLB, walks, ring side, RAS
block (R403), calibrated (R416), clock halved (R417), the attention die's sequence table (R319), the offset
of its page pools in its own memory (R379, log entry 3), and prefetches under way (R196): ASID and line. -/
structure Die where
  cyc : Nat
  regs : DieRegs
  sch : Scheduler
  tlb : List TlbEntry
  walks : List Walk
  ring : RingSide
  ras : BitVec 512
  ready : Bool
  half : Bool
  seqTab : FMap (BitVec 512)
  poolTab : Nat
  prefetch : List (Nat × Nat)
  deriving DecidableEq, Repr

/-- A lost segment to re-inject (R398): its position, whether its image has arrived. -/
structure LostSeg where
  seg : Segment
  pos : Nat
  arrived : Bool
  deriving DecidableEq, Repr

/-- A bypass (R396, R398): failed die, upstream die, its slot F, the lanes of the route, lost segments left. The junction
stands in the transit store of die `at_` behind `ahead` positions (`at_` is 32 while it is in another module); `room` is what that die
may still insert, counted when the junction came to it (log entry 149), `started` that the junction has returned to the upstream die,
`idle` the dies in a row that had no empty position, `spent` that the insertions at this die have ended for this lap, `put` the segments
inserted since the junction last came to the upstream die. -/
structure Bypass where
  die : Nat
  up : Nat
  slotF : Nat
  route : List Nat
  lost : List LostSeg
  at_ : Nat
  ahead : Nat
  room : Option Nat
  started : Bool
  idle : Nat
  spent : Bool
  put : Nat
  deriving DecidableEq, Repr

/-- A ring of the module (R16, R270): arrangement (R406), dies in the direction of travel, cycles per slot, the cycle at
which the current slot began, formed, halted, the bypasses; spliced into a larger ring (R16, R285), the positions that the
extension receiver is to take in, next first, and the last 384 that the transmitter has sent, oldest first; the formation points
of the current slot are yet to come, after the words of its first cycle (R276). -/
structure Ring where
  arr : Nat
  dies : List Nat
  slotCycles : Nat
  start : Nat
  formed : Bool
  halted : Bool
  bypasses : List Bypass
  spliced : Bool
  inFrom : List Position
  outTo : List Position
  forming : Bool
  deriving DecidableEq, Repr

/-! ## Host die -/

/-- What lives at a physical address (R9, R246). -/
inductive Home where
  | dieMem (die : Nat) | hbm (die : Nat) | lpddr | hostSram
  deriving DecidableEq, Repr

/-- A region of the physical address map. -/
structure Region where
  base : Nat
  size : Nat
  home : Home
  deriving DecidableEq, Repr

/-- An old value (R253): `n` bytes from `pa` held `val` when it was noted, in release sequences `heads`. A load to which
no newer write is carried may still return it. -/
structure OldVal where
  pa : Nat
  n : Nat
  val : Nat
  heads : List Head
  deriving DecidableEq, Repr

/-- The memory model's record (the model's own): the old values noted and their next number, the old values that the
writes of the step under way have outdated, the release sequences by the first byte of the write, with its bytes (R250), and
the sc fences performed (R255). -/
structure Relaxed where
  olds : FMap OldVal
  nextOld : Nat
  met : List Nat
  heads : FMap (Nat × List Head)
  scs : List Head
  deriving DecidableEq, Repr

/-- The physical side: the map, the bytes, uncorrectable and poisoned bytes (R402), the region bases of host-die
SRAM that the boot ROM sets (R356, R357, R371, R385, R406, R416), the die windows of gather lists and prologue
image copies (R277, R363), the tile that saved each frame (R346), by physical address, and the old values that
loads may still return (R253). -/
structure Phys where
  regions : List Region
  mem : FMap Byte
  bad : List Nat
  qcBase : Nat
  doorbell : Nat
  asidBase : Nat
  lrBase : Nat
  partAddr : Nat
  phaseAddr : Nat
  gatherVa : Nat
  gatherPa : Nat
  scratchVa : Nat
  scratchPa : Nat
  frames : FMap Nat
  relaxed : Relaxed
  deriving DecidableEq, Repr

/-- A packet that has been read (R359, R361): the number of this start of it, packet number, seq, header, completion
address, body words 2 to 7, records it launched and not retired, images written and not yet accepted, whether its own action
is done, prologue runs so far, whether its prologue runs, span messages not yet acknowledged, bytes that its `COPY` has
done, what the retirements of its records carry to its completion, and the posted stores of ended blocks of its work that no
home has acknowledged (R260). -/
structure Packet where
  key : Nat
  no : Nat
  seq : Nat
  hdr : Word64
  caddr : Word64
  body : List Word64
  recs : List (Nat × Nat)
  inq : Nat
  ready : Bool
  run : Nat
  prologue : Bool
  posted : List Nat
  pos : Nat
  view : List Know
  late : List Nat
  deriving DecidableEq, Repr

/-- A Guldon queue (R356 to R366): live and shadow control block; the packet that is next to start, and whether it has
already started and waits; packets under way; the stored copies of a `LOOP`, how many of them are still to be read and how
many acts are left; packets to skip (R361 COND); an examination is due; starts so far; the page request waited for;
instances that the reset under way has ended; its part of the memory model (R245, R360). -/
structure GQueue where
  live : BitVec 1024
  shadow : BitVec 1024
  head : Option Packet
  waiting : Bool
  open_ : List Packet
  copies : List Packet
  toRead : Nat
  left : Nat
  skip : Nat
  kick : Bool
  starts : Nat
  page : Option Nat
  ended : Nat
  ord : Ledger
  deriving DecidableEq, Repr

/-- What the handover structure holds of a queue (R369): seq, rd, and the stored state of a `LOOP`. -/
structure HandQueue where
  seq : Nat
  rd : Nat
  copies : List Packet
  toRead : Nat
  left : Nat
  skip : Nat
  deriving DecidableEq, Repr

/-- The firmware complex (R367 to R369): heartbeat cycles of the policy core (0) and packet cores 1-6, active
image slot, images and versions of slots A and B, update under way with its start cycle, handover structure with its version
and length, stores that the egress filter has dropped, no packet core starts a packet, the image that each core runs, the
packet core of each queue (R356; log entry 150), the queue that each packet core took last, and what the packet cores have stored
in their 64 KiB of private SRAM since their image was loaded: core, then byte. -/
structure Firmware where
  beat : FMap Nat
  slotB : Bool
  images : FMap Nat
  versions : FMap Nat
  updating : Option Nat
  handover : FMap HandQueue
  hversion : Nat
  hlength : Nat
  filtered : Nat
  quiesced : Bool
  running : FMap Nat
  cores : FMap Nat
  turn : FMap Nat
  sram : FMap Byte
  deriving DecidableEq, Repr

/-- A span store, atomic or load that this module has sent and that is not answered (R259, R383, R384): the
instance that issued it (none for an engine command), its ASID, queue and die, target address, virtual address,
bytes, operation (0 store, 1 atomic, 2 load), data, first send, sends. -/
structure SpanMsg where
  uid : Option Nat
  asid : Nat
  queue : Option Nat
  die : Nat
  addr : Nat
  va : Nat
  bytes : Nat
  op : Nat
  data : Nat
  sent : Nat
  sends : Nat
  deriving DecidableEq, Repr

/-- A message that is being reassembled, is to land, or waits in the ingest buffer (R386, R387); `num` is the message
number that it takes when it finishes reassembly, `port` the port at which its first packet came. -/
structure Message where
  ring : Nat
  src : Nat
  msg : Nat
  len : Nat
  frags : Nat
  got : FMap (List Byte)
  first : Nat
  keyOk : Bool
  num : Nat
  port : Nat
  deriving DecidableEq, Repr

/-- A record held in a landing ring (R386, R387): the count at which it starts, its length, whether it is a data record,
the messages and bytes that it holds or counts, and the number of the first of them. -/
structure LandRec where
  start : Nat
  len : Nat
  data : Bool
  msgs : Nat
  bytes : Nat
  num : Nat
  deriving DecidableEq, Repr

/-- The ports and span fabric (R382 to R390): module number, landing-ring control blocks, gap losses not yet
recorded per ring (messages, bytes, first number), the records held per ring, reassembly, the messages to land, those in the
32 MiB ingest buffer of each port, the senders that have been sent a congestion notification (port, ring, source), snapshot
requests, the rings whose snapshot has ovf set (R389, log entry 118), span peer table, sent messages and their next number, the span messages of other modules already performed (module,
number), what is carried to each other module (R252), what the ports' own writes carry (R252, R386), and the messages given up of
which packets are still to come (ring, source, message; R386). -/
structure Ports where
  moduleNo : Nat
  lrcb : FMap (BitVec 1024)
  gaps : FMap (Nat × Nat × Nat)
  recsHeld : FMap (List LandRec)
  reasm : List Message
  done : List Message
  buffered : List Message
  notified : List (Nat × Nat × Nat)
  snapReq : List Nat
  snapOvf : List Nat
  peers : FMap (BitVec 128)
  sent : FMap SpanMsg
  nextMsg : Nat
  served : List (Nat × Nat)
  views : FMap Ledger
  landOrd : Ledger
  givenUp : List (Nat × Nat × Nat)
  deriving DecidableEq, Repr

/-- The security engine (R390, R411, R412): key table (key and valid), install under way (index, key, status,
since), root key digest and fused version in the fuses, measurements 1 to 6, SPDM negotiation state, last answer. -/
structure Security where
  keys : FMap Nat
  install : Option (Nat × Nat × Nat)
  status : Nat
  fuseRoot : Nat
  fuseVersion : Nat
  meas : FMap Nat
  spdm : Nat
  transcript : List Nat
  answer : List Nat
  deriving DecidableEq, Repr

/-- The host die (R356 to R369, R371, R378, R380, R403, R406, R413 to R416): Guldon queues, error-ring control
entries (512 is the page-request ring), page requests under way, ASID records, power blocks, budget and pointer,
the host RAS block, partition map, bring-up phase, whether LPDDR6 is trained (R416), evictions under way (ASID, address, frame, backing, size), leaf entries that the eviction
engine has read (R380), queue-control errors, page-resume registers, the prologue of each die, unusable lanes (R395), and, of
each application core or device, its part of the memory model and its span stores not acknowledged (R248, R259). -/
structure HostDie where
  queues : FMap GQueue
  rings : FMap (BitVec 256)
  nextReq : Nat
  requests : List (Nat × Nat × Nat × Nat × Nat)
  asids : FMap (BitVec 512)
  power : FMap (BitVec 128)
  budget : Nat
  pointer : Nat
  ras : BitVec 512
  qcErrors : Nat
  part : BitVec 32
  phase : Nat
  evictions : List (Nat × Nat × Nat × Nat × Nat)
  evReads : FMap Nat
  hostWaiters : List Waiter
  resv : FMap Nat
  prologues : FMap (Nat × Nat × Nat)
  badLanes : List Nat
  agents : FMap Ledger
  agentPosted : FMap (List Nat)
  trained : Bool
  deriving DecidableEq, Repr

/-- An error in the storage of the part (R402): one that was corrected on a die; an uncorrectable one at a byte of memory, in a
tile (numbered as in `Tile.bad`), or in the registers, queues or control stacks of a stream; what the next redundant K-step of a
tile finds (R232, as in `Tile.upsets`); a segment that fails its check at a place of a transit store (R397). -/
inductive SoftError where
  | corrected (die : Nat)
  | memory (pa : Nat)
  | tile (die tile at_ : Nat)
  | stream (uid : Nat)
  | redundant (die tile find_ : Nat)
  | segment (die place : Nat)
  deriving DecidableEq, Repr

/-- A move of the agents of the module (the model's own, not the manual's): an event of the opcode table, the
issue of the next word of a sequencer, a call of the runtime (R40, R78, R319), a program that the firmware complex
places on a front-end sequencer (R333), a noted old value and a load that returns one (R253), a part of an engine command (R258),
the first step of an eviction (R380), what reaches this module of a spliced ring (R396, R398), the packet core of a queue (R356),
a store of a firmware core (R368), an error in the storage (R402), a ring formed without the dies that are not ready (R418), the end of
the training of LPDDR6 (R416), or the loss of the host die or of the extension port of a ring (R405). -/
inductive Move where
  | event (i : Instr)
  | issue (die seq : Nat)
  | talloc (die tile asid handle fmt : Nat) (extent : List Nat) (pad : Nat) (strict : Bool)
  | tfree (die tile asid handle : Nat)
  | seqCall (die recNo : Nat) (bits : BitVec 512)
  | ctxCall (die n : Nat) (bits : BitVec 512)
  | place (ring pos : Nat) (seg : Option Segment)
  | elem (seg tile k n bits : Nat)
  | firmware (die asid pc : Nat)
  | note (pa n : Nat)
  | stale (uid idx k : Nat)
  | units (die tile no n : Nat)
  | evictRead (leaf : Nat)
  | inbound (ring : Nat) (p : Position)
  | inJunction (ring up : Nat) (started : Bool) (idle : Nat) (lost : List LostSeg)
  | farBypass (ring idx : Nat)
  | assign (q core : Nat)
  | coreStore (core addr n bits : Nat)
  | soft (e : SoftError)
  | formShort (ring cyc : Nat)
  | memTrained
  | hostLoss
  | portLoss (ring : Nat)
  deriving DecidableEq, Repr

/-- The state of the module. `agenda` says which agent moves next; with an empty agenda the sequencer `focus`
(die, %seq) issues its next word. `free` counts the free values used (the model's own). -/
structure State where
  insts : FMap Inst
  nextUid : Nat
  seqs : FMap Seq
  tiles : FMap Tile
  dies : FMap Die
  rings : FMap Ring
  segs : FMap Nat
  phys : Phys
  host : HostDie
  fw : Firmware
  ports : Ports
  sec : Security
  agenda : List Move
  focus : Nat × Nat
  free : Nat
  deriving DecidableEq, Repr

/-! ## The state after reset -/

/-- All registers zero, queues empty, `%plive` 0xFFFF (R22). -/
def Regs.init : Regs := ⟨.empty, .empty, .empty, .empty, .empty, 0, 0, 0, 0xFFFF⟩
/-- An agent to which nothing has been carried. -/
def Ledger.init : Ledger := ⟨0, [], [], [], []⟩
/-- An instruction stream at its first instruction (R22), `%sp` given. -/
def Ctx.init (pc sp : Word64) : Ctx := ⟨pc, .init, ⟨[], [], 0, sp⟩, [], [], [], false, false, false, 0, .init, none, .empty⟩
/-- A sequencer after reset (R334): every register at its reset value, no resident instance. -/
def Seq.init : Seq := ⟨0, .empty, none, none, 0, 0, 0, 0, 0, 0, none, 0, none, 0, none⟩
/-- Engines with nothing in them; the first grant goes to the tile's first sequencer (log entry 11). -/
def Engines.init : Engines := ⟨.empty, [], [], none, [], 4, 4, 4, .empty, 0, 0⟩
/-- A stream after die reset: empty, no owner (R181). -/
def Stream.init : Stream := ⟨[], 0, none⟩
/-- A tile after die reset: every semaphore 0 (R207), every panel tag empty (R237), memories zero (log entry 2). -/
def Tile.init : Tile := ⟨.empty, [], .empty, [], .empty, .empty, .empty, .empty, .init, [], [], [], .empty⟩
/-- The die registers after reset: all zero (R334). -/
def DieRegs.init : DieRegs := ⟨0, 0, 0, 0, 0, 0, 0, 0, 0, 0, 0, 0⟩
/-- An empty scheduler. -/
def Scheduler.init : Scheduler := ⟨[], .empty, 0, [], [], [], [], [], .empty, [], [], [], [], .empty, (0, 0, 0)⟩
/-- A cohort that nobody has joined (R38). -/
def Cohort.init : Cohort := ⟨[], [], [], [], [], 0, []⟩
/-- The ring side after reset: every tag-table and window entry 0 (R272, R408). -/
def RingSide.init : RingSide := ⟨[], .empty, 0, .empty, 0, .empty, .empty, .empty, 0, false, 0, .empty, none, false,
  .empty⟩
/-- A die after reset. -/
def Die.init : Die := ⟨0, .init, .init, [], [], .init, 0, false, false, .empty, 0x1FF2_0000, []⟩
/-- A ring that is not formed. -/
def Ring.init : Ring := ⟨0, [], 1024, 0, false, false, [], false, [], [], false⟩
/-- A Guldon queue after reset (R356). -/
def GQueue.init : GQueue := ⟨0, 0, none, false, [], [], 0, 0, 0, false, 0, none, 0, .init⟩
/-- A power block after reset: floor, cap, demand 0, grant = floor, duty 0 (R413). -/
def powerInit (i : Nat) : BitVec 128 :=
  let f := if i < 16 then 80 else if i < 20 then 60 else if i = 20 then 140 else 90
  let c := if i < 16 then 265 else if i < 20 then 180 else if i = 20 then 280 else 150
  BitVec.ofNat 128 (f + c * 2 ^ 16 + f * 2 ^ 48)
/-- The physical address map of the model (log entry 3): host SRAM, LPDDR6, the die memories, the HBMs (R9). -/
def mapInit : List Region :=
  [⟨0x4000_0000, 0x1000_0000, .hostSram⟩, ⟨0x400_0000_0000, 0x40_0000_0000, .lpddr⟩] ++
  (List.range 16).map (fun d => ⟨0x100_0000_0000 + d * 0x2000_0000, 0x2000_0000, .dieMem d⟩) ++
  (List.range 4).map (fun k => ⟨0x200_0000_0000 + k * 0x20_0000_0000, 0x20_0000_0000, .hbm (16 + k)⟩)
/-- The physical side after reset: nothing listed in memory (log entry 2), region bases of log entry 3. -/
def Phys.init : Phys :=
  ⟨mapInit, .empty, [], 0x4000_0000, 0x4004_0000, 0x4005_0000, 0x4006_0000, 0x4008_0000, 0x4008_0004,
   0x7F00_0000_0000, 0x1F00_0000, 0x7E00_0000_0000, 0x1FF0_0000, .empty, ⟨.empty, 0, [], .empty, []⟩⟩
/-- The host die after reset: every control structure zero, budget 5600 W (R413), phase 0 (R416). -/
def HostDie.init : HostDie :=
  ⟨.empty, .empty, 0, [], .empty, .empty, 5600, 0, 0, 0, 0, 0, [], .empty, [], .empty, .empty, [], .empty, .empty, false⟩
/-- The firmware complex before boot: slot A active (log entry 5). -/
def Firmware.init : Firmware :=
  ⟨.empty, false, .empty, .empty, none, .empty, 0, 0, 0, false, .empty, .empty, .empty, .empty⟩
/-- The ports after reset: every landing ring disabled and zero (R385), no peer valid (R383). -/
def Ports.init : Ports := ⟨0, .empty, .empty, .empty, [], [], [], [], [], [], .empty, .empty, 0, [], .empty, .init, []⟩
/-- The security engine after reset: no key valid (R390), fuses of log entry 5. -/
def Security.init : Security := ⟨.empty, none, 0, 0, 0, .empty, 0, [], []⟩

/-- The module right after reset: every register at the value the manual gives it, boot ROM not yet run
(phase 0, R416), no instance anywhere, nothing listed in memory. -/
def State.reset : State :=
  ⟨.empty, 0, .empty, .empty, .empty, .empty, .empty, .init, .init, .init, .init, .init, [], (0, 0), 0⟩

end Sys2Proof.Machine
end

