-- ==== Sys2Proof/Machine/Base.lean ====
section
/-! DEFINITION. Reading and writing the parts of the state: dies, sequencers, tiles, instances, records. -/

namespace Sys2Proof.Machine

/-- Key of a sequencer. -/
def seqKey (die seq : Nat) : Nat := 256 * die + seq
/-- Key of a tile. -/
def tileKey (die tile : Nat) : Nat := 64 * die + tile
/-- Is it an attention die (R71). -/
def isAtt (die : Nat) : Bool := decide (16 ≤ die)
/-- Tiles of a die (R9, R24). -/
def tilesOf (die : Nat) : Nat := if die < 16 then 16 else 32
/-- The front-end sequencer of a die (R71). -/
def frontSeq (die : Nat) : Nat := 4 * tilesOf die
/-- The tile of a sequencer (R71). -/
def tileOfSeq (seq : Nat) : Nat := seq / 4
/-- A die. -/
def State.die (s : State) (d : Nat) : Die := s.dies.get Die.init d
/-- Replaces a die. -/
def State.setDie (s : State) (d : Nat) (x : Die) : State := { s with dies := s.dies.set Die.init d x }
/-- Changes a die. -/
def State.updDie (s : State) (d : Nat) (f : Die → Die) : State := s.setDie d (f (s.die d))
/-- A sequencer. -/
def State.seq (s : State) (d q : Nat) : Seq := s.seqs.get Seq.init (seqKey d q)
/-- Replaces a sequencer. -/
def State.setSeq (s : State) (d q : Nat) (x : Seq) : State := { s with seqs := s.seqs.set Seq.init (seqKey d q) x }
/-- Changes a sequencer. -/
def State.updSeq (s : State) (d q : Nat) (f : Seq → Seq) : State := s.setSeq d q (f (s.seq d q))
/-- A tile. -/
def State.tile (s : State) (d t : Nat) : Tile := s.tiles.get Tile.init (tileKey d t)
/-- Replaces a tile. -/
def State.setTile (s : State) (d t : Nat) (x : Tile) : State := { s with tiles := s.tiles.set Tile.init (tileKey d t) x }
/-- Changes a tile. -/
def State.updTile (s : State) (d t : Nat) (f : Tile → Tile) : State := s.setTile d t (f (s.tile d t))
/-- Changes the engines of a tile. -/
def State.updEng (s : State) (d t : Nat) (f : Engines → Engines) : State :=
  s.updTile d t fun x => { x with eng := f x.eng }
/-- An instance. -/
def State.inst (s : State) (u : Nat) : Option Inst := s.insts.find u
/-- Writes an instance. -/
def State.setInst (s : State) (u : Nat) (i : Inst) : State := { s with insts := s.insts.put u i }
/-- Changes an instance, if it exists. -/
def State.updInst (s : State) (u : Nat) (f : Inst → Inst) : State :=
  match s.inst u with
  | some i => s.setInst u (f i)
  | none => s
/-- Changes the scheduler of a die. -/
def State.updSch (s : State) (d : Nat) (f : Scheduler → Scheduler) : State := s.updDie d fun x => { x with sch := f x.sch }
/-- Changes the ring side of a die. -/
def State.updRing (s : State) (d : Nat) (f : RingSide → RingSide) : State := s.updDie d fun x => { x with ring := f x.ring }
/-- An accepted record. -/
def State.recOf (s : State) (d n : Nat) : Option Rec := (s.die d).sch.recs.find n
/-- Writes a record. -/
def State.setRec (s : State) (d n : Nat) (r : Rec) : State := s.updSch d fun x => { x with recs := x.recs.put n r }
/-- Changes a record. -/
def State.updRec (s : State) (d n : Nat) (f : Rec → Rec) : State :=
  match s.recOf d n with
  | some r => s.setRec d n (f r)
  | none => s
/-- Changes a Guldon queue. -/
def State.updQueue (s : State) (q : Nat) (f : GQueue → GQueue) : State :=
  { s with host := { s.host with queues := s.host.queues.upd GQueue.init q f } }
/-- A Guldon queue. -/
def State.queue (s : State) (q : Nat) : GQueue := s.host.queues.get GQueue.init q
/-- Changes the host die. -/
def State.updHost (s : State) (f : HostDie → HostDie) : State := { s with host := f s.host }
/-- A fresh value of the free counter (log entry 20). -/
def State.tick (s : State) : State := { s with free := s.free + 1 }

/-- Bits `[hi:lo]` of a word, as a number (R1). -/
def fieldOf {w : Nat} (x : BitVec w) (hi lo : Nat) : Nat := (x.toNat / 2 ^ lo) % 2 ^ (hi - lo + 1)
/-- Writes bits `[hi:lo]` (R1). -/
def setField {w : Nat} (x : BitVec w) (hi lo v : Nat) : BitVec w :=
  let n := x.toNat
  let m := 2 ^ (hi - lo + 1)
  BitVec.ofNat w (n - (n / 2 ^ lo % m) * 2 ^ lo + (v % m) * 2 ^ lo)
/-- A number with `n` bits read as two's complement. -/
def sextN (n v : Nat) : Int := if v % 2 ^ n < 2 ^ (n - 1) then (v % 2 ^ n : Nat) else ((v % 2 ^ n : Nat) : Int) - 2 ^ n
/-- An integer sliced to `n` bits (R6). -/
def wrapN (n : Nat) (v : Int) : Nat := (v % (2 ^ n : Int)).toNat

/-- The ASID record of an ASID (R371). -/
def State.asidRec (s : State) (a : Nat) : BitVec 512 := s.host.asids.get 0 a
/-- valid of the ASID record. -/
def State.asidValid (s : State) (a : Nat) : Bool := fieldOf (s.asidRec a) 64 64 == 1
/-- part of the ASID record. -/
def State.asidPart (s : State) (a : Nat) : Nat := fieldOf (s.asidRec a) 66 65
/-- dtab of the ASID record. -/
def State.asidDtab (s : State) (a : Nat) : Nat := fieldOf (s.asidRec a) 191 128
/-- The index lies in the ASID's semaphore window (R207, R371). -/
def State.inWindow (s : State) (a i : Nat) : Bool :=
  let r := s.asidRec a
  s.asidValid a && decide (fieldOf r 199 192 ≤ i) && decide (i ≤ fieldOf r 207 200)
/-- The partition of a die (R406); in reduced service the reduced ring, ring dies 0 to 3 and attention die 16, counts as partition 0
(R417). -/
def State.partOf (s : State) (d : Nat) : Nat :=
  let rd := if d < 16 then d else 4 * (d - 16)
  if s.host.phase = 3 ∧ rd < 4 then 0 else
  match fieldOf s.host.part 1 0 with
  | 1 => rd / 8
  | 2 => rd / 4
  | _ => 0
/-- The attention die of a ring die (R317). -/
def attOf (d : Nat) : Nat := if d < 16 then 16 + d / 4 else d

/-- Raises a saturating 32-bit counter `k` of a RAS block (R403). -/
def bumpCounter {w : Nat} (b : BitVec w) (k : Nat) : BitVec w :=
  let v := fieldOf b (32 * k + 31) (32 * k)
  if v = 0xFFFF_FFFF then b else setField b (32 * k + 31) (32 * k) (v + 1)
/-- Raises counter `k` of a die's RAS block (R403): 0 cecc, 1 uecc, 2 imgrd, 3 unclaim, 4 cmism, 5 frmex, 6 cpref,
7 colf, 8 absent, 9 wovr. -/
def State.rasBump (s : State) (d k : Nat) : State := s.updDie d fun x => { x with ras := bumpCounter x.ras k }

/-- The instruction streams that live on a die. -/
def State.instsOn (s : State) (d : Nat) : List (Nat × Inst) := s.insts.cells.filter fun p => p.2.who.die == d

/-- Changes the cycle of a die to at least `c` (events that name a cycle happen no earlier). -/
def State.advance (s : State) (d c : Nat) : State := s.updDie d fun x => { x with cyc := Nat.max x.cyc c }

/-- The number `v` listed in a list of numbers. -/
def hasNat (l : List Nat) (v : Nat) : Bool := l.any (· == v)
/-- The least number below the bound that the list does not hold. -/
def freeBelow (used : List Nat) (n : Nat) : Option Nat := (List.range n).find? fun k => !hasNat used k
/-- The list without `v`. -/
def dropNat (l : List Nat) (v : Nat) : List Nat := l.filter (· != v)

end Sys2Proof.Machine
end

