-- ==== Sys2Proof/Machine/Phys.lean ====
section
/-! DEFINITION. Physical memory of the module: the address map, bytes, and the control structures that lie in
host-die SRAM (R356 to R358, R362, R371, R378, R385, R403, R406, R413, R416). -/

namespace Sys2Proof.Machine

/-- The home of a physical address of this module (R246); none where nothing exists. -/
def State.homeOf (s : State) (pa : Nat) : Option Home :=
  (s.phys.regions.find? fun r => decide (r.base ≤ pa) && decide (pa < r.base + r.size)).map (·.home)

/-- A span address: bit 51 set (R383). -/
def isSpan (pa : Nat) : Bool := pa / 2 ^ 51 % 2 == 1

/-- Base of a die's own memory: die memory or HBM (R9). -/
def State.dieBase (s : State) (d : Nat) : Nat :=
  match s.phys.regions.find? fun r => r.home == (if d < 16 then Home.dieMem d else Home.hbm d) with
  | some r => r.base
  | none => 0

/-- The control structure behind an address of host-die SRAM. -/
inductive Ctl where
  | qcb (q : Nat) | ring (n : Nat) | resume (die : Nat) | ras (i : Nat) | power (i : Nat) | budget
  | zero | doorbell (q : Nat) | asid (a : Nat) | lrcb (n : Nat) | part | phase
  deriving DecidableEq, Repr

/-- The structure and the byte in it at offset `o` of the queue control region (R357). -/
def qcRegion (o : Nat) : Ctl × Nat :=
  if o < 0x2_0000 then (.qcb (o / 0x80), o % 0x80)
  else if o < 0x2_4000 then (.ring ((o - 0x2_0000) / 0x20), o % 0x20)
  else if o < 0x2_4020 then (.ring 512, o % 0x20)
  else if 0x2_4100 ≤ o ∧ o < 0x2_4150 then (.resume ((o - 0x2_4100) / 4), o % 4)
  else if 0x2_5000 ≤ o ∧ o < 0x2_5540 then (.ras ((o - 0x2_5000) / 0x40), o % 0x40)
  else if 0x2_6000 ≤ o ∧ o < 0x2_6160 then (.power ((o - 0x2_6000) / 0x10), o % 0x10)
  else if 0x2_6200 ≤ o ∧ o < 0x2_6204 then (.budget, o % 4)
  else (.zero, 0)

/-- The control structure that answers at a physical address, with the byte number in it. -/
def State.ctlAt (s : State) (pa : Nat) : Option (Ctl × Nat) :=
  let p := s.phys
  if p.qcBase ≤ pa ∧ pa < p.qcBase + 0x4_0000 then some (qcRegion (pa - p.qcBase))
  else if p.doorbell ≤ pa ∧ pa < p.doorbell + 0x2000 then some (.doorbell ((pa - p.doorbell) / 8), (pa - p.doorbell) % 8)
  else if p.asidBase ≤ pa ∧ pa < p.asidBase + 0x8000 then some (.asid ((pa - p.asidBase) / 64), (pa - p.asidBase) % 64)
  else if p.lrBase ≤ pa ∧ pa < p.lrBase + 0x2_0000 then some (.lrcb ((pa - p.lrBase) / 128), (pa - p.lrBase) % 128)
  else if p.partAddr ≤ pa ∧ pa < p.partAddr + 4 then some (.part, pa - p.partAddr)
  else if p.phaseAddr ≤ pa ∧ pa < p.phaseAddr + 4 then some (.phase, pa - p.phaseAddr)
  else none

/-- The QCB as it reads: base to eslot from the live copy, the rest as the front end keeps it (R356, R358). -/
def GQueue.view (g : GQueue) : BitVec 1024 := setField g.shadow 127 0 (fieldOf g.live 127 0)

/-- The RAS block at index `i` of R357. -/
def State.rasAt (s : State) (i : Nat) : BitVec 512 :=
  if i = 16 then s.host.ras else if i < 16 then (s.die i).ras else (s.die (i - 1)).ras

/-- The bring-up register (R416). -/
def State.bringUp (s : State) : Nat :=
  s.host.phase + (List.range 20).foldl (fun a d => if (s.die d).ready then a + 2 ^ (4 + d) else a) 0

/-- The whole value of a control structure, as it reads (R4). -/
def State.ctlValue (s : State) : Ctl → Nat
  | .qcb q => (s.queue q).view.toNat
  | .ring n => (s.host.rings.get 0 n).toNat
  | .resume d => s.host.resv.get 0 d
  | .ras i => (s.rasAt i).toNat
  | .power i => (s.host.power.get (powerInit i) i).toNat
  | .budget => s.host.budget
  | .zero => 0
  | .doorbell _ => 0
  | .asid a => (s.asidRec a).toNat
  | .lrcb n => (s.ports.lrcb.get 0 n).toNat
  | .part => s.host.part.toNat
  | .phase => s.bringUp

/-- One byte of this module at a physical address: what an address that nothing has written reads is zero
(log entry 2). -/
def State.byteAt (s : State) (pa : Nat) : Byte :=
  match s.ctlAt pa with
  | some (c, k) => BitVec.ofNat 8 (s.ctlValue c / 256 ^ k)
  | none => s.phys.mem.get 0 pa

/-- One byte at a physical address; another module's is a free value (log entry 21). -/
def State.byteAny (s : State) (pa : Nat) : Byte :=
  if isSpan pa then BitVec.ofNat 8 (Config.spanRead s.free 0 pa) else s.byteAt pa

/-- `n` bytes from a physical address, little-endian (R1). -/
def State.readPa (s : State) (pa : Nat) : Nat → Nat
  | 0 => 0
  | n + 1 => (s.byteAt pa).toNat + 256 * s.readPa (pa + 1) n

/-- `n` bytes from a physical address of this module or another (R1). -/
def State.readAnyPa (s : State) (pa : Nat) : Nat → Nat
  | 0 => 0
  | n + 1 => (s.byteAny pa).toNat + 256 * s.readAnyPa (pa + 1) n

/-- The queue is enabled anew (R358): nothing read before stands, but a packet that has started goes on. -/
def GQueue.enabled (g : GQueue) : GQueue :=
  { g with head := if g.waiting then g.head else none, page := if g.waiting then g.page else none,
           copies := [], toRead := 0, left := 0, skip := 0 }
/-- Latches the live copy into the shadow on a commit of the next generation (R358). -/
def GQueue.commit (g : GQueue) (gen : Nat) : Option GQueue :=
  if gen % 2 ^ 32 = (fieldOf g.shadow 159 128 + 1) % 2 ^ 32 then
    let rising := fieldOf g.shadow 77 77 == 0 && fieldOf g.live 77 77 == 1
    let sh := setField (setField g.shadow 127 0 (fieldOf g.live 127 0)) 159 128 gen
    let sh := if rising then setField (setField sh 191 160 1) 223 192 0 else sh
    let st := fieldOf sh 231 224
    let sh := if st = 4 ∨ st = 5 then sh else if fieldOf sh 77 77 = 0 then setField sh 231 224 0
      else if st = 0 then setField sh 231 224 1 else sh
    some { (if rising then g.enabled else g) with shadow := sh }
  else none

/-- A write to commit (R358); a wrong generation counts a queue-control error. -/
def State.commitQcb (s : State) (q gen : Nat) : State :=
  match (s.queue q).commit gen with
  | some g => s.updQueue q fun _ => g
  | none => s.updHost fun h => { h with qcErrors := h.qcErrors + 1 }

/-- Zeroes every RO field and tail when a landing ring is enabled (R385); ovf, a W1C bit, stays. -/
def lrEnable (b : BitVec 1024) : BitVec 1024 :=
  setField (setField b 1023 128 0) 640 640 (fieldOf b 640 640)
/-- The ring may be enabled: lsz 16 to 30 (R385). -/
def lrLegal (b : BitVec 1024) : Bool := decide (16 ≤ fieldOf b 68 64) && decide (fieldOf b 68 64 ≤ 30)
/-- A write of the low 128 bits of an LRCB by the supervisor (R385). -/
def lrWriteLow (b : BitVec 1024) (v : Nat) : BitVec 1024 :=
  let nw := setField b 92 0 v
  if fieldOf b 71 71 = 1 then setField b 71 71 (fieldOf nw 71 71)
  else if fieldOf nw 71 71 = 1 then (if lrLegal nw then lrEnable nw else setField nw 71 71 0) else nw

/-- A landing ring that has just been enabled holds nothing, and nothing is on its way into it (R385). -/
def Ports.ringFresh (p : Ports) (n : Nat) : Ports :=
  { p with
    gaps := p.gaps.del n
    recsHeld := p.recsHeld.del n
    reasm := p.reasm.filter fun m => m.ring != n
    done := p.done.filter fun m => m.ring != n
    buffered := p.buffered.filter fun m => m.ring != n
    notified := p.notified.filter fun k => k.2.1 != n
    snapOvf := p.snapOvf.filter fun k => k != n
    snapReq := p.snapReq.filter fun k => k != n }
/-- A write of the low 128 bits of landing ring `n` (R385). -/
def Ports.writeLow (p : Ports) (n v : Nat) : Ports :=
  let b := p.lrcb.get 0 n
  let w := lrWriteLow b v
  let q := if fieldOf b 71 71 = 0 ∧ fieldOf w 71 71 = 1 then p.ringFresh n else p
  { q with lrcb := p.lrcb.set 0 n w }

/-- Power block `i` after a write of floor and cap (R413): both are fields of 16 bits. -/
def setFloorCap (b : BitVec 128) (floor cap : Nat) : BitVec 128 :=
  setField (setField b 15 0 floor) 31 16 (Nat.max (floor % 65536) (cap % 65536))
/-- The sum of the floors (R413). -/
def State.floors (s : State) : Nat :=
  (List.range 22).foldl (fun a i => a + fieldOf (s.host.power.get (powerInit i) i) 15 0) 0
/-- A write of the module budget (R413); a sum of floors beyond the field's 16 bits stands at its greatest value (DESIGN CHOICE, log
entry 156). -/
def State.setBudget (s : State) (v : Nat) : State :=
  s.updHost fun h => { h with budget := Nat.max (v % 2 ^ 16) (Nat.min s.floors 65535) }

/-- Clears the counters of a RAS block that a write of bytes `k` to `k + n - 1` covers (R403). -/
def rasClear (b : BitVec 512) (k n : Nat) : BitVec 512 :=
  (List.range 16).foldl (fun a i => if 4 * i < k + n ∧ k < 4 * i + 4 then setField a (32 * i + 31) (32 * i) 0 else a) b

/-- The instances that die `d` parks on request `no` may be restored (R378). -/
def State.resumeOn (s : State) (no d : Nat) : State :=
  let us := ((s.die d).sch.parks.filter fun p => p.1 == no).map (·.2)
  let s := s.updSch d fun x => { x with parks := x.parks.filter fun p => p.1 != no }
  us.foldl (fun s u => s.updInst u fun i => { i with sched := { i.sched with wait := .page true } }) s
/-- A write of a request number to a die's page-resume register (R378): the instances parked on that request may be
restored. At the register of the die that the request's record names, these are the parks of every die that share it,
and the request is no longer outstanding. -/
def State.resumePage (s : State) (d no : Nat) : State :=
  let own := s.host.requests.any fun r => r.1 == no && r.2.2.2.2 == d
  let s := if own then (List.range 20).foldl (fun s k => s.resumeOn no k) s else s.resumeOn no d
  s.updHost fun h =>
    { h with resv := h.resv.set 0 d no, requests := h.requests.filter fun r => !(r.1 == no && r.2.2.2.2 == d) }

/-- A store of `n` bytes `v` at byte `k` of a control structure: each field by its access code (R4). -/
def State.ctlStore (s : State) (c : Ctl) (k n v : Nat) : State :=
  let old := s.ctlValue c
  let nw := old - (old / 256 ^ k % 256 ^ n) * 256 ^ k + (v % 256 ^ n) * 256 ^ k
  let hit (lo hi : Nat) : Bool := decide (k < hi) && decide (lo < k + n)
  match c with
  | .qcb q =>
    let s := if hit 0 16 then s.updQueue q fun g =>
        let w := BitVec.ofNat 1024 nw
        let l := setField (setField g.live 78 0 (fieldOf w 78 0)) 127 96 (fieldOf w 127 96)
        { g with live := l }
      else s
    let s := if hit 16 20 then s.commitQcb q (nw / 2 ^ 128 % 2 ^ 32) else s
    if hit 29 30 && nw / 2 ^ 232 % 2 == 1 then s.updQueue q fun g => { g with shadow := setField g.shadow 232 232 1 } else s
  | .ring i => s.updHost fun h =>
      let b := h.rings.get 0 i
      let w := BitVec.ofNat 256 nw
      let b := setField (setField b 67 0 (fieldOf w 67 0)) 159 128 (fieldOf w 159 128)
      { h with rings := h.rings.set 0 i (setField b 200 192 (fieldOf w 200 192)) }
  | .resume d => s.resumePage d (nw % 2 ^ 32)
  | .ras i =>
    if i = 16 then s.updHost fun h => { h with ras := rasClear h.ras k n }
    else s.updDie (if i < 16 then i else i - 1) fun d => { d with ras := rasClear d.ras k n }
  | .power i => s.updHost fun h =>
      let b := h.power.get (powerInit i) i
      let w := BitVec.ofNat 128 nw
      { h with power := h.power.set (powerInit i) i (setFloorCap b (fieldOf w 15 0) (fieldOf w 31 16)) }
  | .budget => s.setBudget nw
  | .zero => s
  | .doorbell q => s.updQueue q fun g => { g with kick := true }
  | .asid a => s.updHost fun h =>
      let b := setField (setField (h.asids.get 0 a) 66 0 nw) 207 128 (nw / 2 ^ 128)
      { h with asids := h.asids.set 0 a b }
  | .lrcb i =>
    let s := if hit 0 16 then { s with ports := s.ports.writeLow i nw } else s
    let b := s.ports.lrcb.get 0 i
    let b := if hit 24 32 then setField b 255 192 (nw / 2 ^ 192) else b
    let b := if hit 80 81 && v / 256 ^ (80 - k) % 2 == 1 then setField b 640 640 0 else b
    let s := { s with ports := { s.ports with lrcb := s.ports.lrcb.set 0 i b } }
    if hit 80 81 && v / 256 ^ (80 - k) / 2 % 2 == 1 && !hasNat s.ports.snapReq i then
      { s with ports := { s.ports with snapReq := s.ports.snapReq ++ [i] } }
    else s
  | .part => s
  | .phase => s

/-- Writes one byte of memory (not of a control structure). -/
def State.setByte (s : State) (pa : Nat) (b : Byte) : State :=
  { s with phys := { s.phys with mem := s.phys.mem.set 0 pa b } }

/-- Writes `n` bytes of memory, lowest first. -/
def State.pokePa (s : State) (pa : Nat) : Nat → Nat → State
  | 0, _ => s
  | n + 1, v => (s.setByte pa (BitVec.ofNat 8 v)).pokePa (pa + 1) n (v / 256)

/-- The bytes named lose their error mark when they are written (R402). -/
def State.clearBad (s : State) (pa n : Nat) : State :=
  if s.phys.bad.isEmpty then s
  else { s with phys := { s.phys with bad := s.phys.bad.filter fun a => !(decide (pa ≤ a) && decide (a < pa + n)) } }

/-- The `n` bytes from `pa` and the `k` bytes from `a` have a byte in common. -/
def meetBytes (pa n a k : Nat) : Bool := decide (a < pa + n) && decide (pa < a + k)
/-- The old values noted of some of these bytes. -/
def State.oldsAt (s : State) (pa n : Nat) : List Nat :=
  (s.phys.relaxed.olds.cells.filter fun o => meetBytes pa n o.2.pa o.2.n).map (·.1)
/-- Changes the record of the memory model. -/
def State.updRelaxed (s : State) (f : Relaxed → Relaxed) : State :=
  { s with phys := { s.phys with relaxed := f s.phys.relaxed } }
/-- A write outdates the old values of its bytes and ends the release sequences that stood there (R250). -/
def State.outdate (s : State) (pa n : Nat) : State :=
  s.updRelaxed fun x =>
    { x with
      met := x.met ++ (s.oldsAt pa n).filter fun k => !hasNat x.met k
      heads := ⟨x.heads.cells.filter fun h => !meetBytes pa n h.1 h.2.1⟩ }

/-- The two 4-byte registers that an aligned 8-byte access of the page-resume registers covers (R357, R378). -/
def Ctl.pairOf : Ctl → Option (Ctl × Ctl)
  | .resume d => some (.resume d, .resume (d + 1))
  | _ => none

/-- Stores `n` bytes at a physical address of this module (R1, R191). An 8-byte store over two page-resume registers
writes both. -/
def State.writePa (s : State) (pa n v : Nat) : State :=
  match s.ctlAt pa with
  | some (c, k) =>
    match c.pairOf with
    | some (x, y) => if 4 < n then (s.ctlStore x 0 4 v).ctlStore y 0 4 (v / 2 ^ 32) else s.ctlStore c k n v
    | none => s.ctlStore c k n v
  | none => ((s.outdate pa n).clearBad pa n).pokePa pa n v

/-- A read-modify-write of the module itself at a location's home: the release sequences that stand there go on (R250). -/
def State.rmwPa (s : State) (pa n v : Nat) : State :=
  (s.writePa pa n v).updRelaxed fun x => { x with heads := s.phys.relaxed.heads }

/-- Stores a list of bytes. -/
def State.writeBytes (s : State) (pa : Nat) : List Byte → State
  | [] => s
  | b :: t => (s.writePa pa 1 b.toNat).writeBytes (pa + 1) t

/-- A read of these bytes meets an uncorrectable error (R402). -/
def State.badAt (s : State) (pa n : Nat) : Bool := s.phys.bad.any fun a => decide (pa ≤ a) && decide (a < pa + n)

/-- Counts an uncorrectable error in the RAS block of the address's home (R402, R403); the host die's block counts none. -/
def State.uecc (s : State) (pa : Nat) : State :=
  match s.homeOf pa with
  | some (.dieMem d) => s.rasBump d 1
  | some (.hbm d) => s.rasBump d 1
  | _ => s

/-- The die that holds the waiter table of a home (R206): none stands for the host die. -/
def homeDie : Home → Option Nat
  | .dieMem d => some d
  | .hbm d => some d
  | .lpddr => none
  | .hostSram => none

end Sys2Proof.Machine
end

