-- ==== Sys2Proof/Machine/Order.lean ====
section
/-! DEFINITION. The memory model (R245 to R257): positions and scopes, what releases and acquires carry, and which old
values a load may still return. Memory holds the newest value of each location in coherence order; the old values that a
move has noted stand beside it, and knowledge of newer writes travels from agent to agent as the manual's chains do
(log entry 45). -/

namespace Sys2Proof.Machine

/-- Position of an agent that has a die and no sequencer: a front end, the host die (20), another module (R245). -/
def diePos (d : Nat) : Nat := 256 * d + 255
/-- Position of an agent of another module (R245). -/
def modulePos (m : Nat) : Nat := diePos (32 + m)
/-- The position of the front end, the application cores and the units of the host die (R245). -/
def hostPos : Nat := diePos 20
/-- ncs(X, Y): the narrowest scope whose instance around one position holds the other (R247): 0 seq, 1 tile, 2 die,
3 dev, 4 sys. -/
def ncs (x y : Nat) : Nat :=
  if x = y then 0
  else if x / 4 = y / 4 then 1
  else if x / 256 = y / 256 then 2
  else if x / 256 < 32 ∧ y / 256 < 32 then 3
  else 4
/-- Number of the scope of an access (R98, R247). -/
def scopeOf (m : MemSpec) : Nat :=
  match m.scope with
  | .seq => 0 | .tile => 1 | .die => 2 | .dev => 3 | .sys => 4

/-- Knowledge that reaches position `y`: its chain is wide enough for the two positions (R252). -/
def Know.reaches (k : Know) (y : Nat) : Bool := decide (ncs k.pos y ≤ k.scope)
/-- The knowledge says no less than `b` does. -/
def Know.covers (a b : Know) : Bool := a.old == b.old && a.pos == b.pos && decide (b.scope ≤ a.scope)
/-- Adds what is new. -/
def joinView (a b : List Know) : List Know :=
  b.foldl (fun a k => if a.any (·.covers k) then a else a.filter (fun x => !k.covers x) ++ [k]) a
/-- What an edge of scope `n` carries on (R252). -/
def narrow (n : Nat) (v : List Know) : List Know := v.map fun k => { k with scope := Nat.min k.scope n }
/-- What a release of this scope at this position gives, if anything. -/
def headOf (pos scope : Nat) (v : List Know) : List Head := if v.isEmpty then [] else [⟨pos, scope, v⟩]
/-- Adds heads not yet listed. -/
def joinHeads (a b : List Head) : List Head := a ++ b.filter fun h => !decide (h ∈ a)

/-- An acquire of scope `n` at position `y` of the release (R249): nothing when either scope falls short. -/
def Head.give (h : Head) (y n : Nat) : List Know :=
  if ncs h.pos y ≤ h.scope ∧ ncs h.pos y ≤ n then narrow (Nat.min h.scope n) h.view else []
/-- What the heads give to an acquire. -/
def gives (l : List Head) (y n : Nat) : List Know := l.foldl (fun v h => joinView v (h.give y n)) []

/-- The agent learns something (its knowledge grows). -/
def Ledger.learn (o : Ledger) (v : List Know) : Ledger := { o with view := joinView o.view v }
/-- The agent itself writes or reads bytes that these old values precede (R252, R253). -/
def Ledger.meet (o : Ledger) (l : List Nat) : Ledger := o.learn (l.map fun k => ⟨k, o.pos, 5⟩)
/-- Synchronizes with these releases at scope `n` (R249). -/
def Ledger.sync (o : Ledger) (l : List Head) (n : Nat) : Ledger := o.learn (gives l o.pos n)
/-- An acquire that reads from these sequences or is paired with these releases (R249); an acquire fence after it acts by the
wider scope (R251). -/
def Ledger.acquire (o : Ledger) (l : List Head) (n : Nat) : Ledger :=
  { o with seen := joinHeads o.seen l }.sync l n
/-- The scope of the acquire that is paired with a release, of an agent at position `y` (R248, R361): die scope on its own die;
a release of another die or of the host die is met at its own scope. -/
def Head.pairScope (h : Head) (y : Nat) : Nat := if h.pos / 256 = y / 256 then 2 else h.scope
/-- The start of a block acquires the releases that it is paired with (R34, R248, R261, R361). -/
def Ledger.paired (o : Ledger) (l : List Head) : Ledger := l.foldl (fun o h => o.acquire [h] (h.pairScope o.pos)) o
/-- A release access heads a sequence; after a release fence it acts by the wider scope (R249, R251). -/
def Ledger.release (o : Ledger) (n : Nat) : List Head :=
  joinHeads (headOf o.pos (o.rels.foldl (fun m h => Nat.max m h.scope) n) o.view) o.rels
/-- What a release of this scope hands to the work that it starts (R251, R258): after a release fence it acts by the wider scope. -/
def Ledger.fork (o : Ledger) (n : Nat) : List Know := gives (o.release n) o.pos 4
/-- A release fence of scope `n`: later plain writes head its sequence (R251). -/
def Ledger.relFence (o : Ledger) (n : Nat) : Ledger :=
  { o with rels := joinHeads (o.rels.filter fun h => decide (n < h.scope)) (headOf o.pos n o.view) }
/-- An acquire fence of scope `n`: what the earlier loads have read from synchronizes now (R251). -/
def Ledger.acqFence (o : Ledger) (n : Nat) : Ledger := o.sync o.seen n

/-- The release sequences that stand at some of these bytes (R250). -/
def State.headsAt (s : State) (pa n : Nat) : List Head :=
  s.phys.relaxed.heads.cells.foldl (fun l h => if meetBytes pa n h.1 h.2.1 then joinHeads l h.2.2 else l) []
/-- Puts release sequences at the bytes of a write. -/
def State.putHeads (s : State) (pa n : Nat) (l : List Head) : State :=
  if l.isEmpty then s else s.updRelaxed fun x => { x with heads := x.heads.put pa (n, l) }

/-- A plain write of bytes of another module: it ends the sequences that this module has headed there (R250). -/
def State.awayWrite (s : State) (pa n : Nat) (l : List Head) : State :=
  (s.updRelaxed fun x => { x with heads := ⟨x.heads.cells.filter fun h => !meetBytes pa n h.1 h.2.1⟩ }).putHeads pa n l
/-- A read-modify-write of bytes of another module: the sequences go on (R250). -/
def State.awayRmw (s : State) (pa n : Nat) (l : List Head) : State := s.putHeads pa n (joinHeads (s.headsAt pa n) l)
/-- A load reads from these sequences (R249, R251, R257). `acq` is the scope of its acquire, `ldc` marks an `LDC`. -/
def Ledger.readFrom (o : Ledger) (l : List Head) (acq : Option Nat) (ldc : Bool) : Ledger :=
  let o := { o with seen := joinHeads o.seen l, cons := if ldc then joinHeads o.cons l else o.cons }
  match acq with
  | some k => o.acquire l k
  | none => o

/-- A load reads the newest value of these bytes (R253): older values are shut out from now on. `acq` is the scope of its
acquire, `ldc` marks an `LDC`. -/
def State.reads (s : State) (o : Ledger) (pa n : Nat) (acq : Option Nat) (ldc : Bool) : Ledger :=
  (o.meet (s.oldsAt pa n)).readFrom (s.headsAt pa n) acq ldc
/-- A load reads old value `k`: those of its bytes that were noted before it are shut out. -/
def State.readsOld (s : State) (o : Ledger) (k : Nat) (v : OldVal) (acq : Option Nat) (ldc : Bool) : Ledger :=
  (o.meet ((s.oldsAt v.pa v.n).filter fun j => decide (j < k))).readFrom v.heads acq ldc
/-- Old value `k` may be read (R253): nothing newer is carried to the agent; for an address tainted by an `LDC` the
sequences that it read count as acquired at the releaser's scope (R257). -/
def Ledger.mayRead (o : Ledger) (k : Nat) (byTaint : Bool) : Bool :=
  let v := if byTaint then joinView o.view (gives o.cons o.pos 4) else o.view
  v.all fun x => x.old != k || !x.reaches o.pos

/-- What is carried to the packet core for a queue's work. -/
def GQueue.ledger (g : GQueue) : Ledger := { g.ord with pos := hostPos }
/-- Changes what is carried to the packet core for a queue's work. -/
def State.queueOrd (s : State) (q : Nat) (f : Ledger → Ledger) : State := s.updQueue q fun g => { g with ord := f g.ledger }
/-- Where the host die keeps what is carried to the units that report for no queue. -/
def reportAgent : Nat := 2 ^ 21
/-- What is carried to the agent that reports for the work of a queue, or for work of no queue. -/
def State.reportOrd (s : State) (queue : Option Nat) : Ledger :=
  match queue with
  | some q => (s.queue q).ledger
  | none => { s.host.agents.get .init reportAgent with pos := hostPos }
/-- Changes it. -/
def State.setReportOrd (s : State) (queue : Option Nat) (o : Ledger) : State :=
  match queue with
  | some q => s.queueOrd q fun _ => o
  | none => s.updHost fun h => { h with agents := h.agents.set .init reportAgent { o with pos := 0 } }

/-- The constraint of S between a sc fence and every earlier one of mutually inclusive scope (R255). -/
def State.scFence (s : State) (o : Ledger) (n : Nat) : State × Ledger :=
  let o := o.sync s.phys.relaxed.scs n
  let l := s.phys.relaxed.scs.filter fun h => !(h.pos == o.pos && h.scope == n)
  (s.updRelaxed fun x => { x with scs := l ++ headOf o.pos n o.view }, o)

/-- A write of this module by an agent: what it outdates is carried to the agent, and its sequences are put (R250, R252). -/
def State.writeAs (s : State) (o : Ledger) (pa n v : Nat) (heads : List Head) : State × Ledger :=
  let o := o.meet (s.oldsAt pa n)
  ((s.writePa pa n v).putHeads pa n heads, o)
/-- A read-modify-write: the sequences that stand there go on (R250). -/
def State.rmwAs (s : State) (o : Ledger) (pa n v : Nat) (heads : List Head) : State × Ledger :=
  s.writeAs o pa n v (joinHeads (s.headsAt pa n) heads)

/-- The old value of `n` bytes is noted (the model's own move): it may be read after it is outdated. -/
def State.note (s : State) (pa n : Nat) : State :=
  s.updRelaxed fun x =>
    { x with olds := x.olds.put x.nextOld ⟨pa, n, s.readPa pa n, s.headsAt pa n⟩, nextOld := x.nextOld + 1 }

/-- The release sequences of a semaphore (R209, R250): every operation on it is an RMW, so none ends. -/
def State.semHeads (s : State) (d t i : Nat) : List Head := (s.tile d t).semHeads.get [] i
/-- A release heads a sequence at a semaphore. -/
def State.semRelease (s : State) (d t i : Nat) (l : List Head) : State :=
  if l.isEmpty then s
  else s.updTile d t fun x => { x with semHeads := x.semHeads.set [] i (joinHeads (x.semHeads.get [] i) l) }
/-- An acquire at die scope of a semaphore (R248). -/
def State.semAcquire (s : State) (o : Ledger) (d t i : Nat) : Ledger := o.acquire (s.semHeads d t i) 2

end Sys2Proof.Machine
end

