-- ==== Sys2Proof/Machine/Stream.lean ====
section
/-! DEFINITION. One instruction stream: landing of results (R62 to R64), queues (R54 to R60), and the delivery and
early performance of loads (R55, R190 to R194). -/

namespace Sys2Proof.Machine

/-- Depth of a scalar queue (R54). -/
def qDepth : Nat := 8
/-- Depth of a vector queue (R54). -/
def vqDepth : Nat := 2

/-- Filled entries (R54). -/
def Queue.occ {α : Type} (q : Queue α) : Nat := (q.items.filter (·.isSome)).length
/-- Pending positions (R54). -/
def Queue.pend {α : Type} (q : Queue α) : Nat := q.items.length - q.occ
/-- Reserves `n` positions at the tail (R55). -/
def Queue.reserve {α : Type} (q : Queue α) (n : Nat) : Queue α := { q with items := q.items ++ List.replicate n none }
/-- The absolute number of the tail position. -/
def Queue.tailPos {α : Type} (q : Queue α) : Nat := q.head + q.items.length
/-- Replaces item `n` of a list. -/
def setNth {α : Type} : List α → Nat → α → List α
  | [], _, _ => []
  | _ :: t, 0, v => v :: t
  | h :: t, n + 1, v => h :: setNth t n v
/-- Fills the position with absolute number `pos` (R55). -/
def Queue.fill {α : Type} (q : Queue α) (pos : Nat) (v : α) (taint : Bool) : Queue α :=
  { q with items := setNth q.items (pos - q.head) (some (v, taint)) }
/-- Removes `n` entries at the head (R57). -/
def Queue.consume {α : Type} (q : Queue α) (n : Nat) : Queue α := ⟨q.head + n, q.items.drop n⟩

/-- A bit of a taint word or mask. -/
def bitAt {w : Nat} (x : BitVec w) (n : Nat) : Bool := x.getLsbD n
/-- Sets or clears a bit. -/
def putBit {w : Nat} (x : BitVec w) (n : Nat) (b : Bool) : BitVec w :=
  if b then x ||| (1#w <<< n) else x &&& ~~~(1#w <<< n)

/-- Lane `i` of a vector register (R53). -/
def laneOf (v : VecReg) (i : Nat) : Word := v.extractLsb' (32 * i) 32
/-- A vector from its lanes, lane 0 first (R53). -/
def ofLanes (f : Nat → Word) : VecReg :=
  BitVec.ofNat 2048 ((List.range 64).foldr (fun i a => (f i).toNat + 2 ^ 32 * a) 0)
/-- Lanes of `new` where the mask is set, else of `old`. -/
def mergeLanes (old new : VecReg) (mask : Pred) : VecReg :=
  ofLanes fun i => if bitAt mask i then laneOf new i else laneOf old i

/-- Scalar register `n`; s0 reads as zero (R51). -/
def Regs.getS (r : Regs) (n : Nat) : Word := if n = 0 then 0 else r.s.get 0 n
/-- Writes scalar register `n` below q0 with its taint; a write to s0 is discarded (R51). -/
def Regs.setS (r : Regs) (n : Nat) (v : Word) (t : Bool) : Regs :=
  if n = 0 then r else { r with s := r.s.set 0 n v, staint := putBit r.staint n t }
/-- The 64-bit value of a pair (R52). -/
def Regs.getPair (r : Regs) (n : Nat) : Word64 := (r.getS (n + 1)) ++ (r.getS n)
/-- Taint of a scalar register; s0 never (R51, R65). -/
def Regs.taintS (r : Regs) (n : Nat) : Bool := n != 0 && bitAt r.staint n
/-- Taint of a pair (R65). -/
def Regs.taintPair (r : Regs) (n : Nat) : Bool := r.taintS n || r.taintS (n + 1)
/-- A vector register below vq0. -/
def Regs.getV (r : Regs) (n : Nat) : VecReg := r.v.get 0 n
/-- A predicate register (R53). -/
def Regs.getP (r : Regs) (n : Nat) : Pred := r.p.get 0 n
/-- A scalar queue q0-q7. -/
def Regs.getQ (r : Regs) (n : Nat) : Queue Word := r.q.get Queue.empty n
/-- Replaces a scalar queue. -/
def Regs.setQ (r : Regs) (n : Nat) (q : Queue Word) : Regs := { r with q := r.q.set Queue.empty n q }
/-- A vector queue vq0-vq3. -/
def Regs.getVq (r : Regs) (n : Nat) : Queue VecReg := r.vq.get Queue.empty n
/-- Replaces a vector queue. -/
def Regs.setVq (r : Regs) (n : Nat) (q : Queue VecReg) : Regs := { r with vq := r.vq.set Queue.empty n q }
/-- Writes the lanes of a predicate that the mask names; when some lane is left, the old taint joins (R65, R135). -/
def Regs.setP (r : Regs) (n : Nat) (v mask : Pred) (t : Bool) : Regs :=
  let old := r.getP n
  let t := if mask = BitVec.allOnes 64 then t else t || bitAt r.ptaint n
  { r with p := r.p.set 0 n ((v &&& mask) ||| (old &&& ~~~mask)), ptaint := putBit r.ptaint n t }
/-- Writes the lanes of a vector register that the mask names; when some lane is left, the old taint joins (R65). -/
def Regs.setV (r : Regs) (n : Nat) (v : VecReg) (mask : Pred) (t : Bool) : Regs :=
  if mask = BitVec.allOnes 64 then { r with v := r.v.set 0 n v, vtaint := putBit r.vtaint n t }
  else { r with v := r.v.set 0 n (mergeLanes (r.getV n) v mask), vtaint := putBit r.vtaint n (t || bitAt r.vtaint n) }

/-- A result lands (R62, R55). -/
def Regs.land (r : Regs) : Write → Regs
  | .s n v t => r.setS n v t
  | .v n val mask t => r.setV n val mask t
  | .p n val mask t => r.setP n val mask t
  | .q n pos v t => r.setQ n ((r.getQ n).fill pos v t)
  | .vq n pos val t => r.setVq n ((r.getVq n).fill pos val t)

/-- The results in flight are kept by landing cycle, ties in issue order (R63). -/
def insertFlight (f : Flight) : List Flight → List Flight
  | [] => [f]
  | g :: t => if f.land < g.land then f :: g :: t else g :: insertFlight f t

/-- Lands, in order, the results of a list that are due at `clk`. -/
def landDue (clk : Nat) : List Flight → Regs → Regs × List Flight
  | [], r => (r, [])
  | f :: t, r => if f.land ≤ clk then landDue clk t (r.land f.w) else (r, f :: t)

/-- Lands every result that is due at or before `clk` (R62, R63). -/
def Ctx.landAt (c : Ctx) (clk : Nat) : Ctx :=
  let p := landDue clk c.flights c.regs
  { c with regs := p.1, flights := p.2 }
/-- Lands every result in flight (R64, R338). -/
def Ctx.landAll (c : Ctx) : Ctx :=
  { c with regs := c.flights.foldl (fun r f => r.land f.w) c.regs, flights := [] }
/-- Adds a result that lands `l` cycles after `clk`. -/
def Ctx.fly (c : Ctx) (clk l : Nat) (w : Write) : Ctx :=
  { c with flights := insertFlight ⟨clk + l, w⟩ c.flights }

/-- Extends the bytes of a load to its queue entries (R190). -/
def loadEntries (f : LoadForm) (v : Nat) : List Word :=
  match f with
  | .zext n => [BitVec.ofNat 32 (v % 256 ^ n)]
  | .sext n => [BitVec.ofInt 32 (sextN (8 * n) v)]
  | .w32 => [BitVec.ofNat 32 v]
  | .w64 => [BitVec.ofNat 32 v, BitVec.ofNat 32 (v / 2 ^ 32)]
  | .elem _ => [BitVec.ofNat 32 v]

/-- Bits of an element of a descriptor format (R75). -/
def fmtBits (f : Nat) : Nat :=
  match f with
  | 0 => 32 | 1 => 16 | 2 => 16 | 3 => 8 | 4 => 8 | 5 => 8 | 6 => 8 | 7 => 16 | 8 => 16 | _ => 32
/-- Bytes of an element. -/
def fmtBytes (f : Nat) : Nat := fmtBits f / 8
/-- Signed integer format (R75). -/
def fmtSigned (f : Nat) : Bool := f == 5 || f == 7 || f == 9
/-- put(T, v) of R156: the lane that holds an element: sign extension of signed integers, else zero extension. -/
def putElem (f v : Nat) : Word :=
  if fmtSigned f then BitVec.ofInt 32 (sextN (fmtBits f) v) else BitVec.ofNat 32 (v % 2 ^ fmtBits f)

/-- The entries that a load reads when it is performed now, if it can be (a load of this module). -/
def State.loadNow (s : State) : ProdSrc → Option (List Word)
  | .mem pa n (.elem f) => some [putElem f (s.readPa pa n)]
  | .mem pa n f => some (loadEntries f (s.readPa pa n))
  | .known ws => some ws
  | .poisoned _ ws => some ws
  | .extent w => some [w]
  | _ => none

/-- The lanes of a global `LDV`, read now (R201). -/
def State.lanesNow (s : State) (f : Nat) (ls : List LaneSrc) : VecReg :=
  ofLanes fun i =>
    match ls.getD i .off with
    | .off => 0
    | .val w => w
    | .mem pa => putElem f (s.readPa pa (fmtBytes f))
    | .span _ _ => 0
    | .poisoned _ w => w

/-- Byte `k` of a number replaced. -/
def setByteOf (v : Nat) (b : Nat × Nat) : Nat := v - v / 256 ^ b.1 % 256 * 256 ^ b.1 + b.2 % 256 * 256 ^ b.1
/-- The bytes that another module has answered, with the stream's own stores over them (R192, R259). -/
def overlay (v : Nat) (own : List (Nat × Nat)) : Nat := own.foldl setByteOf v

/-- The stream reads the lanes of a global `LDV` that this module holds (R253). -/
def State.readLanes (s : State) (o : Ledger) (n : Nat) (acq : Option Nat) (ldc : Bool) : List LaneSrc → Ledger
  | [] => o
  | .mem pa :: t => s.readLanes (s.reads o pa n acq ldc) n acq ldc t
  | _ :: t => s.readLanes o n acq ldc t
/-- Performs a load of this module early, keeping its value (R192 to R194, R347). -/
def State.perform (s : State) (o : Ledger) (p : Producer) : Ledger × Producer :=
  match p.src with
  | .lanes f ls => (s.readLanes o (fmtBytes f) p.scope p.ldc ls,
      { p with src := .lanes f (ls.map fun l =>
          match l with
          | .mem pa =>
            let w := putElem f (s.readPa pa (fmtBytes f))
            if s.badAt pa (fmtBytes f) then .poisoned pa w else .val w
          | l => l) })
  | .mem pa n f =>
    let ws := (s.loadNow (.mem pa n f)).getD []
    (s.reads o pa n p.scope p.ldc, { p with src := if s.badAt pa n then .poisoned pa ws else .known ws })
  | _ => (o, p)

/-- The source reads some of the `n` bytes from `pa`. -/
def ProdSrc.meets (p : ProdSrc) (pa n : Nat) : Bool :=
  let ov (a k : Nat) : Bool := decide (a < pa + n) && decide (pa < a + k)
  match p with
  | .mem a k _ => ov a k
  | .lanes f ls => ls.any fun l => match l with
      | .mem a => ov a (fmtBytes f)
      | _ => false
  | _ => false

/-- Performs the loads of a list that `sel` names. -/
def State.performAll (s : State) (sel : Producer → Bool) : List Producer → Ledger → Ledger × List Producer
  | [], o => (o, [])
  | p :: t, o =>
    let r := if sel p then s.perform o p else (o, p)
    let x := s.performAll sel t r.1
    (x.1, r.2 :: x.2)
/-- Performs every load of the stream that is not yet performed and that `sel` names. -/
def State.capture (s : State) (c : Ctx) (sel : Producer → Bool) : Ctx :=
  let r := s.performAll sel c.prods c.ord
  { c with prods := r.2, ord := r.1 }
/-- Performs the earlier loads that read a byte about to be written (R192). -/
def State.captureFor (s : State) (c : Ctx) (pa n : Nat) : Ctx := s.capture c fun p => p.src.meets pa n
/-- Performs every earlier load (a release, R194). -/
def State.captureAll (s : State) (c : Ctx) : Ctx := s.capture c fun _ => true
/-- Performs every earlier `LDC` (R193). -/
def State.captureLdc (s : State) (c : Ctx) : Ctx := s.capture c fun p => p.ldc

/-- Delivers entries to the positions of a scalar producer (R55). -/
def fillFrom (q : Queue Word) (pos : Nat) (t : Bool) : List Word → Queue Word
  | [] => q
  | w :: ws => fillFrom (q.fill pos w t) (pos + 1) t ws

/-- Delivers producer `k` of the stream with the given entries (scalar) or lanes (vector). -/
def Ctx.deliver (c : Ctx) (k : Nat) (ws : List Word) (v : VecReg) : Ctx :=
  match c.prods[k]? with
  | none => c
  | some p =>
    let r := if p.vec then c.regs.setVq p.q ((c.regs.getVq p.q).fill p.pos v p.taint)
      else c.regs.setQ p.q (fillFrom (c.regs.getQ p.q) p.pos p.taint (ws.take p.cnt))
    { c with regs := r, prods := c.prods.eraseIdx k }

/-- An acquire is outstanding: later memory accesses and pushes wait (R194). -/
def Ctx.acqOpen (c : Ctx) : Bool := c.prods.any (·.acq)
/-- The source is the status of a chain (R216). -/
def ProdSrc.isChain : ProdSrc → Bool
  | .chain _ => true
  | _ => false
/-- The source waits for another module. -/
def ProdSrc.isSpan : ProdSrc → Bool
  | .span _ _ _ => true
  | .lanes _ ls => ls.any fun l => match l with
      | .span _ _ => true
      | _ => false
  | _ => false
/-- The source waits for the confirmation of the stream's own record (R304). -/
def ProdSrc.isExtent : ProdSrc → Bool
  | .extent _ => true
  | _ => false
/-- A load of another module is on its way: it is not performed yet (R194). -/
def Ctx.remoteOpen (c : Ctx) : Bool := c.prods.any (·.src.isSpan)

/-- The address of an uncorrectable error that the source reads, or has read (R402). -/
def ProdSrc.badSpot (s : State) : ProdSrc → Option Nat
  | .mem pa n _ => if s.badAt pa n then some pa else none
  | .poisoned pa _ => some pa
  | .lanes f ls => ls.findSome? fun l => match l with
      | .mem pa => if s.badAt pa (fmtBytes f) then some pa else none
      | .poisoned pa _ => some pa
      | _ => none
  | _ => none
/-- Delivers producer `k`, whose value this module gives now; an uncorrectable error is counted, and the machine-check abort is
due (R55, R402). -/
def State.giveNow (s : State) (c : Ctx) (k : Nat) (p : Producer) : State × Ctx :=
  let c := { c with ord := (s.perform c.ord p).1 }
  let c := match p.src with
    | .lanes f ls => c.deliver k [] (s.lanesNow f ls)
    | src => c.deliver k ((s.loadNow src).getD []) 0
  match p.src.badSpot s with
  | some pa => (s.uecc pa, { c with check := true })
  | none => (s, c)
/-- Delivers, in order, the producers that `sel` names among those whose value this module gives now: all but chain statuses,
remote loads and extents not yet confirmed. -/
def State.deliverSome (s : State) (sel : Producer → Bool) : Nat → Ctx → State × Ctx
  | 0, c => (s, c)
  | n + 1, c =>
    match c.prods.findIdx? fun p => !p.src.isChain && !p.src.isSpan && !p.src.isExtent && sel p with
    | none => (s, c)
    | some k =>
      match c.prods[k]? with
      | none => (s, c)
      | some p =>
        let r := s.giveNow c k p
        r.1.deliverSome sel n r.2
/-- Delivers every producer whose value this module gives (R45, R347). -/
def State.deliverLocal (s : State) (n : Nat) (c : Ctx) : State × Ctx := s.deliverSome (fun _ => true) n c

end Sys2Proof.Machine
end

