-- ==== Sys2Proof/Machine/Float.lean ====
section
/-! DEFINITION. Number formats and rounding (R106 to R117): exact values, the one rounding function, conversions. A
format is named by its descriptor code (R75); 11 stands for XF96. -/

namespace Sys2Proof.Machine

/-- A floating-point format (R106): exponent bits, fraction bits, bias, largest significand and its exponent. -/
structure FForm where
  eb : Nat
  fb : Nat
  bias : Nat
  top : Nat
  emax : Nat
  deriving DecidableEq, Repr

/-- Code of XF96. -/
def xf96 : Nat := 11
/-- The format of a code (R106). -/
def fform (c : Nat) : FForm :=
  match c with
  | 0 => ⟨8, 23, 127, 2 ^ 24 - 1, 127⟩
  | 1 => ⟨5, 10, 15, 2 ^ 11 - 1, 15⟩
  | 2 => ⟨8, 7, 127, 2 ^ 8 - 1, 127⟩
  | 3 => ⟨4, 3, 7, 14, 8⟩
  | 4 => ⟨5, 2, 15, 7, 15⟩
  | _ => ⟨15, 80, 16383, 2 ^ 81 - 1, 16383⟩
/-- The code names a floating-point format. -/
def isFloat (c : Nat) : Bool := decide (c ≤ 4) || c == xf96
/-- Bits of an element of a format, XF96 and INT96 included. -/
def widthOf (c : Nat) : Nat := if c = xf96 then 96 else fmtBits c

/-- Rounding modes (R87, R112). -/
inductive RMode where
  | rne | rtz | rdn | rup
  deriving DecidableEq, Repr
/-- The mode of a code (R87). -/
def rmode (c : Nat) : RMode :=
  match c with
  | 0 => .rne | 1 => .rtz | 2 => .rdn | _ => .rup

/-- An exact value: NaN, an infinity, or sign · m · 2^e, a zero having its sign (R115). -/
inductive Val where
  | nan
  | inf (neg : Bool)
  | fin (neg : Bool) (m : Nat) (e : Int)
  deriving DecidableEq, Repr

/-- The value of an encoding (R106, R107). -/
def decodeVal (c bits : Nat) : Val :=
  let f := fform c
  let neg := bits / 2 ^ (f.eb + f.fb) % 2 == 1
  let e := bits / 2 ^ f.fb % 2 ^ f.eb
  let fr := bits % 2 ^ f.fb
  if c = 3 then
    if e = 15 ∧ fr = 7 then .nan
    else if e = 0 then .fin neg fr (1 - f.bias - f.fb)
    else .fin neg (2 ^ f.fb + fr) ((e : Int) - f.bias - f.fb)
  else if e = 2 ^ f.eb - 1 then (if fr = 0 then .inf neg else .nan)
  else if e = 0 then .fin neg fr (1 - f.bias - f.fb)
  else .fin neg (2 ^ f.fb + fr) ((e : Int) - f.bias - f.fb)

/-- Canonical NaN (R107). -/
def canonNan (c : Nat) : Nat :=
  match c with
  | 0 => 0x7FC0_0000
  | 1 => 0x7E00
  | 2 => 0x7FC0
  | 3 => 0x7F
  | 4 => 0x7E
  | _ => 0x7FFF_8000_0000_0000_0000_0000
/-- Sign bit of a format. -/
def signBit (c : Nat) (neg : Bool) : Nat := if neg then 2 ^ ((fform c).eb + (fform c).fb) else 0
/-- Encoding of an infinity; E4M3 follows R114. -/
def infBits (c : Nat) (neg ovf : Bool) : Nat :=
  if c = 3 then (if ovf then 0x7F else 0x7E + signBit 3 neg)
  else (2 ^ (fform c).eb - 1) * 2 ^ (fform c).fb + signBit c neg
/-- Encoding of the largest finite magnitude. -/
def maxBits (c : Nat) (neg : Bool) : Nat :=
  if c = 3 then 0x7E + signBit 3 neg
  else (2 ^ (fform c).eb - 1) * 2 ^ (fform c).fb - 1 + signBit c neg
/-- The overflow result (R113, R114). -/
def overflowBits (c : Nat) (neg : Bool) (mode : RMode) (ovf : Bool) : Nat :=
  if c = 3 then infBits 3 neg ovf
  else match mode with
    | .rne => infBits c neg false
    | .rtz => maxBits c neg
    | .rdn => if neg then infBits c true false else maxBits c false
    | .rup => if neg then maxBits c true else infBits c false false

/-- Rounds `m` / 2^sh to an integer under a mode: the magnitude of a number with sign `neg` (R112). -/
def roundShift (mode : RMode) (neg : Bool) (m sh : Nat) : Nat :=
  let k := m / 2 ^ sh
  let rem := m % 2 ^ sh
  let up := match mode with
    | .rne => decide (2 ^ sh < 2 * rem) || (decide (2 ^ sh = 2 * rem) && k % 2 == 1)
    | .rtz => false
    | .rdn => neg && rem != 0
    | .rup => !neg && rem != 0
  if up then k + 1 else k

/-- round_fp of a finite nonzero magnitude m · 2^e (R112). -/
def roundFin (c : Nat) (mode : RMode) (ovf neg : Bool) (m : Nat) (e : Int) : Nat :=
  let f := fform c
  let q : Int := max ((Nat.log2 m : Int) + e) (1 - f.bias)
  let u : Int := q - f.fb
  let k := if u ≤ e then m * 2 ^ (e - u).toNat else roundShift mode neg m (u - e).toNat
  let maxU : Int := (f.emax : Int) - f.fb
  if maxU ≤ u ∧ f.top < k * 2 ^ (u - maxU).toNat then overflowBits c neg mode ovf
  else ((u + f.fb + f.bias) * 2 ^ f.fb + k - 2 ^ f.fb).toNat + signBit c neg

/-- round_fp (R112). -/
def roundFp (c : Nat) (mode : RMode) (ovf : Bool) : Val → Nat
  | .nan => canonNan c
  | .inf neg => infBits c neg ovf
  | .fin neg m e => if m = 0 then signBit c neg else roundFin c mode ovf neg m e

/-- The encoding is a nonzero subnormal. -/
def isSub (c bits : Nat) : Bool := bits / 2 ^ (fform c).fb % 2 ^ (fform c).eb == 0 && bits % 2 ^ (fform c).fb != 0
/-- The encoding with its magnitude cleared if it is subnormal and flush is selected (R116). -/
def flushBits (c : Nat) (fz : Bool) (bits : Nat) : Nat :=
  if fz && isSub c bits then bits / 2 ^ ((fform c).eb + (fform c).fb) % 2 * 2 ^ ((fform c).eb + (fform c).fb) else bits
/-- fin of R163: the value of an element as a floating-point operation reads it. -/
def finVal (c : Nat) (fz : Bool) (bits : Nat) : Val := decodeVal c (flushBits c fz (bits % 2 ^ widthOf c))
/-- fout of R163. -/
def fout (c : Nat) (mode : RMode) (fz : Bool) (v : Val) : Nat := flushBits c fz (roundFp c mode false v)

/-- Negation. -/
def Val.negate : Val → Val
  | .nan => .nan
  | .inf n => .inf !n
  | .fin n m e => .fin (!n) m e
/-- The value is NaN. -/
def Val.isNan : Val → Bool
  | .nan => true
  | _ => false
/-- Sign of a value that is not NaN. -/
def Val.sign : Val → Bool
  | .nan => false
  | .inf n => n
  | .fin n _ _ => n
/-- Signed significand aligned at exponent `e0`, at or below the value's exponent. -/
def alignAt (neg : Bool) (m : Nat) (e e0 : Int) : Int :=
  let a : Int := ((m * 2 ^ (e - e0).toNat : Nat) : Int)
  if neg then -a else a

/-- Exact sum with the special values of IEEE 754 and the zero signs of R115. -/
def Val.add (mode : RMode) : Val → Val → Val
  | .nan, _ => .nan
  | _, .nan => .nan
  | .inf a, .inf b => if a = b then .inf a else .nan
  | .inf a, .fin _ _ _ => .inf a
  | .fin _ _ _, .inf b => .inf b
  | .fin n1 m1 e1, .fin n2 m2 e2 =>
    let zs := decide (mode = .rdn)
    if m1 = 0 ∧ m2 = 0 then .fin (if n1 = n2 then n1 else zs) 0 0
    else if m1 = 0 then .fin n2 m2 e2
    else if m2 = 0 then .fin n1 m1 e1
    else
      let e0 := min e1 e2
      let s := alignAt n1 m1 e1 e0 + alignAt n2 m2 e2 e0
      if s = 0 then .fin zs 0 0 else .fin (decide (s < 0)) s.natAbs e0

/-- Exact product with the special values of IEEE 754. -/
def Val.mul : Val → Val → Val
  | .nan, _ => .nan
  | _, .nan => .nan
  | .inf a, .inf b => .inf (a != b)
  | .inf a, .fin b m _ => if m = 0 then .nan else .inf (a != b)
  | .fin a m _, .inf b => if m = 0 then .nan else .inf (a != b)
  | .fin n1 m1 e1, .fin n2 m2 e2 => .fin (n1 != n2) (m1 * m2) (e1 + e2)

/-- `a` is less than `b`, −0 counting as less than +0 (R164); neither is NaN. -/
def Val.below : Val → Val → Bool
  | .nan, _ => false
  | _, .nan => false
  | .inf a, .inf b => a && !b
  | .inf a, .fin _ _ _ => a
  | .fin _ _ _, .inf b => !b
  | .fin n1 m1 e1, .fin n2 m2 e2 =>
    if m1 = 0 ∧ m2 = 0 then n1 && !n2
    else
      let e0 := min e1 e2
      decide (alignAt n1 m1 e1 e0 < alignAt n2 m2 e2 e0)
/-- Numeric equality of R168: −0 equals +0; NaN equals nothing. -/
def Val.eqv : Val → Val → Bool
  | .nan, _ => false
  | _, .nan => false
  | .inf a, .inf b => a == b
  | .inf _, .fin _ _ _ => false
  | .fin _ _ _, .inf _ => false
  | .fin n1 m1 e1, .fin n2 m2 e2 =>
    if m1 = 0 ∧ m2 = 0 then true
    else
      let e0 := min e1 e2
      decide (alignAt n1 m1 e1 e0 = alignAt n2 m2 e2 e0)

/-! ## Integers and conversions -/

/-- ival of R156 for an integer format. -/
def ivalOf (c bits : Nat) : Int :=
  if fmtSigned c then sextN (fmtBits c) bits else ((bits % 2 ^ fmtBits c : Nat) : Int)
/-- Least value of an integer format. -/
def intMin (c : Nat) : Int := if fmtSigned c then -(2 ^ (fmtBits c - 1) : Int) else 0
/-- Greatest value of an integer format. -/
def intMax (c : Nat) : Int := if fmtSigned c then (2 ^ (fmtBits c - 1) : Int) - 1 else (2 ^ fmtBits c : Int) - 1
/-- fit of R156: the bits of the element. -/
def fitInt (c : Nat) (sat : Bool) (y : Int) : Nat :=
  wrapN (fmtBits c) (if sat then max (intMin c) (min (intMax c) y) else y)
/-- An integer as an exact value. -/
def Val.ofInt (x : Int) : Val := .fin (decide (x < 0)) x.natAbs 0
/-- The integer that round_fp gives with ulp 1 (R117). -/
def roundInt (mode : RMode) (neg : Bool) (m : Nat) (e : Int) : Int :=
  let a := if 0 ≤ e then m * 2 ^ e.toNat else roundShift mode neg m (-e).toNat
  if neg then -(a : Int) else a
/-- float → integer of R117. -/
def valToInt (d : Nat) (mode : RMode) (sat : Bool) : Val → Nat
  | .nan => 0
  | .inf neg => wrapN (fmtBits d) (if neg then intMin d else intMax d)
  | .fin neg m e => fitInt d sat (roundInt mode neg m e)
/-- A conversion (R117): from format `c` to format `d`. A float that D represents exactly converts exactly under
round_fp too, so one case covers wider and narrower floats. -/
def convert (c d : Nat) (mode : RMode) (sat ovf fz : Bool) (bits : Nat) : Nat :=
  if isFloat d then
    if isFloat c then flushBits d fz (roundFp d mode ovf (finVal c fz bits))
    else flushBits d fz (roundFp d mode ovf (Val.ofInt (ivalOf c bits)))
  else if isFloat c then valToInt d mode sat (decodeVal c (bits % 2 ^ widthOf c))
  else fitInt d sat (ivalOf c bits)

end Sys2Proof.Machine
end

