-- ==== Sys2Proof/Machine/Translate.lean ====
section
/-! DEFINITION. Address translation (R187, R370 to R377, R383, R407): TLB look-up, the walk, the windows that a die
maps itself, and the accesses that the front end and the engines make through the walk. -/

namespace Sys2Proof.Machine

/-- Kinds of access (R373). -/
inductive Acc where
  | read | write | fetch | both
  deriving DecidableEq, Repr

/-- Number of an access kind in a `Walk`. -/
def Acc.code : Acc → Nat
  | .read => 0 | .write => 1 | .fetch => 2 | .both => 3
/-- Access kind of a number. -/
def Acc.ofCode : Nat → Acc
  | 0 => .read | 1 => .write | 2 => .fetch | _ => .both

/-- What a translation gives. -/
inductive Tr where
  | ok (pa : Nat) | miss | transFault | accFault | paged | noMem (pa : Nat)
  deriving DecidableEq, Repr

/-- The permission bits allow the access (R373). -/
def permits (r w x : Bool) : Acc → Bool
  | .read => r
  | .write => w
  | .fetch => x
  | .both => r && w

/-- A segment task of the ASID reads gather list `g` of the die (R277). -/
def State.ownsGather (s : State) (d asid g : Nat) : Bool :=
  (s.die d).ring.tasks.cells.any fun t =>
    t.2.list == g && ((s.die d).ring.pres.find t.2.pres).any fun p => p.asid == asid
/-- The prologue of the ASID runs on the die (R363). -/
def State.ownsScratch (s : State) (d asid : Nat) : Bool :=
  (s.host.prologues.find d).any fun p =>
    fieldOf (s.host.queues.get GQueue.init p.1).shadow 76 68 == asid
/-- The windows that a die maps by itself: the gather lists of the ASID's segment tasks (read-only, R277) and the image
copy of its prologue (R363). No other ASID reaches them. -/
def State.sysWindow (s : State) (d asid va : Nat) (k : Acc) : Option Tr :=
  let p := s.phys
  let g := p.gatherVa + d * 2 ^ 24
  let c := p.scratchVa + d * 2 ^ 24
  if g ≤ va ∧ va < g + 0xF0_0000 ∧ s.ownsGather d asid ((va - g) / 2048) then
    some (if permits true false false k then .ok (s.dieBase d + p.gatherPa + (va - g)) else .accFault)
  else if c ≤ va ∧ va < c + 0x10_000 ∧ s.ownsScratch d asid then
    some (if permits true true false k then .ok (s.dieBase d + p.scratchPa + (va - c)) else .accFault)
  else none

/-- The entry translates the address. -/
def TlbEntry.covers (e : TlbEntry) (asid va : Nat) : Bool :=
  e.asid == asid && e.va / 2 ^ e.sz == va / 2 ^ e.sz
/-- The physical address that an entry gives. -/
def TlbEntry.addr (e : TlbEntry) (va : Nat) : Nat := e.pa / 2 ^ e.sz * 2 ^ e.sz + va % 2 ^ e.sz

/-- A translated address must lie in memory that exists; span addresses leave the module (R383). -/
def State.checkPa (s : State) (pa : Nat) : Tr :=
  if isSpan pa then (if pa / 2 ^ 44 % 128 = s.ports.moduleNo then .transFault else .ok pa)
  else if (s.homeOf pa).isSome then .ok pa else .noMem pa

/-- The home of a physical address lies outside the partition of the ASID (R407). -/
def State.offPartition (s : State) (asid pa : Nat) : Bool :=
  if isSpan pa then false
  else match s.homeOf pa with
    | some (.dieMem d) => s.partOf d != s.asidPart asid
    | some (.hbm d) => s.partOf d != s.asidPart asid
    | _ => false

/-- Bytes of the sequence range of a sequence record (R319, R320). -/
def seqSpan (b : BitVec 512) : Nat :=
  let tok := 4 * 2 ^ fieldOf b 90 88 * (64 * 2 ^ fieldOf b 92 91)
  let cap := fieldOf b 127 96
  (4 * cap + 65535) / 65536 * 65536 + (fieldOf b 87 80 + 1) * (cap * tok)
/-- The address lies in the sequence range of a sequence of the ASID (R320). -/
def State.inSequence (s : State) (asid va : Nat) : Bool :=
  (List.range 4).any fun k => (s.die (16 + k)).seqTab.cells.any fun r =>
    fieldOf r.2 73 73 == 1 && fieldOf r.2 72 64 == asid && decide (fieldOf r.2 63 0 ≤ va) &&
      decide (va < fieldOf r.2 63 0 + seqSpan r.2)

/-- A translation of kind `k` on die `d` under `asid`: the checks of R187, the die's own windows, then the TLB (R374). -/
def State.translateAny (s : State) (d asid va : Nat) (k : Acc) : Tr :=
  if va / 2 ^ 55 ≠ 0 then .transFault
  else match s.sysWindow d asid va k with
    | some t => t
    | none =>
      match (s.die d).tlb.find? fun e => e.covers asid va && permits e.r e.w e.x k with
      | some e => if s.offPartition asid (e.addr va) then .accFault else s.checkPa (e.addr va)
      | none => .miss

/-- The translation of every access but those of the attention commands: no other path reaches a sequence (R317, log
entry 147). -/
def State.translate (s : State) (d asid va : Nat) (k : Acc) : Tr :=
  if s.inSequence asid va then .accFault else s.translateAny d asid va k

/-- What a walk finds (R373): the entry for the TLB with the address of the leaf, or why there is none. -/
inductive WalkRes where
  | leaf (e : TlbEntry) (entryPa : Nat) (setA : Bool)
  | transFault | accFault | paged | noMem (pa : Nat)
  deriving DecidableEq, Repr

/-- Reserved bits of a table entry are nonzero (R372): bits 7 and [58:52] always, [15:2] of a table. -/
def pteReserved (e : Nat) : Bool :=
  e / 2 ^ 7 % 2 == 1 || e / 2 ^ 52 % 2 ^ 7 != 0 || (e % 4 == 1 && e / 4 % 2 ^ 14 != 0)

/-- The walk of R373 from table `t` at a level: `n` is the number of levels left (3, 2, 1). -/
def State.walkFrom (s : State) (asid va : Nat) (k : Acc) : Nat → Nat → WalkRes
  | 0, _ => .transFault
  | n + 1, t =>
    let sz := 16 + 13 * n
    let epa := t + 8 * (va / 2 ^ sz % 8192)
    if !(s.homeOf epa).isSome then .noMem epa
    else
      let e := s.readPa epa 8
      if e % 2 = 1 && pteReserved e then .transFault
      else if e % 2 = 0 then (if e / 2 ^ 5 % 2 = 1 then .paged else .transFault)
      else if e / 2 % 2 = 1 then
        let addr := e / 2 ^ 16 % 2 ^ 36 * 2 ^ 16
        if addr % 2 ^ sz ≠ 0 then .transFault
        else if isSpan addr && addr / 2 ^ 44 % 128 == s.ports.moduleNo then .transFault
        else
          let r := e / 4 % 2 == 1
          let w := e / 8 % 2 == 1
          let x := e / 16 % 2 == 1
          if !permits r w x k || s.offPartition asid (addr + va % 2 ^ sz) then .accFault
          else .leaf ⟨asid, va / 2 ^ sz * 2 ^ sz, sz, addr, r, w, x⟩ epa (e / 2 ^ 6 % 2 == 0)
      else if n = 0 then .transFault
      else s.walkFrom asid va k n (e / 2 ^ 16 % 2 ^ 36 * 2 ^ 16)

/-- The walk of R373. When v = 0 the N16 reads only v and po (R372). -/
def State.walk (s : State) (asid va : Nat) (k : Acc) : WalkRes :=
  if !s.asidValid asid then .transFault
  else s.walkFrom asid va k 3 (fieldOf (s.asidRec asid) 63 0)

/-- Sets the accessed bit of a leaf, by an atomic at the entry's home (R373). -/
def State.setAccessed (s : State) (epa : Nat) (setA : Bool) : State :=
  if setA then s.rmwPa epa 1 ((s.byteAt epa).toNat ||| 0x40) else s

/-- The page that a walk is for. -/
def Walk.page (w : Walk) : Nat × Nat := (w.asid, w.va / 65536)
/-- A walk for the page would wait (R374): another access of the die waits for the same walk, or 96 walks run. -/
def State.walkBusy (s : State) (d asid va : Nat) : Bool :=
  let l := ((s.die d).walks.map Walk.page).eraseDups
  l.any (· == (asid, va / 65536)) || decide (96 ≤ l.length)

/-- An access that walks at once: the TLB, else the walk, which starts and ends in one step (R374, log entry 157). -/
def State.resolveAny (s : State) (d asid va : Nat) (k : Acc) : State × Tr :=
  match s.translateAny d asid va k with
  | .miss =>
    match s.walk asid va k with
    | .leaf e epa a =>
      let s := s.setAccessed epa a
      let s := s.updDie d fun x => { x with tlb := e :: x.tlb }
      (s, s.checkPa (e.addr va))
    | .transFault => (s, .transFault)
    | .accFault => (s, .accFault)
    | .paged => (s, .paged)
    | .noMem p => (s, .noMem p)
  | t => (s, t)

/-- An access that walks at once, as the scheduler and the ring side make it (R317 as for `translate`). -/
def State.resolve (s : State) (d asid va : Nat) (k : Acc) : State × Tr :=
  if s.inSequence asid va then (s, .accFault) else s.resolveAny d asid va k

/-- An access of the attention commands: a miss whose walk has to wait answers `miss` (R374). -/
def State.resolveKv (s : State) (d asid va : Nat) (k : Acc) : State × Tr :=
  if s.translateAny d asid va k = .miss ∧ s.walkBusy d asid va then (s, .miss) else s.resolveAny d asid va k
/-- An access of the engines and of a handler's frames, likewise (R317 as for `translate`). -/
def State.resolveEng (s : State) (d asid va : Nat) (k : Acc) : State × Tr :=
  if s.inSequence asid va then (s, .accFault) else s.resolveKv d asid va k

/-- Reads `n` bytes that do not cross a page, walking at once. What another module's memory answers is a free value
(log entry 21). -/
def State.readVa (s : State) (d asid va n : Nat) : State × Except Tr Nat :=
  match s.resolve d asid va .read with
  | (s, .ok pa) =>
    if isSpan pa then (s.tick, .ok (Config.spanRead s.free (s.die d).cyc pa % 256 ^ n)) else (s, .ok (s.readPa pa n))
  | (s, t) => (s, .error t)

end Sys2Proof.Machine
end

