-- ==== Sys2Proof/Machine/Report.lean ====
section
/-! DEFINITION. Accesses of the front end, the error records of R362 and R401, and page requests (R378). -/

namespace Sys2Proof.Machine

/-- A translation that keeps nothing (the front end and the host die's units). -/
def State.feResolve (s : State) (asid va : Nat) (k : Acc) : State × Tr :=
  if va / 2 ^ 55 ≠ 0 then (s, .transFault)
  else if s.inSequence asid va then (s, .accFault)
  else match s.walk asid va k with
    | .leaf e epa a => (s.setAccessed epa a, s.checkPa (e.addr va))
    | .transFault => (s, .transFault)
    | .accFault => (s, .accFault)
    | .paged => (s, .paged)
    | .noMem p => (s, .noMem p)

/-- Sends a span message (R384). -/
def State.sendSpan (s : State) (m : SpanMsg) : State :=
  { s with ports := { s.ports with
    nextMsg := s.ports.nextMsg + 1, sent := s.ports.sent.put s.ports.nextMsg m } }
/-- A read of the front end; what another module's memory answers is a free value (log entry 21). -/
def State.feRead (s : State) (asid va n : Nat) : State × Except Tr Nat :=
  match s.feResolve asid va .read with
  | (s, .ok pa) =>
    if isSpan pa then (s.tick, .ok (Config.spanRead s.free 0 pa % 256 ^ n)) else (s, .ok (s.readPa pa n))
  | (s, t) => (s, .error t)

/-- A write of the front end; one to another module is a message (R384). -/
def State.feWrite (s : State) (asid va n v : Nat) : State × Except Tr Unit :=
  match s.feResolve asid va .write with
  | (s, .ok pa) =>
    if isSpan pa then (s.sendSpan ⟨none, asid, none, 20, pa, va, n, 0, v % 256 ^ n, (s.die 0).cyc, 1⟩, .ok ())
    else (s.writePa pa n v, .ok ())
  | (s, t) => (s, .error t)

/-- The error ring of some work (R362): the eslot of its queue, else ring ASID. -/
def State.ringFor (s : State) (queue : Option Nat) (asid : Nat) : Nat :=
  match queue with
  | some q => fieldOf (s.queue q).shadow 127 96 % 512
  | none => asid

/-- Adds 1 to the drops of a ring, saturating (R362). -/
def State.ringDrop (s : State) (n : Nat) : State := s.updHost fun h =>
  let b := h.rings.get 0 n
  let v := fieldOf b 191 160
  { h with rings := h.rings.set 0 n (if v = 0xFFFF_FFFF then b else setField b 191 160 (v + 1)) }

/-- A record is written, with release at sys scope (R362), by the agent that reports for the work of `queue`. -/
def State.recordWrite (s : State) (queue : Option Nat) (asid va v : Nat) : State × Bool :=
  match s.feResolve asid va .write with
  | (s, .ok pa) =>
    let o := (s.reportOrd queue).meet (s.oldsAt pa 32)
    if isSpan pa then
      ((s.sendSpan ⟨none, asid, none, 20, pa, va, 32, 0, v, (s.die 0).cyc, 1⟩).awayWrite pa 32 (o.release 4), true)
    else
      let r := s.writeAs o pa 32 v (o.release 4)
      (r.1.setReportOrd queue r.2, true)
  | (s, _) => (s, false)

/-- Writes a 32-byte record to ring `n` and raises head, or counts a drop (R362, R378). -/
def State.ringPut (s : State) (queue : Option Nat) (n : Nat) (r : BitVec 256) : State :=
  let b := s.host.rings.get 0 n
  let cap := 2 ^ (fieldOf b 67 64 + 4)
  let head := fieldOf b 127 96
  let tail := fieldOf b 159 128
  if (head + 2 ^ 32 - tail) % 2 ^ 32 < cap then
    match s.recordWrite queue (fieldOf b 200 192) (fieldOf b 63 0 + 32 * (head % cap)) r.toNat with
    | (s, true) => s.updHost fun h => { h with rings := h.rings.set 0 n (setField b 127 96 (head + 1)) }
    | (s, false) => s.ringDrop n
  else s.ringDrop n

/-- The record of R362. -/
def errBits (code asid die tile info0 info1 time : Nat) : BitVec 256 :=
  BitVec.ofNat 256 (code % 2 ^ 16 + asid % 2 ^ 9 * 2 ^ 16 + die % 32 * 2 ^ 32 + tile % 32 * 2 ^ 37 +
    info0 % 2 ^ 64 * 2 ^ 64 + info1 % 2 ^ 64 * 2 ^ 128 + time % 2 ^ 64 * 2 ^ 192)

/-- Writes an error record of work of no queue to a ring. -/
def State.errTo (s : State) (ring code asid die tile info0 info1 : Nat) : State :=
  s.ringPut none ring (errBits code asid die tile info0 info1 (s.die die).cyc)

/-- Writes an error record to the supervisor error queue of the work (R362). `tile` is 31 if none. -/
def State.err (s : State) (queue : Option Nat) (code asid die tile info0 info1 : Nat) : State :=
  s.ringPut queue (s.ringFor queue asid) (errBits code asid die tile info0 info1 (s.die die).cyc)

/-- Opens or joins a page request (R378): kind 0 paged out, 1 page pool empty, 2 attention free list empty. All parks on
one page of one ASID share a request; each grow fault writes its own (R379). Answers the request number. -/
def State.pageRequest (s : State) (va asid kind die : Nat) : State × Nat :=
  let page := va / 2 ^ 16 * 2 ^ 16
  match s.host.requests.find? fun r =>
      kind != 2 && r.2.2.1 == asid && r.2.2.2.1 == kind && (if kind = 0 then r.2.1 == page else r.2.2.2.2 == die) with
  | some r => (s, r.1)
  | none =>
    let no := s.host.nextReq
    let s := s.updHost fun h =>
      { h with nextReq := (no + 1) % 2 ^ 32, requests := h.requests ++ [(no, page, asid, kind, die)] }
    let w1 := asid % 512 + kind % 8 * 2 ^ 9 + die % 32 * 2 ^ 12 + no % 2 ^ 32 * 2 ^ 32
    (s.ringPut none 512 (BitVec.ofNat 256 (page % 2 ^ 64 + w1 * 2 ^ 64)), no)

end Sys2Proof.Machine
end

