-- ==== Sys2Proof/Machine/Contexts.lean ====
section
/-! DEFINITION. Request contexts (R40), the tag table (R272, R408), saddles (R275), window buffers (R280), the
retirement of segment tasks (R277) and the skip rule (R278). -/

namespace Sys2Proof.Machine

/-- Physical address of context `n` of a die (R40). -/
def State.ctxPa (s : State) (d n : Nat) : Nat := (s.die d).regs.ctxbase.toNat + 64 * n
/-- A context, as its 64 bytes. -/
def State.ctxOf (s : State) (d n : Nat) : BitVec 512 := BitVec.ofNat 512 (s.readPa (s.ctxPa d n) 64)
/-- Writes a context. -/
def State.setCtx (s : State) (d n : Nat) (b : BitVec 512) : State := s.writePa (s.ctxPa d n) 64 b.toNat
/-- next of a context. -/
def ctxNext (b : BitVec 512) : Nat := fieldOf b 19 0
/-- state of a context: 0 free, 1 waiting, 2 busy, 3 held, 4 done, 5 lost, 6 skipping. -/
def ctxState (b : BitVec 512) : Nat := fieldOf b 23 20
/-- asid of a context. -/
def ctxAsid (b : BitVec 512) : Nat := fieldOf b 32 24
/-- route mask of a context. -/
def ctxRoute (b : BitVec 512) : Nat := fieldOf b 127 64

/-- Saddle depth of a die (R271). -/
def DieRegs.depth (r : DieRegs) : Nat := fieldOf r.rcfg 2 0
/-- Ring size D. -/
def DieRegs.ringSize (r : DieRegs) : Nat := fieldOf r.rcfg 14 4
/-- Ring index d. -/
def DieRegs.ringIdx (r : DieRegs) : Nat := fieldOf r.rcfg 26 16
/-- Rotation length L (R14). -/
def DieRegs.rotLen (r : DieRegs) : Nat := 384 * r.ringSize
/-- Die-local slot σ (R270). -/
def DieRegs.sigma (r : DieRegs) : Nat := r.rslotc.toNat - 384 * r.ringIdx

/-- First entry b of an ASID's tag window (R408). -/
def RingSide.winBase (r : RingSide) (a : Nat) : Nat := fieldOf (r.tagWin.get 0 a) 15 0
/-- Model length N of an ASID (R408). -/
def RingSide.winLen (r : RingSide) (a : Nat) : Nat := fieldOf (r.tagWin.get 0 a) 32 16
/-- The tag-table entry of an ordinal (R272); zero when the ordinal is N or more. -/
def RingSide.entry (r : RingSide) (a n : Nat) : BitVec 256 :=
  if n < r.winLen a then r.tagTab.get 0 (r.winBase a + n) else 0
/-- valid of an entry. -/
def tagValid (e : BitVec 256) : Bool := fieldOf e 128 128 == 1
/-- kind of an entry: independent. -/
def tagIndep (e : BitVec 256) : Bool := fieldOf e 129 129 == 1
/-- fmt of an entry (R272). -/
def tagFmt (e : BitVec 256) : Nat := fieldOf e 141 138
/-- The ordinal is ordered (R274). -/
def RingSide.ordered (r : RingSide) (a n : Nat) : Bool := tagValid (r.entry a n) && !tagIndep (r.entry a n)
/-- succ(n) of R274: the next ordered ordinal, else the smallest one. -/
def RingSide.succ (r : RingSide) (a n : Nat) : Nat :=
  match (List.range (r.winLen a)).find? fun m => decide (n < m) && r.ordered a m with
  | some m => m
  | none => ((List.range (r.winLen a)).find? fun m => r.ordered a m).getD n

/-- rot of a presentation (R269). -/
def Pres.rot (p : Pres) : Nat := fieldOf p.tag 31 0
/-- The saddle has ended or the last formation point has passed, at die-local slot `sg`, whose own formation point is yet to come
if `forming` (R276, R278). -/
def Pres.over (p : Pres) (sg : Nat) (forming : Bool) : Bool :=
  p.ended || decide (p.slot + p.depth < sg + (if forming then 0 else 1))
/-- The formation points of the current slot are yet to come on a die (R276). -/
def State.formingOn (s : State) (d : Nat) : Bool := s.rings.cells.any fun r => r.2.forming && hasNat r.2.dies d

/-- A presentation of (ASID, ordinal) that satisfies a test. -/
def RingSide.findPres (r : RingSide) (a n : Nat) (f : Pres → Bool) : Option (Nat × Pres) :=
  r.pres.cells.find? fun p => p.2.asid == a && p.2.ord == n && !p.2.unclaimed && f p.2

/-- Marks a context as having missed its ordinal (R278). -/
def State.ctxMiss (s : State) (d n rot : Nat) : State :=
  s.setCtx d n (setField (setField (s.ctxOf d n) 23 20 6) 319 288 (rot + 1))

/-- A context returns to waiting with next = `m`, its due presentation being in rotation `due` (R278): it has
missed `m`, or it waits. -/
def State.ctxReturn (s : State) (d n : Nat) (b : BitVec 512) (due : Option (Nat × Pres)) (dueRot : Option Nat) : State :=
  let s := s.setCtx d n b
  let sg := (s.die d).regs.sigma
  match due with
  | some (_, p) =>
    if p.over sg (s.formingOn d) then s.ctxMiss d n p.rot
    else s.updRing d fun r => { r with dues := r.dues.put n (p.ord, p.rot) }
  | none => s.updRing d fun r =>
      { r with dues := match dueRot with
          | some k => r.dues.put n (ctxNext b, k)
          | none => r.dues.del n }

/-- What the retirement of a segment task does to one listed context that is still busy (R277, R278). -/
def State.ctxLeave (s : State) (d : Nat) (p : Pres) (t : SegTask) (n : Nat) (byNext wasSkip : Bool) : State :=
  let b := s.ctxOf d n
  if ctxState b ≠ 2 then s
  else
    let r := (s.die d).ring
    if byNext then
      let m := r.succ p.asid p.ord
      let due := if p.ord < m then p.rot else (p.rot + 1) % 2 ^ 32
      s.ctxReturn d n (setField (setField b 23 20 1) 19 0 m) (r.findPres p.asid m fun x => x.rot == due) (some due)
    else if wasSkip then s.setCtx d n (setField b 23 20 6)
    else
      let first := r.findPres p.asid (ctxNext b) fun x => decide (t.cyc < x.cyc)
      s.ctxReturn d n (setField b 23 20 1) first none

/-- A segment task retires (R277): each listed context that is still busy is changed; its gather list is free; a later task
that lists the same context acquires what it carries. -/
def State.segTaskRetire (s : State) (d k : Nat) : State :=
  match (s.die d).ring.tasks.find k with
  | none => s
  | some t =>
    match (s.die d).ring.pres.find t.pres with
    | none => s.updRing d fun r => { r with tasks := r.tasks.del k }
    | some p =>
      let s := t.ctxs.foldl (fun s c => s.ctxLeave d p t c.1 c.2.1 c.2.2) s
      s.updRing d fun r =>
        { r with
          tasks := r.tasks.del k
          carried := if t.out.isEmpty then r.carried
            else t.ctxs.foldl (fun m c => m.set [] c.1 (joinView (m.get [] c.1) t.out)) r.carried }

/-- An `MMA` on `seg` of the presentation stands on the tile, queued or running (R226, R280). -/
def Engines.holdsPres (e : Engines) (k : Nat) : Bool :=
  e.running.any (fun r => r.cmd.pres == some k) || e.restored.any (fun c => c.pres == some k) ||
    e.queues.cells.any fun q => q.2.any fun c => c.pres == some k

/-- Frees the window buffers of ended presentations that no command holds, a drained one included (R226, R280). -/
def State.freeBuffers (s : State) (d t : Nat) : State :=
  let r := (s.die d).ring
  s.updTile d t fun x =>
    { x with held := x.held.filter fun k =>
        match r.pres.find k with
        | some p => !p.ended || x.eng.holdsPres k ||
          (s.instsOn d).any fun i => (i.2.sched.accTile == some t || i.2.sched.seq.map tileOfSeq == some t) &&
            i.2.sched.saved.any (·.pres == some k)
        | none => false }

/-- The saddle of a presentation ends (R275): the contexts that wait for it as their due presentation have missed
it (R278, the early-release miss), and its buffers may free (R280). -/
def State.saddleEnd (s : State) (d k : Nat) : State :=
  match (s.die d).ring.pres.find k with
  | none => s
  | some p =>
    if p.ended then s
    else
      let s := s.updRing d fun r => { r with pres := r.pres.put k { p with ended := true } }
      let missed := (s.die d).ring.dues.cells.filter fun c =>
        !p.unclaimed && c.2 == (p.ord, p.rot) && ctxState (s.ctxOf d c.1) == 1 && ctxAsid (s.ctxOf d c.1) == p.asid &&
          ctxNext (s.ctxOf d c.1) == p.ord
      let s := missed.foldl (fun s c => s.ctxMiss d c.1 p.rot) s
      (List.range 16).foldl (fun s t => s.freeBuffers d t) s

/-- The saddle ends when every block of every segment task of the presentation has retired or executed `SEGDONE`,
with a `SEGDONE` among them (R275). -/
def State.checkSaddle (s : State) (d k : Nat) : State :=
  match (s.die d).ring.pres.find k with
  | none => s
  | some p =>
    if p.segDone && (s.die d).ring.tasks.cells.all (fun t => t.2.pres != k || t.2.undone.isEmpty) then s.saddleEnd d k
    else s

/-- A block of a segment task has retired or been ended (R277, R275). -/
def State.segBlockGone (s : State) (d k uid : Nat) : State :=
  match (s.die d).ring.tasks.find k with
  | none => s
  | some t =>
    let t := { t with live := dropNat t.live uid, undone := dropNat t.undone uid }
    let s := s.updRing d fun r => { r with tasks := r.tasks.put k t }
    let s := s.checkSaddle d t.pres
    if t.live.isEmpty then s.segTaskRetire d k else s

end Sys2Proof.Machine
end

