-- ==== Sys2Proof/Machine/Life.lean ====
section
/-! DEFINITION. The life of instances and records: semaphores (R207 to R210), cohorts (R38, R152), start conditions
(R27 to R33), leases (R213), squash (R43), retirement (R25, R44) and the ending of an instance (R343). -/

namespace Sys2Proof.Machine

/-! ## Start conditions -/

/-- A field of a record's descriptor (R20). -/
def Rec.d (r : Rec) (hi lo : Nat) : Nat := fieldOf r.desc hi lo
/-- A field of a record's image (R24). -/
def Rec.i (r : Rec) (hi lo : Nat) : Nat := fieldOf r.img hi lo
/-- Range declaration `k`: base, length, mode (R20). -/
def Rec.range (r : Rec) (k : Nat) : Nat × Nat × Nat :=
  let v := r.desc.toNat / 2 ^ (384 + 128 * k)
  (v % 2 ^ 64, v / 2 ^ 64 % 2 ^ 32, v / 2 ^ 96 % 4)
/-- The used ranges of a record. -/
def Rec.ranges (r : Rec) : List (Nat × Nat × Nat) := (List.range (r.d 138 136)).map r.range
/-- Two ranges overlap on 64-byte lines and one of them has the write mode (R32). -/
def rangeMeets (x y : Nat × Nat × Nat) : Bool :=
  decide (x.1 / 64 ≤ (y.1 + y.2.1 - 1) / 64) && decide (y.1 / 64 ≤ (x.1 + x.2.1 - 1) / 64) &&
    (x.2.2 / 2 == 1 || y.2.2 / 2 == 1)
/-- Two records conflict (R32). -/
def recMeets (x y : Rec) : Bool := x.ranges.any fun a => y.ranges.any fun b => rangeMeets a b
/-- Range dependences hold: every earlier conflicting record of the ordered queue has retired or been ended (R27, R31). -/
def State.rangeOk (s : State) (d : Nat) (r : Rec) : Bool :=
  (s.die d).sch.recs.cells.all fun p =>
    p.2.retired || p.2.ended || p.2.d 142 139 != r.d 142 139 || decide (r.order ≤ p.2.order) || !recMeets p.2 r
/-- The handles named in bufh. -/
def Rec.handles (r : Rec) : List Nat := (List.range (r.d 135 133)).map fun k => r.d (271 + 16 * k) (256 + 16 * k)
/-- The allocation of a handle of an ASID on a die, with its tile. -/
def State.allocOf (s : State) (d asid h : Nat) : Option (Nat × Alloc) :=
  (List.range (tilesOf d)).findSome? fun t =>
    ((s.tile d t).allocs.find? fun a => a.asid == asid && a.handle == h).map (t, ·)
/-- The buffer is resident (R29). -/
def State.resident (s : State) (d asid h : Nat) : Bool :=
  match s.allocOf d asid h with
  | some (_, a) => a.written && a.writers == 0
  | none => false
/-- Value of a semaphore. -/
def State.sem (s : State) (d t i : Nat) : Word := (s.tile d t).sems.get 0 i
/-- Every start condition of the record holds (R27). -/
def State.recReady (s : State) (d : Nat) (r : Rec) : Bool :=
  s.rangeOk d r && r.ctr == 0 && (r.d 131 131 == 0 || decide (r.d 255 224 ≤ (s.sem d (r.d 212 208) (r.d 207 200)).toNat)) && (r.d 132 132 == 0 || r.presOk) &&
    r.handles.all (s.resident d r.asid)

/-- An accepted instance becomes ready, its age being the current cycle (R46); its start acquires its launch and the
retirements that it waited for (R34, R248). -/
def Inst.makeReady (i : Inst) (cyc : Nat) (rels : List Head) : Inst :=
  if i.sched.status = .accepted then
    { i with
      sched := { i.sched with status := .ready, age := cyc, since := cyc, waited := 0 }
      ctx := { i.ctx with ord := { i.ctx.ord with pos := diePos i.who.die }.paired rels } }
  else i

/-- Makes the blocks of a record ready when its conditions hold together (R27, R28, R300). -/
def State.checkRec (s : State) (d n : Nat) : State :=
  match s.recOf d n with
  | none => s
  | some r =>
    if r.started || r.retired || !s.recReady d r then s
    else
      let s := s.setRec d n { r with started := true }
      let cyc := (s.die d).cyc
      r.live.foldl (fun s u => s.updInst u fun i => i.makeReady cyc r.rels) s
/-- Tests the start conditions of every record of a die. -/
def State.checkReady (s : State) (d : Nat) : State :=
  (s.die d).sch.recs.keys.foldl (fun s n => s.checkRec d n) s

/-! ## Semaphores -/

/-- Index of a semaphore reference (R207). -/
def refIdx (w : Word) : Nat := fieldOf w 7 0
/-- Tile of a semaphore reference (R207). -/
def refTile (w : Word) : Nat := fieldOf w 12 8
/-- The reference is good for the ASID on the die (R207). -/
def State.refOk (s : State) (d asid : Nat) (w : Word) : Bool :=
  fieldOf w 31 13 == 0 && decide (refTile w < tilesOf d) && s.inWindow asid (refIdx w)

/-- A blocked instance goes back to its slot when its wait ends (R49), and with it ends that cause for which it may have
been refused a frame (R353); a parked one keeps what was granted (R209). -/
def Inst.endWait (i : Inst) (granted : Wait) : Inst :=
  match i.sched.status with
  | .blocked => { i with sched := { i.sched with status := .resident, wait := .none, noFrame := i.sched.noFrame.filter (· != 0) } }
  | _ => { i with sched := { i.sched with wait := granted } }

/-- The stream acquires releases (R249). -/
def Inst.acquire (i : Inst) (l : List Head) (scope : Nat) : Inst :=
  { i with ctx := { i.ctx with ord := i.ctx.ord.acquire l scope } }
/-- Releases a plain waiter whose threshold the value meets (R209): it acquires the semaphore's releases (R248). -/
def plainWake (t idx : Nat) (v : Word) (heads : List Head) (i : Inst) : Inst :=
  match i.sched.wait with
  | .waits ref thr false =>
    if refTile ref = t ∧ refIdx ref = idx ∧ thr.toNat ≤ v.toNat then
      (i.acquire heads 2).endWait (.waits ref thr true)
    else i
  | _ => i

/-- Grants `.DEC` waiters of a semaphore, oldest first, while the value meets their thresholds (R209). -/
def State.grantDec (s : State) (d t idx : Nat) : Nat → State
  | 0 => s
  | n + 1 =>
    let x := s.tile d t
    match x.decq.find? fun w => w.1 == idx with
    | none => s
    | some w =>
      let v := x.sems.get 0 idx
      if w.2.2.toNat ≤ v.toNat then
        let s := s.setTile d t { x with sems := x.sems.set 0 idx (v - w.2.2), decq := x.decq.erase w }
        let s := s.updInst w.2.1 fun i =>
          let ref : Word := match i.sched.wait with
            | .waitsDec r _ _ => r
            | _ => 0
          let j := (i.acquire (s.semHeads d t idx) 2).endWait (.waitsDec ref w.2.2 true)
          { j with sched := { j.sched with committed := true } }
        s.grantDec d t idx n
      else s

/-- One step of a semaphore that writes `v` (R209): plain waiters and start conditions see `v`, then the grants
subtract. -/
def State.semStep (s : State) (d t idx : Nat) (v : Word) : State :=
  let s := s.updTile d t fun x => { x with sems := x.sems.set 0 idx v }
  let s := (s.instsOn d).foldl (fun s p => s.updInst p.1 (plainWake t idx v (s.semHeads d t idx))) s
  let s := s.checkReady d
  s.grantDec d t idx (s.tile d t).decq.length

/-- An addition to a semaphore (R208). -/
def State.semAdd (s : State) (d t idx n : Nat) : State := s.semStep d t idx (s.sem d t idx + BitVec.ofNat 32 n)

/-! ## Cohorts -/

/-- A cohort. -/
def State.cohort (s : State) (d id : Nat) : Cohort := (s.die d).sch.cohorts.get Cohort.init id
/-- Writes a cohort. -/
def State.setCohort (s : State) (d id : Nat) (c : Cohort) : State :=
  s.updSch d fun x => { x with cohorts := x.cohorts.set Cohort.init id c }
/-- The cohort holds 1024 instances (R38). -/
def Cohort.full (c : Cohort) : Bool := decide (1024 ≤ c.members.length + c.pending.length)
/-- A join (R38). -/
def State.cohortJoin (s : State) (d id u : Nat) : State :=
  let c := s.cohort d id
  let c := if c.members.isEmpty && c.pending.isEmpty then { c with members := [u] } else { c with pending := c.pending ++ [u] }
  (s.setCohort d id c).updInst u fun i => { i with coh := some id }
/-- A leave (R38): a pending joiner cancels its join, also one that left as a member in the same epoch; a member arrives
and leaves. A cohort whose last member leaves with no join pending dissolves at once, though its last barrier would be signalled 24
cycles later; with a join pending the epoch stays open until that signal (DESIGN CHOICE, log entry 158). -/
def State.cohortLeave (s : State) (d u : Nat) : State :=
  match (s.inst u).bind (·.coh) with
  | none => s
  | some id =>
    let c := s.cohort d id
    let c := if hasNat c.pending u then { c with pending := dropNat c.pending u, early := dropNat c.early u }
      else if hasNat c.members u then
        { c with arrived := if hasNat c.arrived u then c.arrived else c.arrived ++ [u], leaving := c.leaving ++ [u],
                 lastAt := (s.die d).cyc }
      else c
    let c := if c.members.all (hasNat c.leaving) && c.pending.isEmpty then Cohort.init else c
    (s.setCohort d id c).updInst u fun i => { i with coh := none }
/-- An arrival by `CBAR` (R38): for the next barrier while the join is pending, else for the current one. It releases
`view` to the barrier's members (R39). -/
def State.cohortArrive (s : State) (d id u : Nat) (view : List Know) : State :=
  let c := s.cohort d id
  let c := { c with view := joinView c.view (narrow 2 view) }
  s.setCohort d id (if hasNat c.pending u then { c with early := c.early ++ [u] }
    else { c with arrived := c.arrived ++ [u], lastAt := (s.die d).cyc })
/-- The cohort byte of a frame (R348). -/
def State.cohortByte (s : State) (u : Nat) (i : Inst) : Nat :=
  match i.coh with
  | none => 0
  | some id =>
    let c := s.cohort i.who.die id
    id + (if hasNat c.members u then 2 ^ 6 else 0) + (if hasNat c.pending u then 2 ^ 7 else 0)
/-- The frame slot `k` of a die (R353), a physical address (log entry 8). -/
def State.frameAt (s : State) (d k : Nat) : Nat := (s.die d).regs.fpool.toNat + 0x4000 * k
/-- The frame of a pending joiner that the hardware parked follows its membership (R348, R352). -/
def State.tellCohort (s : State) (u : Nat) : State :=
  match s.inst u with
  | none => s
  | some i =>
    match i.sched.status, i.sched.frame with
    | .parked, some f => s.writePa (s.frameAt i.who.die f + 0x34) 1 (s.cohortByte u i)
    | _, _ => s
/-- The barrier completes (R38, R39): its members resume, the next epoch forms. -/
def State.cohortComplete (s : State) (d id : Nat) : State :=
  let c := s.cohort d id
  let next := c.members.filter (fun u => !hasNat c.leaving u) ++ c.pending
  let c' : Cohort := ⟨next, [], c.early, [], [], (s.die d).cyc, c.view⟩
  let s := s.setCohort d id (if next.isEmpty then Cohort.init else c')
  let s := c.pending.foldl State.tellCohort s
  c.arrived.foldl (fun s u => s.updInst u fun i =>
    match i.sched.wait with
    | .cbar k false =>
      if k = id ∧ !hasNat c.leaving u then
        { i with ctx := { i.ctx with ord := i.ctx.ord.learn c.view } }.endWait (.cbar k true)
      else i
    | _ => i) s

/-! ## Leases, stacks, slots -/

/-- The tile an instance runs on. -/
def Inst.tileNo (i : Inst) : Nat := tileOfSeq (i.sched.seq.getD 0)

/-- Ends the lease that an instance holds, and its place in the arbitration (R213). -/
def State.endLease (s : State) (d t u : Nat) : State :=
  s.updEng d t fun e =>
    { e with
      lease := (match e.lease with
        | some l => if l.uid = u then (if l.pushed = 0 then none else some { l with ended := true }) else some l
        | none => none)
      asks := e.asks.filter fun a => a.2.1 != u }

/-- Takes an instance out of the resident slot that it holds, if it holds one (R45). -/
def State.leaveSlot (s : State) (u : Nat) (i : Inst) : State :=
  match i.sched.seq with
  | none => s
  | some q => s.updSeq i.who.die q fun x =>
      { x with slots := if x.slots.find i.sched.slot = some u then x.slots.del i.sched.slot else x.slots,
               running := if x.running = some u then none else x.running }

/-- Frees the stack of an instance (R335). -/
def State.freeStack (s : State) (i : Inst) : State :=
  match i.sched.stack with
  | none => s
  | some k => s.updSch i.who.die fun x => { x with stackIds := dropNat x.stackIds k }

/-- Top of stack `k` (R335). -/
def State.stackTop (s : State) (d k : Nat) : Word64 :=
  let r := (s.die d).regs
  r.stkpool + BitVec.ofNat 64 ((k + 1) * r.stksz.toNat)

/-- Frees the frame and accumulator slot of an instance that the hardware parked (R353). -/
def State.freeFrame (s : State) (i : Inst) : State :=
  s.updSch i.who.die fun x =>
    { x with
      frames := (match i.sched.frame with
        | some f => dropNat x.frames f
        | none => x.frames)
      accs := (match i.sched.accSlot with
        | some f => dropNat x.accs f
        | none => x.accs) }

/-- Removes every registration of an instance as a waiter (R206, R299). -/
def State.dropWaiter (s : State) (u : Nat) : State :=
  let s := (List.range 20).foldl (fun s d =>
    if (s.die d).sch.waiters.any (·.uid == u) then
      s.updSch d fun x => { x with waiters := x.waiters.filter (·.uid != u) }
    else s) s
  s.updHost fun h => { h with hostWaiters := h.hostWaiters.filter (·.uid != u) }

/-- Forgets an instance in the die's lists (waits, parks, retries, `.DEC` order). Those that waited by `.DEC` behind it are looked
at again in the next step of the semaphore (DESIGN CHOICE, log entry 166). -/
def State.forget (s : State) (u : Nat) (i : Inst) : State :=
  let d := i.who.die
  let s := s.dropWaiter u
  let s := s.updSch d fun x =>
    { x with retries := x.retries.filter (·.1 != u), parks := x.parks.filter (·.2 != u) }
  let s := s.updDie d fun x => { x with walks := x.walks.filter (·.uid != u) }
  (List.range (tilesOf d)).foldl (fun s t =>
    if (s.tile d t).decq.any (·.2.1 == u) then
      s.updTile d t fun x => { x with decq := x.decq.filter (·.2.1 != u) }
    else s) s

/-! ## Retirement -/

/-- Writes an arena's claimed bit 0 when its record retires (R301). -/
def State.arenaRelease (s : State) (d : Nat) (r : Rec) : State :=
  if r.i 109 109 = 1 ∧ r.i 255 192 ≠ 0 then
    match s.resolve d r.asid (r.i 255 192) .write with
    | (s, .ok pa) => s.writePa (pa + 17) 1 ((s.byteAt (pa + 17)).toNat &&& 0xF7)
    | (s, _) => s
  else s

/-- A record of a packet has retired or been rejected (R361, R365): what its retirement carries goes to the packet's
completion, over edges that count as sys where the packet's waiter is on another module (R260). -/
def State.packetRec (s : State) (r : Rec) (d n : Nat) : State :=
  match r.queue, r.pkt with
  | some q, some no => s.updQueue q fun g =>
      { g with open_ := g.open_.map fun p =>
          if p.key = no then
            { p with
              recs := p.recs.erase (d, n)
              view := joinView p.view (narrow (if fieldOf p.hdr 42 42 = 1 then 4 else 2) r.out) }
          else p }
  | _, _ => s

/-- A lowering of the counter of record `n` by work of ASID `asid` and of a queue (R31): underflow writes record 0x02; an
ended record discards it. -/
def State.lower (s : State) (d n asid : Nat) (queue : Option Nat) : State :=
  match s.recOf d n with
  | none => s.err queue 2 asid d 31 n 0
  | some r =>
    if r.ended then s
    else if r.retired || r.asid != asid || r.ctr == 0 then s.err queue 2 asid d 31 n 0
    else (s.setRec d n { r with ctr := r.ctr - 1 }).checkRec d n

/-- A launch whose cont named record `n` retires: it lowers the counter, and an ended record whose last holder is
gone gives its number back (R31). -/
def State.contRelease (s : State) (d n asid : Nat) (queue : Option Nat) : State :=
  let s := s.lower d n asid queue
  match s.recOf d n with
  | none => s
  | some r =>
    let r := { r with holders := r.holders - 1 }
    if r.ended && r.holders = 0 then s.updSch d fun x => { x with recs := x.recs.del n } else s.setRec d n r

/-- The record may retire (R25, R298): no block is left, a predicted one is confirmed and its tail accepted, and no
unretired launch names it in its cont (R31). -/
def Rec.done (r : Rec) : Bool :=
  !r.retired && !r.ended && r.live.isEmpty && (r.i 109 109 == 0 || r.confirmed) && r.tailDue == 0 && r.holders == 0

/-- The retirement of record `n` is a release at die scope that the blocks of its dependents acquire (R34, R248): the
records that wait for its ranges, and the one that its cont names. -/
def State.carryOn (s : State) (d n : Nat) (r : Rec) : State :=
  if r.out.isEmpty then s
  else s.updSch d fun x =>
    { x with recs := x.recs.mapVals fun k t =>
        if k != n && ((t.d 142 139 == r.d 142 139 && decide (r.order < t.order) && recMeets t r) || r.i 127 112 == k) then
          { t with rels := joinHeads t.rels (headOf (diePos d) 2 r.out) }
        else t }
/-- One record retires (R25): arena, packet, its number, completion signal. -/
def State.retireOne (s : State) (d n : Nat) (r : Rec) : State :=
  let s := (s.carryOn d n r).setRec d n { r with retired := true }
  let s := s.arenaRelease d r
  let s := s.packetRec r d n
  let s := s.updSch d fun x => { x with recs := x.recs.del n }
  if r.i 108 108 = 1 then
    let t := 16 * r.i 110 110 + r.i 99 96
    (s.semRelease d t (r.i 107 100) (headOf (diePos d) 2 r.out)).semAdd d t (r.i 107 100) 1
  else s

/-- A record retires when all its blocks have, and lowers the counter that its cont names; a record without blocks that
this lowering leaves free retires with it. The number bounds the chain of conts. -/
def State.retireChain (s : State) (d : Nat) : Nat → Nat → State
  | 0, _ => s
  | k + 1, n =>
    match s.recOf d n with
    | none => s
    | some r =>
      if !r.done then s
      else
        let s := s.retireOne d n r
        if r.i 127 112 = 0xFFFF then s else (s.contRelease d (r.i 127 112) r.asid r.queue).retireChain d k (r.i 127 112)

/-- A record retires if it may (R25, R298). -/
def State.recRetire (s : State) (d n : Nat) : State := (s.retireChain d 2049 n).checkReady d

/-- An instance is gone for good: slot, lease, cohort, stack, frame, waits; its record or segment task counts it as
retired (R25, R44, R277). -/
def State.gone (s : State) (u : Nat) : State :=
  match s.inst u with
  | none => s
  | some i =>
    let d := i.who.die
    let s := s.endLease d i.tileNo u
    let s := s.cohortLeave d u
    let s := s.leaveSlot u i
    let s := s.freeStack i
    let s := s.freeFrame i
    let s := s.forget u i
    let s := { s with insts := s.insts.del u }
    let s := match i.ex.segTask with
      | some k => s.segBlockGone d k u
      | none => s
    match i.who.recNo with
    | some n => (s.updRec d n fun r => { r with live := dropNat r.live u }).recRetire d n
    | none => s

/-- What record 0x06 tells of an ended instance (R343): `%task` and `%blk`. -/
def Inst.name (i : Inst) : Nat := Config.errInfo 6 [i.who.task.toNat, i.who.blk.toNat]

/-- The posted stores of an ended block that no home has acknowledged hold back the completion for a waiter on another module
(R260). -/
def State.postedLate (s : State) (i : Inst) : State :=
  match i.who.recNo.bind (s.recOf i.who.die) with
  | some r => match r.queue, r.pkt with
    | some q, some no => s.updQueue q fun g =>
        { g with open_ := g.open_.map fun p => if p.key = no then { p with late := p.late ++ i.ctx.posted } else p }
    | _, _ => s
  | none => s
/-- Ends an instance without restart (R343), with its error record 0x06. -/
def State.endInst (s : State) (u : Nat) (cause : Word) (withRecord : Bool) : State :=
  match s.inst u with
  | none => s
  | some i =>
    let s := if withRecord then s.err i.who.queue 6 i.who.asid i.who.die i.tileNo i.name cause.toNat else s
    (s.postedLate i).gone u

/-- The state of R22 for a restart: registers, queues, stacks and taint as at the first instruction. -/
def Inst.fresh (i : Inst) (top : Word64) : Inst :=
  let c := Ctx.init i.ex.entry top
  let r := c.regs
  let r := r.setS 1 i.ex.s1 false
  let r := (r.setS 2 (i.ex.arg2.extractLsb' 0 32) false).setS 3 (i.ex.arg2.extractLsb' 32 32) false
  let r := (r.setS 4 (i.ex.arg4.extractLsb' 0 32) false).setS 5 (i.ex.arg4.extractLsb' 32 32) false
  { i with
    ctx := { c with regs := r, ord := i.ctx.ord }
    range := { i.range with lo := i.range.lo0, hi := i.range.hi0, steal := true, set := false }
    sched := { i.sched with committed := false, wait := .none, preempt := false, point := false }
    ex := { i.ex with joinDue := i.ex.cohort != 0, segDone := false } }

/-- What an instance sees at its start (R25, R34, R277): the releases that its record's blocks acquire, or what its contexts'
earlier segment tasks carry. A thief starts with the same (R37, R261): each release is paired with its start too. -/
def State.startOrd (s : State) (i : Inst) : Ledger :=
  let o := { Ledger.init with pos := diePos i.who.die }
  let o := match i.who.recNo.bind (s.recOf i.who.die) with
    | some r => o.paired r.rels
    | none => o
  match i.ex.segTask.bind (s.die i.who.die).ring.tasks.find with
  | some t => t.ctxs.foldl (fun o c => o.learn ((s.die i.who.die).ring.carried.get [] c.1)) o
  | none => o
/-- A block of a confirmed predicted record starts with the confirmed extent (R296). -/
def State.startExt (s : State) (i : Inst) : Inst :=
  match i.who.recNo.bind (s.recOf i.who.die) with
  | some r => if i.ex.pred && r.confirmed then { i with who := { i.who with ext := BitVec.ofNat 32 (r.ep + 2 ^ 16) } } else i
  | none => i
/-- Squashes an uncommitted instance (R43, R48, R153): it leaves its slot, its cohort and its lease, and is ready
with its original age (`awaiting` a future if `fut`). -/
def State.squash (s : State) (u : Nat) (fut : Bool) : State :=
  match s.inst u with
  | none => s
  | some i =>
    let d := i.who.die
    let s := s.endLease d i.tileNo u
    let s := s.cohortLeave d u
    let s := s.leaveSlot u i
    let s := s.forget u i
    s.updInst u fun j =>
      let j := (s.startExt j).fresh (match j.sched.stack with
        | some k => s.stackTop d k
        | none => 0)
      { j with sched := { j.sched with status := if fut then .awaiting else .ready, seq := none, noFrame := [], since := (s.die d).cyc } }

/-- A squashed or parked instance is ready again with its original age. -/
def Inst.readyAgain (i : Inst) (cyc : Nat) : Inst :=
  { i with sched := { i.sched with status := .ready, since := cyc } }

end Sys2Proof.Machine
end

