-- ==== Sys2Proof/Machine/Ops.lean ====
section
/-! DEFINITION. The named operations of a sequencer: issuing a word (R62, R92), taking a trap (R336 to R342) and
returning from one (R343), the return and loop bookkeeping of a completed word (R144), memory accesses (R187 to R195)
and the commit point (R42, R297). -/

namespace Sys2Proof.Machine

/-- The instruction stream that a sequencer issues from, with every result due at the issue cycle landed (R62). -/
structure Cur where
  s : State
  uid : Nat
  i : Inst
  q : Nat
  clk : Nat

/-- Die of the stream. -/
def Cur.die (c : Cur) : Nat := c.i.who.die
/-- Tile of the sequencer (R71). -/
def Cur.tile (c : Cur) : Nat := tileOfSeq c.q
/-- Registers as the word reads them. -/
def Cur.regs (c : Cur) : Regs := c.i.ctx.regs
/-- PC of the word. -/
def Cur.pc (c : Cur) : Word64 := c.i.ctx.pc
/-- The ASID of the stream's accesses: `%hasid` in the handler context (R339). -/
def Cur.asid (c : Cur) : Nat :=
  match c.i.who.kind with
  | .handler => fieldOf (c.s.die c.die).regs.hasid 8 0
  | _ => c.i.who.asid
/-- Changes the stream's context. -/
def Cur.mapCtx (c : Cur) (f : Ctx → Ctx) : Cur := { c with i := { c.i with ctx := f c.i.ctx } }
/-- Changes the registers at once. -/
def Cur.mapRegs (c : Cur) (f : Regs → Regs) : Cur := c.mapCtx fun x => { x with regs := f x.regs }
/-- Changes the scheduler's part of the instance. -/
def Cur.mapSched (c : Cur) (f : Sched → Sched) : Cur := { c with i := { c.i with sched := f c.i.sched } }
/-- Changes the module around the stream. -/
def Cur.mapS (c : Cur) (f : State → State) : Cur := { c with s := f c.s }
/-- The state with the stream written back. -/
def Cur.save (c : Cur) : State := c.s.setInst c.uid c.i

/-- The stream that the sequencer in focus runs. -/
def State.cur (s : State) : Option Cur :=
  let x := s.seq s.focus.1 s.focus.2
  match x.running with
  | none => none
  | some u =>
    match s.inst u with
    | none => none
    | some i =>
      let c := i.ctx.landAt x.clk
      some ⟨s, u, { i with ctx := { c with ord := { c.ord with pos := seqKey s.focus.1 s.focus.2 } } }, s.focus.2, x.clk⟩

/-- What a word does, before the cycle and PC bookkeeping. -/
inductive Eff where
  /-- It issues and completes; control goes to the next word (R79, R144). -/
  | ok (c : Cur)
  /-- It issues and transfers control; `point` marks a pre-emption point (R48). -/
  | jump (c : Cur) (pc : Word64) (point : Bool)
  /-- It issues and its effect gives the whole state: the stream has ended, switched or been squashed. -/
  | done (s : State)
  /-- It stays at issue for this cycle (R58, R60). -/
  | stall (c : Cur)
  /-- It takes a fault: code and `%tval` (R337, R338). -/
  | trap (code : Nat) (tval : Word64)
  /-- It takes an abort (R336) on the stream as given. -/
  | abort (c : Cur) (code : Nat)
  /-- It takes the software trap of `TRAP` (R149). -/
  | soft (code : Nat)
  /-- It accesses a physical address behind which nothing exists. -/
  | noMem (pa : Nat)

/-! ## Traps -/

/-- `%cause` (R334). -/
def causeWord (code cls code16 : Nat) : Word := BitVec.ofNat 32 (code + cls * 2 ^ 8 + code16 % 2 ^ 16 * 2 ^ 16)
/-- The cause of a double fault: code 0x43, an abort, from the handler context (R334, R341). -/
def doubleCause : Word := BitVec.ofNat 32 (0x43 + 2 ^ 8 + 2 ^ 10)
/-- The handler context of a sequencer in the instance table. -/
def handlerUid (d q : Nat) : Nat := 2 ^ 40 + seqKey d q

/-- Cancels the prologue of a die with record 0x0A (R364): the packet launches nothing more. -/
def State.prologueCancel (s : State) (d u : Nat) (reason : Nat) : State :=
  match s.host.prologues.find d with
  | none => s.gone u
  | some (qn, no, _) =>
    let asid := fieldOf (s.queue qn).shadow 76 68
    let s := s.err (some qn) 0x0A asid d 31 qn (Config.errInfo 0x0A [reason])
    let s := s.gone u
    let s := s.updHost fun h => { h with prologues := h.prologues.del d }
    s.updQueue qn fun g =>
      { g with open_ := g.open_.map fun p => if p.key = no then { p with ready := true, prologue := false } else p }

/-- Discards the handler context after a trap in it and ends the trapped instance (R341). -/
def State.doubleFault (s : State) (d q : Nat) : State :=
  let x := s.seq d q
  let s := { s with insts := s.insts.del (handlerUid d q) }
  let s := s.setSeq d q { x with running := none, trapped := none }
  match x.trapped with
  | some u => s.endInst u doubleCause true
  | none => s

/-- The handler context at its first instruction (R339). -/
def handlerInst (d q : Nat) (tvec : Word64) (cause : Word) (epc tval : Word64) : Inst :=
  let c := Ctx.init tvec 0
  let r := c.regs.setS 1 cause false
  let r := (r.setS 2 (epc.extractLsb' 0 32) false).setS 3 (epc.extractLsb' 32 32) false
  let r := (r.setS 4 (tval.extractLsb' 0 32) false).setS 5 (tval.extractLsb' 32 32) false
  { who := ⟨.handler, 1, 0, d, 0, 0, 0, 0, none, none, 0⟩
    ctx := { c with regs := r }
    range := ⟨0, 0, false, 0, 0, false⟩
    sched := ⟨.running, some q, 0, 0, 0, 0, false, .none, 0, true, none, none, none, none, false, [], false, false, none, [], none⟩
    coh := none
    ex := ⟨false, false, false, none, none, false, 0, 0, 0, tvec, 0, false, (0, 0), false, 0⟩ }

/-- Taking a trap: the one operation behind every fault, abort and software trap (R338, R339). The results in flight
land; `%cause`, `%epc`, `%tval`, `%eslot` are set and `%eact` reset; after the 8 cycles of a switch the handler
context starts at `%tvec`. With `%tvec` = 0 the instance is ended (R339); a trap in the handler context is a double
fault (R341); a trap in a prologue cancels it (R364). -/
def State.takeTrap (c : Cur) (code cls code16 : Nat) (epc tval : Word64) : State :=
  let c := c.mapCtx fun x => { x.landAll with image := none }
  let s := c.save
  let d := c.die
  let cause := causeWord code cls code16
  match c.i.who.kind with
  | .handler => (s.updSeq d c.q fun x => { x with clk := c.clk + 1 }).doubleFault d c.q
  | .prologue => (s.updSeq d c.q fun x => { x with clk := c.clk + 1 }).prologueCancel d c.uid code
  | _ =>
    if (s.die d).regs.tvec = 0 then
      (s.updSeq d c.q fun x => { x with clk := c.clk + 8 }).endInst c.uid cause true
    else
      let h := handlerUid d c.q
      let s := s.setInst c.uid { c.i with sched := { c.i.sched with status := .trapped } }
      let s := s.endLease d c.tile c.uid
      let s := s.setInst h (handlerInst d c.q (s.die d).regs.tvec cause epc tval)
      s.updSeq d c.q fun x =>
        { x with clk := c.clk + 8, running := some h, trapped := some c.uid, cause := cause, epc := epc, tval := tval,
                 eact := 0, eslot := BitVec.ofNat 32 c.i.sched.slot, ctxsv := none }

/-! ## Completion of a word -/

/-- `instr_len` of the address (R143): 32 where a command word starts, else 8; none while its page is out (R354). The page is walked
if no translation is held. -/
def Cur.instrLen (c : Cur) (a : Word64) : Option Nat :=
  match (c.s.resolve c.die c.asid a.toNat .fetch).2 with
  | .ok pa =>
    let maj := c.s.readPa pa 8 / 2 ^ 36 % 256
    some (if 0xF8 ≤ maj ∧ maj ≤ 0xFB ∧ a.toNat % 32 = 0 then 32 else 8)
  | .paged => none
  | _ => some 8

/-- The loop steps of a word that issued at `at` and did not transfer control (R144): next PC, stack, and whether an
iteration ended. -/
def loopStep (at_ : Word64) (len : Nat) (next : Word64) : List LoopEntry → Word64 × List LoopEntry × Bool
  | [] => (next, [], false)
  | e :: t =>
    if e.stop = at_ then
      if e.count - 1 = 0 then
        let r := loopStep at_ len (e.stop + BitVec.ofNat 64 len) t
        (r.1, r.2.1, true)
      else (e.start, { e with count := e.count - 1 } :: t, true)
    else (next, e :: t, false)

/-- The stream after a word of `len` bytes that did not transfer control. A page for which it could not be parked is no
longer a cause of R353. -/
def Cur.fallThrough (c : Cur) (len : Nat) : Cur :=
  let r := loopStep c.pc len (c.pc + BitVec.ofNat 64 len) c.i.ctx.st.loops
  let c := c.mapCtx fun x => { x with pc := r.1, st := { x.st with loops := r.2.1 }, issued := x.issued + 1 }
  c.mapSched fun x => { x with point := r.2.2, noFrame := x.noFrame.filter (· < 3) }

/-- Writes the stream back and moves the sequencer and the die on by `n` cycles. -/
def Cur.after (c : Cur) (n : Nat) : State :=
  let s := c.save
  let s := s.updSeq c.die c.q fun x => { x with clk := c.clk + n }
  s.advance c.die (c.clk + n)

/-- Bookkeeping of an issued word of `len` bytes (R62, R144, R222, R338). A fault of the word comes before a pending
abort (R342). A `TRAP` that stands at a loop's end address goes on at PC + 8 and does not step the entry (DESIGN CHOICE, log entry
165). -/
def Cur.finish (c : Cur) (len : Nat) : Eff → Host.Outcome State Fault Refusal
  | .trap code tval => .next (State.takeTrap c code 0 0 c.pc tval)
  | .stall c' => .next (c'.after 1)
  | .noMem pa => .fault (.noMemory pa)
  | e =>
    if c.i.ctx.cmdErr then .next (State.takeTrap c 0x40 1 0 c.pc c.pc)
    else if c.i.ctx.check then .next (State.takeTrap c 0x42 1 0 c.pc c.pc)
    else match e with
      | .ok c' => .next ((c'.fallThrough len).after 1)
      | .jump c' pc point =>
        .next (((c'.mapCtx fun x => { x with pc := pc, issued := x.issued + 1 }).mapSched fun x =>
          { x with point := point, noFrame := x.noFrame.filter (· < 3) }).after 1)
      | .done s => .next s
      | .abort c' code => .next (State.takeTrap c' code 1 0 c.pc c.pc)
      | .soft code => .next (State.takeTrap c 0x20 2 code (c.pc + 8) c.pc)
      | .trap code tval => .next (State.takeTrap c code 0 0 c.pc tval)
      | .stall c' => .next (c'.after 1)
      | .noMem pa => .fault (.noMemory pa)

/-- Issues a word. `pro`: its major is one that a prologue may use (R364); `hand`: it is defined in the handler
context (R341). -/
def issueLen (len : Nat) (pro hand : Bool) (s : State) (f : Cur → Eff) : Host.Outcome State Fault Refusal :=
  match s.cur with
  | none => .refused .noInstance
  | some c =>
    match c.i.who.kind with
    | .prologue =>
      if pro then c.finish len (f c)
      else .next ((s.updSeq c.die c.q fun x => { x with clk := c.clk + 1 }).prologueCancel c.die c.uid 1)
    | .handler => if hand then c.finish len (f c) else c.finish len (.trap 1 c.pc)
    | _ => c.finish len (f c)

/-- Issues a control word. -/
def issue (pro hand : Bool) (s : State) (f : Cur → Eff) : Host.Outcome State Fault Refusal := issueLen 8 pro hand s f

/-! ## The commit point -/

/-- The sequencer leaves the stream (R45): while some of its producers are pending, the next instance waits. -/
def leaves (u : Nat) (c : Ctx) : Option Nat := if c.prods.isEmpty then none else some u
/-- Results in flight land, and every producer whose value this module gives delivers (R45, R347). -/
def Cur.deliverAll (c : Cur) : Cur :=
  let r := c.s.deliverLocal c.i.ctx.prods.length c.i.ctx.landAll
  { c with s := r.1, i := { c.i with ctx := r.2 } }
/-- The stream blocks (R45): results land, local producers deliver, and the sequencer is free after the 8-cycle switch and
the delivery of the others. A wait is a pre-emption point (R48). -/
def Cur.block (c : Cur) (w : Wait) : State :=
  let c := c.deliverAll.mapSched fun x => { x with status := .blocked, wait := w, blockedAt := c.clk, point := true }
  let s := c.save.updSeq c.die c.q fun x => { x with clk := c.clk + 8, running := none, slice := c.clk + 8, left := leaves c.uid c.i.ctx }
  (s.endLease c.die c.tile c.uid).advance c.die c.clk

/-- The commit-point stall (R297): an unconfirmed block blocks before the word issues. -/
def commitStall (c : Cur) (e : Eff) : Eff := if c.i.ex.unconf then .done (c.block (.commit false)) else e
/-- The word is a commit point (R42). -/
def Cur.commit (c : Cur) : Cur := c.mapSched fun x => { x with committed := true }

/-! ## Memory accesses -/

/-- The machine-check abort of an access that reads an uncorrectable error (R402). -/
def eccAbort (c : Cur) (pa : Nat) : Eff := .abort (c.mapS fun s => s.uecc pa) 0x42

/-- Holds the word while an acquire is outstanding (R194). -/
def afterAcquire (c : Cur) (k : Eff) : Eff := if c.i.ctx.acqOpen then .stall c else k

/-- Translation and access check of an instruction's access (R60, R187, R373): a miss starts a walk and holds the
word. -/
def access (c : Cur) (va : Word64) (n : Nat) (k : Acc) (f : Nat → Eff) : Eff :=
  if va.toNat % n ≠ 0 then .trap 0x0A va
  else match c.s.translate c.die c.asid va.toNat k with
    | .ok pa => f pa
    | .transFault => .trap 0x0B va
    | .accFault => .trap 0x0C va
    | .noMem pa => .noMem pa
    | _ =>
      if (c.s.die c.die).walks.any (·.uid == c.uid) then .stall c
      else .stall (c.mapS fun s => s.updDie c.die fun x =>
        { x with walks := x.walks ++ [⟨c.asid, va.toNat, k.code, c.uid⟩] })

/-- Bytes of this module, or a free value for another module's (log entry 21). -/
def Cur.readAny (c : Cur) (pa n : Nat) : Nat := if isSpan pa then Config.spanRead c.s.free c.clk pa else c.s.readPa pa n

/-- An access with a tainted address is performed after every earlier `LDC` (R65, R193). -/
def Cur.orderTaint (c : Cur) (t : Bool) : Cur := if t then c.mapCtx fun x => c.s.captureLdc x else c

/-- The message of a stream's span access. -/
def Cur.spanMsg (c : Cur) (va pa n op v : Nat) : SpanMsg :=
  ⟨some c.uid, c.asid, c.i.who.queue, c.die, pa, va, n, op, v, c.clk, 1⟩
/-- The bytes of a store noted one by one. -/
def putBytes (m : FMap Nat) (pa n v : Nat) : FMap Nat := (List.range n).foldl (fun m j => m.put (pa + j) (v / 256 ^ j % 256)) m
/-- Bytes noted no more. -/
def dropBytes (m : FMap Nat) (pa n : Nat) : FMap Nat := (List.range n).foldl (fun m j => m.del (pa + j)) m
/-- Sends a span store to another module (R259, R384): it is posted. -/
def Cur.post (c : Cur) (va pa n v : Nat) (heads : List Head) : Cur :=
  let no := c.s.ports.nextMsg
  (c.mapS fun s => (s.sendSpan (c.spanMsg va pa n 0 v)).awayWrite pa n heads).mapCtx fun x =>
    { x with posted := x.posted ++ [no], away := putBytes x.away pa n v }

/-- What the stream has itself last stored to some of `n` bytes of another module, by byte number: a load of it returns that or
what a later write has left there (R192, R259). -/
def Cur.ownBytes (c : Cur) (pa n : Nat) : List (Nat × Nat) :=
  (List.range n).filterMap fun j => (c.i.ctx.away.find (pa + j)).map fun v => (j, v)

/-- The address lies in the buffer of an error ring (R362); ring 512 is the page-request ring, which the filter keeps firmware from
(R368). -/
def State.inErrorRing (s : State) (pa : Nat) : Bool :=
  s.host.rings.cells.any fun c => c.1 != 512 &&
    let base := fieldOf c.2 63 0
    let size := 2 ^ (fieldOf c.2 67 64 + 9)
    (List.range (size / 65536 + 2)).any fun k =>
      let page := (base / 65536 + k) * 65536
      let va := page + pa % 65536
      decide (base ≤ va) && decide (va < base + size) && (match s.walk (fieldOf c.2 200 192) page .write with
        | .leaf e _ _ => e.addr va == pa
        | _ => false)
/-- The egress filter of firmware (R368): the queue control region, the error rings and the front-end scratch. -/
def State.egress (s : State) (pa : Nat) : Bool :=
  (decide (s.phys.qcBase ≤ pa) && decide (pa < s.phys.qcBase + 0x4_0000)) ||
    ((List.range 20).any fun d => decide (s.dieBase d + s.phys.scratchPa ≤ pa) &&
      decide (pa < s.dieBase d + s.phys.scratchPa + 0x1_0000)) || s.inErrorRing pa
/-- The stream may store there: only firmware is filtered (R368). -/
def Cur.mayStore (c : Cur) (pa : Nat) : Bool := c.i.who.kind != .firmware || c.s.egress pa
/-- A store that the egress filter drops is counted (R368). -/
def Cur.filtered (c : Cur) : Cur := c.mapS fun s => { s with fw := { s.fw with filtered := s.fw.filtered + 1 } }

/-- A write of this module by the stream: earlier loads of the same bytes are performed first (R192), and it heads the
release sequences `heads` (R250). -/
def Cur.write (c : Cur) (pa n v : Nat) (heads : List Head) : Cur :=
  let x := c.s.captureFor c.i.ctx pa n
  let r := c.s.writeAs x.ord pa n v heads
  { c with s := r.1, i := { c.i with ctx := { x with ord := r.2 } } }
/-- Performs a store of the stream (R191, R192) with the release sequences that it heads. -/
def Cur.storeAs (c : Cur) (va pa n v : Nat) (heads : List Head) : Cur :=
  if !c.mayStore pa then c.filtered
  else if isSpan pa then c.post va pa n v heads
  else c.write pa n v heads
/-- A read-modify-write of this module by the stream: the release sequences of the location go on (R250). -/
def Cur.rmw (c : Cur) (pa n v : Nat) (heads : List Head) : Cur := c.write pa n v (joinHeads (c.s.headsAt pa n) heads)
/-- Changes what is carried to the stream. -/
def Cur.mapOrd (c : Cur) (f : Ledger → Ledger) : Cur := c.mapCtx fun x => { x with ord := f x.ord }
/-- The stream reads bytes of this module now: its earlier loads of them are performed first (R253). -/
def Cur.reads (c : Cur) (pa n : Nat) (acq : Option Nat) : Cur :=
  c.mapCtx fun x =>
    let x := c.s.captureFor x pa n
    { x with ord := c.s.reads x.ord pa n acq false }
/-- A plain store of the stream: it heads the sequences of its earlier release fences (R250, R251). -/
def Cur.store (c : Cur) (va pa n v : Nat) : Cur := c.storeAs va pa n v c.i.ctx.ord.rels

/-- A release (R194): every earlier access of the stream is performed, so it waits for the loads of other modules; at sys
scope it also waits for every posted store's acknowledgement, and takes the posted-store abort if one was undeliverable
(R195, R267). -/
def release (c : Cur) (sys : Bool) (k : Cur → Eff) : Eff :=
  if sys && c.i.ctx.undeliv then .abort c 0x41
  else if (sys && !c.i.ctx.posted.isEmpty) || c.i.ctx.remoteOpen then .stall c
  else k (c.mapCtx fun x => c.s.captureAll x)

end Sys2Proof.Machine
end

