-- ==== Sys2Proof/Machine/Flags.lean ====
section
/-! DEFINITION. Predicates: the guard (R67, R68, R127), condition codes (R133) and the writing of a predicate pair
(R66, R133 to R135). The N16 has no flags register: its conditions are predicates. -/

namespace Sys2Proof.Machine

/-- guard(i) of R67. -/
def guardAt (r : Regs) (g : Guard) (i : Nat) : Bool :=
  let b (x : BitVec 4) : Nat := if bitAt (r.getP x.toNat) i then 1 else 0
  bitAt g.tt (4 * b g.pa + 2 * b g.pb + b g.pc)

/-- The lanes in which the guard is true. -/
def guardMask (r : Regs) (g : Guard) : Pred :=
  BitVec.ofNat 64 ((List.range 64).foldl (fun a i => if guardAt r g i then a + 2 ^ i else a) 0)

/-- A scalar, control or command word whose guard(0) is false does nothing (R61, R68). -/
def guarded (c : Cur) (g : Guard) (k : Eff) : Eff := if guardAt c.regs g 0 then k else .ok c

/-- cond_true of R133. -/
def condTrue (cond : Nat) (a b : Word) : Bool :=
  match cond with
  | 0 => a == b
  | 1 => a != b
  | 2 => a.slt b
  | 3 => a.sle b
  | 4 => b.slt a
  | 5 => b.sle a
  | 6 => a.ult b
  | 7 => a.ule b
  | 8 => b.ult a
  | _ => b.ule a

/-- Every lane. -/
def allLanes : Pred := BitVec.allOnes 64

/-- Writes the pair (p2j, p2j+1) at issue + 1 (R66): `v` and its complement in the lanes of the mask. -/
def Cur.putPredPair (c : Cur) (j : Nat) (p0 p1 mask : Pred) (t : Bool) : Cur :=
  c.mapCtx fun x => (x.fly c.clk 1 (.p (2 * j) p0 mask t)).fly c.clk 1 (.p (2 * j + 1) p1 mask t)

end Sys2Proof.Machine
end

