-- ==== Sys2Proof/Machine/Operands.lean ====
section
/-! DEFINITION. Operand forms: reads of scalar registers and queues with their need (R57, R58, R60), pairs (R52),
reads of vector registers and vector queues, and the writing of results (R51, R55, R59, R62). -/

namespace Sys2Proof.Machine

/-- A read of a register field: its number and its keep mark (R57). -/
structure Opnd where
  n : Nat
  keep : Bool

/-- What the reads of a word give: values with taints and the entries taken per queue, or a stall, or an empty
queue (R58). -/
inductive Got (α : Type) where
  | vals (l : List (α × Bool)) (taken : FMap Nat)
  | wait
  | empty

/-- Reads operands in order (R57). `base` is the number of the first queue register. -/
def readOps {α : Type} (reg : Nat → α × Bool) (queue : Nat → Queue α) (base : Nat) :
    List Opnd → FMap Nat → Got α
  | [], taken => .vals [] taken
  | o :: t, taken =>
    if o.n < base then
      match readOps reg queue base t taken with
      | .vals l tk => .vals (reg o.n :: l) tk
      | g => g
    else
      let q := o.n - base
      let k := taken.get 0 q
      match (queue q).items[k]? with
      | none => .empty
      | some e =>
        match readOps reg queue base t (if o.keep then taken else taken.set 0 q (k + 1)) with
        | .vals l tk => match e with
          | some v => .vals (v :: l) tk
          | none => .wait
        | g => g

/-- The scalar reads of a word. -/
def Regs.reads (r : Regs) (ops : List Opnd) : Got Word :=
  readOps (fun n => (r.getS n, r.taintS n)) r.getQ 56 ops .empty
/-- The vector reads of a word. -/
def Regs.readsV (r : Regs) (ops : List Opnd) : Got VecReg :=
  readOps (fun n => (r.getV n, bitAt r.vtaint n)) r.getVq 28 ops .empty

/-- Consumes the entries taken from the scalar queues (R60). -/
def Regs.eat (r : Regs) (taken : FMap Nat) : Regs :=
  taken.cells.foldl (fun r p => r.setQ p.1 ((r.getQ p.1).consume p.2)) r
/-- Consumes the entries taken from the vector queues. -/
def Regs.eatV (r : Regs) (taken : FMap Nat) : Regs :=
  taken.cells.foldl (fun r p => r.setVq p.1 ((r.getVq p.1).consume p.2)) r

/-- A word with scalar operands: stall, queue-empty fault, or its effect on the values. The effect gets the stream
and a function that consumes what was read. -/
def withOps (c : Cur) (ops : List Opnd) (k : List Word → Bool → (Cur → Cur) → Eff) : Eff :=
  match c.regs.reads ops with
  | .wait => .stall c
  | .empty => .trap 4 c.pc
  | .vals l tk => k (l.map (·.1)) (l.any (·.2)) fun x => x.mapRegs fun r => r.eat tk

/-- A word with vector operands. -/
def withVecs (c : Cur) (ops : List Opnd) (k : List VecReg → Bool → (Cur → Cur) → Eff) : Eff :=
  match c.regs.readsV ops with
  | .wait => .stall c
  | .empty => .trap 4 c.pc
  | .vals l tk => k (l.map (·.1)) (l.any (·.2)) fun x => x.mapRegs fun r => r.eatV tk

/-- Is the register a scalar queue (R54). -/
def isQ (n : Nat) : Bool := decide (56 ≤ n)
/-- Is the register a vector queue (R54). -/
def isVq (n : Nat) : Bool := decide (28 ≤ n)

/-- A push of `k` entries to the destination finds room (R59, R190); a register always does. -/
def Cur.room (c : Cur) (dst k : Nat) : Bool :=
  !isQ dst || decide ((c.regs.getQ (dst - 56)).items.length + k ≤ qDepth)
/-- A push to a vector destination finds room. -/
def Cur.roomV (c : Cur) (vd : Nat) : Bool := !isVq vd || decide ((c.regs.getVq (vd - 28)).items.length < vqDepth)

/-- The queue-full fault of R59, or the word's effect. -/
def needRoom (c : Cur) (dst k : Nat) (e : Eff) : Eff := if c.room dst k then e else .trap 5 c.pc
/-- The queue-full fault for a vector destination. -/
def needRoomV (c : Cur) (vd : Nat) (e : Eff) : Eff := if c.roomV vd then e else .trap 5 c.pc

/-- A scalar result of latency `l` (R62); a queue destination is reserved now and filled then (R55). -/
def Cur.putS (c : Cur) (dst l : Nat) (v : Word) (t : Bool) : Cur :=
  if isQ dst then
    let q := c.regs.getQ (dst - 56)
    (c.mapRegs fun r => r.setQ (dst - 56) (q.reserve 1)).mapCtx fun x => x.fly c.clk l (.q (dst - 56) q.tailPos v t)
  else c.mapCtx fun x => x.fly c.clk l (.s dst v t)

/-- A 64-bit result into an even pair: both halves land in one cycle (R52). -/
def Cur.putPair (c : Cur) (dst l : Nat) (v : Word64) (t : Bool) : Cur :=
  c.mapCtx fun x => (x.fly c.clk l (.s dst (v.extractLsb' 0 32) t)).fly c.clk l (.s (dst + 1) (v.extractLsb' 32 32) t)

/-- A vector result of latency `l`: lanes outside the mask keep their value in a register and are zero in a queue
entry (R61, R68). -/
def Cur.putV (c : Cur) (vd l : Nat) (v : VecReg) (mask : Pred) (t : Bool) : Cur :=
  if isVq vd then
    let q := c.regs.getVq (vd - 28)
    (c.mapRegs fun r => r.setVq (vd - 28) (q.reserve 1)).mapCtx fun x =>
      x.fly c.clk l (.vq (vd - 28) q.tailPos (mergeLanes 0 v mask) t)
  else c.mapCtx fun x => x.fly c.clk l (.v vd v mask t)

/-- Reserves `k` positions of queue register `dst` for a variable-latency producer (R55, R56). `scope` is the scope of a
load's acquire (R248), `byTaint` says that its address is tainted (R257). -/
def Cur.produceAs (c : Cur) (dst k : Nat) (src : ProdSrc) (taint acq ldc : Bool) (scope : Option Nat) (byTaint : Bool) :
    Cur :=
  let q := c.regs.getQ (dst - 56)
  (c.mapRegs fun r => r.setQ (dst - 56) (q.reserve k)).mapCtx fun x =>
    { x with prods := x.prods ++ [⟨false, dst - 56, q.tailPos, k, src, taint, acq, ldc, scope, byTaint⟩] }
/-- Reserves positions for a producer that is no acquire of its own. -/
def Cur.produce (c : Cur) (dst k : Nat) (src : ProdSrc) (taint acq ldc : Bool) : Cur :=
  c.produceAs dst k src taint acq ldc none false

/-- Reserves an entry of vector queue `vd` for a global `LDV` (R202). -/
def Cur.produceV (c : Cur) (vd : Nat) (src : ProdSrc) (taint byTaint : Bool) : Cur :=
  let q := c.regs.getVq (vd - 28)
  (c.mapRegs fun r => r.setVq (vd - 28) (q.reserve 1)).mapCtx fun x =>
    { x with prods := x.prods ++ [⟨true, vd - 28, q.tailPos, 1, src, taint, false, false, none, byTaint⟩] }

/-- The operands of an R-format body, in the order a, b, c (R57). -/
def opA (b : RBody) : Opnd := ⟨b.a.toNat, b.ka⟩
/-- Operand b. -/
def opB (b : RBody) : Opnd := ⟨b.b.toNat, b.kb⟩
/-- Operand c. -/
def opC (b : RBody) : Opnd := ⟨b.c.toNat, b.kc⟩
/-- Operand a of an I-format body: a queue is always consumed (R57). -/
def opI (b : IBody) : Opnd := ⟨b.a.toNat, false⟩
/-- sext(imm24) to 32 bits (R84). -/
def imm32 (b : IBody) : Word := b.imm.signExtend 32
/-- sext(imm24) to 64 bits. -/
def imm64 (b : IBody) : Word64 := b.imm.signExtend 64
/-- Element `k` of a list of operand values. -/
def nth (l : List Word) (k : Nat) : Word := l.getD k 0

/-- A scalar word that computes one 32-bit result from scalar operands (R129, R130, R131): guard, need, space, then
the result at issue + `lat`. -/
def scalarOp (s : State) (g : Guard) (ops : List Opnd) (dst lat : Nat) (f : List Word → Word) :
    Host.Outcome State Fault Refusal :=
  issue true true s fun c => guarded c g <| withOps c ops fun l t eat =>
    needRoom c dst 1 (.ok (eat (c.putS dst lat (f l) t)))

/-- The register form with operands a and b. -/
def scalarR2 (s : State) (g : Guard) (b : RBody) (lat : Nat) (f : Word → Word → Word) : Host.Outcome State Fault Refusal :=
  scalarOp s g [opA b, opB b] b.dst.toNat lat fun l => f (nth l 0) (nth l 1)
/-- The register form with operand a alone. -/
def scalarR1 (s : State) (g : Guard) (b : RBody) (lat : Nat) (f : Word → Word) : Host.Outcome State Fault Refusal :=
  scalarOp s g [opA b] b.dst.toNat lat fun l => f (nth l 0)
/-- The immediate form: b is sext(imm24) (R129). -/
def scalarI (s : State) (g : Guard) (b : IBody) (lat : Nat) (f : Word → Word → Word) : Host.Outcome State Fault Refusal :=
  scalarOp s g [opI b] b.dst.toNat lat fun l => f (nth l 0) (imm32 b)

end Sys2Proof.Machine
end

