-- ==== Sys2Proof/Machine/Desc.lean ====
section
/-! DEFINITION. Tensor descriptors and elements (R74 to R78): reading and checking a descriptor, element addresses, and
tile memory. -/

namespace Sys2Proof.Machine

/-- A descriptor from its 64 bytes (R75). -/
def parseDesc (handle va v : Nat) : Desc :=
  let f (hi lo : Nat) : Nat := v / 2 ^ lo % 2 ^ (hi - lo + 1)
  { handle := handle, space := f 1 0, strict := f 2 2 == 1, fmt := f 7 4, ndim := f 9 8 + 1,
    tile := 16 * f 10 10 + f 15 12, scaleh := f 31 16, sbw := f 35 32, skdim := f 36 36, base := f 127 64,
    pad := f 159 128, extent := (List.range 4).map fun k => f (223 + 32 * k) (192 + 32 * k),
    stride := (List.range 4).map fun k => sextN 32 (f (351 + 32 * k) (320 + 32 * k)), va := va }

/-- Extent of dimension `k`. -/
def Desc.ext (d : Desc) (k : Nat) : Nat := d.extent.getD k 0
/-- Stride of dimension `k`. -/
def Desc.str (d : Desc) (k : Nat) : Int := d.stride.getD k 0

/-- The checks of R77 that depend on the descriptor alone. -/
def descWell (v : Nat) (d : Desc) : Bool :=
  v / 8 % 2 == 1 && decide (d.space < 2) && decide (d.fmt < 11) && v / 2 ^ 11 % 2 == 0 && v / 2 ^ 37 % 2 ^ 27 == 0 &&
    v / 2 ^ 448 == 0 && decide (d.sbw ≤ 8) &&
    (List.range 4).all (fun k => if k < d.ndim then d.ext k != 0 else d.ext k == 0 && d.str k == 0) &&
    decide (d.pad < 2 ^ fmtBits d.fmt) && (d.space == 1 || d.tile == 0)

/-- Lowest and one past the highest byte of the elements in bounds (R77). -/
def Desc.footprint (d : Desc) : Int × Int :=
  (List.range d.ndim).foldl (fun a k =>
    let x := (d.ext k - 1 : Int) * d.str k
    if x < 0 then (a.1 + x, a.2) else (a.1, a.2 + x)) ((d.base : Int), (d.base : Int) + (fmtBytes d.fmt : Int))

/-- The checks of R77 that depend on the tile: tile4, the tile, a live allocation of the ASID, the footprint. -/
def State.descTile (s : State) (die tile asid : Nat) (d : Desc) : Bool :=
  d.space != 1 || ((isAtt die || decide (d.tile < 16)) && d.tile == tile &&
    (s.tile die tile).allocs.any fun a => a.asid == asid && a.base == d.base &&
      decide ((a.base : Int) ≤ d.footprint.1) && decide (d.footprint.2 ≤ (a.base + a.size : Nat)))

/-- A descriptor use that passes R77. -/
def State.descOk (s : State) (die tile asid v : Nat) (d : Desc) : Bool := descWell v d && s.descTile die tile asid d

/-- Element `x` lies in bounds (R76). -/
def Desc.inBounds (d : Desc) (x : List Int) : Bool :=
  (List.range d.ndim).all fun k => decide (0 ≤ x.getD k 0) && decide (x.getD k 0 < (d.ext k : Int))
/-- elem_addr of R76, on 64 bits. -/
def Desc.addr (d : Desc) (x : List Int) : Nat :=
  wrapN 64 ((List.range d.ndim).foldl (fun a k => a + x.getD k 0 * d.str k) (d.base : Int))

/-- `n` bytes of tile memory. -/
def Tile.read (t : Tile) (a : Nat) : Nat → Nat
  | 0 => 0
  | n + 1 => (t.mem.get 0 a).toNat + 256 * t.read (a + 1) n
/-- Writes `n` bytes of tile memory. -/
def Tile.write (t : Tile) (a : Nat) : Nat → Nat → Tile
  | 0, _ => t
  | n + 1, v => { t with mem := t.mem.set 0 a (BitVec.ofNat 8 v) }.write (a + 1) n (v / 256)
/-- A read of these bytes of tile memory meets an uncorrectable error (R402). -/
def Tile.badAt (t : Tile) (a n : Nat) : Bool := t.bad.any fun x => decide (a ≤ x) && decide (x < a + n)
/-- Writes tile memory, clearing error marks. -/
def State.tileWrite (s : State) (d t a n v : Nat) : State := s.updTile d t fun x =>
  { (x.write a n v) with bad := x.bad.filter fun y => !(decide (a ≤ y) && decide (y < a + n)) }

/-- Adds `n` to oobw of a descriptor, saturating (R75, R76); `pa` is where the descriptor lies. To a descriptor of another
module goes an atomic addition (log entry 21). -/
def State.addOobw (s : State) (die asid pa n : Nat) : State :=
  if n = 0 then s
  else if isSpan pa then s.sendSpan ⟨none, asid, none, die, pa + 20, 0, 4, 1, n, (s.die die).cyc, 1⟩
  else s.writePa (pa + 20) 4 (Nat.min 0xFFFF_FFFF (s.readPa (pa + 20) 4 + n))

/-- The address of a handle's descriptor (R74). -/
def State.descVa (s : State) (asid h : Nat) : Word64 := BitVec.ofNat 64 (s.asidDtab asid + 64 * h)

/-- An instruction's use of a handle (R77): the descriptor fault, or the effect on the descriptor and the physical
address where it lies. -/
def withDesc (c : Cur) (hreg : Word) (k : Desc → Nat → Eff) : Eff :=
  let h := hreg.toNat % 2 ^ 16
  if h = 0 ∨ h = 0xFFFF then .trap 0x0D c.pc
  else access c (c.s.descVa c.asid h) 64 .read fun pa =>
    if c.s.badAt pa 64 then eccAbort c pa
    else
      let v := c.readAny pa 64
      let d := parseDesc h (c.s.descVa c.asid h).toNat v
      if c.s.descOk c.die c.tile c.asid v d then k d pa else .trap 0x0D c.pc

/-- The descriptor format of a vector type code (R86, R201). -/
def typeFmt (ty : Nat) : Nat :=
  match ty with
  | 0 => 9 | 1 => 10 | 2 => 7 | 3 => 8 | 4 => 5 | 5 => 6 | 6 => 0 | 7 => 2 | 8 => 1 | 9 => 3 | _ => 4

end Sys2Proof.Machine
end

