-- ==== Sys2Proof/WellFormed.lean ====
section
/-! DEFINITION. Which terms of `Instr` are encodings that the tables of R83 to R105 assign: every rule of R91
that depends on the word alone. The decoder refuses a word whose term fails. -/

namespace Sys2Proof

/-- How a 6-bit or 5-bit operand field is used. -/
inductive FieldUse where
  /-- must be zero (R83) -/
  | zero
  /-- a source register that may be a queue and may carry a keep mark (R83) -/
  | src
  /-- a vector source that may be a vector queue and may carry a keep mark (R86) -/
  | vec
  /-- any register, no keep mark -/
  | plain
  /-- an even pair 2 to 54 (R52) -/
  | pair
  /-- a queue register q0 to q7 (R56) -/
  | queue
  /-- only the low three bits (streams, LEAP's shift) -/
  | low3
  /-- only the low four bits (predicates, codes) -/
  | low4
  deriving DecidableEq, Repr

/-- A legal even pair number (R52). -/
def pairOk (n : Nat) : Bool := n % 2 == 0 && decide (2 ≤ n) && decide (n ≤ 54)

/-- The field's value is legal for its use. -/
def fieldOk (u : FieldUse) (n : Nat) : Bool :=
  match u with
  | .zero => n == 0
  | .src => true
  | .vec => true
  | .plain => true
  | .pair => pairOk n
  | .queue => decide (56 ≤ n)
  | .low3 => decide (n < 8)
  | .low4 => decide (n < 16)

/-- A keep bit is legal: clear, or on a source field that names a queue (R83, R86). -/
def keepOk (u : FieldUse) (n : Nat) (keep : Bool) : Bool :=
  !keep || (match u with
    | .src => decide (56 ≤ n)
    | .vec => decide (28 ≤ n)
    | _ => false)

/-- Every field of an R-format body is legal; `m` is the value its modifier must have. -/
def RBody.ok (r : RBody) (dst a b c : FieldUse) (m : Bool) : Bool :=
  fieldOk dst r.dst.toNat && fieldOk a r.a.toNat && fieldOk b r.b.toNat && fieldOk c r.c.toNat &&
  keepOk a r.a.toNat r.ka && keepOk b r.b.toNat r.kb && keepOk c r.c.toNat r.kc && (r.m == m)

/-- How the imm24 field is used (R84, R95 to R97). -/
inductive ImmUse where
  | zero | signed | shift | half | positive | level | cohort | special
  deriving DecidableEq, Repr

/-- Width of a special register in bits, none for a reserved number (R71, R334). -/
def sregWidth (n : Nat) : Option Nat :=
  if n = 0x07 ∨ n = 0x0B ∨ n = 0x0C ∨ n = 0x41 ∨ n = 0x43 ∨ n = 0x44 ∨ n = 0x49 ∨ n = 0x4B ∨ n = 0x4E ∨
      n = 0x4F ∨ n = 0x50 then some 64
  else if n ≤ 0x0F ∨ (0x40 ≤ n ∧ n ≤ 0x52) then some 32
  else none

/-- The immediate is legal for its use. -/
def immOk (u : ImmUse) (imm : BitVec 24) : Bool :=
  match u with
  | .zero => imm.toNat == 0
  | .signed => true
  | .shift => decide (imm.toNat < 32)
  | .half => decide (imm.toNat < 65536)
  | .positive => decide (0 < imm.toInt)
  | .level => decide (imm.toNat < 6)
  | .cohort => decide (1 ≤ imm.toNat) && decide (imm.toNat ≤ 63)
  | .special => (sregWidth imm.toNat).isSome

/-- Every field of an I-format or M-format body is legal. -/
def IBody.ok (i : IBody) (dst a : FieldUse) (imm : ImmUse) : Bool :=
  fieldOk dst i.dst.toNat && fieldOk a i.a.toNat && immOk imm i.imm

/-- `GETS` names a register of the destination's width (R72, R73). -/
def getsOk (i : IBody) : Bool :=
  fieldOk .zero i.a.toNat && (match sregWidth i.imm.toNat with
    | some 64 => pairOk i.dst.toNat
    | some _ => decide (1 ≤ i.dst.toNat)
    | none => false)

/-- `SETS` names a register of the source's width (R72, R73). -/
def setsOk (i : IBody) : Bool :=
  fieldOk .zero i.dst.toNat && (match sregWidth i.imm.toNat with
    | some 64 => pairOk i.a.toNat
    | some _ => true
    | none => false)

/-- Integer element type codes (R86). -/
def tyInt (t : Nat) : Bool := decide (t ≤ 5)
/-- Floating-point element type codes (R86). -/
def tyFloat (t : Nat) : Bool := decide (6 ≤ t) && decide (t ≤ 10)
/-- Width in bits of an element type code (R86, R109). -/
def tyWidth (t : Nat) : Nat :=
  if t = 0 ∨ t = 1 ∨ t = 6 then 32 else if t = 2 ∨ t = 3 ∨ t = 7 ∨ t = 8 then 16 else 8
/-- The types of R161: all but E4M3 and E5M2. -/
def tyArith (t : Nat) : Bool := decide (t ≤ 8)

/-- Fields vd, va, vb, vc and their keep marks are legal. -/
def VBody.fieldsOk (v : VBody) (vd va vb vc : FieldUse) : Bool :=
  fieldOk vd v.vd.toNat && fieldOk va v.va.toNat && fieldOk vb v.vb.toNat && fieldOk vc v.vc.toNat &&
  keepOk va v.va.toNat v.ka && keepOk vb v.vb.toNat v.kb && keepOk vc v.vc.toNat v.kc

/-- The options of a typed result (R87, R159): `sat` where an integer form saturates, rounding and flush for
a floating-point result, `.nan` never. -/
def VBody.arithOpts (v : VBody) (satLegal : Bool) : Bool :=
  let t := v.ty.toNat
  tyArith t && !v.nan &&
  (if tyInt t then v.rnd.toNat == 0 && !v.fz && (satLegal || !v.sat) else !v.sat)

/-- No option at all (whole-lane instructions and vector memory forms). -/
def VBody.noOpts (v : VBody) : Bool := v.rnd.toNat == 0 && !v.sat && !v.nan && !v.fz

/-- Use of vb: a vector in variant 0, a scalar in variant 1. -/
def VBody.vs (v : VBody) : FieldUse := if v.var.toNat = 0 then .vec else .plain

/-- Shifts (R167): count from a vector, a scalar or the vc field. -/
def VBody.shiftOk (v : VBody) (satLegal : Bool) : Bool :=
  let t := v.ty.toNat
  tyInt t && v.rnd.toNat == 0 && !v.nan && !v.fz && (satLegal || !v.sat) &&
  (match v.var.toNat with
    | 0 => v.fieldsOk .plain .vec .vec .zero
    | 1 => v.fieldsOk .plain .vec .plain .zero
    | 2 => v.fieldsOk .plain .vec .zero .plain && decide (v.vc.toNat < tyWidth t)
    | _ => false)

/-- `VCMP` (R168): every type. -/
def VBody.cmpOk (v : VBody) : Bool :=
  let t := v.ty.toNat
  decide (t ≤ 10) && v.rnd.toNat == 0 && !v.sat && !v.nan && (tyFloat t || !v.fz) && decide (v.var.toNat ≤ 1) &&
  v.fieldsOk .plain .vec v.vs .low4 && (v.vd.toNat % 2 == 0) &&
  decide (v.vc.toNat ≤ if tyInt t then 9 else 5)

/-- `VCVT` (R169): destination type in ty, source type in vc. -/
def VBody.cvtOk (v : VBody) : Bool :=
  let d := v.ty.toNat
  let s := v.vc.toNat
  decide (d ≤ 10) && decide (s ≤ 10) && v.fieldsOk .plain .vec .zero .low4 &&
  (if tyInt d then
    v.rnd.toNat == 0 && !v.nan && !v.fz && (if tyFloat s then decide (v.var.toNat ≤ 3) else v.var.toNat == 0)
  else !v.sat && (!v.nan || d == 9) && v.var.toNat == 0)

/-- `VRED` and `VSCAN` (R172, R174). -/
def VBody.redOk (v : VBody) : Bool :=
  v.fieldsOk .plain .vec .zero .zero &&
  (match v.var.toNat with
    | 0 => v.arithOpts true
    | 1 => v.arithOpts false
    | 2 => v.arithOpts false
    | 3 => tyInt v.ty.toNat && v.noOpts
    | 4 => tyInt v.ty.toNat && v.noOpts
    | 5 => tyInt v.ty.toNat && v.noOpts
    | _ => false)

/-- The 22-bit immediate of `CMPI` (R95). -/
def PBody.imm22 (p : PBody) : BitVec 22 := p.b ++ p.rest

/-- `PLOG` leaves no unused bit set (R95). -/
def PBody.plogOk (p : PBody) : Bool :=
  decide (p.a.toNat < 16) && decide (p.b.toNat < 16) && (p.rest.toNat % 256 == 0)

/-- The size, order and fields of `LD` ordered (R98, R194). -/
def ldOrderedOk (r : RBody) (m : MemSpec) : Bool :=
  r.ok .queue .pair .zero .zero false && m.sgn == false && (m.ord == .acq || m.ord == .sc)

/-- The size, order and fields of `ST` ordered (R98, R194). -/
def stOrderedOk (r : RBody) (m : MemSpec) : Bool :=
  r.ok .zero .pair (if m.wide then .pair else .src) .zero false && m.sgn == false && (m.ord == .rel || m.ord == .sc)

/-- `FENCE` has every operand field zero (R98, R194). -/
def fenceOk (r : RBody) (m : MemSpec) : Bool :=
  r.ok .zero .zero .zero .zero false && !m.wide && !m.sgn && m.ord != .rlx

/-- Atomics (R98, R197): 64-bit operands are even pairs; only AMIN and AMAX are signed. -/
def atomicOk (r : RBody) (m : MemSpec) (signed useC : Bool) : Bool :=
  let u : FieldUse := if m.wide then .pair else .src
  r.ok .queue .pair u (if useC then u else .zero) false && (signed || !m.sgn)

/-- One operand of a command: its first field, the number of 16-bit fields it takes, and the limit on an
immediate value (R217, R223). -/
structure CmdOperand where
  field : Nat
  wide : Bool
  lo : Nat
  hi : Nat
  deriving DecidableEq, Repr

/-- The fields of a command word in order. -/
def CmdBody.fields (c : CmdBody) : List Nat :=
  [c.f0.toNat, c.f1.toNat, c.f2.toNat, c.f3.toNat, c.f4.toNat, c.f5.toNat, c.f6.toNat, c.f7.toNat,
   c.f8.toNat, c.f9.toNat, c.f10.toNat]

/-- Field `k`. -/
def CmdBody.field (c : CmdBody) (k : Nat) : Nat := c.fields.getD k 0

/-- The register flag of field `k` (R101). -/
def CmdBody.flag (c : CmdBody) (k : Nat) : Bool := c.rflag.toNat.testBit k

/-- The operand is legal (R102): a register number alone when flagged, else a value within its limits; the
further field of a wide operand carries no flag. -/
def CmdBody.operandOk (c : CmdBody) (o : CmdOperand) : Bool :=
  if o.wide then
    !c.flag (o.field + 1) &&
    (if c.flag o.field then decide (c.field o.field < 64) && c.field (o.field + 1) == 0 else true)
  else if c.flag o.field then decide (c.field o.field < 64)
  else decide (o.lo ≤ c.field o.field) && decide (c.field o.field ≤ o.hi)

/-- Field `k` is not used by the command: zero and not flagged. -/
def CmdBody.unused (c : CmdBody) (k : Nat) : Bool := !c.flag k && c.field k == 0

/-- An operand of one field with its limits. -/
def opnd (k lo hi : Nat) : CmdOperand := ⟨k, false, lo, hi⟩
/-- An operand of two fields. -/
def opnd32 (k : Nat) : CmdOperand := ⟨k, true, 0, 0⟩

/-- Both fields are immediate. -/
def CmdBody.bothImm (c : CmdBody) (j k : Nat) : Bool := !c.flag j && !c.flag k

/-- The mode field `k` is immediate and `p` fails on it. -/
def CmdBody.modeOk (c : CmdBody) (k : Nat) (p : Nat → Bool) : Bool := c.flag k || p (c.field k)

/-- Scope code 3 of a mode field is undefined (R236). -/
def scopeCodeOk (mode : Nat) : Bool := decide (mode / 32 % 4 ≠ 3)

/-- A handle or signed operand: any 16-bit value. -/
def opndAny (k : Nat) : CmdOperand := opnd k 0 65535

/-- `MMA` (R224). An immediate k0 or kn above 2048, or acc0 above 511, which meets the limit with no value of the field that it is
summed with, is refused at decode also where that field comes from a register (DESIGN CHOICE, log entry 163). -/
def mmaOk (c : CmdBody) : Bool :=
  [opndAny 0, opnd 1 0xFFF0 0xFFFF, opndAny 2, opnd 3 1 512, opnd 4 0 2048, opnd 5 32 2048, opnd 6 0 511,
    opnd 7 0 3].all c.operandOk &&
  (c.flag 1 || c.field 1 == 0xFFFF || decide (c.field 1 ≤ 0xFFF3)) &&
  (c.flag 4 || c.field 4 % 32 == 0) && (c.flag 5 || c.field 5 % 32 == 0) &&
  (!c.bothImm 4 5 || decide (c.field 4 + c.field 5 ≤ 2048)) &&
  (!c.bothImm 3 6 || decide (c.field 6 + c.field 3 ≤ 512)) &&
  [8, 9, 10].all c.unused

/-- `XLD` (R233). -/
def xldOk (c : CmdBody) : Bool :=
  [opndAny 0, opndAny 1, opndAny 2, opndAny 3, opndAny 4, opndAny 5, opnd 6 1 256, opnd 7 1 256,
    opnd 8 0 31].all c.operandOk && [9, 10].all c.unused

/-- The row and column limits shared by `ACCRD` and `ACCLD` (R234, R235). An immediate acc0 above 511 or c0 above 255 is refused at
decode whatever the count is, as for `MMA` (log entry 163). -/
def accRangeOk (c : CmdBody) : Bool :=
  [opndAny 0, opnd 1 0 511, opnd 2 1 512, opnd 3 0 255, opnd 4 1 256, opndAny 6, opndAny 7].all c.operandOk &&
  (!c.bothImm 1 2 || decide (c.field 1 + c.field 2 ≤ 512)) &&
  (!c.bothImm 3 4 || decide (c.field 3 + c.field 4 ≤ 256)) && [8, 9, 10].all c.unused

/-- `ACCRD` (R234). -/
def accrdOk (c : CmdBody) : Bool := accRangeOk c && c.operandOk (opnd 5 0 127)
/-- `ACCLD` (R235). -/
def accldOk (c : CmdBody) : Bool := accRangeOk c && c.operandOk (opnd 5 0 1)

/-- `TCOPY` (R236). -/
def tcopyOk (c : CmdBody) : Bool :=
  [opndAny 0, opndAny 1, opndAny 2, opndAny 3, opndAny 4, opndAny 5, opnd 6 1 65535, opnd 7 1 65535,
    opnd 8 0 127, opndAny 9, opndAny 10].all c.operandOk && c.modeOk 8 scopeCodeOk

/-- `TMCAST` (R239). -/
def tmcastOk (c : CmdBody) : Bool :=
  [opndAny 0, opndAny 1, opndAny 2, opndAny 3, opndAny 4, opndAny 5, opnd 6 1 65535, opnd 7 1 65535,
    opnd 8 1 65535].all c.operandOk && [9, 10].all c.unused

/-- `TWIN` (R237). Kp of the format is a check of the push (R221). -/
def twinOk (c : CmdBody) : Bool :=
  [opnd 0 0xFFF0 0xFFF3, opndAny 1, opndAny 2, opndAny 3, opnd 4 1 65535].all c.operandOk &&
  [5, 6, 7, 8, 9, 10].all c.unused

/-- `TFILL` (R241): the mode field holds the scope alone. -/
def tfillOk (c : CmdBody) : Bool :=
  [opndAny 0, opndAny 1, opndAny 2, opnd 3 1 65535, opnd 4 1 65535, opnd32 5, opnd 7 0 127,
    opndAny 8].all c.operandOk && c.modeOk 7 (fun m => scopeCodeOk m && m % 32 == 0) && [9, 10].all c.unused

/-- `SCAT` (R242): rounding and saturation belong to `.add` alone. -/
def scatOk (c : CmdBody) : Bool :=
  [opndAny 0, opndAny 1, opndAny 2, opnd 3 1 65535, opnd 4 1 4096, opnd 5 0 127].all c.operandOk &&
  c.modeOk 5 (fun m => scopeCodeOk m && decide (m % 4 ≠ 3) && (m % 4 == 0 || m / 4 % 8 == 0)) &&
  [6, 7, 8, 9, 10].all c.unused

/-- The mode field of the 0xFB commands (R322): `low` bounds the bits below the scope. -/
def kvModeOk (c : CmdBody) (low : Nat) : Bool :=
  c.operandOk (opnd 10 0 127) && c.modeOk 10 (fun m => scopeCodeOk m && decide (m % 32 ≤ low))

/-- `ATTN` (R322). -/
def attnOk (c : CmdBody) : Bool :=
  [opndAny 0, opndAny 1, opndAny 2, opnd 3 0 255, opnd32 4, opnd32 6, opnd32 8].all c.operandOk && kvModeOk c 4
/-- `KVAPP` (R322). -/
def kvappOk (c : CmdBody) : Bool :=
  [opndAny 0, opndAny 1, opndAny 2, opnd 3 0 255, opnd32 4, opnd32 6, opnd 8 1 64].all c.operandOk &&
  kvModeOk c 0 && c.unused 9
/-- `KVROT` (R322). -/
def kvrotOk (c : CmdBody) : Bool :=
  [opndAny 2, opnd32 4, opnd32 6, opnd32 8].all c.operandOk && kvModeOk c 0 && [0, 1, 3].all c.unused
/-- `KVEVICT` (R322). -/
def kvevictOk (c : CmdBody) : Bool :=
  [opndAny 2, opnd32 4, opnd32 6].all c.operandOk && kvModeOk c 1 && [0, 1, 3, 8, 9].all c.unused

/-- A span request's operand size (R383, R384): at most 256 bytes, atomics of 4 or 8 bytes. -/
def spanReqOk (r : SpanReq) : Bool :=
  decide (r.src < 128) && decide (1 ≤ r.bytes) && decide (r.bytes ≤ 256) &&
  (match r.op with
    | .atomic _ => r.bytes == 4 || r.bytes == 8
    | _ => true)

/-- An access of a core or device: a natural size, aligned (R187). -/
def hostAccessOk (a : HostAccess) : Bool :=
  (a.bytes == 1 || a.bytes == 2 || a.bytes == 4 || a.bytes == 8) && a.addr % a.bytes == 0 && decide (a.addr < 2 ^ 52)

/-- A UET packet names a port, a ring and a fragment that exist (R382, R385). -/
def uetOk (p : UetPacket) : Bool :=
  decide (p.port < 8) && decide (p.ring < 1024) && decide (p.frag < p.frags) && decide (p.key < 4096)

/-- A control field that exists (R357, R371, R383, R385, R403, R413). -/
def ctlRegOk (r : CtlReg) : Bool :=
  match r with
  | .qcbBase q => decide (q < 1024)
  | .qcbLsz q => decide (q < 1024)
  | .qcbAsid q => decide (q < 1024)
  | .qcbEn q => decide (q < 1024)
  | .qcbSup q => decide (q < 1024)
  | .qcbEslot q => decide (q < 1024)
  | .ringBase n => decide (n ≤ 512)
  | .ringLsz n => decide (n ≤ 512)
  | .ringTail n => decide (n ≤ 512)
  | .ringAsid n => decide (n ≤ 512)
  | .asidRecord n => decide (n < 512)
  | .rasCounter b w => decide (b < 21) && decide (w < 10)
  | .powerFloor i => decide (i < 22)
  | .powerCap i => decide (i < 22)
  | .lrBase n => decide (n < 1024)
  | .lrLsz n => decide (n < 1024)
  | .lrPolicy n => decide (n < 1024)
  | .lrAsid n => decide (n < 1024)
  | .lrKey n => decide (n < 1024)
  | .lrEn n => decide (n < 1024)
  | .lrTail n => decide (n < 1024)
  | .lrOvf n => decide (n < 1024)
  | .spanPeer n => decide (n < 128)
  | .poolBase d a => decide (d < 20) && decide (a < 512)
  | .poolCount d a => decide (d < 20) && decide (a < 512)

/-- A ring or attention die (R71). -/
def dieOk (d : Nat) : Bool := decide (d < 20)
/-- A tile of die `d` (R10, R24). -/
def tileOk (d t : Nat) : Bool := dieOk d && decide (t < if d < 16 then 16 else 32)
/-- A sequencer of die `d`, its front-end sequencer included (R71, R363). -/
def seqOk (d q : Nat) : Bool := dieOk d && decide (q ≤ if d < 16 then 64 else 128)

/-- The word, or event, is one that the tables of the spec assign. -/
def Instr.wf : Instr → Bool
  | .add _ b => b.ok .plain .src .src .zero false
  | .sub _ b => b.ok .plain .src .src .zero false
  | .and _ b => b.ok .plain .src .src .zero false
  | .or _ b => b.ok .plain .src .src .zero false
  | .xor _ b => b.ok .plain .src .src .zero false
  | .andn _ b => b.ok .plain .src .src .zero false
  | .shl _ b => b.ok .plain .src .src .zero false
  | .shr _ b => b.ok .plain .src .src .zero false
  | .sra _ b => b.ok .plain .src .src .zero false
  | .rot _ b => b.ok .plain .src .src .zero false
  | .min _ b => b.ok .plain .src .src .zero false
  | .max _ b => b.ok .plain .src .src .zero false
  | .minn _ b => b.ok .plain .src .src .zero false
  | .maxn _ b => b.ok .plain .src .src .zero false
  | .clz _ b => b.ok .plain .src .zero .zero false
  | .popc _ b => b.ok .plain .src .zero .zero false
  | .brev _ b => b.ok .plain .src .zero .zero false
  | .sel _ b => b.ok .plain .src .src .low4 false
  | .mul _ b => b.ok .plain .src .src .zero false
  | .mulh _ b => b.ok .plain .src .src .zero false
  | .mulhn _ b => b.ok .plain .src .src .zero false
  | .div _ b => b.ok .plain .src .src .zero false
  | .divn _ b => b.ok .plain .src .src .zero false
  | .rem _ b => b.ok .plain .src .src .zero false
  | .remn _ b => b.ok .plain .src .src .zero false
  | .addI _ b => b.ok .plain .plain .signed
  | .subI _ b => b.ok .plain .plain .signed
  | .andI _ b => b.ok .plain .plain .signed
  | .orI _ b => b.ok .plain .plain .signed
  | .xorI _ b => b.ok .plain .plain .signed
  | .andnI _ b => b.ok .plain .plain .signed
  | .shlI _ b => b.ok .plain .plain .shift
  | .shrI _ b => b.ok .plain .plain .shift
  | .sraI _ b => b.ok .plain .plain .shift
  | .rotI _ b => b.ok .plain .plain .shift
  | .minI _ b => b.ok .plain .plain .signed
  | .maxI _ b => b.ok .plain .plain .signed
  | .minnI _ b => b.ok .plain .plain .signed
  | .maxnI _ b => b.ok .plain .plain .signed
  | .mulI _ b => b.ok .plain .plain .signed
  | .divI _ b => b.ok .plain .plain .signed
  | .divnI _ b => b.ok .plain .plain .signed
  | .remI _ b => b.ok .plain .plain .signed
  | .remnI _ b => b.ok .plain .plain .signed
  | .movi _ b => b.ok .plain .zero .signed
  | .moviH _ b => b.ok .plain .plain .half
  | .addp _ b => b.ok .pair .pair .src .zero false
  | .leap _ b => b.ok .pair .pair .src .low3 false
  | .addpi _ b => b.ok .pair .pair .signed
  | .cmp _ b => decide (b.cond.toNat ≤ 9) && b.rest.toNat == 0
  | .cmpi _ b => decide (b.cond.toNat ≤ 9)
  | .plog _ b => b.plogOk
  | .pmovPred _ b => b.ok .low4 .low4 .zero .zero false
  | .pmovFromPair _ b => b.ok .low4 .pair .zero .zero false
  | .pmovToPair _ b => b.ok .pair .low4 .zero .zero false
  | .pany _ b => b.ok .plain .low4 .zero .zero false
  | .pall _ b => b.ok .plain .low4 .zero .zero false
  | .pcnt _ b => b.ok .plain .low4 .zero .zero false
  | .plive _ b => b.ok .zero .zero .half
  | .br _ _ => true
  | .bri _ b => b.ok .zero .pair .zero .zero false
  | .call _ _ => true
  | .calli _ b => b.ok .zero .pair .zero .zero false
  | .ret _ b => b.ok .zero .zero .zero .zero false
  | .loop _ b => b.ok .zero .plain .positive
  | .lbrk _ b => b.ok .zero .zero .zero .zero false
  | .lidx _ b => b.ok .plain .zero .level
  | .nop _ b => b.ok .zero .zero .zero
  | .yieldI _ b => b.ok .zero .zero .zero
  | .exit _ b => b.ok .zero .zero .zero
  | .trap _ b => b.ok .zero .zero .half
  | .launch _ b => b.ok .zero .pair .zero
  | .launchP _ b => b.ok .zero .pair .zero
  | .shape _ b => b.ok .queue .pair .zero
  | .ralloc _ b => b.ok .queue .pair .src .zero false
  | .join _ b => b.ok .zero .zero .cohort
  | .leave _ b => b.ok .zero .zero .cohort
  | .cbar _ b => b.ok .zero .zero .cohort
  | .rng _ b => b.ok .queue .zero .zero
  | .rngset _ b => b.ok .zero .src .src .zero false
  | .rngsetSplit _ b => b.ok .zero .src .src .zero true
  | .rsub _ b => b.ok .zero .src .pair .zero false
  | .segdone _ b => b.ok .zero .zero .zero
  | .rtag _ b => b.ok .pair .zero .zero
  | .ldN8 _ b => b.ok .queue .pair .signed
  | .ldI8 _ b => b.ok .queue .pair .signed
  | .ldN16 _ b => b.ok .queue .pair .signed
  | .ldI16 _ b => b.ok .queue .pair .signed
  | .ld32 _ b => b.ok .queue .pair .signed
  | .ld64 _ b => b.ok .queue .pair .signed
  | .st8 _ b => b.ok .plain .pair .signed
  | .st16 _ b => b.ok .plain .pair .signed
  | .st32 _ b => b.ok .plain .pair .signed
  | .st64 _ b => b.ok .pair .pair .signed
  | .ldc32 _ b => b.ok .queue .pair .signed
  | .ldc64 _ b => b.ok .queue .pair .signed
  | .ldOrdered _ b m => ldOrderedOk b m
  | .stOrdered _ b m => stOrderedOk b m
  | .fence _ b m => fenceOk b m
  | .pref _ b => b.ok .zero .pair .signed
  | .aadd _ b m => atomicOk b m false false
  | .aand _ b m => atomicOk b m false false
  | .aor _ b m => atomicOk b m false false
  | .axor _ b m => atomicOk b m false false
  | .amin _ b m => atomicOk b m true false
  | .amax _ b m => atomicOk b m true false
  | .axchg _ b m => atomicOk b m false false
  | .acas _ b m => atomicOk b m false true
  | .ldt _ b => b.ok .queue .src .src .src false
  | .stt _ b => b.ok .plain .src .src .src false
  | .ldv _ b => b.fieldsOk .plain .plain .plain .plain && b.var.toNat == 0 && decide (b.ty.toNat ≤ 10) && b.noOpts
  | .ldvCol _ b => b.fieldsOk .plain .plain .plain .plain && b.var.toNat == 1 && decide (b.ty.toNat ≤ 10) && b.noOpts
  | .ldvIdx _ b => b.fieldsOk .plain .plain .vec .plain && b.var.toNat == 2 && decide (b.ty.toNat ≤ 10) && b.noOpts
  | .stv _ b => b.fieldsOk .plain .plain .plain .plain && b.var.toNat == 0 && decide (b.ty.toNat ≤ 10) && b.noOpts
  | .stvCol _ b => b.fieldsOk .plain .plain .plain .plain && b.var.toNat == 1 && decide (b.ty.toNat ≤ 10) && b.noOpts
  | .stvIdx _ b => b.fieldsOk .plain .plain .vec .plain && b.var.toNat == 2 && decide (b.ty.toNat ≤ 10) && b.noOpts
  | .rdf _ b => b.ok .queue .pair .signed
  | .fill _ b => b.ok .zero .pair .src .zero false
  | .waits _ b => b.ok .zero .src .src .zero false
  | .waitsDec _ b => b.ok .zero .src .src .zero true
  | .sig _ b => b.ok .zero .src .src .zero false
  | .semset _ b => b.ok .zero .src .src .zero false
  | .semrd _ b => b.ok .queue .src .zero .zero false
  | .qcnt _ b => (if b.m then fieldOk .plain b.dst.toNat && decide (b.a.toNat < 4) else fieldOk .plain b.dst.toNat && decide (56 ≤ b.a.toNat)) && !b.ka && !b.kb && !b.kc && b.b.toNat == 0 && b.c.toNat == 0
  | .qdrn _ b => (if b.m then fieldOk .zero b.dst.toNat && decide (b.a.toNat < 4) else fieldOk .zero b.dst.toNat && decide (56 ≤ b.a.toNat)) && !b.ka && !b.kb && !b.kc && b.b.toNat == 0 && b.c.toNat == 0
  | .lease _ b => b.ok .zero .zero .zero .plain false
  | .unlease _ b => b.ok .zero .zero .zero .zero false
  | .chain _ b => b.ok .queue .pair .src .zero false
  | .vadd _ b => b.fieldsOk .plain .vec b.vs .zero && decide (b.var.toNat ≤ 1) && b.arithOpts true
  | .vsub _ b => b.fieldsOk .plain .vec b.vs .zero && decide (b.var.toNat ≤ 1) && b.arithOpts true
  | .vmul _ b => b.fieldsOk .plain .vec b.vs .zero && decide (b.var.toNat ≤ 1) && b.arithOpts true
  | .vfma _ b => b.fieldsOk .plain .vec b.vs .vec && decide (b.var.toNat ≤ 1) && b.arithOpts true
  | .vmin _ b => b.fieldsOk .plain .vec b.vs .zero && decide (b.var.toNat ≤ 1) && b.arithOpts false
  | .vmax _ b => b.fieldsOk .plain .vec b.vs .zero && decide (b.var.toNat ≤ 1) && b.arithOpts false
  | .vabs _ b => b.fieldsOk .plain .vec .zero .zero && b.var.toNat == 0 && b.arithOpts true
  | .vneg _ b => b.fieldsOk .plain .vec .zero .zero && b.var.toNat == 0 && b.arithOpts true
  | .vand _ b => b.fieldsOk .plain .vec b.vs .zero && decide (b.var.toNat ≤ 1) && b.ty.toNat == 0 && b.noOpts
  | .vor _ b => b.fieldsOk .plain .vec b.vs .zero && decide (b.var.toNat ≤ 1) && b.ty.toNat == 0 && b.noOpts
  | .vxor _ b => b.fieldsOk .plain .vec b.vs .zero && decide (b.var.toNat ≤ 1) && b.ty.toNat == 0 && b.noOpts
  | .vshl _ b => b.shiftOk true
  | .vshr _ b => b.shiftOk false
  | .vsra _ b => b.shiftOk false
  | .vcmp _ b => b.cmpOk
  | .vcvt _ b => b.cvtOk
  | .vrcp _ b => b.fieldsOk .plain .vec .zero .zero && b.var.toNat == 0 && b.ty.toNat == 6 && !b.sat && !b.nan
  | .vrsq _ b => b.fieldsOk .plain .vec .zero .zero && b.var.toNat == 0 && b.ty.toNat == 6 && !b.sat && !b.nan
  | .vexp2 _ b => b.fieldsOk .plain .vec .zero .zero && b.var.toNat == 0 && b.ty.toNat == 6 && !b.sat && !b.nan
  | .vlog2 _ b => b.fieldsOk .plain .vec .zero .zero && b.var.toNat == 0 && b.ty.toNat == 6 && !b.sat && !b.nan
  | .vsinc _ b => b.fieldsOk .plain .vec .zero .zero && b.var.toNat == 0 && b.ty.toNat == 6 && !b.sat && !b.nan
  | .vred _ b => b.redOk
  | .vscan _ b => b.redOk
  | .vperm _ b => b.fieldsOk .plain .vec .vec .zero && b.var.toNat == 0 && b.ty.toNat == 0 && b.noOpts
  | .vshufRot _ b => b.fieldsOk .plain .vec .zero .plain && b.var.toNat == 0 && b.ty.toNat == 0 && b.noOpts
  | .vshufSlide _ b => b.fieldsOk .plain .vec .vec .plain && b.var.toNat == 1 && b.ty.toNat == 0 && b.noOpts
  | .vshufZiplo _ b => b.fieldsOk .plain .vec .vec .zero && b.var.toNat == 2 && b.ty.toNat == 0 && b.noOpts
  | .vshufZiphi _ b => b.fieldsOk .plain .vec .vec .zero && b.var.toNat == 3 && b.ty.toNat == 0 && b.noOpts
  | .vshufUnze _ b => b.fieldsOk .plain .vec .vec .zero && b.var.toNat == 4 && b.ty.toNat == 0 && b.noOpts
  | .vshufUnzo _ b => b.fieldsOk .plain .vec .vec .zero && b.var.toNat == 5 && b.ty.toNat == 0 && b.noOpts
  | .vshufRev _ b => b.fieldsOk .plain .vec .zero .zero && b.var.toNat == 6 && b.ty.toNat == 0 && b.noOpts
  | .vbcast _ b => b.fieldsOk .plain .plain .zero .zero && b.var.toNat == 0 && b.ty.toNat == 0 && b.noOpts
  | .vbcastL _ b => b.fieldsOk .plain .vec .plain .zero && b.var.toNat == 1 && b.ty.toNat == 0 && b.noOpts
  | .vmov _ b => b.fieldsOk .plain .vec .zero .zero && b.var.toNat == 0 && b.ty.toNat == 0 && b.noOpts
  | .vmovX _ b => b.fieldsOk .plain .vec .plain .zero && b.var.toNat == 1 && b.ty.toNat == 0 && b.noOpts
  | .vmovI _ b => b.fieldsOk .plain .plain .plain .zero && b.var.toNat == 2 && b.ty.toNat == 0 && b.noOpts
  | .vsel _ b => b.fieldsOk .plain .vec .vec .low4 && b.var.toNat == 0 && b.ty.toNat == 0 && b.noOpts
  | .viota _ b => b.fieldsOk .plain .plain .plain .zero && b.var.toNat == 0 && b.ty.toNat == 0 && b.noOpts
  | .viotaP _ b => b.fieldsOk .plain .zero .zero .low4 && b.var.toNat == 1 && b.ty.toNat == 0 && b.noOpts
  | .pushc _ b => b.fieldsOk .plain .vec .low3 .zero && b.var.toNat == 0 && b.ty.toNat == 0 && b.noOpts
  | .popcV _ b => b.fieldsOk .plain .low3 .zero .zero && b.var.toNat == 0 && b.ty.toNat == 0 && b.noOpts
  | .popcD _ b => b.fieldsOk .plain .low3 .plain .zero && b.var.toNat == 1 && b.ty.toNat == 0 && b.noOpts
  | .popcClr _ b => b.fieldsOk .zero .low3 .zero .zero && b.var.toNat == 2 && b.ty.toNat == 0 && b.noOpts
  | .gets _ b => getsOk b
  | .sets _ b => setsOk b
  | .eret _ b => b.ok .zero .zero .zero
  | .wfi _ b => b.ok .zero .zero .zero
  | .ctxsv _ b => b.ok .zero .pair .zero
  | .ctxld _ b => b.ok .zero .pair .zero
  | .tlbinvPage _ b _ => b.ok .zero .pair .src .zero false
  | .tlbinvAsid _ b _ => b.ok .zero .plain .src .zero false
  | .tlbinvAll _ b _ => b.ok .zero .plain .src .zero false
  | .rtabw _ b => b.ok .zero .pair .plain .zero false
  | .rtabwWin _ b => b.ok .zero .pair .plain .zero false
  | .sptw _ b => b.ok .plain .src .src .zero false
  | .sptwRd _ b => b.ok .plain .src .zero .zero false
  | .mma _ c => mmaOk c
  | .xld _ c => xldOk c
  | .accrd _ c => accrdOk c
  | .accld _ c => accldOk c
  | .tcopy _ c => tcopyOk c
  | .tmcast _ c => tmcastOk c
  | .twin _ c => twinOk c
  | .tfill _ c => tfillOk c
  | .scat _ c => scatOk c
  | .attn _ c => attnOk c
  | .kvapp _ c => kvappOk c
  | .kvrot _ c => kvrotOk c
  | .kvevict _ c => kvevictOk c
  | .undefinedInstruction _ => true
  | .engineCommandStart die tile eng pusher => tileOk die tile && decide (eng < 4) && (decide (pusher < 5) || decide (8 ≤ pusher))
  | .engineCommandComplete die tile eng _ => tileOk die tile && decide (eng < 4)
  | .tmcastGranuleDelivery die tile _ rcv => tileOk die tile && decide (rcv < 16)
  | .enginePageResume die tile eng _ => tileOk die tile && decide (eng < 4)
  | .mmaDrain die tile _ => tileOk die tile
  | .chainComplete die tile _ => tileOk die tile
  | .leaseGrant die tile _ => tileOk die tile
  | .leaseExpiry die tile _ => tileOk die tile
  | .queueDelivery _ _ _ => true
  | .postedStoreAck _ => true
  | .launchRecordAccept die _ => dieOk die
  | .taskPlacement die seq _ => seqOk die seq
  | .parkedRestore _ _ _ => true
  | .timeSliceExpiry die seq _ => seqOk die seq
  | .priorityAging _ _ => true
  | .starvationOrdering _ _ => true
  | .stealRequest die thief victim _ => seqOk die thief && seqOk die victim && thief != victim
  | .stealBackoffExpiry die seq _ => seqOk die seq
  | .cohortBarrierComplete die id _ => dieOk die && decide (1 ≤ id) && decide (id ≤ 63)
  | .futureRetry _ _ => true
  | .counterLowering die _ _ => dieOk die
  | .shapeConfirmation die record _ => dieOk die && decide (record < 2048)
  | .tailRecordEntry die record _ => dieOk die && decide (record < 2048)
  | .pageWalkComplete die _ => dieOk die
  | .pageResume die _ => dieOk die
  | .evictionStart asid va leaf _ => decide (asid < 512) && decide (va < 2 ^ 55) && leaf % 8 == 0
  | .evictionShootdownDone _ => true
  | .ringSlot _ => true
  | .colBypassTakeover _ _ => true
  | .dieFenceOrder die _ => decide (die < 16)
  | .ringImageArrival _ => true
  | .ringImageReread _ die _ => decide (die < 16)
  | .laneTest lane _ => decide (lane < 64)
  | .patrolScrub die => dieOk die
  | .queueDoorbellWrite q => decide (q < 1024)
  | .qcbCommit q _ => decide (q < 1024)
  | .queueReset q => decide (q < 1024)
  | .queueResetComplete q => decide (q < 1024)
  | .guldonNop q => decide (q < 1024)
  | .guldonLaunch q => decide (q < 1024)
  | .guldonIlaunch q => decide (q < 1024)
  | .guldonCopy q => decide (q < 1024)
  | .guldonSignal q => decide (q < 1024)
  | .guldonWait q => decide (q < 1024)
  | .guldonWaitSatisfied q => decide (q < 1024)
  | .guldonLoop q => decide (q < 1024)
  | .guldonCond q => decide (q < 1024)
  | .guldonRestore q => decide (q < 1024)
  | .guldonDoorbell q => decide (q < 1024)
  | .prologueEnd die => dieOk die
  | .packetCompletion q _ => decide (q < 1024)
  | .heartbeatWrite core _ => decide (core < 7)
  | .watchdogReset core _ => decide (core < 7)
  | .firmwareUpdate _ _ _ => true
  | .updateRollback _ => true
  | .spanRequestArrival req => spanReqOk req
  | .spanResend _ _ => true
  | .spanUndeliverable _ _ => true
  | .ingestMessageLanding _ => true
  | .ingestReassemblyTimeout _ _ => true
  | .ingestBufferedLanding _ => true
  | .snapshotRequest ring => decide (ring < 1024)
  | .keyInstall index wrapped _ => decide (index < 4096) && decide (wrapped < 2 ^ 320)
  | .keyInstallDone _ => true
  | .budgetWrite watts => decide (watts < 65536)
  | .powerArbitration _ => true
  | .getVersion => true
  | .getCapabilities => true
  | .negotiateAlgorithms _ _ => true
  | .getDigests => true
  | .getCertificate _ _ _ => true
  | .challenge _ _ => true
  | .getMeasurements _ _ => true
  | .moduleReset boot => decide (boot.moduleNo < 128) && decide (boot.arr < 3)
  | .dieCalibrated die => dieOk die
  | .fullServiceStart _ => true
  | .registerWrite reg _ => ctlRegOk reg
  | .dieFailure die _ => decide (die < 16)
  | .uetPacketArrival pkt => uetOk pkt
  | .landingRingEnable ring => decide (ring < 1024)
  | .recoveryImage _ => true
  | .applicationCoreAccess acc => hostAccessOk acc
  | .deviceMemoryAccess acc => hostAccessOk acc

/-- The term stands for a control word or a command word (and not for an event or an undefined word). -/
def Instr.isCode : Instr → Bool
  | .add _ _ => true
  | .sub _ _ => true
  | .and _ _ => true
  | .or _ _ => true
  | .xor _ _ => true
  | .andn _ _ => true
  | .shl _ _ => true
  | .shr _ _ => true
  | .sra _ _ => true
  | .rot _ _ => true
  | .min _ _ => true
  | .max _ _ => true
  | .minn _ _ => true
  | .maxn _ _ => true
  | .clz _ _ => true
  | .popc _ _ => true
  | .brev _ _ => true
  | .sel _ _ => true
  | .mul _ _ => true
  | .mulh _ _ => true
  | .mulhn _ _ => true
  | .div _ _ => true
  | .divn _ _ => true
  | .rem _ _ => true
  | .remn _ _ => true
  | .addI _ _ => true
  | .subI _ _ => true
  | .andI _ _ => true
  | .orI _ _ => true
  | .xorI _ _ => true
  | .andnI _ _ => true
  | .shlI _ _ => true
  | .shrI _ _ => true
  | .sraI _ _ => true
  | .rotI _ _ => true
  | .minI _ _ => true
  | .maxI _ _ => true
  | .minnI _ _ => true
  | .maxnI _ _ => true
  | .mulI _ _ => true
  | .divI _ _ => true
  | .divnI _ _ => true
  | .remI _ _ => true
  | .remnI _ _ => true
  | .movi _ _ => true
  | .moviH _ _ => true
  | .addp _ _ => true
  | .leap _ _ => true
  | .addpi _ _ => true
  | .cmp _ _ => true
  | .cmpi _ _ => true
  | .plog _ _ => true
  | .pmovPred _ _ => true
  | .pmovFromPair _ _ => true
  | .pmovToPair _ _ => true
  | .pany _ _ => true
  | .pall _ _ => true
  | .pcnt _ _ => true
  | .plive _ _ => true
  | .br _ _ => true
  | .bri _ _ => true
  | .call _ _ => true
  | .calli _ _ => true
  | .ret _ _ => true
  | .loop _ _ => true
  | .lbrk _ _ => true
  | .lidx _ _ => true
  | .nop _ _ => true
  | .yieldI _ _ => true
  | .exit _ _ => true
  | .trap _ _ => true
  | .launch _ _ => true
  | .launchP _ _ => true
  | .shape _ _ => true
  | .ralloc _ _ => true
  | .join _ _ => true
  | .leave _ _ => true
  | .cbar _ _ => true
  | .rng _ _ => true
  | .rngset _ _ => true
  | .rngsetSplit _ _ => true
  | .rsub _ _ => true
  | .segdone _ _ => true
  | .rtag _ _ => true
  | .ldN8 _ _ => true
  | .ldI8 _ _ => true
  | .ldN16 _ _ => true
  | .ldI16 _ _ => true
  | .ld32 _ _ => true
  | .ld64 _ _ => true
  | .st8 _ _ => true
  | .st16 _ _ => true
  | .st32 _ _ => true
  | .st64 _ _ => true
  | .ldc32 _ _ => true
  | .ldc64 _ _ => true
  | .ldOrdered _ _ _ => true
  | .stOrdered _ _ _ => true
  | .fence _ _ _ => true
  | .pref _ _ => true
  | .aadd _ _ _ => true
  | .aand _ _ _ => true
  | .aor _ _ _ => true
  | .axor _ _ _ => true
  | .amin _ _ _ => true
  | .amax _ _ _ => true
  | .axchg _ _ _ => true
  | .acas _ _ _ => true
  | .ldt _ _ => true
  | .stt _ _ => true
  | .ldv _ _ => true
  | .ldvCol _ _ => true
  | .ldvIdx _ _ => true
  | .stv _ _ => true
  | .stvCol _ _ => true
  | .stvIdx _ _ => true
  | .rdf _ _ => true
  | .fill _ _ => true
  | .waits _ _ => true
  | .waitsDec _ _ => true
  | .sig _ _ => true
  | .semset _ _ => true
  | .semrd _ _ => true
  | .qcnt _ _ => true
  | .qdrn _ _ => true
  | .lease _ _ => true
  | .unlease _ _ => true
  | .chain _ _ => true
  | .vadd _ _ => true
  | .vsub _ _ => true
  | .vmul _ _ => true
  | .vfma _ _ => true
  | .vmin _ _ => true
  | .vmax _ _ => true
  | .vabs _ _ => true
  | .vneg _ _ => true
  | .vand _ _ => true
  | .vor _ _ => true
  | .vxor _ _ => true
  | .vshl _ _ => true
  | .vshr _ _ => true
  | .vsra _ _ => true
  | .vcmp _ _ => true
  | .vcvt _ _ => true
  | .vrcp _ _ => true
  | .vrsq _ _ => true
  | .vexp2 _ _ => true
  | .vlog2 _ _ => true
  | .vsinc _ _ => true
  | .vred _ _ => true
  | .vscan _ _ => true
  | .vperm _ _ => true
  | .vshufRot _ _ => true
  | .vshufSlide _ _ => true
  | .vshufZiplo _ _ => true
  | .vshufZiphi _ _ => true
  | .vshufUnze _ _ => true
  | .vshufUnzo _ _ => true
  | .vshufRev _ _ => true
  | .vbcast _ _ => true
  | .vbcastL _ _ => true
  | .vmov _ _ => true
  | .vmovX _ _ => true
  | .vmovI _ _ => true
  | .vsel _ _ => true
  | .viota _ _ => true
  | .viotaP _ _ => true
  | .pushc _ _ => true
  | .popcV _ _ => true
  | .popcD _ _ => true
  | .popcClr _ _ => true
  | .gets _ _ => true
  | .sets _ _ => true
  | .eret _ _ => true
  | .wfi _ _ => true
  | .ctxsv _ _ => true
  | .ctxld _ _ => true
  | .tlbinvPage _ _ _ => true
  | .tlbinvAsid _ _ _ => true
  | .tlbinvAll _ _ _ => true
  | .rtabw _ _ => true
  | .rtabwWin _ _ => true
  | .sptw _ _ => true
  | .sptwRd _ _ => true
  | .mma _ _ => true
  | .xld _ _ => true
  | .accrd _ _ => true
  | .accld _ _ => true
  | .tcopy _ _ => true
  | .tmcast _ _ => true
  | .twin _ _ => true
  | .tfill _ _ => true
  | .scat _ _ => true
  | .attn _ _ => true
  | .kvapp _ _ => true
  | .kvrot _ _ => true
  | .kvevict _ _ => true
  | .undefinedInstruction _ => false
  | .engineCommandStart _ _ _ _ => false
  | .engineCommandComplete _ _ _ _ => false
  | .tmcastGranuleDelivery _ _ _ _ => false
  | .enginePageResume _ _ _ _ => false
  | .mmaDrain _ _ _ => false
  | .chainComplete _ _ _ => false
  | .leaseGrant _ _ _ => false
  | .leaseExpiry _ _ _ => false
  | .queueDelivery _ _ _ => false
  | .postedStoreAck _ => false
  | .launchRecordAccept _ _ => false
  | .taskPlacement _ _ _ => false
  | .parkedRestore _ _ _ => false
  | .timeSliceExpiry _ _ _ => false
  | .priorityAging _ _ => false
  | .starvationOrdering _ _ => false
  | .stealRequest _ _ _ _ => false
  | .stealBackoffExpiry _ _ _ => false
  | .cohortBarrierComplete _ _ _ => false
  | .futureRetry _ _ => false
  | .counterLowering _ _ _ => false
  | .shapeConfirmation _ _ _ => false
  | .tailRecordEntry _ _ _ => false
  | .pageWalkComplete _ _ => false
  | .pageResume _ _ => false
  | .evictionStart _ _ _ _ => false
  | .evictionShootdownDone _ => false
  | .ringSlot _ => false
  | .colBypassTakeover _ _ => false
  | .dieFenceOrder _ _ => false
  | .ringImageArrival _ => false
  | .ringImageReread _ _ _ => false
  | .laneTest _ _ => false
  | .patrolScrub _ => false
  | .queueDoorbellWrite _ => false
  | .qcbCommit _ _ => false
  | .queueReset _ => false
  | .queueResetComplete _ => false
  | .guldonNop _ => false
  | .guldonLaunch _ => false
  | .guldonIlaunch _ => false
  | .guldonCopy _ => false
  | .guldonSignal _ => false
  | .guldonWait _ => false
  | .guldonWaitSatisfied _ => false
  | .guldonLoop _ => false
  | .guldonCond _ => false
  | .guldonRestore _ => false
  | .guldonDoorbell _ => false
  | .prologueEnd _ => false
  | .packetCompletion _ _ => false
  | .heartbeatWrite _ _ => false
  | .watchdogReset _ _ => false
  | .firmwareUpdate _ _ _ => false
  | .updateRollback _ => false
  | .spanRequestArrival _ => false
  | .spanResend _ _ => false
  | .spanUndeliverable _ _ => false
  | .ingestMessageLanding _ => false
  | .ingestReassemblyTimeout _ _ => false
  | .ingestBufferedLanding _ => false
  | .snapshotRequest _ => false
  | .keyInstall _ _ _ => false
  | .keyInstallDone _ => false
  | .budgetWrite _ => false
  | .powerArbitration _ => false
  | .getVersion => false
  | .getCapabilities => false
  | .negotiateAlgorithms _ _ => false
  | .getDigests => false
  | .getCertificate _ _ _ => false
  | .challenge _ _ => false
  | .getMeasurements _ _ => false
  | .moduleReset _ => false
  | .dieCalibrated _ => false
  | .fullServiceStart _ => false
  | .registerWrite _ _ => false
  | .dieFailure _ _ => false
  | .uetPacketArrival _ => false
  | .landingRingEnable _ => false
  | .recoveryImage _ => false
  | .applicationCoreAccess _ => false
  | .deviceMemoryAccess _ => false

/-- The term stands for a command word of 256 bits (R80). -/
def Instr.isCmd : Instr → Bool
  | .mma _ _ => true
  | .xld _ _ => true
  | .accrd _ _ => true
  | .accld _ _ => true
  | .tcopy _ _ => true
  | .tmcast _ _ => true
  | .twin _ _ => true
  | .tfill _ _ => true
  | .scat _ _ => true
  | .attn _ _ => true
  | .kvapp _ _ => true
  | .kvrot _ _ => true
  | .kvevict _ _ => true
  | _ => false

end Sys2Proof
end

