-- ==== Sys2Proof/Decode.lean ====
section
/-! DEFINITION. Decoding of control words and command words (R79 to R105), total on any bytes, and the
encoder written from the same tables. A refusal names its reason (R91). -/

namespace Sys2Proof

/-- Why a word names no instruction (R91). -/
inductive DecodeErr where
  /-- a cell of the opcode map that holds no instruction (R90) -/
  | noMajor
  /-- an unassigned fn, variant, kind or command op -/
  | noSub
  /-- an undefined size, order or scope code (R98) -/
  | badOrder
  /-- a nonzero unused field, an illegal keep mark, pair or type, or an immediate out of range -/
  | badField
  /-- a nonzero reserved bit of a command word (R101) -/
  | reservedBit
  /-- a command major at an address with nonzero bits [4:0] (R80) -/
  | cmdAlign
  /-- fewer bytes than the word has -/
  | short
  deriving DecidableEq, Repr

/-! Fields of a 64-bit word. -/

/-- Bits [63:44]: the guard (R81). -/
def guardOf (w : BitVec 64) : Guard :=
  ⟨w.extractLsb' 56 8, w.extractLsb' 52 4, w.extractLsb' 48 4, w.extractLsb' 44 4⟩
/-- Bits [43:36]: the major opcode (R81). -/
def majorOf (w : BitVec 64) : Nat := (w.extractLsb' 36 8).toNat
/-- Bits [11:4]: the sub-opcode of the R format (R83). -/
def fnOf (w : BitVec 64) : BitVec 8 := w.extractLsb' 4 8
/-- One bit as a Bool. -/
def bitOf (w : BitVec 64) (k : Nat) : Bool := w.extractLsb' k 1 == 1#1
/-- The R-format body (R83). -/
def rBodyOf (w : BitVec 64) : RBody :=
  ⟨w.extractLsb' 30 6, w.extractLsb' 24 6, w.extractLsb' 18 6, w.extractLsb' 12 6, bitOf w 3, bitOf w 2, bitOf w 1, bitOf w 0⟩
/-- The I-format body (R84). -/
def iBodyOf (w : BitVec 64) : IBody := ⟨w.extractLsb' 30 6, w.extractLsb' 24 6, w.extractLsb' 0 24⟩
/-- The V-format body (R86, R87). -/
def vBodyOf (w : BitVec 64) : VBody :=
  ⟨w.extractLsb' 31 5, w.extractLsb' 26 5, w.extractLsb' 21 5, w.extractLsb' 16 5, w.extractLsb' 12 4, w.extractLsb' 8 4,
   bitOf w 7, bitOf w 6, w.extractLsb' 4 2, bitOf w 3, bitOf w 2, bitOf w 1, bitOf w 0⟩
/-- The P-format body (R88). -/
def pBodyOf (w : BitVec 64) : PBody :=
  ⟨w.extractLsb' 33 3, bitOf w 32, w.extractLsb' 26 6, w.extractLsb' 20 6, w.extractLsb' 16 4, w.extractLsb' 0 16⟩
/-- The command body of four words (R101, R102). -/
def cmdBodyOf (w0 w1 w2 w3 : BitVec 64) : CmdBody :=
  ⟨w0.extractLsb' 20 8, w0.extractLsb' 12 8, w0.extractLsb' 0 11, w1.extractLsb' 56 8, w1.extractLsb' 48 8,
   w1.extractLsb' 32 16, w1.extractLsb' 16 16, w1.extractLsb' 0 16,
   w2.extractLsb' 48 16, w2.extractLsb' 32 16, w2.extractLsb' 16 16, w2.extractLsb' 0 16,
   w3.extractLsb' 48 16, w3.extractLsb' 32 16, w3.extractLsb' 16 16, w3.extractLsb' 0 16⟩

/-- Order codes (R98). -/
def orderOf (n : Nat) : Option Order :=
  match n with
  | 0 => some .rlx | 1 => some .acq | 2 => some .rel | 3 => some .ar | 4 => some .sc | _ => none
/-- The code of an order (R98). -/
def Order.code : Order → BitVec 3
  | .rlx => 0 | .acq => 1 | .rel => 2 | .ar => 3 | .sc => 4
/-- Scope codes (R98, R247). -/
def scopeOf (n : Nat) : Option Scope :=
  match n with
  | 0 => some .seq | 1 => some .tile | 2 => some .die | 3 => some .dev | 4 => some .sys | _ => none
/-- The code of a scope (R98). -/
def Scope.code : Scope → BitVec 3
  | .seq => 0 | .tile => 1 | .die => 2 | .dev => 3 | .sys => 4

/-- The fn field of an atomic or fence (R98). -/
def memSpecOf (w : BitVec 64) : Option MemSpec :=
  match orderOf (w.extractLsb' 7 3).toNat, scopeOf (w.extractLsb' 4 3).toNat with
  | some o, some s => some ⟨bitOf w 11, bitOf w 10, o, s⟩
  | _, _ => none
/-- The fn field of an ordered load or store: the size is 0b10 or 0b11 (R98). -/
def sizedSpecOf (w : BitVec 64) : Option MemSpec :=
  match memSpecOf w with
  | some m => if m.wide then some ⟨m.sgn, false, m.ord, m.scope⟩ else none
  | none => none

/-- How a row of the opcode map makes its term. -/
inductive RowMake where
  | r (fn : Nat) (m : Option Bool) (mk : Guard → RBody → Instr)
  | i (mk : Guard → IBody → Instr)
  | v (lo hi : Nat) (mk : Guard → VBody → Instr)
  | p (mk : Guard → PBody → Instr)
  | b (kind : Nat) (mk : Guard → BitVec 32 → Instr)
  | atomic (mk : Guard → RBody → MemSpec → Instr)
  | sized (mk : Guard → RBody → MemSpec → Instr)
  | tlb (kind : Nat) (mk : Guard → RBody → Bool → Instr)
  | cmd (op : Nat) (mk : Guard → CmdBody → Instr)

/-- A row of the opcode map (R90, R93 to R103). -/
structure OpRow where
  major : Nat
  make : RowMake

/-- Rows of the map: scalar, address and predicate (R93, R95). -/
def scalarRows : List OpRow :=
  [⟨0x00, .r 1 none .add⟩,
   ⟨0x00, .r 2 none .sub⟩,
   ⟨0x00, .r 3 none .and⟩,
   ⟨0x00, .r 4 none .or⟩,
   ⟨0x00, .r 5 none .xor⟩,
   ⟨0x00, .r 6 none .andn⟩,
   ⟨0x00, .r 7 none .shl⟩,
   ⟨0x00, .r 8 none .shr⟩,
   ⟨0x00, .r 9 none .sra⟩,
   ⟨0x00, .r 10 none .rot⟩,
   ⟨0x00, .r 11 none .min⟩,
   ⟨0x00, .r 12 none .max⟩,
   ⟨0x00, .r 13 none .minn⟩,
   ⟨0x00, .r 14 none .maxn⟩,
   ⟨0x00, .r 15 none .clz⟩,
   ⟨0x00, .r 16 none .popc⟩,
   ⟨0x00, .r 17 none .brev⟩,
   ⟨0x00, .r 18 none .sel⟩,
   ⟨0x01, .r 1 none .mul⟩,
   ⟨0x01, .r 2 none .mulh⟩,
   ⟨0x01, .r 3 none .mulhn⟩,
   ⟨0x01, .r 4 none .div⟩,
   ⟨0x01, .r 5 none .divn⟩,
   ⟨0x01, .r 6 none .rem⟩,
   ⟨0x01, .r 7 none .remn⟩,
   ⟨0x08, .i .addI⟩,
   ⟨0x09, .i .subI⟩,
   ⟨0x0A, .i .andI⟩,
   ⟨0x0B, .i .orI⟩,
   ⟨0x0C, .i .xorI⟩,
   ⟨0x0D, .i .andnI⟩,
   ⟨0x0E, .i .shlI⟩,
   ⟨0x0F, .i .shrI⟩,
   ⟨0x10, .i .sraI⟩,
   ⟨0x11, .i .rotI⟩,
   ⟨0x12, .i .minI⟩,
   ⟨0x13, .i .maxI⟩,
   ⟨0x14, .i .minnI⟩,
   ⟨0x15, .i .maxnI⟩,
   ⟨0x16, .i .mulI⟩,
   ⟨0x17, .i .divI⟩,
   ⟨0x18, .i .divnI⟩,
   ⟨0x19, .i .remI⟩,
   ⟨0x1A, .i .remnI⟩,
   ⟨0x1B, .i .movi⟩,
   ⟨0x1C, .i .moviH⟩,
   ⟨0x02, .r 1 none .addp⟩,
   ⟨0x02, .r 2 none .leap⟩,
   ⟨0x1D, .i .addpi⟩,
   ⟨0x40, .p .cmp⟩,
   ⟨0x41, .p .cmpi⟩,
   ⟨0x42, .p .plog⟩,
   ⟨0x43, .r 1 none .pmovPred⟩,
   ⟨0x43, .r 2 none .pmovFromPair⟩,
   ⟨0x43, .r 3 none .pmovToPair⟩,
   ⟨0x44, .r 1 none .pany⟩,
   ⟨0x45, .r 1 none .pall⟩,
   ⟨0x46, .r 1 none .pcnt⟩,
   ⟨0x47, .i .plive⟩]

/-- Rows of the map: control and tasks (R96, R97). -/
def controlRows : List OpRow :=
  [⟨0x50, .b 0 .br⟩,
   ⟨0x51, .r 1 none .bri⟩,
   ⟨0x50, .b 1 .call⟩,
   ⟨0x52, .r 1 none .calli⟩,
   ⟨0x53, .r 1 none .ret⟩,
   ⟨0x54, .i .loop⟩,
   ⟨0x55, .r 1 none .lbrk⟩,
   ⟨0x56, .i .lidx⟩,
   ⟨0x57, .i .nop⟩,
   ⟨0x58, .i .yieldI⟩,
   ⟨0x59, .i .exit⟩,
   ⟨0x5A, .i .trap⟩,
   ⟨0x60, .i .launch⟩,
   ⟨0x61, .i .launchP⟩,
   ⟨0x62, .i .shape⟩,
   ⟨0x63, .r 1 none .ralloc⟩,
   ⟨0x64, .i .join⟩,
   ⟨0x65, .i .leave⟩,
   ⟨0x66, .i .cbar⟩,
   ⟨0x67, .i .rng⟩,
   ⟨0x68, .r 1 (some false) .rngset⟩,
   ⟨0x68, .r 1 (some true) .rngsetSplit⟩,
   ⟨0x69, .r 1 none .rsub⟩,
   ⟨0x6A, .i .segdone⟩,
   ⟨0x6B, .i .rtag⟩]

/-- Rows of the map: memory, atomics, futures, semaphores, queues (R98, R99). -/
def memoryRows : List OpRow :=
  [⟨0x70, .i .ldN8⟩,
   ⟨0x71, .i .ldI8⟩,
   ⟨0x72, .i .ldN16⟩,
   ⟨0x73, .i .ldI16⟩,
   ⟨0x74, .i .ld32⟩,
   ⟨0x75, .i .ld64⟩,
   ⟨0x76, .i .st8⟩,
   ⟨0x77, .i .st16⟩,
   ⟨0x78, .i .st32⟩,
   ⟨0x79, .i .st64⟩,
   ⟨0x7A, .i .ldc32⟩,
   ⟨0x7B, .i .ldc64⟩,
   ⟨0x7C, .sized .ldOrdered⟩,
   ⟨0x7D, .sized .stOrdered⟩,
   ⟨0x7E, .atomic .fence⟩,
   ⟨0x7F, .i .pref⟩,
   ⟨0x80, .atomic .aadd⟩,
   ⟨0x81, .atomic .aand⟩,
   ⟨0x82, .atomic .aor⟩,
   ⟨0x83, .atomic .axor⟩,
   ⟨0x84, .atomic .amin⟩,
   ⟨0x85, .atomic .amax⟩,
   ⟨0x86, .atomic .axchg⟩,
   ⟨0x87, .atomic .acas⟩,
   ⟨0x88, .r 1 none .ldt⟩,
   ⟨0x89, .r 1 none .stt⟩,
   ⟨0x8A, .v 0 0 .ldv⟩,
   ⟨0x8A, .v 1 1 .ldvCol⟩,
   ⟨0x8A, .v 2 2 .ldvIdx⟩,
   ⟨0x8B, .v 0 0 .stv⟩,
   ⟨0x8B, .v 1 1 .stvCol⟩,
   ⟨0x8B, .v 2 2 .stvIdx⟩,
   ⟨0x8C, .i .rdf⟩,
   ⟨0x8D, .r 1 none .fill⟩,
   ⟨0x8E, .r 1 (some false) .waits⟩,
   ⟨0x8E, .r 1 (some true) .waitsDec⟩,
   ⟨0x8E, .r 2 none .sig⟩,
   ⟨0x8E, .r 3 none .semset⟩,
   ⟨0x8E, .r 4 none .semrd⟩,
   ⟨0x8F, .r 1 none .qcnt⟩,
   ⟨0x8F, .r 2 none .qdrn⟩,
   ⟨0x8F, .r 3 none .lease⟩,
   ⟨0x8F, .r 4 none .unlease⟩,
   ⟨0x8F, .r 5 none .chain⟩]

/-- Rows of the map: vectors and streams (R161 to R184). -/
def vectorRows : List OpRow :=
  [⟨0x90, .v 0 1 .vadd⟩,
   ⟨0x91, .v 0 1 .vsub⟩,
   ⟨0x92, .v 0 1 .vmul⟩,
   ⟨0x93, .v 0 1 .vfma⟩,
   ⟨0x94, .v 0 1 .vmin⟩,
   ⟨0x95, .v 0 1 .vmax⟩,
   ⟨0x96, .v 0 0 .vabs⟩,
   ⟨0x97, .v 0 0 .vneg⟩,
   ⟨0x98, .v 0 1 .vand⟩,
   ⟨0x99, .v 0 1 .vor⟩,
   ⟨0x9A, .v 0 1 .vxor⟩,
   ⟨0x9B, .v 0 2 .vshl⟩,
   ⟨0x9C, .v 0 2 .vshr⟩,
   ⟨0x9D, .v 0 2 .vsra⟩,
   ⟨0x9E, .v 0 1 .vcmp⟩,
   ⟨0x9F, .v 0 3 .vcvt⟩,
   ⟨0xA0, .v 0 0 .vrcp⟩,
   ⟨0xA1, .v 0 0 .vrsq⟩,
   ⟨0xA2, .v 0 0 .vexp2⟩,
   ⟨0xA3, .v 0 0 .vlog2⟩,
   ⟨0xA4, .v 0 0 .vsinc⟩,
   ⟨0xA5, .v 0 5 .vred⟩,
   ⟨0xA6, .v 0 5 .vscan⟩,
   ⟨0xA7, .v 0 0 .vperm⟩,
   ⟨0xA8, .v 0 0 .vshufRot⟩,
   ⟨0xA8, .v 1 1 .vshufSlide⟩,
   ⟨0xA8, .v 2 2 .vshufZiplo⟩,
   ⟨0xA8, .v 3 3 .vshufZiphi⟩,
   ⟨0xA8, .v 4 4 .vshufUnze⟩,
   ⟨0xA8, .v 5 5 .vshufUnzo⟩,
   ⟨0xA8, .v 6 6 .vshufRev⟩,
   ⟨0xA9, .v 0 0 .vbcast⟩,
   ⟨0xA9, .v 1 1 .vbcastL⟩,
   ⟨0xAA, .v 0 0 .vmov⟩,
   ⟨0xAA, .v 1 1 .vmovX⟩,
   ⟨0xAA, .v 2 2 .vmovI⟩,
   ⟨0xAB, .v 0 0 .vsel⟩,
   ⟨0xAC, .v 0 0 .viota⟩,
   ⟨0xAC, .v 1 1 .viotaP⟩,
   ⟨0xAD, .v 0 0 .pushc⟩,
   ⟨0xAE, .v 0 0 .popcV⟩,
   ⟨0xAE, .v 1 1 .popcD⟩,
   ⟨0xAE, .v 2 2 .popcClr⟩]

/-- Rows of the map: system (R100). -/
def systemRows : List OpRow :=
  [⟨0xD0, .i .gets⟩,
   ⟨0xD1, .i .sets⟩,
   ⟨0xD2, .i .eret⟩,
   ⟨0xD3, .i .wfi⟩,
   ⟨0xD4, .i .ctxsv⟩,
   ⟨0xD5, .i .ctxld⟩,
   ⟨0xD6, .tlb 1 .tlbinvPage⟩,
   ⟨0xD6, .tlb 2 .tlbinvAsid⟩,
   ⟨0xD6, .tlb 3 .tlbinvAll⟩,
   ⟨0xD7, .r 1 none .rtabw⟩,
   ⟨0xD7, .r 2 none .rtabwWin⟩,
   ⟨0xD8, .r 1 none .sptw⟩,
   ⟨0xD8, .r 2 none .sptwRd⟩]

/-- Rows of the map: commands (R103). -/
def commandRows : List OpRow :=
  [⟨0xF8, .cmd 1 .mma⟩,
   ⟨0xF8, .cmd 2 .xld⟩,
   ⟨0xF8, .cmd 3 .accrd⟩,
   ⟨0xF8, .cmd 4 .accld⟩,
   ⟨0xF9, .cmd 1 .tcopy⟩,
   ⟨0xF9, .cmd 2 .tmcast⟩,
   ⟨0xF9, .cmd 3 .twin⟩,
   ⟨0xF9, .cmd 4 .tfill⟩,
   ⟨0xFA, .cmd 1 .scat⟩,
   ⟨0xFB, .cmd 1 .attn⟩,
   ⟨0xFB, .cmd 2 .kvapp⟩,
   ⟨0xFB, .cmd 3 .kvrot⟩,
   ⟨0xFB, .cmd 4 .kvevict⟩]

/-- The whole opcode map (R90). -/
def opRows : List OpRow := scalarRows ++ controlRows ++ memoryRows ++ vectorRows ++ systemRows ++ commandRows

/-- The row's sub-opcode is the word's. -/
def OpRow.sub (r : OpRow) (w : BitVec 64) : Bool :=
  match r.make with
  | .r fn none _ => (fnOf w).toNat == fn
  | .r fn (some m) _ => (fnOf w).toNat == fn && bitOf w 0 == m
  | .i _ => true
  | .v lo hi _ => decide (lo ≤ (w.extractLsb' 8 4).toNat) && decide ((w.extractLsb' 8 4).toNat ≤ hi)
  | .p _ => true
  | .b kind _ => (w.extractLsb' 0 4).toNat == kind
  | .atomic _ => true
  | .sized _ => true
  | .tlb kind _ => (w.extractLsb' 4 4).toNat == kind && (w.extractLsb' 9 3).toNat == 0
  | .cmd op _ => (w.extractLsb' 28 8).toNat == op

/-- The term a row reads from a word (words 1 to 3 are zero for a control word). -/
def OpRow.term (r : OpRow) (w0 w1 w2 w3 : BitVec 64) : Option Instr :=
  match r.make with
  | .r _ _ f => some (f (guardOf w0) (rBodyOf w0))
  | .i f => some (f (guardOf w0) (iBodyOf w0))
  | .v _ _ f => some (f (guardOf w0) (vBodyOf w0))
  | .p f => some (f (guardOf w0) (pBodyOf w0))
  | .b _ f => some (f (guardOf w0) (w0.extractLsb' 4 32))
  | .atomic f => (memSpecOf w0).map (f (guardOf w0) (rBodyOf w0))
  | .sized f => (sizedSpecOf w0).map (f (guardOf w0) (rBodyOf w0))
  | .tlb _ f => some (f (guardOf w0) (rBodyOf w0) (bitOf w0 8))
  | .cmd _ f => some (f (guardOf w0) (cmdBodyOf w0 w1 w2 w3))

/-- The first row of the list that has the word's major and sub-opcode. -/
def findRow (w : BitVec 64) : List OpRow → Option OpRow
  | [] => none
  | r :: t => if r.major = majorOf w && r.sub w then some r else findRow w t

/-- Some row has this major. -/
def knownMajor (n : Nat) : List OpRow → Bool
  | [] => false
  | r :: t => r.major == n || knownMajor n t

/-- The words of command majors (R80). -/
def isCmdWord (w : BitVec 64) : Bool := decide (0xF8 ≤ majorOf w) && decide (majorOf w ≤ 0xFB)

/-- Decodes four words read from an address; only word 0 counts for a control word. -/
def decodeWords (w0 w1 w2 w3 : BitVec 64) : Except DecodeErr Instr :=
  if isCmdWord w0 && bitOf w0 11 then .error .reservedBit
  else match findRow w0 opRows with
    | none => if knownMajor (majorOf w0) opRows then .error .noSub else .error .noMajor
    | some r => match r.term w0 w1 w2 w3 with
      | none => .error .badOrder
      | some i => if i.wf then .ok i else .error .badField

/-- Little-endian value of a list of bytes (R1). -/
def bytesToNat : List Byte → Nat
  | [] => 0
  | b :: t => b.toNat + 256 * bytesToNat t

/-- The first `n` bytes of a value, lowest first (R1). -/
def natToBytes : Nat → Nat → List Byte
  | 0, _ => []
  | n + 1, v => BitVec.ofNat 8 v :: natToBytes n (v / 256)

/-- The 64-bit word at byte offset `8k` of a list of bytes. -/
def wordAt (bs : List Byte) (k : Nat) : BitVec 64 := BitVec.ofNat 64 (bytesToNat ((bs.drop (8 * k)).take 8))

/-- Decodes the bytes at an address and returns the bytes that follow (R79, R80). `aligned` says that the
address has bits [4:0] zero. -/
def decode (aligned : Bool) (bs : List Byte) : Except DecodeErr (Instr × List Byte) :=
  if bs.length < 8 then .error .short
  else if isCmdWord (wordAt bs 0) then
    if !aligned then .error .cmdAlign
    else if bs.length < 32 then .error .short
    else (decodeWords (wordAt bs 0) (wordAt bs 1) (wordAt bs 2) (wordAt bs 3)).map fun i => (i, bs.drop 32)
  else (decodeWords (wordAt bs 0) 0 0 0).map fun i => (i, bs.drop 8)

/-- The instruction read from a table row's bits: bit 0 is the least significant bit of the first word, and
the bits above `nbits` are zero. -/
def decodeTableWord (nbits w : Nat) : Option Instr :=
  match decode true (natToBytes 32 (w % 2 ^ nbits)) with
  | .ok (i, _) => some i
  | .error _ => none

/-! The encoder. -/

/-- A Bool as one bit. -/
def bit1 (b : Bool) : BitVec 1 := BitVec.ofBool b
/-- Guard and major: bits [63:36] (R81). -/
def encHead (g : Guard) (major : Nat) : BitVec 28 := g.tt ++ g.pa ++ g.pb ++ g.pc ++ BitVec.ofNat 8 major
/-- An R-format word (R83). -/
def encR (major : Nat) (fn : BitVec 8) (g : Guard) (b : RBody) : BitVec 64 :=
  encHead g major ++ b.dst ++ b.a ++ b.b ++ b.c ++ fn ++ bit1 b.ka ++ bit1 b.kb ++ bit1 b.kc ++ bit1 b.m
/-- An I-format word (R84). -/
def encI (major : Nat) (g : Guard) (b : IBody) : BitVec 64 := encHead g major ++ b.dst ++ b.a ++ b.imm
/-- A V-format word (R86). -/
def encV (major : Nat) (g : Guard) (b : VBody) : BitVec 64 :=
  encHead g major ++ b.vd ++ b.va ++ b.vb ++ b.vc ++ b.ty ++ b.var ++ bit1 b.nan ++ bit1 b.sat ++ b.rnd ++
    bit1 b.ka ++ bit1 b.kb ++ bit1 b.kc ++ bit1 b.fz
/-- A P-format word (R88). -/
def encP (major : Nat) (g : Guard) (b : PBody) : BitVec 64 :=
  encHead g major ++ b.pair ++ bit1 b.zk ++ b.a ++ b.b ++ b.cond ++ b.rest
/-- A B-format word (R85). -/
def encB (major : Nat) (kind : BitVec 4) (g : Guard) (off : BitVec 32) : BitVec 64 := encHead g major ++ off ++ kind
/-- fn of an atomic or fence (R98). -/
def encSpec (m : MemSpec) : BitVec 8 := bit1 m.wide ++ bit1 m.sgn ++ m.ord.code ++ m.scope.code
/-- fn of an ordered load or store (R98). -/
def encSized (m : MemSpec) : BitVec 8 := 1#1 ++ bit1 m.wide ++ m.ord.code ++ m.scope.code
/-- fn of `TLBINV` (R376). -/
def encTlb (kind : BitVec 4) (dev : Bool) : BitVec 8 := 0#3 ++ bit1 dev ++ kind
/-- The four words of a command (R101, R102). -/
def encC (major : Nat) (op : BitVec 8) (g : Guard) (c : CmdBody) : List (BitVec 64) :=
  [encHead g major ++ op ++ c.widx ++ c.wthr ++ 0#1 ++ c.rflag,
   c.sidx ++ c.sinc ++ c.f0 ++ c.f1 ++ c.f2,
   c.f3 ++ c.f4 ++ c.f5 ++ c.f6,
   c.f7 ++ c.f8 ++ c.f9 ++ c.f10]

/-- The words of an instruction; an event and an undefined word have none here. -/
def encode : Instr → List (BitVec 64)
  | .add g b => [encR 0x00 1 g b]
  | .sub g b => [encR 0x00 2 g b]
  | .and g b => [encR 0x00 3 g b]
  | .or g b => [encR 0x00 4 g b]
  | .xor g b => [encR 0x00 5 g b]
  | .andn g b => [encR 0x00 6 g b]
  | .shl g b => [encR 0x00 7 g b]
  | .shr g b => [encR 0x00 8 g b]
  | .sra g b => [encR 0x00 9 g b]
  | .rot g b => [encR 0x00 10 g b]
  | .min g b => [encR 0x00 11 g b]
  | .max g b => [encR 0x00 12 g b]
  | .minn g b => [encR 0x00 13 g b]
  | .maxn g b => [encR 0x00 14 g b]
  | .clz g b => [encR 0x00 15 g b]
  | .popc g b => [encR 0x00 16 g b]
  | .brev g b => [encR 0x00 17 g b]
  | .sel g b => [encR 0x00 18 g b]
  | .mul g b => [encR 0x01 1 g b]
  | .mulh g b => [encR 0x01 2 g b]
  | .mulhn g b => [encR 0x01 3 g b]
  | .div g b => [encR 0x01 4 g b]
  | .divn g b => [encR 0x01 5 g b]
  | .rem g b => [encR 0x01 6 g b]
  | .remn g b => [encR 0x01 7 g b]
  | .addI g b => [encI 0x08 g b]
  | .subI g b => [encI 0x09 g b]
  | .andI g b => [encI 0x0A g b]
  | .orI g b => [encI 0x0B g b]
  | .xorI g b => [encI 0x0C g b]
  | .andnI g b => [encI 0x0D g b]
  | .shlI g b => [encI 0x0E g b]
  | .shrI g b => [encI 0x0F g b]
  | .sraI g b => [encI 0x10 g b]
  | .rotI g b => [encI 0x11 g b]
  | .minI g b => [encI 0x12 g b]
  | .maxI g b => [encI 0x13 g b]
  | .minnI g b => [encI 0x14 g b]
  | .maxnI g b => [encI 0x15 g b]
  | .mulI g b => [encI 0x16 g b]
  | .divI g b => [encI 0x17 g b]
  | .divnI g b => [encI 0x18 g b]
  | .remI g b => [encI 0x19 g b]
  | .remnI g b => [encI 0x1A g b]
  | .movi g b => [encI 0x1B g b]
  | .moviH g b => [encI 0x1C g b]
  | .addp g b => [encR 0x02 1 g b]
  | .leap g b => [encR 0x02 2 g b]
  | .addpi g b => [encI 0x1D g b]
  | .cmp g b => [encP 0x40 g b]
  | .cmpi g b => [encP 0x41 g b]
  | .plog g b => [encP 0x42 g b]
  | .pmovPred g b => [encR 0x43 1 g b]
  | .pmovFromPair g b => [encR 0x43 2 g b]
  | .pmovToPair g b => [encR 0x43 3 g b]
  | .pany g b => [encR 0x44 1 g b]
  | .pall g b => [encR 0x45 1 g b]
  | .pcnt g b => [encR 0x46 1 g b]
  | .plive g b => [encI 0x47 g b]
  | .br g b => [encB 0x50 0 g b]
  | .bri g b => [encR 0x51 1 g b]
  | .call g b => [encB 0x50 1 g b]
  | .calli g b => [encR 0x52 1 g b]
  | .ret g b => [encR 0x53 1 g b]
  | .loop g b => [encI 0x54 g b]
  | .lbrk g b => [encR 0x55 1 g b]
  | .lidx g b => [encI 0x56 g b]
  | .nop g b => [encI 0x57 g b]
  | .yieldI g b => [encI 0x58 g b]
  | .exit g b => [encI 0x59 g b]
  | .trap g b => [encI 0x5A g b]
  | .launch g b => [encI 0x60 g b]
  | .launchP g b => [encI 0x61 g b]
  | .shape g b => [encI 0x62 g b]
  | .ralloc g b => [encR 0x63 1 g b]
  | .join g b => [encI 0x64 g b]
  | .leave g b => [encI 0x65 g b]
  | .cbar g b => [encI 0x66 g b]
  | .rng g b => [encI 0x67 g b]
  | .rngset g b => [encR 0x68 1 g b]
  | .rngsetSplit g b => [encR 0x68 1 g b]
  | .rsub g b => [encR 0x69 1 g b]
  | .segdone g b => [encI 0x6A g b]
  | .rtag g b => [encI 0x6B g b]
  | .ldN8 g b => [encI 0x70 g b]
  | .ldI8 g b => [encI 0x71 g b]
  | .ldN16 g b => [encI 0x72 g b]
  | .ldI16 g b => [encI 0x73 g b]
  | .ld32 g b => [encI 0x74 g b]
  | .ld64 g b => [encI 0x75 g b]
  | .st8 g b => [encI 0x76 g b]
  | .st16 g b => [encI 0x77 g b]
  | .st32 g b => [encI 0x78 g b]
  | .st64 g b => [encI 0x79 g b]
  | .ldc32 g b => [encI 0x7A g b]
  | .ldc64 g b => [encI 0x7B g b]
  | .ldOrdered g b m => [encR 0x7C (encSized m) g b]
  | .stOrdered g b m => [encR 0x7D (encSized m) g b]
  | .fence g b m => [encR 0x7E (encSpec m) g b]
  | .pref g b => [encI 0x7F g b]
  | .aadd g b m => [encR 0x80 (encSpec m) g b]
  | .aand g b m => [encR 0x81 (encSpec m) g b]
  | .aor g b m => [encR 0x82 (encSpec m) g b]
  | .axor g b m => [encR 0x83 (encSpec m) g b]
  | .amin g b m => [encR 0x84 (encSpec m) g b]
  | .amax g b m => [encR 0x85 (encSpec m) g b]
  | .axchg g b m => [encR 0x86 (encSpec m) g b]
  | .acas g b m => [encR 0x87 (encSpec m) g b]
  | .ldt g b => [encR 0x88 1 g b]
  | .stt g b => [encR 0x89 1 g b]
  | .ldv g b => [encV 0x8A g b]
  | .ldvCol g b => [encV 0x8A g b]
  | .ldvIdx g b => [encV 0x8A g b]
  | .stv g b => [encV 0x8B g b]
  | .stvCol g b => [encV 0x8B g b]
  | .stvIdx g b => [encV 0x8B g b]
  | .rdf g b => [encI 0x8C g b]
  | .fill g b => [encR 0x8D 1 g b]
  | .waits g b => [encR 0x8E 1 g b]
  | .waitsDec g b => [encR 0x8E 1 g b]
  | .sig g b => [encR 0x8E 2 g b]
  | .semset g b => [encR 0x8E 3 g b]
  | .semrd g b => [encR 0x8E 4 g b]
  | .qcnt g b => [encR 0x8F 1 g b]
  | .qdrn g b => [encR 0x8F 2 g b]
  | .lease g b => [encR 0x8F 3 g b]
  | .unlease g b => [encR 0x8F 4 g b]
  | .chain g b => [encR 0x8F 5 g b]
  | .vadd g b => [encV 0x90 g b]
  | .vsub g b => [encV 0x91 g b]
  | .vmul g b => [encV 0x92 g b]
  | .vfma g b => [encV 0x93 g b]
  | .vmin g b => [encV 0x94 g b]
  | .vmax g b => [encV 0x95 g b]
  | .vabs g b => [encV 0x96 g b]
  | .vneg g b => [encV 0x97 g b]
  | .vand g b => [encV 0x98 g b]
  | .vor g b => [encV 0x99 g b]
  | .vxor g b => [encV 0x9A g b]
  | .vshl g b => [encV 0x9B g b]
  | .vshr g b => [encV 0x9C g b]
  | .vsra g b => [encV 0x9D g b]
  | .vcmp g b => [encV 0x9E g b]
  | .vcvt g b => [encV 0x9F g b]
  | .vrcp g b => [encV 0xA0 g b]
  | .vrsq g b => [encV 0xA1 g b]
  | .vexp2 g b => [encV 0xA2 g b]
  | .vlog2 g b => [encV 0xA3 g b]
  | .vsinc g b => [encV 0xA4 g b]
  | .vred g b => [encV 0xA5 g b]
  | .vscan g b => [encV 0xA6 g b]
  | .vperm g b => [encV 0xA7 g b]
  | .vshufRot g b => [encV 0xA8 g b]
  | .vshufSlide g b => [encV 0xA8 g b]
  | .vshufZiplo g b => [encV 0xA8 g b]
  | .vshufZiphi g b => [encV 0xA8 g b]
  | .vshufUnze g b => [encV 0xA8 g b]
  | .vshufUnzo g b => [encV 0xA8 g b]
  | .vshufRev g b => [encV 0xA8 g b]
  | .vbcast g b => [encV 0xA9 g b]
  | .vbcastL g b => [encV 0xA9 g b]
  | .vmov g b => [encV 0xAA g b]
  | .vmovX g b => [encV 0xAA g b]
  | .vmovI g b => [encV 0xAA g b]
  | .vsel g b => [encV 0xAB g b]
  | .viota g b => [encV 0xAC g b]
  | .viotaP g b => [encV 0xAC g b]
  | .pushc g b => [encV 0xAD g b]
  | .popcV g b => [encV 0xAE g b]
  | .popcD g b => [encV 0xAE g b]
  | .popcClr g b => [encV 0xAE g b]
  | .gets g b => [encI 0xD0 g b]
  | .sets g b => [encI 0xD1 g b]
  | .eret g b => [encI 0xD2 g b]
  | .wfi g b => [encI 0xD3 g b]
  | .ctxsv g b => [encI 0xD4 g b]
  | .ctxld g b => [encI 0xD5 g b]
  | .tlbinvPage g b dev => [encR 0xD6 (encTlb 1 dev) g b]
  | .tlbinvAsid g b dev => [encR 0xD6 (encTlb 2 dev) g b]
  | .tlbinvAll g b dev => [encR 0xD6 (encTlb 3 dev) g b]
  | .rtabw g b => [encR 0xD7 1 g b]
  | .rtabwWin g b => [encR 0xD7 2 g b]
  | .sptw g b => [encR 0xD8 1 g b]
  | .sptwRd g b => [encR 0xD8 2 g b]
  | .mma g b => encC 0xF8 1 g b
  | .xld g b => encC 0xF8 2 g b
  | .accrd g b => encC 0xF8 3 g b
  | .accld g b => encC 0xF8 4 g b
  | .tcopy g b => encC 0xF9 1 g b
  | .tmcast g b => encC 0xF9 2 g b
  | .twin g b => encC 0xF9 3 g b
  | .tfill g b => encC 0xF9 4 g b
  | .scat g b => encC 0xFA 1 g b
  | .attn g b => encC 0xFB 1 g b
  | .kvapp g b => encC 0xFB 2 g b
  | .kvrot g b => encC 0xFB 3 g b
  | .kvevict g b => encC 0xFB 4 g b
  | .undefinedInstruction _ => []
  | .engineCommandStart _ _ _ _ => []
  | .engineCommandComplete _ _ _ _ => []
  | .tmcastGranuleDelivery _ _ _ _ => []
  | .enginePageResume _ _ _ _ => []
  | .mmaDrain _ _ _ => []
  | .chainComplete _ _ _ => []
  | .leaseGrant _ _ _ => []
  | .leaseExpiry _ _ _ => []
  | .queueDelivery _ _ _ => []
  | .postedStoreAck _ => []
  | .launchRecordAccept _ _ => []
  | .taskPlacement _ _ _ => []
  | .parkedRestore _ _ _ => []
  | .timeSliceExpiry _ _ _ => []
  | .priorityAging _ _ => []
  | .starvationOrdering _ _ => []
  | .stealRequest _ _ _ _ => []
  | .stealBackoffExpiry _ _ _ => []
  | .cohortBarrierComplete _ _ _ => []
  | .futureRetry _ _ => []
  | .counterLowering _ _ _ => []
  | .shapeConfirmation _ _ _ => []
  | .tailRecordEntry _ _ _ => []
  | .pageWalkComplete _ _ => []
  | .pageResume _ _ => []
  | .evictionStart _ _ _ _ => []
  | .evictionShootdownDone _ => []
  | .ringSlot _ => []
  | .colBypassTakeover _ _ => []
  | .dieFenceOrder _ _ => []
  | .ringImageArrival _ => []
  | .ringImageReread _ _ _ => []
  | .laneTest _ _ => []
  | .patrolScrub _ => []
  | .queueDoorbellWrite _ => []
  | .qcbCommit _ _ => []
  | .queueReset _ => []
  | .queueResetComplete _ => []
  | .guldonNop _ => []
  | .guldonLaunch _ => []
  | .guldonIlaunch _ => []
  | .guldonCopy _ => []
  | .guldonSignal _ => []
  | .guldonWait _ => []
  | .guldonWaitSatisfied _ => []
  | .guldonLoop _ => []
  | .guldonCond _ => []
  | .guldonRestore _ => []
  | .guldonDoorbell _ => []
  | .prologueEnd _ => []
  | .packetCompletion _ _ => []
  | .heartbeatWrite _ _ => []
  | .watchdogReset _ _ => []
  | .firmwareUpdate _ _ _ => []
  | .updateRollback _ => []
  | .spanRequestArrival _ => []
  | .spanResend _ _ => []
  | .spanUndeliverable _ _ => []
  | .ingestMessageLanding _ => []
  | .ingestReassemblyTimeout _ _ => []
  | .ingestBufferedLanding _ => []
  | .snapshotRequest _ => []
  | .keyInstall _ _ _ => []
  | .keyInstallDone _ => []
  | .budgetWrite _ => []
  | .powerArbitration _ => []
  | .getVersion => []
  | .getCapabilities => []
  | .negotiateAlgorithms _ _ => []
  | .getDigests => []
  | .getCertificate _ _ _ => []
  | .challenge _ _ => []
  | .getMeasurements _ _ => []
  | .moduleReset _ => []
  | .dieCalibrated _ => []
  | .fullServiceStart _ => []
  | .registerWrite _ _ => []
  | .dieFailure _ _ => []
  | .uetPacketArrival _ => []
  | .landingRingEnable _ => []
  | .recoveryImage _ => []
  | .applicationCoreAccess _ => []
  | .deviceMemoryAccess _ => []

/-- The bytes of an instruction, lowest address first (R79, R80). -/
def encodeBytes (i : Instr) : List Byte := (encode i).flatMap fun w => natToBytes 8 w.toNat

end Sys2Proof
end

