-- ==== Sys2Proof/Machine/Frames.lean ====
section
/-! DEFINITION. The context frame (R345 to R353): its bytes, writing and reading it, drains (R230, R351), parking and
restoring. -/

namespace Sys2Proof.Machine

/-- Bytes of a frame (R347). -/
def frameSize : Nat := 0x2B80

/-- A field of a frame: byte offset, bytes, value. -/
abbrev FrameField := Nat × Nat × Nat

/-- The number of one bits. -/
def popcount {w : Nat} (x : BitVec w) : Nat := (List.range w).foldl (fun a i => if x.getLsbD i then a + 1 else a) 0

/-- A scalar queue's control word (R349). -/
def queueCtl (q : Queue Word) : Nat :=
  let n := q.items.length
  let at_ (i : Nat) : Nat := (q.head + i) % 8
  let bits (f : Option (Word × Bool) → Bool) : Nat :=
    (List.range n).foldl (fun a i => if f (q.items.getD i none) then a + 2 ^ at_ i else a) 0
  q.occ + q.pend * 2 ^ 4 + q.head % 8 * 2 ^ 8 + (q.head + n) % 8 * 2 ^ 11 +
    bits (fun e => match e with
      | some (_, t) => t
      | none => false) * 2 ^ 16 + bits (·.isNone) * 2 ^ 24
/-- The fields of scalar queue `i` (R349): control word and eight positions in physical order. -/
def queueFields (i : Nat) (q : Queue Word) : List FrameField :=
  let base := 0x210 + 40 * i
  (base, 4, queueCtl q) :: (List.range q.items.length).map fun k =>
    (base + 4 + 4 * ((q.head + k) % 8), 4, match q.items.getD k none with
      | some (v, _) => v.toNat
      | none => 0)
/-- The fields of vector queue `i` (R349); no position is pending when a frame is written (R347). -/
def vqueueFields (i : Nat) (q : Queue VecReg) : List FrameField :=
  let base := 0x2000 + 576 * i
  let n := q.items.length
  let taint := (List.range n).foldl (fun a k => match q.items.getD k none with
    | some (_, true) => a + 2 ^ ((q.head + k) % 2)
    | _ => a) 0
  (base, 4, n + q.head % 2 * 2 ^ 4 + (q.head + n) % 2 * 2 ^ 5 + taint * 2 ^ 6) ::
    (List.range n).map fun k => (base + 64 + 256 * ((q.head + k) % 2), 256, match q.items.getD k none with
      | some (v, _) => v.toNat
      | none => 0)

/-- wkind, wref and wval of a wait (R348). -/
def waitFields : Wait → Nat × Nat × Nat
  | .none => (0, 0, 0)
  | .waits r t _ => (1, r.toNat, t.toNat)
  | .waitsDec r t _ => (2, r.toNat, t.toNat)
  | .cbar id _ => (3, id, 0)
  | .lease n _ => (4, 0, n)
  | .commit _ => (5, 0, 0)
  | .page _ => (6, 0, 0)

/-- What a drain recorded (R351): the saved commands, next group, first row, row count, row format, address of the rows, and the
elements of a suspended command that has not entered again since it was restored (none: they stand in accumulator memory). -/
structure Drained where
  cmds : List Cmd
  group : Nat
  acc0 : Nat
  m : Nat
  int : Bool
  addr : Nat
  rows : List Nat

/-- Nothing drained. -/
def Drained.empty : Drained := ⟨[], 0, 0, 0, false, 0, []⟩
/-- The command words that the frame holds, at most 16 (R348). -/
def Drained.words (d : Drained) : List (List Word64) := (d.cmds.take 16).map (·.words)

/-- Every field of a frame (R348), after zeros: the dead predicates are left out (R350). -/
def State.frameFields (s : State) (u : Nat) (i : Inst) (dr : Drained) : List FrameField :=
  let c := i.ctx
  let r := c.regs
  let b (x : Bool) (k : Nat) : Nat := if x then 2 ^ k else 0
  let live := (List.range 16).filter fun k => bitAt r.plive k
  let w := waitFields i.sched.wait
  let loops := c.st.loops.reverse
  let rets := c.st.rets.reverse
  let tile := s.tile i.who.die i.tileNo
  (List.range (0x2B00 / 8)).map (fun k => (8 * k, 8, 0)) ++
  [(0, 4, 1 + b (!dr.words.isEmpty) 16 + b i.sched.committed 17 + b i.range.steal 18 + b i.ex.unconf 19 +
      loops.length * 2 ^ 20 + rets.length * 2 ^ 23),
   (4, 2, r.plive.toNat), (8, 8, c.pc.toNat), (0x10, 8, c.st.sp.toNat), (0x18, 4, c.st.rsd.toNat),
   (0x1C, 4, i.who.asid), (0x20, 4, i.who.task.toNat), (0x24, 4, i.who.blk.toNat), (0x28, 4, i.who.ext.toNat),
   (0x2C, 4, i.range.lo.toNat), (0x30, 4, i.range.hi.toNat), (0x34, 1, s.cohortByte u i), (0x38, 8, i.who.tag.toNat)] ++
  (List.range 55).map (fun n => (0x40 + 4 * (n + 1), 4, (r.getS (n + 1)).toNat)) ++
  [(0x120, 8, r.staint.toNat % 2 ^ 56 / 2 * 2), (0x128, 4, r.vtaint.toNat % 2 ^ 28),
   (0x12C, 2, live.foldl (fun a k => a + b (bitAt r.ptaint k) k) 0)] ++
  (loops.zipIdx.flatMap fun p => [(0x130 + 24 * p.2, 4, p.1.count.toNat), (0x138 + 24 * p.2, 8, p.1.start.toNat),
    (0x140 + 24 * p.2, 8, p.1.stop.toNat)]) ++
  rets.zipIdx.map (fun p => (0x1C0 + 8 * p.2, 8, p.1.toNat)) ++
  [(0x1E0, 4, w.1), (0x1E4, 4, w.2.1), (0x1E8, 4, w.2.2)] ++
  (List.range 8).map (fun k =>
    let st := tile.streams.get Stream.init k
    (0x1F0 + 4 * k, 4, if st.owner = some i.who.asid then st.pos.toNat else 0xFFFF_FFFF)) ++
  (List.range 8).flatMap (fun k => queueFields k (r.getQ k)) ++
  [(0x350, 4, dr.words.length), (0x354, 4, dr.group), (0x358, 4, dr.acc0), (0x35C, 4, dr.m), (0x360, 4, b dr.int 0),
   (0x368, 8, dr.addr)] ++
  (List.range 28).map (fun n => (0x400 + 256 * n, 256, (r.getV n).toNat)) ++
  (List.range 4).flatMap (fun k => vqueueFields k (r.getVq k)) ++
  (dr.words.zipIdx.flatMap fun p => p.1.zipIdx.map fun w => (0x2900 + 32 * p.2 + 8 * w.2, 8, w.1.toNat)) ++
  live.zipIdx.map fun p => (0x2B00 + 8 * p.2, 8, (r.getP p.1).toNat)

/-! ## Drains -/

/-- Commands of an instance in a queue, kept or taken. -/
def Cmd.isOf (c : Cmd) (u : Nat) : Bool := c.uid == u && c.chain.isNone

/-- The matrix engine holds a command of the instance, running or queued (R230). -/
def Engines.hasMatrix (e : Engines) (u : Nat) : Bool :=
  e.running.any (fun r => r.eng == 0 && r.cmd.isOf u) || e.restored.any (·.isOf u) ||
    (List.range 4).any fun p => (e.queues.get [] p).any (·.isOf u)

/-- The accumulator of an `MMA` holds INT96 (R225). -/
def Cmd.intAcc (c : Cmd) : Bool :=
  match c.descs[0]? with
  | some d => decide (5 ≤ d.fmt)
  | none => false

/-- The suspended `MMA` of the instance on a tile (R230): the one in progress, or one that a restore has put back and that
has not entered the engine yet. -/
def Engines.suspended (e : Engines) (u : Nat) : Option Cmd :=
  ((e.running.find? fun r => r.eng == 0 && r.cmd.isOf u && r.cmd.op == .mma).map fun r => { r.cmd with suspended := true }).or
    (e.restored.find? fun c => c.isOf u && c.suspended)

/-- The drain of R230 and R351 on a tile: the suspended command and the later matrix words of the instance leave the
engine and its queue. With the command in progress and a full queue they are 17: the frame holds the first 16, and the last
one is kept with the instance alone (log entry 144). -/
def State.drain (s : State) (d t u : Nat) (addr : Nat) : State × Drained :=
  let e := (s.tile d t).eng
  let run := e.suspended u
  let queued := (List.range 4).flatMap fun p => (e.queues.get [] p).filter (·.isOf u)
  let saved := run.toList ++ (e.restored.filter fun c => c.isOf u && !c.suspended) ++ queued
  if saved.isEmpty then (s, .empty)
  else
    let s := s.updEng d t fun e =>
      { e with
        running := e.running.filter fun r => !(r.eng == 0 && r.cmd.isOf u && r.cmd.op == .mma)
        restored := e.restored.filter fun c => !c.isOf u
        lease := (match e.lease with
          | some l => if l.uid = u then none else some l
          | none => none)
        queues := (List.range 4).foldl (fun q p => q.upd [] p fun l => l.filter fun c => !c.isOf u) e.queues }
    let cmds := saved.map fun c => { c with rows := [] }
    (s, match run with
      | some c => ⟨cmds, c.group, c.f.getD 6 0, c.f.getD 3 0, c.intAcc, addr, c.rows⟩
      | none => ⟨cmds, 0, 0, 0, false, addr, []⟩)

/-- The saved rows as fields relative to the address of the rows (R351): 256 elements of 12 bytes each, in words that
cross no page. -/
def State.rowFields (s : State) (d t : Nat) (dr : Drained) : List FrameField :=
  let rows := if dr.rows.isEmpty then
      (List.range (256 * dr.m)).map fun k => ((s.tile d t).acc.get 0 (256 * dr.acc0 + k)).toNat
    else dr.rows
  rows.zipIdx.flatMap fun v => (List.range 3).map fun k => (12 * v.2 + 4 * k, 4, v.1 / 2 ^ (32 * k) % 2 ^ 32)

/-- Writes fields at a physical address. -/
def State.writeFields (s : State) (pa : Nat) (l : List FrameField) : State :=
  l.foldl (fun s f => s.writePa (pa + f.1) f.2.1 f.2.2) s

/-! ## Reading a frame -/

/-- Why a frame is bad (R346). -/
def frameBad (rd : Nat → Nat → Nat) : Bool :=
  let h := rd 0 4
  let ld := h / 2 ^ 20 % 8
  let rdp := h / 2 ^ 23 % 8
  let pcBad (p : Nat) : Bool := p % 8 != 0 || p / 2 ^ 55 != 0
  let qBad (i : Nat) : Bool :=
    let w := rd (0x210 + 40 * i) 4
    let fl := w % 16; let pn := w / 16 % 16; let hd := w / 2 ^ 8 % 8; let tl := w / 2 ^ 11 % 8
    let mask := w / 2 ^ 24
    decide (8 < fl + pn) || tl != (hd + fl + pn) % 8 ||
      popcount (BitVec.ofNat 8 mask) != pn || w / 2 ^ 14 % 4 != 0 ||
      (List.range 8).any fun p => (mask / 2 ^ p % 2 == 1) &&
        (decide (fl + pn ≤ (p + 8 - hd) % 8) || rd (0x210 + 40 * i + 4 + 4 * p) 4 != 0) ||
      rd (0x234 + 40 * i) 4 != 0
  let vBad (i : Nat) : Bool :=
    let w := rd (0x2000 + 576 * i) 4
    decide (2 < w % 4) || w / 4 % 4 != 0 || w / 32 % 2 != (w / 16 % 2 + w % 4) % 2 || w / 256 != 0
  h % 2 ^ 16 != 1 || h / 2 ^ 26 != 0 || decide (6 < ld) || decide (4 < rdp) || pcBad (rd 8 8) ||
    rd 6 2 != 0 || rd 0x1C 4 / 512 != 0 || rd 0x35 3 != 0 || rd 0x12E 2 != 0 || rd 0x128 4 / 2 ^ 28 != 0 ||
    rd 0x120 8 % 2 != 0 || rd 0x120 8 / 2 ^ 56 != 0 || decide (6 < rd 0x1E0 4) || rd 0x1EC 4 != 0 ||
    decide (16 < rd 0x350 4) || rd 0x360 4 / 2 != 0 || rd 0x364 4 != 0 ||
    (List.range 18).any (fun k => rd (0x370 + 8 * k) 8 != 0) ||
    (List.range 6).any (fun e => rd (0x134 + 24 * e) 4 != 0) ||
    (List.range ld).any (fun e => pcBad (rd (0x138 + 24 * e) 8) || pcBad (rd (0x140 + 24 * e) 8)) ||
    (List.range rdp).any (fun e => pcBad (rd (0x1C0 + 8 * e) 8)) ||
    (List.range 8).any qBad || (List.range 4).any vBad ||
    (List.range 4).any fun i => (List.range 15).any fun k => rd (0x2004 + 576 * i + 4 * k) 4 != 0

/-- The frame has pending positions (R346). -/
def framePending (rd : Nat → Nat → Nat) : Bool := (List.range 8).any fun i => rd (0x213 + 40 * i) 1 != 0

/-- A scalar queue of a frame (R349). -/
def readQueue (rd : Nat → Nat → Nat) (i : Nat) : Queue Word :=
  let w := rd (0x210 + 40 * i) 4
  let hd := w / 2 ^ 8 % 8
  ⟨hd, (List.range (w % 16 + w / 16 % 16)).map fun k =>
    let p := (hd + k) % 8
    if w / 2 ^ (24 + p) % 2 = 1 then none
    else some (BitVec.ofNat 32 (rd (0x214 + 40 * i + 4 * p) 4), w / 2 ^ (16 + p) % 2 == 1)⟩
/-- A vector queue of a frame (R349). -/
def readVqueue (rd : Nat → Nat → Nat) (i : Nat) : Queue VecReg :=
  let w := rd (0x2000 + 576 * i) 4
  let hd := w / 16 % 2
  ⟨hd, (List.range (w % 4)).map fun k =>
    let p := (hd + k) % 2
    some (BitVec.ofNat 2048 (rd (0x2040 + 576 * i + 256 * p) 256), w / 2 ^ (6 + p) % 2 == 1)⟩

/-- Loads every field of a frame except those marked RO (R352); dead predicates read as zero (R350). -/
def Inst.load (i : Inst) (rd : Nat → Nat → Nat) : Inst :=
  let h := rd 0 4
  let pl := BitVec.ofNat 16 (rd 4 2)
  let live := (List.range 16).filter fun k => bitAt pl k
  let w32 (o : Nat) : Word := BitVec.ofNat 32 (rd o 4)
  let w64 (o : Nat) : Word64 := BitVec.ofNat 64 (rd o 8)
  let r : Regs :=
    { s := (List.range 55).foldl (fun m n => m.set 0 (n + 1) (w32 (0x40 + 4 * (n + 1)))) .empty
      v := (List.range 28).foldl (fun m n => m.set 0 n (BitVec.ofNat 2048 (rd (0x400 + 256 * n) 256))) .empty
      p := live.zipIdx.foldl (fun m p => m.set 0 p.1 (w64 (0x2B00 + 8 * p.2))) .empty
      q := (List.range 8).foldl (fun m k => m.set Queue.empty k (readQueue rd k)) .empty
      vq := (List.range 4).foldl (fun m k => m.set Queue.empty k (readVqueue rd k)) .empty
      staint := w64 0x120
      vtaint := w32 0x128
      ptaint := BitVec.ofNat 16 (rd 0x12C 2) &&& pl
      plive := pl }
  let st : Stacks :=
    { loops := ((List.range (h / 2 ^ 20 % 8)).map fun e =>
        (⟨w32 (0x130 + 24 * e), w64 (0x138 + 24 * e), w64 (0x140 + 24 * e)⟩ : LoopEntry)).reverse
      rets := ((List.range (h / 2 ^ 23 % 8)).map fun e => w64 (0x1C0 + 8 * e)).reverse
      rsd := w32 0x18
      sp := w64 0x10 }
  { i with
    who := { i.who with task := w32 0x20, blk := w32 0x24, ext := w32 0x28 }
    ctx := { i.ctx with pc := w64 8, regs := r, st := st, flights := [], image := none }
    range := { i.range with lo := w32 0x2C, hi := w32 0x30, steal := h / 2 ^ 18 % 2 == 1 }
    sched := { i.sched with committed := h / 2 ^ 17 % 2 == 1 }
    ex := { i.ex with unconf := h / 2 ^ 19 % 2 == 1 } }

/-- The wait that wkind records (R352). -/
def frameWait (rd : Nat → Nat → Nat) : Wait :=
  let ref : Word := BitVec.ofNat 32 (rd 0x1E4 4)
  let v := rd 0x1E8 4
  match rd 0x1E0 4 with
  | 1 => .waits ref (BitVec.ofNat 32 v) false
  | 2 => .waitsDec ref (BitVec.ofNat 32 v) false
  | 3 => .cbar ref.toNat false
  | 4 => .lease v false
  | 5 => .commit false
  | 6 => .page true
  | _ => .none

/-- The saved elements of a frame with `accsave`, row by row (R351, R352); `rd` reads the rows. -/
def frameRows (rd rows : Nat → Nat → Nat) : List Nat :=
  if rd 0 4 / 2 ^ 16 % 2 = 1 then
    (List.range (256 * Nat.min (512 - Nat.min 511 (rd 0x358 4)) (rd 0x35C 4))).map fun k => rows (12 * k) 12
  else []
/-- Writes saved accumulator elements back, from row `acc0` on (R352). -/
def State.restoreRows (s : State) (d t acc0 : Nat) (rows : List Nat) : State :=
  s.updTile d t fun x => { x with acc := rows.zipIdx.foldl (fun a v => a.set 0 (256 * acc0 + v.2) (BitVec.ofNat 96 v.1)) x.acc }

/-! ## Parking -/

/-- The accumulator slot `k` of a die (R334). -/
def State.accAt (s : State) (d k : Nat) : Nat := (s.die d).regs.fpacc.toNat + 0x18_0000 * k

/-- A park that cannot be performed is counted once for its cause (R353). -/
def State.noFrame (s : State) (u : Nat) (i : Inst) (cause : Nat) : State :=
  if hasNat i.sched.noFrame cause then s
  else (s.rasBump i.who.die 5).updInst u fun j => { j with sched := { j.sched with noFrame := j.sched.noFrame ++ [cause] } }

/-- A producer that a park waits for is pending (R347): a load of another module, an extent not confirmed. -/
def Ctx.parkWaits (c : Ctx) : Bool := c.prods.any fun p => p.src.isSpan || p.src.isExtent
/-- Parks an instance in a frame slot of the pool (R353): results land, local producers deliver, the lease ends; the other
producers must have delivered first, all but chain statuses (R347); with `dr` the matrix engine is drained (R230); `cause` is its cause (R353, as in `Sched`). -/
def State.park (s : State) (u : Nat) (dr : Bool) (cause : Nat) : State :=
  match s.inst u with
  | none => s
  | some i =>
    let d := i.who.die
    let t := i.tileNo
    let sch := (s.die d).sch
    match freeBelow sch.frames (s.die d).regs.fpn.toNat with
    | none => s.noFrame u i cause
    | some k =>
      if i.ctx.parkWaits then s
      else
      let need := dr && (s.tile d t).eng.hasMatrix u
      if need && (freeBelow sch.accs 64).isNone then s.noFrame u i cause
      else
        let a := (freeBelow sch.accs 64).getD 0
        let x := s.deliverLocal i.ctx.prods.length i.ctx.landAll
        let i := { i with ctx := x.2 }
        let s := x.1.endLease d t u
        let r := if need then s.drain d t u (s.accAt d a) else (s, .empty)
        let s := r.1
        let s := s.writeFields (s.frameAt d k) (s.frameFields u i r.2)
        let s := if need then s.writeFields (s.accAt d a) (s.rowFields d t r.2) else s
        let s := { s with phys := { s.phys with frames := s.phys.frames.put (s.frameAt d k) (tileKey d t) } }
        let s := s.leaveSlot u i
        let s := s.updSch d fun x =>
          { x with frames := x.frames ++ [k], accs := if need then x.accs ++ [a] else x.accs }
        s.setInst u { i with sched := { i.sched with
          status := .parked, frame := some k, accSlot := if need then some a else none,
          saved := r.2.cmds, accTile := if need then some t else none, noFrame := [], preempt := false, point := false } }

/-- A page park (R354, R378): the instance asks for the page, or the pool, and is parked with wkind 6; with no frame slot it stays
stalled on its instruction (R353). -/
def State.pagePark (s : State) (u va asid kind : Nat) : State :=
  match s.inst u with
  | none => s
  | some i =>
    let d := i.who.die
    let r := s.pageRequest va asid kind d
    let s := r.1.setInst u { i with sched := { i.sched with wait := .page false } }
    let s := s.park u false (3 + va / 65536)
    match s.inst u with
    | none => s
    | some j =>
      if j.sched.status = .parked then s.updSch d fun x => { x with parks := x.parks ++ [(r.2, u)] }
      else s.setInst u { j with sched := { j.sched with wait := .none } }
/-- A task instance that the die scheduler moves: no prologue, handler or firmware. -/
def Inst.isTask (i : Inst) : Bool := i.who.kind == .block || i.who.kind == .segBlock
/-- The word needs a page that is out (R354): a task instance is parked until it comes; a handler, a prologue and firmware stay at
their word, and the page is asked for. -/
def Cur.pageWait (c : Cur) (va asid kind : Nat) : State :=
  if c.i.isTask then (c.save.pagePark c.uid va asid kind).updSeq c.die c.q fun x => { x with clk := x.clk + 8 }
  else (c.s.pageRequest va asid kind c.die).1.updSeq c.die c.q fun x => { x with clk := x.clk + 1 }

end Sys2Proof.Machine
end

