-- ==== Sys2Proof/Machine/Fetch.lean ====
section
/-! DEFINITION. Fetching the next word of the sequencer in focus (R79, R80, R91, R340), and what comes before it: the
choice of the resident instance (R45), the join of a descriptor's cohort (R38), a park at a pre-emption point (R48)
and the limit of a prologue (R364). -/

namespace Sys2Proof.Machine

/-- What the sequencer in focus does next. -/
inductive Fetched where
  | word (i : Instr)
  | state (s : State)
  | nothing
  | noMem (pa : Nat)

/-- A producer of the instance that the sequencer has left is still pending (R45). -/
def State.leftOpen (s : State) (d q : Nat) : Bool :=
  (s.seq d q).left.any fun u => (s.inst u).any fun i => !i.ctx.prods.isEmpty
/-- The instance can take its sequencer: its wait is over, or it has yielded and holds its slot (R148). -/
def Inst.canRun (i : Inst) : Bool := i.sched.status == .resident || (i.sched.status == .ready && i.sched.seq.isSome)
/-- The resident instance that a free sequencer takes: the oldest one whose wait is over (log entry
9); while the handler waits, only the handler (R339). None before the producers of the instance left have delivered
(R45). -/
def State.pick (s : State) (d q : Nat) : Option Nat :=
  if (s.seq d q).trapped.isSome then
    match s.inst (handlerUid d q) with
    | some i => if i.sched.status = .resident then some (handlerUid d q) else none
    | none => none
  else if s.leftOpen d q then none
  else ((s.seq d q).slots.cells.foldl (fun a p => match s.inst p.2 with
    | some i =>
      if i.canRun then
        match a with
        | some b => if b.1 ≤ i.sched.age then a else some (i.sched.age, p.2)
        | none => some (i.sched.age, p.2)
      else a
    | none => a) (none : Option (Nat × Nat))).map (·.2)

/-- Cycles spent ready and unplaced since the age was last set (R46). -/
def Inst.readySum (i : Inst) (cyc : Nat) : Nat :=
  i.sched.waited + (if i.sched.status = .ready then cyc - i.sched.since else 0)
/-- The sequencer switches to a resident instance (R45), no earlier than the cycle that its die has come to; the time that one
which has yielded was ready counts (R46). -/
def State.switchTo (s : State) (d q u : Nat) : State :=
  let x := s.seq d q
  let clk := Nat.max x.clk (s.die d).cyc
  (s.updInst u fun i => { i with sched := { i.sched with status := .running, waited := i.readySum clk } }).setSeq d q
    { x with clk := clk, running := some u, slice := clk, left := none }

/-- A frame slot is free for an instance, and a slot for the rows of its matrix commands if it has any (R353). -/
def State.parkRoom (s : State) (d q u : Nat) : Bool :=
  (freeBelow (s.die d).sch.frames (s.die d).regs.fpn.toNat).isSome &&
    (!(s.tile d (tileOfSeq q)).eng.hasMatrix u || (freeBelow (s.die d).sch.accs 64).isSome)
/-- A committed instance that was asked to leave and has come to a wait: it is to be parked (R48). A park that has found no room
once is tried again when there is room (R353). -/
def State.parkAtWait (s : State) (d q : Nat) : Option Nat :=
  ((s.seq d q).slots.cells.find? fun p => (s.inst p.2).any fun i =>
    i.sched.status == .blocked && i.sched.preempt && !i.ctx.parkWaits &&
      (s.parkRoom d q p.2 || !hasNat i.sched.noFrame 2)).map (·.2)

/-- The word whose first 64 bits are `w0`, read from memory at `pa`. -/
def State.decodeAt (s : State) (d pc pa : Nat) (w0 : BitVec 64) : Instr :=
  let r :=
    if isCmdWord w0 then
      if pc % 32 ≠ 0 then .error .cmdAlign
      else if isAtt d && majorOf w0 == 0xF8 then .error .noMajor
      else decodeWords w0 (BitVec.ofNat 64 (s.readPa (pa + 8) 8)) (BitVec.ofNat 64 (s.readPa (pa + 16) 8))
        (BitVec.ofNat 64 (s.readPa (pa + 24) 8))
    else decodeWords w0 0 0 0
  match r with
  | .ok i => i
  | .error _ => .undefinedInstruction w0

/-- The fetch of a running stream (R340). -/
def Cur.fetch (c : Cur) : Fetched :=
  let d := c.die
  let pc := c.pc
  let trapF (code cls : Nat) : Fetched := .state (State.takeTrap c code cls 0 pc pc)
  match c.s.translate d c.asid pc.toNat .fetch with
  | .ok pa =>
    let w0 := BitVec.ofNat 64 (c.s.readPa pa 8)
    if isSpan pa then trapF 0x0C 0
    else if c.s.badAt pa (if isCmdWord w0 ∧ pc.toNat % 32 = 0 then 32 else 8) then .state (State.takeTrap (c.mapS fun s => s.uecc pa) 0x42 1 0 pc pc)
    else .word (c.s.decodeAt d pc.toNat pa w0)
  | .transFault => trapF 0x0B 0
  | .accFault => trapF 0x0C 0
  | .noMem pa => .noMem pa
  | _ =>
    if (c.s.die d).walks.any (·.uid == c.uid) then .state (c.after 1)
    else .state ((c.mapS fun s => s.updDie d fun x =>
      { x with walks := x.walks ++ [⟨c.asid, pc.toNat, Acc.code .fetch, c.uid⟩] }).after 1)

/-- The start of an instance whose descriptor names a cohort (R38). The join stays due through the full-cohort start fault:
it is tried again before the next word, also when the handler returns with `%eact` = 1 (DESIGN CHOICE, log entry 138). -/
def Cur.joinStart (c : Cur) : State :=
  if (c.s.cohort c.die c.i.ex.cohort).full then State.takeTrap c 0x0F 0 0 c.pc c.pc
  else
    let s := c.s.setInst c.uid { c.i with ex := { c.i.ex with joinDue := false } }
    s.cohortJoin c.die c.i.ex.cohort c.uid

/-- What the sequencer in focus does next. An instance that is to be parked at its pre-emption point and finds no frame slot issues
nothing more and tries again every 8 cycles (DESIGN CHOICE, log entry 160). -/
def State.fetch (s : State) : Fetched :=
  let d := s.focus.1
  let q := s.focus.2
  match s.cur with
  | none =>
    match s.parkAtWait d q with
    | some u => .state (s.park u true 2)
    | none =>
      match s.pick d q with
      | some u => .state (s.switchTo d q u)
      | none => .nothing
  | some c =>
    if c.i.ex.joinDue then .state c.joinStart
    else if c.i.sched.preempt && c.i.sched.point then
      .state ((c.save.park c.uid true 2).updSeq d q fun x => { x with clk := x.clk + 8 })
    else if c.i.who.kind == .prologue && decide (4096 ≤ c.i.ctx.issued) then
      .state (c.save.prologueCancel d c.uid 2)
    else c.fetch

end Sys2Proof.Machine
end

