-- ==== Sys2Proof/Machine/Mem.lean ====
section
/-! DEFINITION. Memory, atomic, future, semaphore, queue-inspection, lease and chain instructions (R187 to R216). -/

namespace Sys2Proof.Machine

/-! ## Shared operations -/

/-- Effective address of an M-format word (R187). -/
def Cur.ea (c : Cur) (b : IBody) : Word64 := c.regs.getPair b.a.toNat + imm64 b
/-- A span load or atomic goes out as a message (R383, R384). -/
def Cur.ask (c : Cur) (va pa n op v : Nat) : Cur := c.mapS fun s => s.sendSpan (c.spanMsg va pa n op v)
/-- An atomic on bytes of another module: it goes on with their release sequences (R250), and what they hold now the stream does
not know. -/
def Cur.rmwAway (c : Cur) (pa n : Nat) (heads : List Head) : Cur :=
  (c.mapS fun s => s.awayRmw pa n heads).mapCtx fun x => { x with away := dropBytes x.away pa n }
/-- Taint of some of a word's scalar reads. -/
def Cur.taintOf (c : Cur) (ops : List Opnd) : Bool :=
  match c.regs.reads ops with
  | .vals l _ => l.any (·.2)
  | _ => false
/-- Taint of some of a word's vector reads. -/
def Cur.taintOfV (c : Cur) (ops : List Opnd) : Bool :=
  match c.regs.readsV ops with
  | .vals l _ => l.any (·.2)
  | _ => false
/-- An acquire of scope `n` (R194): every earlier load must deliver before a later access, and what the loads read from
synchronizes (R251). A chain status is no load (R216). -/
def Cur.acquire (c : Cur) (n : Nat) : Cur := c.mapCtx fun x =>
  { x with
    ord := x.ord.acqFence n
    prods := x.prods.map fun p =>
      if p.src.isChain then p else { p with acq := true, scope := some (Nat.max n (p.scope.getD 0)) } }
/-- The order has an acquire side. -/
def ordAcq : Order → Bool
  | .acq => true | .ar => true | .sc => true | _ => false
/-- The order has a release side. -/
def ordRel : Order → Bool
  | .rel => true | .ar => true | .sc => true | _ => false
/-- The fence of a sc operation of scope `n` on each side of it (R255), and the release fence that it is (R251). -/
def Cur.fenceSc (c : Cur) (n : Nat) : Cur :=
  let r := c.s.scFence c.i.ctx.ord n
  { c with s := r.1, i := { c.i with ctx := { c.i.ctx with ord := r.2.relFence n } } }
/-- The fence of an access, if its order is sc. -/
def Cur.fenceIf (c : Cur) (m : MemSpec) : Cur := if m.ord = .sc then c.fenceSc (scopeOf m) else c
/-- Scope of the acquire side of an access, if its order has one. -/
def acqScope (m : MemSpec) : Option Nat := if ordAcq m.ord then some (scopeOf m) else none
/-- The release sequences that a write of this order heads (R250, R251). -/
def Cur.headsOf (c : Cur) (m : MemSpec) : List Head :=
  if ordRel m.ord then c.i.ctx.ord.release (scopeOf m) else c.i.ctx.ord.rels
/-- The release side of an access, if its order has one (R194, R195). -/
def releaseIf (c : Cur) (m : MemSpec) (k : Cur → Eff) : Eff :=
  if ordRel m.ord then release c (m.scope == .sys) k else k c
/-- The store is retractable: `n` bytes from `va` lie in the block's share (R297). -/
def Cur.retracts (c : Cur) (va n : Nat) : Bool :=
  c.i.ex.pred && decide (c.i.ex.share.1 ≤ va) && decide (va + n ≤ c.i.ex.share.2)
/-- The commit point of a store that may be retractable (R189, R297). -/
def storeStall (c : Cur) (va n : Nat) (e : Eff) : Eff := if c.retracts va n then e else commitStall c e
/-- A store that may be retractable commits the instance unless it is. -/
def Cur.storeCommit (c : Cur) (va n : Nat) : Cur := if c.retracts va n then c else c.commit

/-! ## Plain loads and stores (R190 to R193) -/

/-- The producer source of a load of `n` bytes. -/
def Cur.load (c : Cur) (va pa n : Nat) (form : LoadForm) : Cur × ProdSrc :=
  if isSpan pa then (c.ask va pa n 2 0, .span c.s.ports.nextMsg form (c.ownBytes pa n)) else (c, .mem pa n form)

/-- A plain load or `LDC`: `k` queue entries, performed when it is delivered. -/
def plainLoad (g : Guard) (b : IBody) (n k : Nat) (form : LoadForm) (ldc : Bool) (s : State) :
    Host.Outcome State Fault Refusal :=
  issue true true s fun c => guarded c g <| needRoom c b.dst.toNat k <| afterAcquire c <|
    access c (c.ea b) n .read fun pa =>
      let t := c.regs.taintPair b.a.toNat
      let r := (c.orderTaint t).load (c.ea b).toNat pa n form
      .ok (r.1.produceAs b.dst.toNat k r.2 ldc false ldc none t)

/-- LD.n8 (R190). -/
def execLdN8 (g : Guard) (b : IBody) (s : State) : Host.Outcome State Fault Refusal := plainLoad g b 1 1 (.zext 1) false s
/-- LD.i8 (R190). -/
def execLdI8 (g : Guard) (b : IBody) (s : State) : Host.Outcome State Fault Refusal := plainLoad g b 1 1 (.sext 1) false s
/-- LD.n16 (R190). -/
def execLdN16 (g : Guard) (b : IBody) (s : State) : Host.Outcome State Fault Refusal := plainLoad g b 2 1 (.zext 2) false s
/-- LD.i16 (R190). -/
def execLdI16 (g : Guard) (b : IBody) (s : State) : Host.Outcome State Fault Refusal := plainLoad g b 2 1 (.sext 2) false s
/-- LD.32 (R190). -/
def execLd32 (g : Guard) (b : IBody) (s : State) : Host.Outcome State Fault Refusal := plainLoad g b 4 1 .w32 false s
/-- LD.64 (R190). -/
def execLd64 (g : Guard) (b : IBody) (s : State) : Host.Outcome State Fault Refusal := plainLoad g b 8 2 .w64 false s
/-- LDC.32 (R193). -/
def execLdc32 (g : Guard) (b : IBody) (s : State) : Host.Outcome State Fault Refusal := plainLoad g b 4 1 .w32 true s
/-- LDC.64 (R193). -/
def execLdc64 (g : Guard) (b : IBody) (s : State) : Host.Outcome State Fault Refusal := plainLoad g b 8 2 .w64 true s

/-- The bytes of a store as a number: the low `n` bytes of a word. -/
def lowBytes (n : Nat) (v : Nat) : Nat := v % 256 ^ n

/-- A plain store of 8, 16 or 32 bits: the data register may be a queue, always consumed (R191). -/
def plainStore (g : Guard) (b : IBody) (n : Nat) (s : State) : Host.Outcome State Fault Refusal :=
  issue true true s fun c => guarded c g <| storeStall c (c.ea b).toNat n <|
    withOps c [⟨b.dst.toNat, false⟩] fun l _ eat => afterAcquire c <|
      access c (c.ea b) n .write fun pa =>
        let c1 := (c.orderTaint (c.regs.taintPair b.a.toNat)).storeCommit (c.ea b).toNat n
        .ok (eat (c1.store (c.ea b).toNat pa n (lowBytes n (nth l 0).toNat)))

/-- ST.8 (R191). -/
def execSt8 (g : Guard) (b : IBody) (s : State) : Host.Outcome State Fault Refusal := plainStore g b 1 s
/-- ST.16 (R191). -/
def execSt16 (g : Guard) (b : IBody) (s : State) : Host.Outcome State Fault Refusal := plainStore g b 2 s
/-- ST.32 (R191). -/
def execSt32 (g : Guard) (b : IBody) (s : State) : Host.Outcome State Fault Refusal := plainStore g b 4 s
/-- ST.64 (R191): the even pair, low half at the address. -/
def execSt64 (g : Guard) (b : IBody) (s : State) : Host.Outcome State Fault Refusal :=
  issue true true s fun c => guarded c g <| storeStall c (c.ea b).toNat 8 <| afterAcquire c <|
    access c (c.ea b) 8 .write fun pa =>
      let c1 := (c.orderTaint (c.regs.taintPair b.a.toNat)).storeCommit (c.ea b).toNat 8
      .ok (c1.store (c.ea b).toNat pa 8 (c.regs.getPair b.dst.toNat).toNat)

/-! ## Ordered accesses and fences (R194, R195) -/

/-- A sc load of this module is performed at its issue, between its two fences (R255); an uncorrectable error is taken as
at a delivery (R402). -/
def Cur.scLoad (c : Cur) (pa n n8 : Nat) (form : LoadForm) : Cur × ProdSrc :=
  let c := c.acquire n8
  let ws := (c.s.loadNow (.mem pa n form)).getD []
  let c := (c.fenceSc n8).reads pa n (some n8)
  let c := if c.s.badAt pa n then (c.mapS fun s => s.uecc pa).mapCtx fun x => { x with check := true } else c
  (c.fenceSc n8, .known ws)

/-- LD ordered (R194): later accesses wait for its delivery; sc acts as a fence on both sides (R255). -/
def execLdOrdered (g : Guard) (b : RBody) (m : MemSpec) (s : State) : Host.Outcome State Fault Refusal :=
  issue true true s fun c => guarded c g <|
    let n := if m.wide then 8 else 4
    let k := if m.wide then 2 else 1
    let va := c.regs.getPair b.a.toNat
    needRoom c b.dst.toNat k <| afterAcquire c <| access c va n .read fun pa =>
      let t := c.regs.taintPair b.a.toNat
      releaseIf (c.orderTaint t) m fun c =>
        let form : LoadForm := if m.wide then .w64 else .w32
        let r := if m.ord = .sc ∧ !isSpan pa then c.scLoad pa n (scopeOf m) form
          else (if m.ord = .sc then (c.acquire (scopeOf m)).fenceSc (scopeOf m) else c).load va.toNat pa n form
        .ok (r.1.produceAs b.dst.toNat k r.2 false true false (some (scopeOf m)) t)

/-- ST ordered (R194): performed after every earlier access; sc also has the acquire side of a fence (R255). -/
def execStOrdered (g : Guard) (b : RBody) (m : MemSpec) (s : State) : Host.Outcome State Fault Refusal :=
  issue true true s fun c => guarded c g <| commitStall c <|
    let n := if m.wide then 8 else 4
    let va := c.regs.getPair b.a.toNat
    withOps c (if m.wide then [] else [opB b]) fun l _ eat => afterAcquire c <|
      access c va n .write fun pa =>
        releaseIf (c.orderTaint (c.regs.taintPair b.a.toNat)) m fun c =>
          let v := if m.wide then (c.regs.getPair b.b.toNat).toNat else (nth l 0).toNat
          let c1 := ((if m.ord = .sc then c.acquire (scopeOf m) else c).fenceIf m).commit
          .ok (eat ((c1.storeAs va.toNat pa n v (c1.headsOf m)).fenceIf m))

/-- FENCE (R194). -/
def execFence (g : Guard) (_b : RBody) (m : MemSpec) (s : State) : Host.Outcome State Fault Refusal :=
  issue true true s fun c => guarded c g <| afterAcquire c <|
    releaseIf c m fun c =>
      let n := scopeOf m
      let c := if ordAcq m.ord then c.acquire n else c
      .ok (if m.ord = .sc then c.fenceSc n else if ordRel m.ord then c.mapOrd fun o => o.relFence n else c)

/-- PREF (R196): a line asked for when its translation is held; else dropped. It never faults. -/
def execPref (g : Guard) (b : IBody) (s : State) : Host.Outcome State Fault Refusal :=
  issue true true s fun c => guarded c g <|
    match c.s.translate c.die c.asid (c.ea b).toNat .read with
    | .ok pa => .ok (c.mapS fun s => s.updDie c.die fun d => { d with prefetch := d.prefetch ++ [(c.asid, pa / 64 * 64)] })
    | _ => .ok c

/-! ## Atomics (R197 to R199) -/

/-- The new value of an atomic on a cell of `w` bits; `none` where nothing is written (R197). -/
def atomNew (op : AtomOp) (w old b cmp : Nat) : Option Nat :=
  match op with
  | .add => some ((old + b) % 2 ^ w)
  | .and => some (old &&& b)
  | .or => some (old ||| b)
  | .xor => some (old ^^^ b)
  | .min sg => some (if (if sg then decide (sextN w old < sextN w b) else decide (old < b)) then old else b)
  | .max sg => some (if (if sg then decide (sextN w b < sextN w old) else decide (b < old)) then old else b)
  | .xchg => some b
  | .cas => if old = cmp then some b else none

/-- An atomic (R198): performed at its home in the step that issues it; the old value is delivered later. One of another
module is a message (R383); where the egress filter drops its write (R368), the message only reads. -/
def atomicOp (g : Guard) (b : RBody) (m : MemSpec) (op : AtomOp) (s : State) : Host.Outcome State Fault Refusal :=
  issue true true s fun c => guarded c g <| commitStall c <|
    let n := if m.wide then 8 else 4
    let k := if m.wide then 2 else 1
    let va := c.regs.getPair b.a.toNat
    withOps c (if m.wide then [] else if op = .cas then [opB b, opC b] else [opB b]) fun l _ eat =>
      needRoom c b.dst.toNat k <| afterAcquire c <| access c va n .both fun pa =>
        releaseIf (c.orderTaint (c.regs.taintPair b.a.toNat)) m fun c =>
          let v := if m.wide then (c.regs.getPair b.b.toNat).toNat else (nth l 0).toNat
          let cmp := if m.wide then (c.regs.getPair b.c.toNat).toNat else (nth l 1).toNat
          let form : LoadForm := if m.wide then .w64 else .w32
          if isSpan pa then
            let no := c.s.ports.nextMsg
            let c1 := ((if m.ord = .sc then c.acquire (scopeOf m) else c).fenceIf m).commit
            let c1 := if c1.mayStore pa then (c1.ask va.toNat pa n 1 v).rmwAway pa n (c1.headsOf m)
              else c1.filtered.ask va.toNat pa n 2 0
            .ok (eat (c1.produceAs b.dst.toNat k (.span no form []) false (ordAcq m.ord) false (acqScope m) false))
          else if c.s.badAt pa n then eccAbort c pa
          else
            let old := c.s.readPa pa n
            let c1 := ((if m.ord = .sc then c.acquire (scopeOf m) else c).fenceIf m).commit.reads pa n (acqScope m)
            let c1 := match atomNew op (8 * n) old v cmp with
              | some x => if c1.mayStore pa then c1.rmw pa n x (c1.headsOf m) else c1.filtered
              | none => c1.mapS fun s => s.putHeads pa n (joinHeads (s.headsAt pa n) (c1.headsOf m))
            .ok (eat ((c1.fenceIf m).produce b.dst.toNat k (.known (loadEntries form old)) false (ordAcq m.ord) false))

/-- AADD (R197). -/
def execAadd (g : Guard) (b : RBody) (m : MemSpec) (s : State) : Host.Outcome State Fault Refusal := atomicOp g b m .add s
/-- AAND (R197). -/
def execAand (g : Guard) (b : RBody) (m : MemSpec) (s : State) : Host.Outcome State Fault Refusal := atomicOp g b m .and s
/-- AOR (R197). -/
def execAor (g : Guard) (b : RBody) (m : MemSpec) (s : State) : Host.Outcome State Fault Refusal := atomicOp g b m .or s
/-- AXOR (R197). -/
def execAxor (g : Guard) (b : RBody) (m : MemSpec) (s : State) : Host.Outcome State Fault Refusal := atomicOp g b m .xor s
/-- AMIN (R197). -/
def execAmin (g : Guard) (b : RBody) (m : MemSpec) (s : State) : Host.Outcome State Fault Refusal := atomicOp g b m (.min m.sgn) s
/-- AMAX (R197). -/
def execAmax (g : Guard) (b : RBody) (m : MemSpec) (s : State) : Host.Outcome State Fault Refusal := atomicOp g b m (.max m.sgn) s
/-- AXCHG (R197). -/
def execAxchg (g : Guard) (b : RBody) (m : MemSpec) (s : State) : Host.Outcome State Fault Refusal := atomicOp g b m .xchg s
/-- ACAS (R197). -/
def execAcas (g : Guard) (b : RBody) (m : MemSpec) (s : State) : Host.Outcome State Fault Refusal := atomicOp g b m .cas s

/-! ## Elements through handles (R200 to R202) -/

/-- A signed 32-bit index. -/
def idx (w : Word) : Int := w.toInt

/-- LDT (R200): the element, or pad out of bounds. -/
def execLdt (g : Guard) (b : RBody) (s : State) : Host.Outcome State Fault Refusal :=
  issue false true s fun c => guarded c g <| withOps c [opA b, opB b, opC b] fun l t eat =>
    needRoom c b.dst.toNat 1 <| afterAcquire c <| withDesc c (nth l 0) fun d _ =>
      let x := [idx (nth l 1), idx (nth l 2), 0, 0]
      let n := fmtBytes d.fmt
      let give (c : Cur) (src : ProdSrc) : Eff :=
        .ok (eat ((c.orderTaint t).produceAs b.dst.toNat 1 src t false false none t))
      if !d.inBounds x then give c (.known [putElem d.fmt d.pad])
      else if d.space = 1 then
        let tile := c.s.tile c.die c.tile
        if tile.badAt (d.addr x) n then .abort (c.mapS fun s => s.rasBump c.die 1) 0x42
        else give c (.known [putElem d.fmt (tile.read (d.addr x) n)])
      else access c (BitVec.ofNat 64 (d.addr x)) n .read fun pa =>
        let r := c.load (d.addr x) pa n (.elem d.fmt)
        give r.1 r.2

/-- An unconfirmed block's STT that is a commit point, an element of a global tensor outside its share, blocks before any need or
fault of its data (R297). -/
def sttStall (c : Cur) (b : RBody) (e : Eff) : Eff :=
  if !c.i.ex.unconf then e
  else withOps c [opA b, opB b, opC b] fun l _ _ => afterAcquire c <| withDesc c (nth l 0) fun d _ =>
    let x := [idx (nth l 1), idx (nth l 2), 0, 0]
    if d.space = 0 ∧ d.inBounds x ∧ !c.retracts (d.addr x) (fmtBytes d.fmt) then commitStall c e else e
/-- STT (R200): an element store; out of bounds it is counted, or faults when strict. -/
def execStt (g : Guard) (b : RBody) (s : State) : Host.Outcome State Fault Refusal :=
  issue false true s fun c => guarded c g <| sttStall c b <|
    withOps c [opA b, opB b, opC b, ⟨b.dst.toNat, false⟩] fun l _ eat => afterAcquire c <|
      withDesc c (nth l 0) fun d pd =>
        let x := [idx (nth l 1), idx (nth l 2), 0, 0]
        let n := fmtBytes d.fmt
        let t := c.taintOf [opA b, opB b, opC b]
        let c := c.orderTaint t
        let v := lowBytes n (nth l 3).toNat
        if !d.inBounds x then
          if d.strict then .trap 0x0E c.pc
          else
            let c1 := if d.space = 0 && !c.i.ex.pred then c.commit else c
            .ok (eat (c1.mapS fun s => s.addOobw c1.die c1.asid pd 1))
        else if d.space = 1 then .ok (eat (c.mapS fun s => s.tileWrite c.die c.tile (d.addr x) n v))
        else access c (BitVec.ofNat 64 (d.addr x)) n .write fun pa =>
          .ok (eat ((c.storeCommit (d.addr x) n).store (d.addr x) pa n v))

/-- Indices of lane `i` of LDV and STV (R201): variant 0 along dimension 0, 1 along dimension 1, 2 by vb. -/
def laneIdx (var : Nat) (x y : Word) (vb : VecReg) (i : Nat) : List Int :=
  match var with
  | 0 => [idx x + i, idx y, 0, 0]
  | 1 => [idx x, idx y + i, 0, 0]
  | _ => [idx (laneOf vb i), idx y, 0, 0]

/-- Translations of a list of (lane, virtual address), in ascending lane order. -/
def laneAccess (c : Cur) (k : Acc) (n : Nat) : List (Nat × Nat) → (List (Nat × Nat × Nat) → Eff) → Eff
  | [], f => f []
  | (i, va) :: t, f => access c (BitVec.ofNat 64 va) n k fun pa => laneAccess c k n t fun r => f ((i, va, pa) :: r)

/-- The lanes of a mask, ascending. -/
def lanesOf (mask : Pred) : List Nat := (List.range 64).filter (bitAt mask)

/-- The lanes of a global `LDV` that read another module are sent as messages (R383, R384). -/
def askLanes (n : Nat) (l : List LaneSrc) (va : Nat → Nat) (c : Cur) : Cur × List LaneSrc :=
  l.zipIdx.foldl (fun a x => match x.1 with
    | .mem pa =>
      if isSpan pa then
        (a.1.ask (va x.2) pa n 2 0, a.2 ++ [.span a.1.s.ports.nextMsg (a.1.ownBytes pa n)])
      else (a.1, a.2 ++ [.mem pa])
    | y => (a.1, a.2 ++ [y])) (c, [])

/-- LDV (R201, R202): variant `var`; `vb` is a vector in variant 2. -/
def vectorLoad (g : Guard) (b : VBody) (var : Nat) (s : State) : Host.Outcome State Fault Refusal :=
  issue false true s fun c =>
    let mask := guardMask c.regs g
    if mask = 0 then .ok c
    else withVecs c (if var = 2 then [⟨b.vb.toNat, b.kb⟩] else []) fun vs vt eat =>
      needRoomV c b.vd.toNat <| afterAcquire c <|
        let r := c.regs
        withDesc c (r.getS b.va.toNat) fun d _ =>
          let v := vs.getD 0 0
          let t := vt || r.taintS b.va.toNat || (var != 2 && r.taintS b.vb.toNat) || r.taintS b.vc.toNat
          let at_ (i : Nat) : List Int := laneIdx var (r.getS b.vb.toNat) (r.getS b.vc.toNat) v i
          let n := fmtBytes d.fmt
          let pad := putElem d.fmt d.pad
          if typeFmt b.ty.toNat ≠ d.fmt || (d.space == 0 && !isVq b.vd.toNat) then .trap 0x0D c.pc
          else if d.space = 1 then
            let tile := c.s.tile c.die c.tile
            if (lanesOf mask).any fun i => d.inBounds (at_ i) && tile.badAt (d.addr (at_ i)) n then
              .abort (c.mapS fun s => s.rasBump c.die 1) 0x42
            else
              let val := ofLanes fun i => if bitAt mask i then
                (if d.inBounds (at_ i) then putElem d.fmt (tile.read (d.addr (at_ i)) n) else pad) else 0
              .ok (eat ((c.orderTaint t).putV b.vd.toNat 8 val mask t))
          else
            laneAccess c .read n (((lanesOf mask).filter fun i => d.inBounds (at_ i)).map fun i => (i, d.addr (at_ i)))
              fun l =>
                let r := askLanes n ((List.range 64).map fun i =>
                  if !bitAt mask i then .off
                  else match l.find? fun e => e.1 == i with
                    | none => .val pad
                    | some e => .mem e.2.2) (fun i => d.addr (at_ i)) (c.orderTaint t)
                .ok (eat (r.1.produceV b.vd.toNat (.lanes d.fmt r.2) t t))

/-- LDV (R201). -/
def execLdv (g : Guard) (b : VBody) (s : State) : Host.Outcome State Fault Refusal := vectorLoad g b 0 s
/-- LDV.COL (R201). -/
def execLdvCol (g : Guard) (b : VBody) (s : State) : Host.Outcome State Fault Refusal := vectorLoad g b 1 s
/-- LDV.IDX (R201). -/
def execLdvIdx (g : Guard) (b : VBody) (s : State) : Host.Outcome State Fault Refusal := vectorLoad g b 2 s

/-- An unconfirmed block's STV that is a commit point blocks before its type is tested and before any need or fault of its data
(R297). -/
def stvStall (c : Cur) (b : VBody) (var : Nat) (mask : Pred) (e : Eff) : Eff :=
  if !c.i.ex.unconf then e
  else withVecs c (if var = 2 then [⟨b.vb.toNat, b.kb⟩] else []) fun vs _ _ => afterAcquire c <|
    let r := c.regs
    withDesc c (r.getS b.va.toNat) fun d _ =>
      let at_ (i : Nat) : List Int := laneIdx var (r.getS b.vb.toNat) (r.getS b.vc.toNat) (vs.getD 0 0) i
      if d.space = 0 ∧ (lanesOf mask).any fun i => d.inBounds (at_ i) && !c.retracts (d.addr (at_ i)) (fmtBytes d.fmt) then
        commitStall c e
      else e
/-- STV (R201, R202): lanes in ascending order; out-of-bounds lanes are counted, or all is refused when strict. -/
def vectorStore (g : Guard) (b : VBody) (var : Nat) (s : State) : Host.Outcome State Fault Refusal :=
  issue false true s fun c =>
    let mask := guardMask c.regs g
    if mask = 0 then .ok c
    else stvStall c b var mask <|
      let ops := (if var = 2 then [(⟨b.vb.toNat, b.kb⟩ : Opnd)] else []) ++ [⟨b.vd.toNat, false⟩]
      withVecs c ops fun vs _ eat => afterAcquire c <|
        let r := c.regs
        withDesc c (r.getS b.va.toNat) fun d pd =>
          let v := if var = 2 then vs.getD 0 0 else 0
          let data := vs.getD (if var = 2 then 1 else 0) 0
          let t := r.taintS b.va.toNat || r.taintS b.vc.toNat ||
            (if var = 2 then c.taintOfV [⟨b.vb.toNat, b.kb⟩] else r.taintS b.vb.toNat)
          let at_ (i : Nat) : List Int := laneIdx var (r.getS b.vb.toNat) (r.getS b.vc.toNat) v i
          let n := fmtBytes d.fmt
          let ins := (lanesOf mask).filter fun i => d.inBounds (at_ i)
          let out := (lanesOf mask).length - ins.length
          let val (i : Nat) : Nat := lowBytes n (laneOf data i).toNat
          if typeFmt b.ty.toNat ≠ d.fmt then .trap 0x0D c.pc
          else if d.space = 1 then
            if d.strict && out != 0 then .trap 0x0E c.pc
            else
              let c := c.orderTaint t
              .ok (eat ((c.mapS fun s => ins.foldl (fun s i => s.tileWrite c.die c.tile (d.addr (at_ i)) n (val i)) s).mapS
                fun s => s.addOobw c.die c.asid pd out))
          else
            let ret := c.i.ex.pred && ins.all fun i => c.retracts (d.addr (at_ i)) n
            if d.strict && out != 0 then .trap 0x0E c.pc
            else
              let c := c.orderTaint t
              let go : Eff := laneAccess c .write n (ins.map fun i => (i, d.addr (at_ i))) fun l =>
                let c1 := if ret then c else c.commit
                let c1 := l.foldl (fun c e => c.store e.2.1 e.2.2 n (val e.1)) c1
                .ok (eat (c1.mapS fun s => s.addOobw c1.die c1.asid pd out))
              go

/-- STV (R201). -/
def execStv (g : Guard) (b : VBody) (s : State) : Host.Outcome State Fault Refusal := vectorStore g b 0 s
/-- STV.COL (R201). -/
def execStvCol (g : Guard) (b : VBody) (s : State) : Host.Outcome State Fault Refusal := vectorStore g b 1 s
/-- STV.IDX (R201). -/
def execStvIdx (g : Guard) (b : VBody) (s : State) : Host.Outcome State Fault Refusal := vectorStore g b 2 s

/-! ## Futures (R203 to R206) -/

/-- full of a future cell. -/
def cellFull (v : Nat) : Bool := v / 2 ^ 32 % 2 == 1
/-- Reserved bits of a future cell. -/
def cellBad (v : Nat) : Bool := v / 2 ^ 50 != 0

/-- The waiter registrations at a cell's home (R206): a die's table, or the host die's. -/
def State.waitersAt (s : State) (pa : Nat) : List Waiter :=
  match (s.homeOf pa).bind homeDie with
  | some d => (s.die d).sch.waiters
  | none => s.host.hostWaiters
/-- Replaces the registrations at a cell's home. -/
def State.setWaiters (s : State) (pa : Nat) (l : List Waiter) : State :=
  match (s.homeOf pa).bind homeDie with
  | some d => s.updSch d fun x => { x with waiters := l }
  | none => s.updHost fun h => { h with hostWaiters := l }

/-- An uncommitted reader of an empty cell (R43, R206): it is squashed and waits in the home's table, or with a full
table is ready again after 4096 cycles. -/
def Cur.emptyFuture (c : Cur) (pa : Nat) (own : Bool) : State :=
  let s := (c.save.squash c.uid true).updSeq c.die c.q fun x => { x with clk := c.clk + 8 }
  if (c.s.waitersAt pa).length < 4096 then s.setWaiters pa (s.waitersAt pa ++ [⟨pa, c.uid, own⟩])
  else s.updSch c.die fun x => { x with retries := x.retries ++ [(c.uid, c.clk + 4096)] }

/-- RDF (R204): the value, a squash, or the empty-future fault. A committed reader of an empty cell takes the fault, which
is precise, and is registered as no waiter (DESIGN CHOICE, log entry 143). -/
def execRdf (g : Guard) (b : IBody) (s : State) : Host.Outcome State Fault Refusal :=
  issue false true s fun c => guarded c g <| needRoom c b.dst.toNat 1 <| afterAcquire c <|
    access c (c.ea b) 8 .read fun pa =>
      let c := c.orderTaint (c.regs.taintPair b.a.toNat)
      let v := c.s.readPa pa 8
      if isSpan pa then .trap 0x10 (c.ea b)
      else if c.s.badAt pa 8 then eccAbort c pa
      else if cellBad v then .trap 0x10 (c.ea b)
      else if cellFull v then
        .ok ((c.reads pa 8 (some 3)).produce b.dst.toNat 1 (.known [BitVec.ofNat 32 v]) false true false)
      else if c.i.sched.committed then .trap 0x11 (c.ea b)
      else .done (c.emptyFuture pa false)

/-- Wakes the waiters of a cell that `sel` names: each is ready with its original age (R205). Those that wait for their
own record's extent stay until its confirmation (R304). -/
def State.wakeCell (s : State) (pa : Nat) (sel : Waiter → Bool) : State :=
  let ws := (s.waitersAt pa).filter fun w => w.cell == pa && sel w
  let s := s.setWaiters pa ((s.waitersAt pa).filter fun w => !(w.cell == pa && sel w))
  ws.foldl (fun s w => s.updInst w.uid fun i => i.readyAgain (s.die i.who.die).cyc) s

/-- A filled shape cell wakes its record: the confirmation is due (R298). -/
def State.confirmDue (s : State) (pa : Nat) : State :=
  (List.range 20).foldl (fun s d =>
    let ns := ((s.die d).sch.recs.cells.filter fun r =>
      r.2.i 109 109 == 1 && !r.2.confirmed && r.2.shapePa == pa).map (·.1)
    if ns.isEmpty then s else s.updSch d fun x => { x with confirms := x.confirms ++ ns }) s

/-- The bound counter's lowering sets out (R205); a die field above 19 is an underflow reported by the home. -/
def State.boundLower (s : State) (pa v asid : Nat) (queue : Option Nat) : State :=
  if v / 2 ^ 33 % 2 = 0 then s
  else
    let rec_ := v / 2 ^ 34 % 2048
    let d := v / 2 ^ 45 % 32
    if d < 20 then s.updSch d fun x => { x with lowerings := x.lowerings ++ [⟨rec_, asid, queue⟩] }
    else s.err queue 2 asid (((s.homeOf pa).bind homeDie).getD 31) 31 rec_ 0

/-- FILL (R205). Firmware's filter drops one that it does not let through (R368). -/
def execFill (g : Guard) (b : RBody) (s : State) : Host.Outcome State Fault Refusal :=
  issue false true s fun c => guarded c g <| commitStall c <|
    let va := c.regs.getPair b.a.toNat
    withOps c [opB b] fun l _ eat => afterAcquire c <| access c va 8 .write fun pa =>
      let v := c.s.readPa pa 8
      if isSpan pa then .trap 0x10 va
      else if c.s.badAt pa 8 then eccAbort c pa
      else if cellFull v || cellBad v then .trap 0x10 va
      else release c false fun c => if !c.mayStore pa then .ok (eat c.commit.filtered) else
        let w := (nth l 0).toNat + 2 ^ 32 + v / 2 ^ 33 * 2 ^ 33
        let c1 := (c.commit.write pa 8 w (c.i.ctx.ord.release 3)).mapS fun s =>
          ((s.wakeCell pa fun x => !x.own).boundLower pa v c.asid c.i.who.queue).confirmDue pa
        .ok (eat c1)

/-! ## Semaphores (R207 to R210) -/

/-- The semaphore fault, or the effect (R207). -/
def withRef (c : Cur) (r : Word) (e : Eff) : Eff := if c.s.refOk c.die c.asid r then e else .trap 0x12 c.pc
/-- Value of the semaphore that a reference names. -/
def Cur.semOf (c : Cur) (r : Word) : Word := c.s.sem c.die (refTile r) (refIdx r)

/-- The stream acquires the releases of a semaphore at die scope (R248). -/
def Cur.semAcquire (c : Cur) (r : Word) : Cur := c.mapOrd fun o => c.s.semAcquire o c.die (refTile r) (refIdx r)
/-- The stream releases at die scope to a semaphore (R248). -/
def Cur.semRelease (c : Cur) (r : Word) : Cur :=
  c.mapS fun s => s.semRelease c.die (refTile r) (refIdx r) (c.i.ctx.ord.release 2)

/-- WAITS (R208): it goes on when the value meets the threshold, else blocks. -/
def execWaits (g : Guard) (b : RBody) (s : State) : Host.Outcome State Fault Refusal :=
  issue false true s fun c => guarded c g <| withOps c [opA b, opB b] fun l _ eat => afterAcquire c <|
    withRef c (nth l 0) <|
      if (nth l 1).toNat ≤ (c.semOf (nth l 0)).toNat then .ok (eat (c.semAcquire (nth l 0)))
      else .done (((eat c).fallThrough 8).block (.waits (nth l 0) (nth l 1) false))

/-- WAITS.DEC (R208 to R210): granted at issue when no earlier `.DEC` waiter stands and the value meets it. -/
def execWaitsDec (g : Guard) (b : RBody) (s : State) : Host.Outcome State Fault Refusal :=
  issue false true s fun c => guarded c g <| commitStall c <| withOps c [opA b, opB b] fun l _ eat => afterAcquire c <|
    withRef c (nth l 0) <|
      let d := c.die
      let t := refTile (nth l 0)
      let k := refIdx (nth l 0)
      let v := c.semOf (nth l 0)
      if (nth l 1).toNat ≤ v.toNat ∧ (c.s.tile d t).decq.all fun w => w.1 != k then
        .ok (eat ((c.semAcquire (nth l 0)).commit.mapS fun s => s.updTile d t fun x =>
          { x with sems := x.sems.set 0 k (v - nth l 1) }))
      else
        .done ((((eat c).fallThrough 8).mapS fun s => s.updTile d t fun x =>
          { x with decq := x.decq ++ [(k, c.uid, nth l 1)] }).block (.waitsDec (nth l 0) (nth l 1) false))

/-- SIG (R208). -/
def execSig (g : Guard) (b : RBody) (s : State) : Host.Outcome State Fault Refusal :=
  issue false true s fun c => guarded c g <| commitStall c <| withOps c [opA b, opB b] fun l _ eat => afterAcquire c <|
    withRef c (nth l 0) <| release c false fun c =>
      .ok (eat ((c.commit.semRelease (nth l 0)).mapS fun s => s.semAdd c.die (refTile (nth l 0)) (refIdx (nth l 0)) (nth l 1).toNat))
/-- SEMSET (R208). -/
def execSemset (g : Guard) (b : RBody) (s : State) : Host.Outcome State Fault Refusal :=
  issue false true s fun c => guarded c g <| commitStall c <| withOps c [opA b, opB b] fun l _ eat => afterAcquire c <|
    withRef c (nth l 0) <| release c false fun c =>
      .ok (eat ((c.commit.semRelease (nth l 0)).mapS fun s => s.semStep c.die (refTile (nth l 0)) (refIdx (nth l 0)) (nth l 1)))
/-- SEMRD (R208). -/
def execSemrd (g : Guard) (b : RBody) (s : State) : Host.Outcome State Fault Refusal :=
  issue false true s fun c => guarded c g <| withOps c [opA b] fun l _ eat => needRoom c b.dst.toNat 1 <|
    afterAcquire c <| withRef c (nth l 0) <|
      .ok (eat ((c.semAcquire (nth l 0)).produce b.dst.toNat 1 (.known [c.semOf (nth l 0)]) false true false))

/-! ## Queue inspection, leases and chains (R211 to R216) -/

/-- QCNT (R211). -/
def execQcnt (g : Guard) (b : RBody) (s : State) : Host.Outcome State Fault Refusal :=
  issue true true s fun c => guarded c g <| needRoom c b.dst.toNat 1 <|
    let oc := if b.m then ((c.regs.getVq (b.a.toNat % 4)).occ, (c.regs.getVq (b.a.toNat % 4)).pend)
      else ((c.regs.getQ (b.a.toNat - 56)).occ, (c.regs.getQ (b.a.toNat - 56)).pend)
    .ok (c.putS b.dst.toNat 1 (BitVec.ofNat 32 (oc.1 + 16 * oc.2)) false)
/-- QDRN (R211): waits for the pending entries, then empties the queue. -/
def execQdrn (g : Guard) (b : RBody) (s : State) : Host.Outcome State Fault Refusal :=
  issue true true s fun c => guarded c g <|
    if b.m then
      let q := c.regs.getVq (b.a.toNat % 4)
      if q.pend = 0 then .ok (c.mapRegs fun r => r.setVq (b.a.toNat % 4) (q.consume q.items.length)) else .stall c
    else
      let q := c.regs.getQ (b.a.toNat - 56)
      if q.pend = 0 then .ok (c.mapRegs fun r => r.setQ (b.a.toNat - 56) (q.consume q.items.length)) else .stall c

/-- Place of a sequencer among the pushers of its tile (R213, R218). -/
def Cur.place (c : Cur) : Nat := c.q % 4
/-- Asks the arbitration for a lease of `n` commands (R212). -/
def State.askLease (s : State) (d t pos uid n : Nat) : State :=
  s.updEng d t fun e => { e with asks := e.asks ++ [(pos, uid, n)] }

/-- LEASE (R212): blocks until the lease is granted; a held lease ends (R213). -/
def execLease (g : Guard) (b : RBody) (s : State) : Host.Outcome State Fault Refusal :=
  issue false false s fun c => guarded c g <|
    .done (((c.fallThrough 8).block (.lease (b.c.toNat + 1) false)).askLease c.die c.tile c.place c.uid (b.c.toNat + 1))
/-- UNLEASE (R212). -/
def execUnlease (g : Guard) (_b : RBody) (s : State) : Host.Outcome State Fault Refusal :=
  issue false false s fun c => guarded c g <| .ok (c.mapS fun s => s.endLease c.die c.tile c.uid)

/-- The copy engine takes a chain (R214). -/
def Engines.addChain (e : Engines) (x : Chain) : Engines :=
  { e with chains := e.chains.put e.nextChain x, nextChain := e.nextChain + 1 }

/-- CHAIN (R214): its address is checked as R187 says; its status carries the taint of its sources (R65). Its words fork from a
release at die scope, or at the wider scope of an earlier release fence (R251, R258). -/
def execChain (g : Guard) (b : RBody) (s : State) : Host.Outcome State Fault Refusal :=
  issue false true s fun c => guarded c g <| commitStall c <| withOps c [opB b] fun l t eat =>
    needRoom c b.dst.toNat 1 <| afterAcquire c <|
      let a := c.regs.getPair b.a.toNat
      let n := (nth l 0).toNat % 2 ^ 16
      let e := (c.s.tile c.die c.tile).eng
      let t := t || c.regs.taintPair b.a.toNat
      if a.toNat % 32 ≠ 0 then .trap 0x0A a
      else if a.toNat / 2 ^ 55 ≠ 0 then .trap 0x0B a
      else if n = 0 then release c false fun c => .ok (eat (c.commit.putS b.dst.toNat 1 0 t))
      else if 8 ≤ e.chains.cells.length then .stall c
      else release (c.orderTaint (c.regs.taintPair b.a.toNat)) false fun c =>
        let q := b.dst.toNat - 56
        let x : Chain := ⟨c.uid, c.asid, c.i.who.queue, a.toNat, n, 0, 0, none, c.regs.s, seqKey c.die c.q, q,
          (c.regs.getQ q).tailPos, c.i.ctx.ord.fork 2⟩
        let c1 := c.commit.produce b.dst.toNat 1 (.chain e.nextChain) t false false
        .ok (eat (c1.mapS fun s => s.updEng c.die c.tile fun y => y.addChain x))

end Sys2Proof.Machine
end

