-- ==== Sys2Proof/Machine/Commands.lean ====
section
/-! DEFINITION. The push of a command word (R101, R102, R212, R217 to R221) and every check that a push makes: field
limits, descriptors, pairings, panels, mode options, strict footprints and semaphore windows. -/

namespace Sys2Proof.Machine

/-! ## The word -/

/-- Major opcode and op (R103). -/
def EngOp.code : EngOp → Nat × Nat
  | .mma => (0xF8, 1) | .xld => (0xF8, 2) | .accrd => (0xF8, 3) | .accld => (0xF8, 4)
  | .tcopy => (0xF9, 1) | .tmcast => (0xF9, 2) | .twin => (0xF9, 3) | .tfill => (0xF9, 4)
  | .scat => (0xFA, 1)
  | .attn => (0xFB, 1) | .kvapp => (0xFB, 2) | .kvrot => (0xFB, 3) | .kvevict => (0xFB, 4)
/-- Engine of a command: 0 matrix, 1 copy, 2 scatter-accumulate, 3 attention. -/
def EngOp.eng (o : EngOp) : Nat := o.code.1 - 0xF8
/-- The first fields of the 32-bit operands (R223, R322). -/
def EngOp.wide : EngOp → List Nat
  | .tfill => [5]
  | .attn => [4, 6, 8]
  | .kvapp => [4, 6]
  | .kvrot => [4, 6, 8]
  | .kvevict => [4, 6]
  | _ => []
/-- The field limits of a word without register flags (R224, R233 to R242, R322). -/
def EngOp.limits : EngOp → CmdBody → Bool
  | .mma => mmaOk | .xld => xldOk | .accrd => accrdOk | .accld => accldOk
  | .tcopy => tcopyOk | .tmcast => tmcastOk | .twin => twinOk | .tfill => tfillOk
  | .scat => scatOk
  | .attn => attnOk | .kvapp => kvappOk | .kvrot => kvrotOk | .kvevict => kvevictOk
/-- The command's scope (R220): 2 die, 3 dev, 4 sys. -/
def cmdScope (o : EngOp) (f : List Nat) : Nat :=
  2 + (match o with
    | .tcopy => f.getD 8 0 / 32 % 4
    | .tfill => f.getD 7 0 / 32 % 4
    | .scat => f.getD 5 0 / 32 % 4
    | .attn => f.getD 10 0 / 32 % 4
    | .kvapp => f.getD 10 0 / 32 % 4
    | .kvrot => f.getD 10 0 / 32 % 4
    | .kvevict => f.getD 10 0 / 32 % 4
    | _ => 0)

/-- The register-supplied fields, in the order in which they are read (R102). -/
def flaggedFields (b : CmdBody) : List Nat := (List.range 11).filter b.flag
/-- Their operands: a queue is always consumed. -/
def cmdOpnds (b : CmdBody) : List Opnd := (flaggedFields b).map fun k => ⟨b.field k % 64, false⟩
/-- The fields with register values in place (R102, R217). -/
def resolveFields (o : EngOp) (b : CmdBody) (vals : List Word) : List Nat :=
  ((flaggedFields b).zip vals).foldl (fun f p =>
    let v := p.2.toNat
    if hasNat o.wide p.1 then setNth (setNth f p.1 (v / 65536)) (p.1 + 1) (v % 65536) else setNth f p.1 (v % 65536)) b.fields
/-- The word with its fields resolved and no register flag. -/
def resolvedBody (b : CmdBody) (f : List Nat) : CmdBody :=
  let w (k : Nat) : BitVec 16 := BitVec.ofNat 16 (f.getD k 0)
  { b with rflag := 0, f0 := w 0, f1 := w 1, f2 := w 2, f3 := w 3, f4 := w 4, f5 := w 5, f6 := w 6, f7 := w 7,
           f8 := w 8, f9 := w 9, f10 := w 10 }
/-- A signed 16-bit field (R217). -/
def sf (f : List Nat) (k : Nat) : Int := sextN 16 (f.getD k 0)
/-- An unsigned field. -/
def uf (f : List Nat) (k : Nat) : Nat := f.getD k 0
/-- A 32-bit operand (R102): its low part is in the higher-numbered field. -/
def wf32 (f : List Nat) (k : Nat) : Nat := f.getD k 0 * 65536 + f.getD (k + 1) 0

/-! ## Checks (R221) -/

/-- The wait and signal semaphores that the word uses lie in the ASID's window (R101). -/
def State.cmdWindow (s : State) (asid : Nat) (b : CmdBody) : Bool :=
  (b.wthr == 0 || s.inWindow asid b.widx.toNat) && (b.sinc == 0 || s.inWindow asid b.sidx.toNat)

/-- First tile of the receivers that a mask names (R239). -/
def castBase (tile : Nat) : Nat := 16 * (tile / 16)
/-- The receivers of a mask, ascending. -/
def receivers (mask : Nat) : List Nat := (List.range 16).filter fun r => mask / 2 ^ r % 2 == 1

/-- The handles that a command names, each with the tile whose buffer it may be (R223, R239, R322). -/
def cmdHandles (o : EngOp) (tile : Nat) (f : List Nat) : List (Nat × Nat) :=
  match o with
  | .mma => [(uf f 0, tile)]
  | .xld => [(uf f 0, tile), (uf f 1, tile)]
  | .accrd => [(uf f 0, tile)]
  | .accld => [(uf f 0, tile)]
  | .tcopy => [(uf f 0, tile), (uf f 1, tile)]
  | .tmcast => (uf f 1, tile) :: (receivers (uf f 8)).map fun r => (uf f 0 + r, castBase tile + r)
  | .twin => [(uf f 1, tile)]
  | .tfill => [(uf f 0, tile)]
  | .scat => [(uf f 0, tile), (uf f 1, tile), (uf f 2, tile)]
  | .attn => [(uf f 0, tile), (uf f 1, tile)]
  | .kvapp => [(uf f 0, tile), (uf f 1, tile)]
  | .kvrot => []
  | .kvevict => []

/-- A format of the FP8 pairings. -/
def isFp8 (c : Nat) : Bool := c == 3 || c == 4
/-- Panel K of a format; 0 if no panel has it (R225, R237). -/
def panelK (c : Nat) : Nat :=
  match c with
  | 1 => 1024 | 2 => 1024 | 3 => 2048 | 4 => 2048 | 5 => 2048 | 6 => 2048 | _ => 0
/-- A pairing of R225. -/
def pairs (a b : Nat) : Bool :=
  (isFp8 a && isFp8 b) || ((a == 5 || a == 6 || a == 7 || a == 8) && (b == 5 || b == 6)) || (a == 2 && b == 2) ||
    (a == 1 && b == 1)

/-- A scale tensor that R118 accepts. -/
def scaleOk (d : Desc) : Bool := d.fmt == 0 && d.ndim == 2 && d.scaleh == 0 && d.sbw == 0 && d.skdim == 0
/-- No descriptor: no scale tensor, so every scale is 1.0 (R119). -/
def noDesc : Desc := ⟨0, 0, false, 0, 1, 0, 0, 0, 0, 0, 0, [], [], 0⟩
/-- The scale tensors that an `MMA` reads: of A, and of the panel (R118, R119). -/
def scaleHandles (a : Desc) (p : PanelTag) : Nat × Nat :=
  if isFp8 a.fmt && isFp8 p.fmt then (a.scaleh, p.scaleh) else (0, 0)

/-- Every element of a block lies in bounds: its two extreme corners do. -/
def blockIn (d : Desc) (x0 x1 x2 : Int) (n0 n1 : Nat) : Bool :=
  d.inBounds [x0, x1, x2, 0] && d.inBounds [x0 + n0 - 1, x1 + n1 - 1, x2, 0]
/-- A strict destination whose footprint leaves its bounds takes the bounds fault (R76, R221). -/
def strictCheck (d : Desc) (x0 x1 x2 : Int) (n0 n1 : Nat) : Option Nat :=
  if d.strict && !blockIn d x0 x1 x2 n0 n1 then some 0x0E else none

/-- Options that a conversion does not use are zero (R117, R233, R236): rounding [1:0], sat [2], nan [3], fz [4]. -/
def optsOk (src dst mode : Nat) : Bool :=
  let used := src != dst
  (mode % 4 == 0 || (used && (isFloat src || isFloat dst))) && (mode / 4 % 2 == 0 || (used && !isFloat dst)) &&
    (mode / 8 % 2 == 0 || (used && dst == 3)) && (mode / 16 % 2 == 0 || (used && isFloat dst))
/-- Options of an `ACCRD` (R234). -/
def accrdOpts (dst mode : Nat) : Bool :=
  let fl := isFloat dst
  (mode / 2 % 4 == 0 || fl || mode % 2 == 0) && (mode / 8 % 2 == 0 || !fl) && (mode / 16 % 2 == 0 || dst == 3) &&
    (mode / 32 % 2 == 0 || fl)
/-- Options of a `SCAT` (R242). -/
def scatOpts (fmt mode : Nat) : Bool :=
  (mode / 16 % 2 == 0 || (!isFloat fmt && mode % 4 == 0)) && (mode / 4 % 4 == 0 || (isFloat fmt && mode % 4 == 0))

/-- The first failed check of a list: condition that must hold, fault code otherwise. -/
def firstFail : List (Bool × Nat) → Option Nat
  | [] => none
  | (ok, c) :: t => if ok then firstFail t else some c

/-- The checks of `MMA` on its A operand and panel (R221, R224 to R226, R118, R417), the descriptor faults first (log entry 53).
An A operand with a scale tensor whose skdim is not its K dimension takes the descriptor fault (DESIGN CHOICE, log entry 139). -/
def mmaCheck (phase : Nat) (f : List Nat) (a : Desc) (p : PanelTag) : Option Nat :=
  firstFail [(pairs a.fmt p.fmt, 0x0D), (a.scaleh == 0 || (isFp8 a.fmt && a.skdim == 0), 0x0D),
    (a.space == 1 && decide (2 ≤ a.ndim), 0x16), (phase != 3 || isFp8 a.fmt, 0x16),
    (decide (uf f 4 + uf f 5 ≤ panelK p.fmt), 0x16)]

/-- A record of the sequence table (R319). -/
structure SeqRec where
  base : Nat
  asid : Nat
  valid : Bool
  nl : Nat
  nkv : Nat
  hd : Nat
  cap : Nat
  rbase : Nat
  deriving DecidableEq, Repr
/-- A sequence record from its 64 bytes (R319). -/
def parseSeq (b : BitVec 512) : SeqRec :=
  ⟨fieldOf b 63 0, fieldOf b 72 64, fieldOf b 73 73 == 1, fieldOf b 87 80, 2 ^ fieldOf b 90 88, 64 * 2 ^ fieldOf b 92 91,
   fieldOf b 127 96, fieldOf b 159 128⟩
/-- The sequence of a command pushed on a die. -/
def State.seqRec (s : State) (die : Nat) (f : List Nat) : SeqRec := parseSeq ((s.die (attOf die)).seqTab.get 0 (uf f 2))

/-- The descriptor checks of every command but `MMA`'s panel (R221, R233 to R243, R323): `ds` in the order of
`cmdHandles`. A format that does not fit is the descriptor fault (R77); a space or a rank is a limit that depends on a descriptor and
takes the command-operand fault (R221); the descriptor faults come first (log entry 53). -/
def State.descCheck (s : State) (die : Nat) (o : EngOp) (f : List Nat) (ds : List Desc) : Option Nat :=
  let d (k : Nat) : Desc := ds.getD k noDesc
  match o with
  | .mma => none
  | .xld => (firstFail [((d 0).space == 1, 0x16), (optsOk (d 1).fmt (d 0).fmt (uf f 8), 0x16)]).or
      (strictCheck (d 0) (sf f 4) (sf f 5) 0 (uf f 7) (uf f 6))
  | .accrd => (firstFail [(isFloat (d 0).fmt || (d 0).fmt == 9, 0x0D), (accrdOpts (d 0).fmt (uf f 5), 0x16)]).or
      (strictCheck (d 0) (sf f 6) (sf f 7) 0 (uf f 4) (uf f 2))
  | .accld => firstFail [(uf f 5 % 2 == 0 || !isFloat (d 0).fmt, 0x0D)]
  | .tcopy =>
      (firstFail [(optsOk (d 1).fmt (d 0).fmt (uf f 8), 0x16), (uf f 9 == 0 || decide (2 < (d 1).ndim), 0x16),
        (uf f 10 == 0 || decide (2 < (d 0).ndim), 0x16)]).or
      (strictCheck (d 0) (sf f 4) (sf f 5) (uf f 10) (uf f 6) (uf f 7))
  | .tmcast => (ds.drop 1).foldl (fun a x => a.or ((firstFail [(x.fmt == (d 0).fmt, 0x0D), (x.space == 1, 0x16)]).or
      (strictCheck x (sf f 4) (sf f 5) 0 (uf f 6) (uf f 7)))) none
  | .twin =>
      firstFail [(panelK (d 0).fmt != 0 && ((d 0).scaleh == 0 || isFp8 (d 0).fmt), 0x0D),
        (decide (uf f 4 ≤ panelK (d 0).fmt), 0x16),
        (!isFp8 (d 0).fmt || (d 0).scaleh == 0 || sf f 3 % 128 == 0, 0x16)]
  | .tfill => (firstFail [(uf f 8 == 0 || decide (2 < (d 0).ndim), 0x16)]).or
      (strictCheck (d 0) (sf f 1) (sf f 2) (uf f 8) (uf f 3) (uf f 4))
  | .scat =>
      firstFail [((d 0).fmt == 0 || (d 0).fmt == 1 || (d 0).fmt == 2 || (d 0).fmt == 9 || (d 0).fmt == 10, 0x0D),
        ((d 1).fmt == 9 || (d 1).fmt == 10, 0x0D), ((d 2).fmt == (d 0).fmt, 0x0D),
        (scatOpts (d 0).fmt (uf f 5), 0x16), (!(d 0).strict || decide (uf f 4 ≤ (d 0).ext 0), 0x0E)]
  | .attn =>
      let q := s.seqRec die f
      (firstFail [((d 0).fmt == 2, 0x0D), ((d 1).fmt == 0 || (d 1).fmt == 2, 0x0D), ((d 0).space == 1 && (d 1).space == 1, 0x16)]).or
      (if q.valid then strictCheck (d 1) 0 0 0 q.hd (q.nkv * 2 ^ (uf f 10 % 8)) else none)
  | .kvapp => firstFail [((d 0).fmt == 2, 0x0D), ((d 1).fmt == 2, 0x0D), ((d 0).space == 1 && (d 1).space == 1, 0x16)]
  | .kvrot => none
  | .kvevict => none

/-- K-group of an A format (R120, R225). -/
def kGroupOf (fmt : Nat) : Nat := if fmt = 1 ∨ fmt = 2 ∨ fmt = 7 ∨ fmt = 8 then 32 else 128

/-- Who pushes a command: stream, place among the pushers, ASID, error queue, address or PC, chain and word, position (R245),
and whether firmware pushes it (R368). -/
structure Pusher where
  uid : Nat
  place : Nat
  asid : Nat
  queue : Option Nat
  at_ : Nat
  chain : Option (Nat × Nat)
  pos : Nat
  firm : Bool

/-- The command of a checked word (R218, R351): its words hold the resolved fields. -/
def mkCmd (o : EngOp) (g : Guard) (b : CmdBody) (f : List Nat) (ds : List Desc) (tag : Option PanelTag)
    (pres : Option Nat) (w : Pusher) : Cmd :=
  { op := o, f := f, widx := b.widx.toNat, wthr := b.wthr.toNat, sidx := b.sidx.toNat, sinc := b.sinc.toNat,
    uid := w.uid, pusher := w.place, asid := w.asid, queue := w.queue, pcAt := w.at_, descs := ds, tag := tag,
    pres := pres, chain := w.chain,
    group := if o = .mma then uf f 4 / kGroupOf (ds.getD 0 noDesc).fmt else 0,
    restored := false, suspended := false, ahead := false, pos := w.pos, view := [], firm := w.firm, rows := [],
    words := encC o.code.1 (BitVec.ofNat 8 o.code.2) g (resolvedBody b f) }

/-- The tag that a `TWIN` push writes (R237). -/
def twinTag (asid : Nat) (f : List Nat) (d : Desc) : PanelTag := ⟨asid, d.fmt, d.scaleh, d.sbw, 1, sf f 2, sf f 3⟩
/-- Writes it at once. -/
def State.twinTagWrite (s : State) (die tile : Nat) (o : EngOp) (asid : Nat) (f : List Nat) (d : Desc) : State :=
  if o = .twin then s.updTile die tile fun t => { t with tags := t.tags.put (uf f 0 % 16) (twinTag asid f d) } else s

/-- Key of the input queue of a pusher at an engine (R218). -/
def queueKey (eng place : Nat) : Nat := 8 * eng + place
/-- The queue is full (R218). -/
def Engines.full (e : Engines) (eng place : Nat) : Bool := decide (16 ≤ (e.queues.get [] (queueKey eng place)).length)
/-- Places a word at the tail of a queue (R218). -/
def Engines.push (e : Engines) (eng place : Nat) (c : Cmd) : Engines :=
  { e with queues := e.queues.upd [] (queueKey eng place) fun l => l ++ [c] }
/-- A matrix push counts against its lease (R213): the lease ends with the last one. -/
def Lease.count (l : Lease) : Lease :=
  { l with left := l.left - 1, pushed := l.pushed + 1, ended := l.ended || decide (l.left ≤ 1) }
/-- A matrix push under the lease. -/
def Engines.countPush (e : Engines) : Engines := { e with lease := e.lease.map Lease.count }

/-! ## The panel of an `MMA` (R226, R237, R279) -/

/-- The tag of the panel of tile `t` of a presentation: format of the entry, scales of its parameter block, origin
column 256·t (R226, R279). -/
def presTag (p : Pres) (t : Nat) : PanelTag :=
  ⟨p.asid, tagFmt p.entry, p.opb.toNat % 65536, fieldOf p.opb 19 16, 1, 256 * t, 0⟩

/-- The panel that a selector names, with the presentation of `seg`; none is the command-operand fault. `seg` is the
segment task of the pushing stream and whether it has executed `SEGDONE`. -/
def State.panelOf (s : State) (die tile asid : Nat) (seg : Option Nat × Bool) (sel : Nat) :
    Option (PanelTag × Option Nat) :=
  if sel = 0xFFFF then
    let r := (s.die die).ring
    match (seg.1.bind r.tasks.find).map (·.pres) with
    | none => none
    | some k => match r.pres.find k with
      | none => none
      | some p => if p.ended || seg.2 then none else some (presTag p tile, some k)
  else
    match (s.tile die tile).tags.find (sel % 16) with
    | none => none
    | some t => if t.asid = asid then some (t, none) else none
/-- The panel that a selector names for a stream. -/
def Cur.panel (c : Cur) (sel : Nat) : Option (PanelTag × Option Nat) :=
  c.s.panelOf c.die c.tile c.asid (c.i.ex.segTask, c.i.ex.segDone) sel

/-! ## The push -/

/-- Reads and checks descriptors of a push (R77, R221). -/
def withDescs (c : Cur) : List (Nat × Nat) → (List Desc → Eff) → Eff
  | [], k => k []
  | (h, t) :: rest, k =>
    if h = 0 ∨ 0xFFFF ≤ h then .trap 0x0D c.pc
    else access c (c.s.descVa c.asid h) 64 .read fun pa =>
      if c.s.badAt pa 64 then eccAbort c pa
      else
        let v := c.readAny pa 64
        let d := parseDesc h (c.s.descVa c.asid h).toNat v
        if c.s.descOk c.die t c.asid v d then withDescs c rest fun l => k (d :: l) else .trap 0x0D c.pc

/-- A scale tensor of an `MMA`; none for handle 0. -/
def withScale (c : Cur) (h : Nat) (k : Desc → Eff) : Eff :=
  if h = 0 then k noDesc
  else withDescs c [(h, c.tile)] fun l => if scaleOk (l.getD 0 noDesc) then k (l.getD 0 noDesc) else .trap 0x0D c.pc

/-- The panel and the scale tensors that an `MMA` push reads. -/
def withPanel (c : Cur) (o : EngOp) (f : List Nat) (ds : List Desc)
    (k : List Desc → Option PanelTag → Option Nat → Eff) : Eff :=
  if o = .mma then
    match c.panel (uf f 1) with
    | none => .trap 0x16 c.pc
    | some (tag, pres) =>
      let a := ds.getD 0 noDesc
      match mmaCheck c.s.host.phase f a tag with
      | some code => .trap code c.pc
      | none =>
        withScale c (scaleHandles a tag).1 fun sa => withScale c (scaleHandles a tag).2 fun sb =>
          k [a, sa, sb] (some tag) pres
  else k ds none none

/-- The stream holds a lease in force (R212, R213): its 65,536 cycles have not passed. -/
def Cur.leased (c : Cur) : Bool :=
  match (c.s.tile c.die c.tile).eng.lease with
  | some l => l.uid == c.uid && !l.ended && decide (0 < l.left) && decide (c.clk < l.since + 65536)
  | none => false
/-- The implicit lease of one command (R212): the stream blocks at the word. -/
def Cur.implicitLease (c : Cur) : State :=
  (c.block (.lease 1 false)).askLease c.die c.tile c.place c.uid 1

/-- The push itself: the word enters its queue, and a matrix word counts against its lease. -/
def Cur.push (c : Cur) (o : EngOp) (cmd : Cmd) (d : Desc) : Cur :=
  c.mapS fun s =>
    (s.updEng c.die c.tile fun e =>
      (if o.eng = 0 then e.countPush else e).push o.eng c.place cmd).twinTagWrite c.die c.tile o cmd.asid cmd.f d

/-- A command word with a true guard (R101, R102, R212, R217 to R221): its push is a release at the command's scope, which
the command acquires (R258). -/
def pushOp (o : EngOp) (g : Guard) (b : CmdBody) (s : State) : Host.Outcome State Fault Refusal :=
  issueLen 32 false true s fun c => guarded c g <| commitStall c <|
    withOps c (cmdOpnds b) fun vals t eat => afterAcquire c <|
      if o.eng = 0 && !c.leased then .done c.implicitLease
      else if (c.s.tile c.die c.tile).eng.full o.eng c.place then .stall c
      else
        let f := resolveFields o b vals
        if !o.limits (resolvedBody b f) || !c.s.cmdWindow c.asid b then .trap 0x16 c.pc
        else withDescs c (cmdHandles o c.tile f) fun ds =>
          match c.s.descCheck c.die o f ds with
          | some code => .trap code c.pc
          | none => withPanel c o f ds fun ds tag pres =>
            release (c.orderTaint t) (cmdScope o f == 4) fun c =>
              let cmd := mkCmd o g b f ds tag pres
                ⟨c.uid, c.place, c.asid, c.i.who.queue, c.pc.toNat, none, seqKey c.die c.q, c.i.who.kind == .firmware⟩
              let cmd := { cmd with view := c.i.ctx.ord.fork (cmdScope o f) }
              .ok (eat (c.commit.push o cmd (ds.getD 0 noDesc)))

/-- MMA (R224, R227). -/
def execMma (g : Guard) (b : CmdBody) (s : State) : Host.Outcome State Fault Refusal := pushOp .mma g b s
/-- XLD (R233). -/
def execXld (g : Guard) (b : CmdBody) (s : State) : Host.Outcome State Fault Refusal := pushOp .xld g b s
/-- ACCRD (R234). -/
def execAccrd (g : Guard) (b : CmdBody) (s : State) : Host.Outcome State Fault Refusal := pushOp .accrd g b s
/-- ACCLD (R235). -/
def execAccld (g : Guard) (b : CmdBody) (s : State) : Host.Outcome State Fault Refusal := pushOp .accld g b s
/-- TCOPY (R236). -/
def execTcopy (g : Guard) (b : CmdBody) (s : State) : Host.Outcome State Fault Refusal := pushOp .tcopy g b s
/-- TMCAST (R239). -/
def execTmcast (g : Guard) (b : CmdBody) (s : State) : Host.Outcome State Fault Refusal := pushOp .tmcast g b s
/-- TWIN (R237). -/
def execTwin (g : Guard) (b : CmdBody) (s : State) : Host.Outcome State Fault Refusal := pushOp .twin g b s
/-- TFILL (R241). -/
def execTfill (g : Guard) (b : CmdBody) (s : State) : Host.Outcome State Fault Refusal := pushOp .tfill g b s
/-- SCAT (R242). -/
def execScat (g : Guard) (b : CmdBody) (s : State) : Host.Outcome State Fault Refusal := pushOp .scat g b s
/-- ATTN (R331). -/
def execAttn (g : Guard) (b : CmdBody) (s : State) : Host.Outcome State Fault Refusal := pushOp .attn g b s
/-- KVAPP (R326). -/
def execKvapp (g : Guard) (b : CmdBody) (s : State) : Host.Outcome State Fault Refusal := pushOp .kvapp g b s
/-- KVROT (R329). -/
def execKvrot (g : Guard) (b : CmdBody) (s : State) : Host.Outcome State Fault Refusal := pushOp .kvrot g b s
/-- KVEVICT (R328). -/
def execKvevict (g : Guard) (b : CmdBody) (s : State) : Host.Outcome State Fault Refusal := pushOp .kvevict g b s

end Sys2Proof.Machine
end

