-- ==== Sys2Proof/Machine/Tasks.lean ====
section
/-! DEFINITION. Launch, predicted-shape, cohort, range and ring instructions (R150 to R155, R281 to R284, R302, R304). -/

namespace Sys2Proof.Machine

/-! ## Launches (R150, R151) -/

/-- The launch queue of a die is full (R23), or a tail record waits to enter it first (R300). -/
def State.launchFull (s : State) (d : Nat) : Bool :=
  decide (256 ≤ (s.die d).sch.launchq.length) || !(s.die d).sch.tails.isEmpty
/-- Writes a record into the launch queue of a die (R23). -/
def State.enqueue (s : State) (d : Nat) (r : Image) : State := s.updSch d fun x => { x with launchq := x.launchq ++ [r] }

/-- What a launch of the stream releases at die scope (R248); after a release fence it acts by the wider scope (R251). -/
def Cur.launchRel (c : Cur) : Option Head := (c.i.ctx.ord.release 2).head?
/-- A `LAUNCH` that has read its image performs the release and writes the record, stalling while the queue is full
(R150, steps 4 and 5). -/
def launchRecord (va : Word64) (byP : Bool) (bits : BitVec 256) (c : Cur) : Eff :=
  release (c.mapCtx fun x => { x with image := some bits }) false fun c =>
    if c.s.launchFull c.die then .stall c
    else
      let img : Image := ⟨bits, c.asid, c.i.who.queue, none, byP, va.toNat, none, c.launchRel⟩
      .ok ((c.mapCtx fun x => { x with image := none }).mapS fun s => s.enqueue c.die img)
/-- LAUNCH and LAUNCH.P (R150): the checks, the commit point, the image in full, the release, the record. A word that
stalls on a full queue keeps the image that it has read. -/
def launchOp (g : Guard) (b : IBody) (byP : Bool) (s : State) : Host.Outcome State Fault Refusal :=
  issue false true s fun c => guarded c g <|
    let va := c.regs.getPair b.a.toNat
    match c.i.ctx.image with
    | some bits => launchRecord va byP bits c
    | none => commitStall c <| afterAcquire c <| access c va 32 .read fun pa =>
      let c := c.orderTaint (c.regs.taintPair b.a.toNat)
      if isSpan pa then launchRecord va byP (BitVec.ofNat 256 (c.readAny pa 32)) (c.commit.mapS State.tick)
      else if c.s.badAt pa 32 then eccAbort c pa
      else launchRecord va byP (BitVec.ofNat 256 (c.s.readPa pa 32)) (c.commit.reads pa 32 none)

/-- LAUNCH (R150). -/
def execLaunch (g : Guard) (b : IBody) (s : State) : Host.Outcome State Fault Refusal := launchOp g b false s
/-- LAUNCH.P (R151, R294). -/
def execLaunchP (g : Guard) (b : IBody) (s : State) : Host.Outcome State Fault Refusal := launchOp g b true s

/-! ## SHAPE and RALLOC (R302 to R304) -/

/-- The cell at `pa` is the shape cell of the instance's own record (R304). -/
def Cur.ownCell (c : Cur) (pa : Nat) : Bool :=
  c.i.ex.pred && (match c.i.who.recNo.bind (c.s.recOf c.die) with
    | some r => r.shapePa == pa
    | none => false)

/-- SHAPE (R304): as `RDF`, delivering min(value, 65535); of the instance's own cell the delivery waits for the
confirmation. -/
def execShape (g : Guard) (b : IBody) (s : State) : Host.Outcome State Fault Refusal :=
  issue false false s fun c => guarded c g <| needRoom c b.dst.toNat 1 <| afterAcquire c <|
    let va := c.regs.getPair b.a.toNat
    access c va 8 .read fun pa =>
      let c := c.orderTaint (c.regs.taintPair b.a.toNat)
      let v := c.s.readPa pa 8
      if isSpan pa then .trap 0x10 va
      else if c.s.badAt pa 8 then eccAbort c pa
      else if cellBad v then .trap 0x10 va
      else if cellFull v then
        let w : Word := BitVec.ofNat 32 (Nat.min (v % 2 ^ 32) 65535)
        let own := c.ownCell pa && c.i.ex.unconf
        .ok ((c.reads pa 8 (some 3)).produce b.dst.toNat 1 (if own then .extent w else .known [w]) false true false)
      else if c.i.sched.committed then .trap 0x11 va
      else .done (c.emptyFuture pa (c.ownCell pa))

/-- Physical address of the page pool of an ASID (R379): an attention die has one pool. -/
def State.poolPa (s : State) (d asid : Nat) : Nat :=
  s.dieBase d + (s.die d).poolTab + (if isAtt d then 0 else 16 * asid)

/-- Takes a page from a pool: the count falls by 1, by an atomic at the pool's home, and the entry at the new count is the page
(R379). -/
def State.poolTake (s : State) (d asid : Nat) : Option (State × Nat) :=
  let p := s.poolPa d asid
  let n := s.readPa (p + 8) 4
  if n = 0 then none
  else
    let s := s.rmwPa (p + 8) 4 (n - 1)
    some (s, s.readPa (s.readPa p 8 + 8 * (n - 1)) 8)
/-- Returns a page to a pool: the count rises by an atomic at the pool's home (R303, R379). -/
def State.poolGive (s : State) (d asid page : Nat) : State :=
  let p := s.poolPa d asid
  let n := s.readPa (p + 8) 4
  (s.writePa (s.readPa p 8 + 8 * n) 8 page).rmwPa (p + 8) 4 (n + 1)

/-- Writes zero to `n` bytes of memory: they are listed no longer. -/
def State.zeroPa (s : State) (pa n : Nat) : State :=
  let out (a : Nat) : Bool := !(decide (pa ≤ a) && decide (a < pa + n))
  let s := s.updRelaxed fun x =>
    { x with olds := ⟨x.olds.cells.filter fun o => !meetBytes pa n o.2.pa o.2.n⟩
             heads := ⟨x.heads.cells.filter fun h => !meetBytes pa n h.1 h.2.1⟩ }
  { s with phys := { s.phys with mem := ⟨s.phys.mem.cells.filter fun c => out c.1⟩, bad := s.phys.bad.filter out } }

/-- The level-3 entry of a virtual address, if the tables above it exist (R373). -/
def State.level3 (s : State) (asid va : Nat) : Option Nat :=
  let e1 := s.readPa (fieldOf (s.asidRec asid) 63 0 + 8 * (va / 2 ^ 42 % 8192)) 8
  if !s.asidValid asid || e1 % 4 != 1 || pteReserved e1 then none
  else
    let e2 := s.readPa (e1 / 2 ^ 16 % 2 ^ 36 * 2 ^ 16 + 8 * (va / 2 ^ 29 % 8192)) 8
    if e2 % 4 != 1 || pteReserved e2 then none
    else some (e2 / 2 ^ 16 % 2 ^ 36 * 2 ^ 16 + 8 * (va / 2 ^ 16 % 8192))

/-- What mapping a page gives. -/
inductive Mapped where
  | ok (s : State) | fault | paged (va : Nat) | empty (s : State) (va : Nat)

/-- Maps every unmapped page among `n` from page number `p`, zeroed first (R302). A mapped page stays. -/
def State.mapPages (s : State) (d asid : Nat) : Nat → Nat → Mapped
  | _, 0 => .ok s
  | p, n + 1 =>
    match s.level3 asid (65536 * p) with
    | none => .fault
    | some epa =>
      let e := s.readPa epa 8
      if e % 2 = 1 then s.mapPages d asid (p + 1) n
      else if e / 2 ^ 5 % 2 = 1 then .paged (65536 * p)
      else match s.poolTake d asid with
        | none => .empty s (65536 * p)
        | some (s, page) => ((s.zeroPa page 65536).writePa epa 8 (page + 0xF)).mapPages d asid (p + 1) n

/-- RALLOC (R302): the address of the block's share, with the pages of `b` bytes mapped. Its arena fault comes after the faults of its
queues (log entry 162). -/
def execRalloc (g : Guard) (b : RBody) (s : State) : Host.Outcome State Fault Refusal :=
  issue false false s fun c => guarded c g <| withOps c [opB b] fun l _ eat => needRoom c b.dst.toNat 2 <|
    let a := c.regs.getPair b.a.toNat
    let addr := c.i.ex.share.1
    let unit := c.i.ex.share.2 - addr
    let len := (nth l 0).toNat
    if !c.i.ex.pred || c.i.ex.arena = 0 || a.toNat ≠ c.i.ex.arena || unit < len || c.i.ex.beyond then .trap 0x18 c.pc
    else
      let n := if len = 0 then 0 else (addr + len - 1) / 65536 + 1 - addr / 65536
      let parked (s : State) (va kind : Nat) : Eff := .done ({ c with s := s }.pageWait va c.asid kind)
      match c.s.mapPages c.die c.asid (addr / 65536) n with
      | .fault => .trap 0x0B (BitVec.ofNat 64 addr)
      | .paged va => parked c.s va 0
      | .empty s va => parked s va 1
      | .ok s =>
        let v := BitVec.ofNat 64 addr
        .ok (eat (({ c with s := s }).produce b.dst.toNat 2
          (.known [v.extractLsb' 0 32, v.extractLsb' 32 32]) false false false))

/-! ## Cohorts (R152) -/

/-- JOIN (R152). -/
def execJoin (g : Guard) (b : IBody) (s : State) : Host.Outcome State Fault Refusal :=
  issue false false s fun c => guarded c g <|
    let id := b.imm.toNat
    if c.i.coh.isSome || (c.s.cohort c.die id).full then .trap 0x0F c.pc
    else .ok { c with s := c.s.cohortJoin c.die id c.uid, i := { c.i with coh := some id } }
/-- LEAVE (R152). -/
def execLeave (g : Guard) (b : IBody) (s : State) : Host.Outcome State Fault Refusal :=
  issue false false s fun c => guarded c g <|
    if c.i.coh ≠ some b.imm.toNat then .trap 0x0F c.pc
    else .ok { c with s := (c.s.advance c.die c.clk).cohortLeave c.die c.uid, i := { c.i with coh := none } }
/-- CBAR (R152): arrives, a release, and blocks until its barrier completes. -/
def execCbar (g : Guard) (b : IBody) (s : State) : Host.Outcome State Fault Refusal :=
  issue false false s fun c => guarded c g <|
    let id := b.imm.toNat
    if c.i.coh ≠ some id then .trap 0x0F c.pc
    else afterAcquire c <| release c false fun c =>
      .done (((c.fallThrough 8).block (.cbar id false)).cohortArrive c.die id c.uid c.i.ctx.ord.view)

/-! ## Ranges (R154, R155) -/

/-- RNG (R154). -/
def execRng (g : Guard) (b : IBody) (s : State) : Host.Outcome State Fault Refusal :=
  issue false false s fun c => guarded c g <| needRoom c b.dst.toNat 1 <|
    let r := c.i.range
    if r.lo.ult r.hi then
      .ok ({ c with i := { c.i with range := { r with lo := r.lo + 1 } } }.produce b.dst.toNat 1 (.known [r.lo]) false false false)
    else .ok (c.produce b.dst.toNat 1 (.known [0xFFFF_FFFF]) false false false)

/-- RNGSET and RNGSET.SPLIT: the range is replaced. -/
def rngsetOp (g : Guard) (b : RBody) (split : Bool) (s : State) : Host.Outcome State Fault Refusal :=
  issue false false s fun c => guarded c g <| withOps c [opA b, opB b] fun l _ eat =>
    .ok (eat { c with i := { c.i with range := { c.i.range with lo := nth l 0, hi := nth l 1, steal := split, set := true } } })
/-- RNGSET (R155): not stealable. -/
def execRngset (g : Guard) (b : RBody) (s : State) : Host.Outcome State Fault Refusal := rngsetOp g b false s
/-- RNGSET.SPLIT (R155): stealable. -/
def execRngsetSplit (g : Guard) (b : RBody) (s : State) : Host.Outcome State Fault Refusal := rngsetOp g b true s

/-! ## Ring instructions (R281 to R284) -/

/-- RSUB (R282): one 64-bit write of the context's route mask. -/
def execRsub (g : Guard) (b : RBody) (s : State) : Host.Outcome State Fault Refusal :=
  issue false true s fun c => guarded c g <| commitStall c <| withOps c [opA b] fun l t eat => afterAcquire c <|
    let n := (nth l 0).toNat
    let pa := c.s.ctxPa c.die n
    let x := c.s.ctxOf c.die n
    if 1023 < n || isAtt c.die then .trap 0x17 c.pc
    else if (c.s.homeOf pa).isNone then .noMem pa
    else if ctxAsid x ≠ c.asid || ctxState x = 0 then .trap 0x17 c.pc
    else
      let c1 := (c.orderTaint (t || c.regs.taintPair b.b.toNat)).commit
      .ok (eat (c1.store 0 (pa + 8) 8 (c.regs.getPair b.b.toNat).toNat))

/-- A block executes `SEGDONE` (R275, R283). -/
def State.segDone (s : State) (d k uid : Nat) : State :=
  match (s.die d).ring.tasks.find k with
  | none => s
  | some t =>
    let s := s.updRing d fun r =>
      { r with
        tasks := r.tasks.put k { t with undone := dropNat t.undone uid }
        pres := (match r.pres.find t.pres with
          | some p => r.pres.put t.pres { p with segDone := true }
          | none => r.pres) }
    s.checkSaddle d t.pres

/-- SEGDONE (R283). -/
def execSegdone (g : Guard) (_b : IBody) (s : State) : Host.Outcome State Fault Refusal :=
  issue false false s fun c => guarded c g <| commitStall c <|
    match c.i.ex.segTask with
    | none => .trap 0x17 c.pc
    | some k =>
      if c.i.ex.segDone then .ok c.commit
      else .ok { c.commit with s := c.s.segDone c.die k c.uid, i := { c.commit.i with ex := { c.i.ex with segDone := true } } }

/-- The most recent presentation at a die. -/
def RingSide.latest (r : RingSide) : Option Pres :=
  r.pres.cells.foldl (fun a p => match a with
    | some q => if q.slot ≤ p.2.slot then some p.2 else a
    | none => some p.2) none

/-- What `RTAG` reads (R284). -/
def State.rtag (s : State) (d asid : Nat) : Word64 :=
  let x := s.die d
  match x.ring.pres.cells.find? fun p => p.2.slot == x.regs.sigma && p.2.asid == asid with
  | some p => p.2.tag
  | none =>
    let rot := if x.ring.bypassed then (match x.ring.latest with
        | some p => p.rot
        | none => x.ring.maxRot)
      else x.regs.sigma / x.regs.rotLen
    BitVec.ofNat 64 (rot % 2 ^ 32 + 0xF_FFFF * 2 ^ 32 + asid % 512 * 2 ^ 55)

/-- RTAG (R284). -/
def execRtag (g : Guard) (b : IBody) (s : State) : Host.Outcome State Fault Refusal :=
  issue false true s fun c => guarded c g <| .ok (c.putPair b.dst.toNat 1 (c.s.rtag c.die c.asid) false)

end Sys2Proof.Machine
end

