-- ==== Sys2Proof/Machine/Build.lean ====
section
/-! DEFINITION. The engines' accesses (R222): elements of tensors read and written by a running command, descriptors
read when a chain word or a restored word is pushed (R104, R352), and error causes (R216). -/

namespace Sys2Proof.Machine

/-- What a part of a command's work gives: it is done, it waits for a page (R222), the command fails with a cause of
R216 (a KV error carries the failing slot from bit 8 up, R324), or an address exists nowhere. -/
inductive Go (α : Type) where
  | ok (s : State) (a : α)
  | wait (s : State) (va : Nat)
  | err (s : State) (code : Nat)
  | noMem (pa : Nat)

/-- One part of the work after another. -/
def Go.bind {α β : Type} (g : Go α) (f : State → α → Go β) : Go β :=
  match g with
  | .ok s a => f s a
  | .wait s va => .wait s va
  | .err s c => .err s c
  | .noMem pa => .noMem pa

/-- The cause of R216 for a push check's fault code. -/
def checkCause (code : Nat) : Nat := if code = 0x0E then 4 else 3

/-- A physical address for an access of an engine (R222): a miss walks at once, or waits while its walk has to (R374). -/
def State.engAt (s : State) (die asid va : Nat) (k : Acc) : Go Nat :=
  match s.resolveEng die asid va k with
  | (s, .ok pa) => .ok s pa
  | (s, .paged) => .wait s va
  | (s, .miss) => .wait s va
  | (_, .noMem pa) => .noMem pa
  | (s, _) => .err s 2

/-- A command reads the newest value of these bytes: the older ones are outdated for it (R253, log entry 45). -/
def State.engSees (s : State) (pa n : Nat) : State :=
  s.updRelaxed fun x => { x with met := x.met ++ (s.oldsAt pa n).filter fun k => !hasNat x.met k }
/-- The page of a wait is asked for if it is out (R354): a walk that has to wait asks for nothing. -/
def State.pageAsk (s : State) (va asid die : Nat) : State :=
  if s.walk asid va .read = .paged then (s.pageRequest va asid 0 die).1 else s
/-- Reads `n` bytes of global memory. Whether another module rejects the load, an access failure (R383), and what it answers are free
values (log entry 21). -/
def State.engLoad (s : State) (die asid va n : Nat) : Go Nat :=
  (s.engAt die asid va .read).bind fun s pa =>
    if isSpan pa then
      (if Config.freeNat (s.free + 1) % 2 = 1 then .err s.tick.tick 2 else .ok s.tick.tick (Config.freeNat s.free % 256 ^ n))
    else if s.badAt pa n then .err (s.uecc pa) 5
    else .ok (s.engSees pa n) (s.readPa pa n)

/-- Reads one element (R76): out of bounds it is pad. -/
def State.engRead (s : State) (die tile asid : Nat) (d : Desc) (x : List Int) : Go Nat :=
  if !d.inBounds x then .ok s d.pad
  else if d.space = 1 then
    let t := s.tile die tile
    if t.badAt (d.addr x) (fmtBytes d.fmt) then .err (s.rasBump die 1) 5
    else .ok s (t.read (d.addr x) (fmtBytes d.fmt))
  else s.engLoad die asid (d.addr x) (fmtBytes d.fmt)

/-- Adds suppressed writes to the oobw of a descriptor (R76), waiting for its page like any access of the command (R222). -/
def State.engOob (s : State) (die asid : Nat) (d : Desc) (n : Nat) : Go (Option Nat) :=
  (s.engAt die asid d.va .read).bind fun s pa => .ok (s.addOobw die asid pa n) none

/-- A command may store there: one that firmware pushed meets its egress filter (R368). -/
def State.engMay (s : State) (c : Cmd) (pa : Nat) : Bool := !c.firm || s.egress pa
/-- The store is dropped and counted (R368). -/
def State.engDrop (s : State) : State := { s with fw := { s.fw with filtered := s.fw.filtered + 1 } }
/-- A command's message to another module: a store (`op` 0) or an atomic. -/
def State.engSend (s : State) (die : Nat) (c : Cmd) (pa va n op v : Nat) : State :=
  s.sendSpan ⟨none, c.asid, c.queue, die, pa, va, n, op, v % 256 ^ n, (s.die die).cyc, 1⟩

/-- Writes one element (R76): out of bounds it is suppressed and counted. A store to another module is posted; its
message number is given back (R220). -/
def State.engWrite (s : State) (die tile : Nat) (c : Cmd) (d : Desc) (x : List Int) (v : Nat) : Go (Option Nat) :=
  let n := fmtBytes d.fmt
  if !d.inBounds x then s.engOob die c.asid d 1
  else if d.space = 1 then .ok (s.tileWrite die tile (d.addr x) n (v % 256 ^ n)) none
  else (s.engAt die c.asid (d.addr x) .write).bind fun s pa =>
    if !s.engMay c pa then .ok s.engDrop none
    else if isSpan pa then .ok (s.engSend die c pa (d.addr x) n 0 v) (some s.ports.nextMsg)
    else .ok (s.writePa pa n (v % 256 ^ n)) none

/-- One read-modify-write of an element that lies in bounds, at its home (R198, R244): `f` gives the new value from the old
one. The release sequences at the location go on (R250). In another module the home performs it: the message carries the
operand, and what is written there is that module's (log entry 21). -/
def State.engRmw (s : State) (die tile : Nat) (c : Cmd) (d : Desc) (x : List Int) (operand : Nat) (f : Nat → Nat) :
    Go (Option Nat) :=
  let n := fmtBytes d.fmt
  if d.space = 1 then
    (s.engRead die tile c.asid d x).bind fun s old =>
      .ok (s.tileWrite die tile (d.addr x) n (f old % 256 ^ n)) none
  else (s.engAt die c.asid (d.addr x) .both).bind fun s pa =>
    if !s.engMay c pa then .ok s.engDrop none
    else if isSpan pa then .ok (s.engSend die c pa (d.addr x) n 1 operand) (some s.ports.nextMsg)
    else if s.badAt pa n then .err (s.uecc pa) 5
    else .ok (s.rmwPa pa n (f (s.readPa pa n) % 256 ^ n)) none

/-! ## Words pushed by the copy engine and by a restore -/

/-- A descriptor read by an engine (R74, R77). A translation fault or a memory error of the read stops a chain with the codes 2 and 5 of
a running word (log entry 167). -/
def State.engDesc (s : State) (die tile asid h : Nat) : Go Desc :=
  if h = 0 ∨ 0xFFFF ≤ h then .err s 3
  else (s.engLoad die asid (s.descVa asid h).toNat 64).bind fun s v =>
    let d := parseDesc h (s.descVa asid h).toNat v
    if s.descOk die tile asid v d then .ok s d else .err s 3

/-- The descriptors of a word. -/
def State.engDescs (s : State) (die asid : Nat) : List (Nat × Nat) → Go (List Desc)
  | [] => .ok s []
  | (h, t) :: rest =>
    (s.engDesc die t asid h).bind fun s d => (s.engDescs die asid rest).bind fun s l => .ok s (d :: l)

/-- A scale tensor; none for handle 0 (R118, R119). -/
def State.engScale (s : State) (die tile asid h : Nat) : Go Desc :=
  if h = 0 then .ok s noDesc
  else (s.engDesc die tile asid h).bind fun s d => if scaleOk d then .ok s d else .err s 3

/-- The command of a word that the copy engine pushes, or that a restore pushes back (R104, R352): the checks of
R221 with the causes of R216; `view` is what is carried to it (R258). `seg` is the segment task of the stream; `kept` is the window copy that a drained word
reads (R226). -/
def State.buildCmd (s : State) (die tile : Nat) (o : EngOp) (g : Guard) (b : CmdBody) (f : List Nat)
    (seg : Option Nat × Bool) (kept : Option Nat) (view : List Know) (w : Pusher) : Go Cmd :=
  let done (s : State) (c : Cmd) : Go Cmd := .ok s { c with view := view }
  if !o.limits (resolvedBody b f) || !s.cmdWindow w.asid b then .err s 3
  else (s.engDescs die w.asid (cmdHandles o tile f)).bind fun s ds =>
    match s.descCheck die o f ds with
    | some code => .err s (checkCause code)
    | none =>
      if o ≠ .mma then done s (mkCmd o g b f ds none none w)
      else
        let p := match kept.bind (s.die die).ring.pres.find with
          | some x => some (presTag x tile, kept)
          | none => s.panelOf die tile w.asid seg (uf f 1)
        match p with
        | none => .err s 3
        | some (tag, pres) =>
          let a := ds.getD 0 noDesc
          match mmaCheck s.host.phase f a tag with
          | some code => .err s (checkCause code)
          | none =>
            (s.engScale die tile w.asid (scaleHandles a tag).1).bind fun s sa =>
              (s.engScale die tile w.asid (scaleHandles a tag).2).bind fun s sb =>
                done s (mkCmd o g b f [a, sa, sb] (some tag) pres w)

/-- The command op of a decoded word. -/
def cmdOf : Instr → Option (EngOp × Guard × CmdBody)
  | .mma g b => some (.mma, g, b)
  | .xld g b => some (.xld, g, b)
  | .accrd g b => some (.accrd, g, b)
  | .accld g b => some (.accld, g, b)
  | .tcopy g b => some (.tcopy, g, b)
  | .tmcast g b => some (.tmcast, g, b)
  | .twin g b => some (.twin, g, b)
  | .tfill g b => some (.tfill, g, b)
  | .scat g b => some (.scat, g, b)
  | .attn g b => some (.attn, g, b)
  | .kvapp g b => some (.kvapp, g, b)
  | .kvrot g b => some (.kvrot, g, b)
  | .kvevict g b => some (.kvevict, g, b)
  | _ => none

/-! ## Runs of elements -/

/-- Does units `k`, `k + 1`, … of a command, `n` of them; a wait or an error keeps the number done. -/
def runUnits (f : State → Nat → Go (Option Nat)) : Nat → Nat → List Nat → State → Go Unit × Nat × List Nat
  | 0, k, l, s => (.ok s (), k, l)
  | n + 1, k, l, s =>
    match f s k with
    | .ok s r => runUnits f n (k + 1) (l ++ r.toList) s
    | .wait s va => (.wait s va, k, l)
    | .err s c => (.err s c, k, l)
    | .noMem pa => (.noMem pa, k, l)
/-- Reads items `k`, `k + 1`, … of a command, `n` of them, each behind those of `l`; a wait or an error keeps those read (R222). -/
def readRun (rd : State → Nat → Go Nat) : Nat → Nat → List Nat → State → Go Unit × List Nat
  | 0, _, l, s => (.ok s (), l)
  | n + 1, k, l, s =>
    match rd s k with
    | .ok s v => readRun rd n (k + 1) (l ++ [v]) s
    | .wait s va => (.wait s va, l)
    | .err s c => (.err s c, l)
    | .noMem pa => (.noMem pa, l)
/-- One step after another over a list. -/
def foldGo {α : Type} (f : State → α → Go Unit) : List α → State → Go Unit
  | [], s => .ok s ()
  | a :: t, s => (f s a).bind fun s _ => foldGo f t s

end Sys2Proof.Machine
end

