-- ==== Sys2Proof/Machine/Transc.lean ====
section
/-! DEFINITION. Correctly rounded functions (R170, R171, R327, R331): quotient, reciprocal square root, powers of two,
logarithm, sinc, exponential, cosine and sine. A result is bracketed by two integers over 2^P; when both ends round to
one encoding that is the rounding of the exact value. Precision grows until they do (log entry 24 when they never do). -/

namespace Sys2Proof.Machine

/-- An interval: both ends in units of 2^−P. -/
abbrev Iv := Nat × Nat

/-- Product of intervals. -/
def ivMul (p : Nat) (a b : Iv) : Iv := (a.1 * b.1 / 2 ^ p, a.2 * b.2 / 2 ^ p + 1)
/-- Quotient of intervals; the divisor's low end must be positive. -/
def ivDiv (p : Nat) (a b : Iv) : Iv := (a.1 * 2 ^ p / b.2, a.2 * 2 ^ p / b.1 + 1)
/-- The exact number n / 2^s as an interval. -/
def ivOf (p n s : Nat) : Iv := (n * 2 ^ p / 2 ^ s, n * 2 ^ p / 2 ^ s + 1)

/-- Sum of y^k / k! from term `t`, `n` terms, with the tail bound on the high side; `y` lies below 1. -/
def expSum (p : Nat) (y : Iv) : Nat → Nat → Iv → Iv
  | 0, _, t => (0, 2 * t.2 + 2)
  | n + 1, k, t =>
    let r := expSum p y n (k + 1) (t.1 * y.1 / 2 ^ p / (k + 1), t.2 * y.2 / 2 ^ p / (k + 1) + 1)
    (t.1 + r.1, t.2 + r.2)
/-- e^y for y in [0, 1). -/
def ivExp (p : Nat) (y : Iv) : Iv := expSum p y (p / 2 + 16) 0 (2 ^ p, 2 ^ p)

/-- Alternating sum of t, t·q/(k+1)(k+2), …: even terms add, odd terms subtract. Answers the sums of both signs. -/
def altSum (p : Nat) (q : Iv) : Nat → Nat → Iv → Iv × Iv
  | 0, _, t => ((0, t.2 + 1), (0, t.2 + 1))
  | n + 1, k, t =>
    let d := (k + 1) * (k + 2)
    let r := altSum p q n (k + 2) (t.1 * q.1 / 2 ^ p / d, t.2 * q.2 / 2 ^ p / d + 1)
    ((t.1 + r.2.1, t.2 + r.2.2), r.1)
/-- Difference of the two sums, at least 0. -/
def altDiff (x : Iv × Iv) : Iv := (x.1.1 - x.2.2, x.1.2 - x.2.1)
/-- sin y for y in [0, 2). -/
def ivSin (p : Nat) (y : Iv) : Iv := altDiff (altSum p (ivMul p y y) (p / 4 + 16) 1 y)
/-- cos y for y in [0, 1.571). -/
def ivCos (p : Nat) (y : Iv) : Iv := altDiff (altSum p (ivMul p y y) (p / 4 + 16) 0 (2 ^ p, 2 ^ p))

/-- Sum of 2^P / (k · 2^k). -/
def ln2Sum (p : Nat) : Nat → Nat
  | 0 => 0
  | n + 1 => 2 ^ p / ((n + 1) * 2 ^ (n + 1)) + ln2Sum p n
/-- ln 2. -/
def ivLn2 (p : Nat) : Iv := (ln2Sum p p, ln2Sum p p + p + 2)

/-- The two sums of 1/((2k+1)·n^(2k+1)): even k and odd k. -/
def atanSum (p n : Nat) : Nat → Nat × Nat
  | 0 => (0, 0)
  | k + 1 =>
    let t := 2 ^ p / ((2 * k + 1) * n ^ (2 * k + 1))
    let r := atanSum p n k
    if k % 2 = 0 then (r.1 + t, r.2) else (r.1, r.2 + t)
/-- arctan(1/n). -/
def ivAtan (p n : Nat) : Iv :=
  let k := p / 2 + 4
  let r := atanSum p n k
  (r.1 - r.2 - k - 1, r.1 - r.2 + k + 1)
/-- π, by 16·arctan(1/5) − 4·arctan(1/239). -/
def ivPi (p : Nat) : Iv :=
  let a := ivAtan p 5
  let b := ivAtan p 239
  (16 * a.1 - 4 * b.2, 16 * a.2 - 4 * b.1)

/-- Sum of t^(2j+1)/(2j+1) from power `t`. -/
def atanhSum (p : Nat) (q : Iv) : Nat → Nat → Iv → Iv
  | 0, _, t => (0, 2 * t.2 + 2)
  | n + 1, j, t =>
    let r := atanhSum p q n (j + 1) (ivMul p t q)
    (t.1 / (2 * j + 1) + r.1, t.2 / (2 * j + 1) + 1 + r.2)
/-- ln z for z in [1, 2), given exactly as n / 2^s. -/
def ivLn (p n s : Nat) : Iv :=
  let t : Iv := ((n - 2 ^ s) * 2 ^ p / (n + 2 ^ s), (n - 2 ^ s) * 2 ^ p / (n + 2 ^ s) + 1)
  let r := atanhSum p (ivMul p t t) (p / 3 + 8) 0 t
  (2 * r.1, 2 * r.2)
/-- log2 z for z in [1, 2). -/
def ivLog2 (p n s : Nat) : Iv := ivDiv p (ivLn p n s) (ivLn2 p)
/-- 2^g for g in [0, 1]. -/
def ivExp2 (p : Nat) (g : Iv) : Iv := ivExp p (ivMul p g (ivLn2 p))

/-- Rounds a bracketed magnitude when both ends round alike. -/
def roundIv (c : Nat) (mode : RMode) (neg : Bool) (v : Iv) (e : Int) : Option Nat :=
  let a := roundFp c mode false (.fin neg v.1 e)
  let b := roundFp c mode false (.fin neg v.2 e)
  if v.1 ≠ 0 ∧ a = b then some a else none

/-- The precisions that are tried. -/
def precisions : List Nat := [128, 256, 640, 1200]
/-- The first precision that decides. -/
def firstDecided (f : Nat → Option Nat) : List Nat → Option Nat
  | [] => none
  | p :: t => match f p with
    | some v => some v
    | none => firstDecided f t
/-- The rounding that the search gives, else the undecided constant (log entry 24). -/
def decided (fn c arg : Nat) (f : Nat → Option Nat) : Nat :=
  match firstDecided f precisions with
  | some v => v
  | none => Config.undecided fn c arg % 2 ^ widthOf c

/-! ## The functions -/

/-- Integer square root of a number below 4^b. -/
def isqrt (n : Nat) : Nat → Nat
  | 0 => 0
  | b + 1 =>
    let r := isqrt (n / 4) b * 2
    if (r + 1) * (r + 1) ≤ n then r + 1 else r

/-- A quotient that rounds as the exact one does in every mode: the last bit says whether more follows. -/
def Val.quot : Val → Val → Val
  | .nan, _ => .nan
  | _, .nan => .nan
  | .inf _, .inf _ => .nan
  | .inf a, .fin b _ _ => .inf (a != b)
  | .fin a _ _, .inf b => .fin (a != b) 0 0
  | .fin a m1 e1, .fin b m2 e2 =>
    if m2 = 0 then (if m1 = 0 then .nan else .inf (a != b))
    else if m1 = 0 then .fin (a != b) 0 0
    else
      let k := 128 + Nat.log2 m2
      let q := m1 * 2 ^ k / m2
      .fin (a != b) (2 * q + (if m1 * 2 ^ k % m2 = 0 then 0 else 1)) (e1 - e2 - k - 1)

/-- 1/√x of a positive finite value, as `Val.quot`. -/
def rsqrtVal (m : Nat) (e : Int) : Val :=
  let m' := if e % 2 = 0 then m else 2 * m
  let e' := if e % 2 = 0 then e else e - 1
  let k := 128 + Nat.log2 m'
  let s := isqrt (2 ^ (2 * k) / m') (k + 1)
  .fin false (2 * s + (if s * s * m' = 2 ^ (2 * k) then 0 else 1)) (-(e' / 2) - k - 1)

/-- 2^x of a finite nonzero value (R170), as bits of FP32. -/
def exp2Bits (mode : RMode) (neg : Bool) (m : Nat) (e : Int) : Nat :=
  let big := decide (9 ≤ (Nat.log2 m : Int) + e)
  if big then roundFp 0 mode false (.fin false 1 (if neg then -600 else 600))
  else if 0 ≤ e then
    let n : Int := ((m * 2 ^ e.toNat : Nat) : Int)
    roundFp 0 mode false (.fin false 1 (if neg then -n else n))
  else
    let s := (-e).toNat
    let n : Int := if neg then -(m / 2 ^ s : Nat) - 1 else ((m / 2 ^ s : Nat) : Int)
    let r := if neg then 2 ^ s - m % 2 ^ s else m % 2 ^ s
    if m % 2 ^ s = 0 then roundFp 0 mode false (.fin false 1 (if neg then -(m / 2 ^ s : Nat) else ((m / 2 ^ s : Nat) : Int)))
    else decided 2 0 (m + 2 ^ 64 * s) fun p => roundIv 0 mode false (ivExp2 p (ivOf p r s)) (n - p)

/-- log2 of a positive finite value, as bits of FP32. -/
def log2Bits (mode : RMode) (m : Nat) (e : Int) : Nat :=
  let s := Nat.log2 m
  let k : Int := (s : Int) + e
  if m = 2 ^ s then roundFp 0 mode false (Val.ofInt k)
  else decided 3 0 (m + 2 ^ 64 * s) fun p =>
    let l := ivLog2 p m s
    if 0 ≤ k then roundIv 0 mode false (k.toNat * 2 ^ p + l.1, k.toNat * 2 ^ p + l.2) (-p)
    else roundIv 0 mode true ((-k).toNat * 2 ^ p - l.2, (-k).toNat * 2 ^ p - l.1) (-p)

/-- sin(πx)/(πx) of a finite nonzero value that is not an integer, as bits of FP32; an integer gives +0. -/
def sincBits (mode : RMode) (m : Nat) (e : Int) : Nat :=
  let s := (-e).toNat
  if 0 ≤ e ∨ m % 2 ^ s = 0 then 0
  else
    let one := 2 ^ s
    let w := m % (2 * one)
    let neg := decide (one ≤ w)
    let u := Nat.min (w % one) (one - w % one)
    decided 4 0 (m + 2 ^ 64 * s) fun p =>
      let pi := ivPi p
      let y : Iv := (pi.1 * u / one, pi.2 * u / one + 1)
      let d : Iv := (pi.1 * m / one, pi.2 * m / one + 1)
      if d.1 = 0 then none else roundIv 0 mode neg (ivDiv p (ivSin p y) d) (-p)

/-- The five transcendentals of R170 with the special inputs of R171: 0 VRCP, 1 VRSQ, 2 VEXP2, 3 VLOG2, 4 VSINC. The
result is FP32 bits before the flush of fout. -/
def transc (fn : Nat) (mode : RMode) (x : Val) : Nat :=
  match fn, x with
  | _, .nan => canonNan 0
  | 0, v => roundFp 0 mode false (Val.quot (.fin false 1 0) v)
  | 1, .inf neg => if neg then canonNan 0 else 0
  | 1, .fin neg m e =>
    if m = 0 then infBits 0 neg false else if neg then canonNan 0 else roundFp 0 mode false (rsqrtVal m e)
  | 2, .inf neg => if neg then 0 else infBits 0 false false
  | 2, .fin neg m e => if m = 0 then 0x3F80_0000 else exp2Bits mode neg m e
  | 3, .inf neg => if neg then canonNan 0 else infBits 0 false false
  | 3, .fin neg m e => if m = 0 then infBits 0 true false else if neg then canonNan 0 else log2Bits mode m e
  | _, .inf _ => 0
  | _, .fin _ m e => if m = 0 then 0x3F80_0000 else sincBits mode m e

/-- exp32 of R331 for an exact x at most 0, as bits of FP32. -/
def exp32 : Val → Nat
  | .nan => canonNan 0
  | .inf neg => if neg then 0 else infBits 0 false false
  | .fin neg m e =>
    if m = 0 then 0x3F80_0000
    else if !neg then infBits 0 false false
    else if 7 ≤ (Nat.log2 m : Int) + e then 0
    else
      let s := (-e).toNat
      let a := if 0 ≤ e then m * 2 ^ e.toNat else m
      decided 5 0 (m + 2 ^ 64 * s) fun p =>
        let t := ivDiv p (ivOf p a s) (ivLn2 p)
        let k := t.1 / 2 ^ p + 1
        roundIv 0 .rne false (ivExp2 p (k * 2 ^ p - t.2, k * 2 ^ p - t.1)) (-(k : Int) - p)

/-- Sine and cosine magnitudes of an angle, with their signs, when the quadrant is decided. -/
def ivSinCos (p : Nat) (a : Iv) : Option ((Bool × Iv) × (Bool × Iv)) :=
  let h : Iv := ((ivPi p).1 / 2, (ivPi p).2 / 2 + 1)
  let k := a.1 / h.2
  if a.1 < k * h.2 ∨ (k + 1) * h.1 < a.2 then none
  else
    let y : Iv := (a.1 - k * h.2, a.2 - k * h.1)
    let s := ivSin p y
    let c := ivCos p y
    some (match k % 4 with
      | 0 => ((false, s), (false, c))
      | 1 => ((false, c), (true, s))
      | 2 => ((true, s), (true, c))
      | _ => ((true, c), (false, s)))

/-- The angle |pos| · b^(−2i/d) of R327, for b = m · 2^e above 1 and i below d/2. -/
def ropeAngle (p pos m : Nat) (e : Int) (i d : Nat) : Iv :=
  if i = 0 then (pos * 2 ^ p, pos * 2 ^ p)
  else
    let s := Nat.log2 m
    let k := ((s : Int) + e).toNat
    let l := ivLog2 p m s
    let x : Iv := ((k * 2 ^ p + l.1) * (2 * i) / d, (k * 2 ^ p + l.2) * (2 * i) / d + 1)
    let n := x.1 / 2 ^ p + 1
    let g := ivExp2 p (n * 2 ^ p - x.2, n * 2 ^ p - x.1)
    (g.1 * pos / 2 ^ n, g.2 * pos / 2 ^ n + 1)

/-- Cosine and sine of R327, as FP32 bits, for a signed position. -/
def ropeTable (pos : Int) (m : Nat) (e : Int) (i d : Nat) : Nat × Nat :=
  if pos = 0 then (0x3F80_0000, 0)
  else
    let arg := pos.natAbs + 2 ^ 64 * (m + 2 ^ 32 * (i + 256 * d))
    (decided 6 0 arg fun p => (ivSinCos p (ropeAngle p pos.natAbs m e i d)).bind fun r => roundIv 0 .rne r.2.1 r.2.2 (-p),
     decided 7 0 arg fun p => (ivSinCos p (ropeAngle p pos.natAbs m e i d)).bind fun r =>
       roundIv 0 .rne (r.1.1 != decide (pos < 0)) r.1.2 (-p))

end Sys2Proof.Machine
end

