-- ==== Sys2Proof/Machine/Vector.lean ====
section
/-! DEFINITION. Vector instructions and condensing streams (R156 to R186). Elements are numbers of at most 32 bits; a
format is its descriptor code (R75). -/

namespace Sys2Proof.Machine

/-! ## Lanes and operands -/

/-- The element format of a word (R86). -/
def vfmt (b : VBody) : Nat := typeFmt b.ty.toNat
/-- The rounding mode of a word (R87). -/
def vmode (b : VBody) : RMode := rmode b.rnd.toNat
/-- Operand a, a vector. -/
def vopA (b : VBody) : Opnd := ⟨b.va.toNat, b.ka⟩
/-- Operand b, a vector. -/
def vopB (b : VBody) : Opnd := ⟨b.vb.toNat, b.kb⟩
/-- Operand c, a vector. -/
def vopC (b : VBody) : Opnd := ⟨b.vc.toNat, b.kc⟩
/-- The bits of lane `i` of vector operand `k`. -/
def laneBits (vs : List VecReg) (k i : Nat) : Nat := (laneOf (vs.getD k 0) i).toNat
/-- A vector from the lanes of a mask, zero elsewhere. -/
def maskLanes (mask : Pred) (f : Nat → Word) : VecReg := ofLanes fun i => if bitAt mask i then f i else 0
/-- Latency of a typed instruction (R160). -/
def typedLat (c : Nat) : Nat := if isFloat c then 4 else 2

/-- A vector word with a per-lane guard and a vector destination (R61, R68, R158): `sc` are the scalar registers it
reads, `f` gives lane `i`. -/
def laneOp (s : State) (g : Guard) (b : VBody) (ops : List Opnd) (sc : List Nat) (lat : Nat)
    (f : Cur → List VecReg → Nat → Word) : Host.Outcome State Fault Refusal :=
  issue false true s fun c =>
    let mask := guardMask c.regs g
    if mask = 0 then .ok c
    else withVecs c ops fun vs t eat => needRoomV c b.vd.toNat <|
      .ok (eat (c.putV b.vd.toNat lat (maskLanes mask (f c vs)) mask (t || sc.any c.regs.taintS)))

/-- The vector operands of a word whose operand b is a vector in variant 0 and a scalar in variant 1. -/
def opsAB (b : VBody) : List Opnd := if b.var.toNat = 0 then [vopA b, vopB b] else [vopA b]
/-- The scalar operand of variant 1. -/
def scB (b : VBody) : List Nat := if b.var.toNat = 0 then [] else [b.vb.toNat]
/-- Operand b of lane `i`. -/
def laneB (c : Cur) (b : VBody) (vs : List VecReg) (i : Nat) : Nat :=
  if b.var.toNat = 0 then laneBits vs 1 i else (c.regs.getS b.vb.toNat).toNat

/-! ## Typed arithmetic (R161 to R165) -/

/-- A sum of two elements of format `f`. -/
def elAdd (f : Nat) (mode : RMode) (fz sat : Bool) (a b : Nat) : Nat :=
  if isFloat f then fout f mode fz (Val.add mode (finVal f fz a) (finVal f fz b))
  else fitInt f sat (ivalOf f a + ivalOf f b)
/-- A difference. -/
def elSub (f : Nat) (mode : RMode) (fz sat : Bool) (a b : Nat) : Nat :=
  if isFloat f then fout f mode fz (Val.add mode (finVal f fz a) (finVal f fz b).negate)
  else fitInt f sat (ivalOf f a - ivalOf f b)
/-- A product. -/
def elMul (f : Nat) (mode : RMode) (fz sat : Bool) (a b : Nat) : Nat :=
  if isFloat f then fout f mode fz (Val.mul (finVal f fz a) (finVal f fz b))
  else fitInt f sat (ivalOf f a * ivalOf f b)
/-- a · b + c with one rounding. -/
def elFma (f : Nat) (mode : RMode) (fz sat : Bool) (a b c : Nat) : Nat :=
  if isFloat f then fout f mode fz (Val.add mode (Val.mul (finVal f fz a) (finVal f fz b)) (finVal f fz c))
  else fitInt f sat (ivalOf f a * ivalOf f b + ivalOf f c)
/-- An element as an operation without rounding writes it: flushed, a NaN canonical. -/
def canon (f : Nat) (fz : Bool) (a : Nat) : Nat := roundFp f .rne false (finVal f fz a)
/-- The smaller element (R164). -/
def elMin (f : Nat) (fz : Bool) (a b : Nat) : Nat :=
  if isFloat f then
    (if (finVal f fz a).isNan || (finVal f fz b).isNan then canonNan f
     else if (finVal f fz b).below (finVal f fz a) then canon f fz b else canon f fz a)
  else if ivalOf f b < ivalOf f a then b % 2 ^ fmtBits f else a % 2 ^ fmtBits f
/-- The larger element (R164). -/
def elMax (f : Nat) (fz : Bool) (a b : Nat) : Nat :=
  if isFloat f then
    (if (finVal f fz a).isNan || (finVal f fz b).isNan then canonNan f
     else if (finVal f fz a).below (finVal f fz b) then canon f fz b else canon f fz a)
  else if ivalOf f a < ivalOf f b then b % 2 ^ fmtBits f else a % 2 ^ fmtBits f
/-- The magnitude (R165). -/
def elAbs (f : Nat) (fz sat : Bool) (a : Nat) : Nat :=
  if isFloat f then (if (finVal f fz a).isNan then canonNan f else canon f fz a % 2 ^ (fmtBits f - 1))
  else fitInt f sat ((ivalOf f a).natAbs : Int)
/-- The negation (R165). -/
def elNeg (f : Nat) (fz sat : Bool) (a : Nat) : Nat :=
  if isFloat f then (if (finVal f fz a).isNan then canonNan f else canon f fz a ^^^ 2 ^ (fmtBits f - 1))
  else fitInt f sat (-(ivalOf f a))

/-- A typed instruction of two operands. -/
def typed2 (s : State) (g : Guard) (b : VBody) (f : Nat → Nat → Nat) : Host.Outcome State Fault Refusal :=
  laneOp s g b (opsAB b) (scB b) (typedLat (vfmt b)) fun c vs i => putElem (vfmt b) (f (laneBits vs 0 i) (laneB c b vs i))
/-- A typed instruction of one operand. -/
def typed1 (s : State) (g : Guard) (b : VBody) (f : Nat → Nat) : Host.Outcome State Fault Refusal :=
  laneOp s g b [vopA b] [] (typedLat (vfmt b)) fun _ vs i => putElem (vfmt b) (f (laneBits vs 0 i))

/-- VADD (R161). -/
def execVadd (g : Guard) (b : VBody) (s : State) : Host.Outcome State Fault Refusal :=
  typed2 s g b (elAdd (vfmt b) (vmode b) b.fz b.sat)
/-- VSUB (R161). -/
def execVsub (g : Guard) (b : VBody) (s : State) : Host.Outcome State Fault Refusal :=
  typed2 s g b (elSub (vfmt b) (vmode b) b.fz b.sat)
/-- VMUL (R161). -/
def execVmul (g : Guard) (b : VBody) (s : State) : Host.Outcome State Fault Refusal :=
  typed2 s g b (elMul (vfmt b) (vmode b) b.fz b.sat)
/-- VFMA (R161). -/
def execVfma (g : Guard) (b : VBody) (s : State) : Host.Outcome State Fault Refusal :=
  laneOp s g b (opsAB b ++ [vopC b]) (scB b) (typedLat (vfmt b)) fun c vs i =>
    putElem (vfmt b) (elFma (vfmt b) (vmode b) b.fz b.sat (laneBits vs 0 i) (laneB c b vs i)
      (laneBits vs (if b.var.toNat = 0 then 2 else 1) i))
/-- VMIN (R164). -/
def execVmin (g : Guard) (b : VBody) (s : State) : Host.Outcome State Fault Refusal := typed2 s g b (elMin (vfmt b) b.fz)
/-- VMAX (R164). -/
def execVmax (g : Guard) (b : VBody) (s : State) : Host.Outcome State Fault Refusal := typed2 s g b (elMax (vfmt b) b.fz)
/-- VABS (R165). -/
def execVabs (g : Guard) (b : VBody) (s : State) : Host.Outcome State Fault Refusal := typed1 s g b (elAbs (vfmt b) b.fz b.sat)
/-- VNEG (R165). -/
def execVneg (g : Guard) (b : VBody) (s : State) : Host.Outcome State Fault Refusal := typed1 s g b (elNeg (vfmt b) b.fz b.sat)

/-! ## Logical operations and shifts (R166, R167) -/

/-- A whole-lane instruction of two operands. -/
def lane2 (s : State) (g : Guard) (b : VBody) (f : Nat → Nat → Nat) : Host.Outcome State Fault Refusal :=
  laneOp s g b (opsAB b) (scB b) 2 fun c vs i => BitVec.ofNat 32 (f (laneBits vs 0 i) (laneB c b vs i))
/-- VAND (R166). -/
def execVand (g : Guard) (b : VBody) (s : State) : Host.Outcome State Fault Refusal := lane2 s g b (· &&& ·)
/-- VOR (R166). -/
def execVor (g : Guard) (b : VBody) (s : State) : Host.Outcome State Fault Refusal := lane2 s g b (· ||| ·)
/-- VXOR (R166). -/
def execVxor (g : Guard) (b : VBody) (s : State) : Host.Outcome State Fault Refusal := lane2 s g b (· ^^^ ·)

/-- A shift: the count comes from vb, from the scalar, or from the vc field (R167). -/
def shiftOp (s : State) (g : Guard) (b : VBody) (f : Nat → Nat → Nat) : Host.Outcome State Fault Refusal :=
  let v := b.var.toNat
  laneOp s g b (if v = 0 then [vopA b, vopB b] else [vopA b]) (if v = 1 then [b.vb.toNat] else []) 2 fun c vs i =>
    let n := if v = 2 then b.vc.toNat else laneB c b vs i % fmtBits (vfmt b)
    putElem (vfmt b) (f (laneBits vs 0 i) n)
/-- VSHL (R167). -/
def execVshl (g : Guard) (b : VBody) (s : State) : Host.Outcome State Fault Refusal :=
  shiftOp s g b fun a n => fitInt (vfmt b) b.sat (ivalOf (vfmt b) a * 2 ^ n)
/-- VSHR (R167). -/
def execVshr (g : Guard) (b : VBody) (s : State) : Host.Outcome State Fault Refusal :=
  shiftOp s g b fun a n => a % 2 ^ fmtBits (vfmt b) / 2 ^ n
/-- VSRA (R167). -/
def execVsra (g : Guard) (b : VBody) (s : State) : Host.Outcome State Fault Refusal :=
  shiftOp s g b fun a n => wrapN (fmtBits (vfmt b)) (sextN (fmtBits (vfmt b)) a / 2 ^ n)

/-! ## Compares (R168) -/

/-- vcond of R168. -/
def vcond (f cond : Nat) (fz : Bool) (a b : Nat) : Bool :=
  if isFloat f then
    let x := finVal f fz a
    let y := finVal f fz b
    match cond with
    | 0 => x.eqv y
    | 1 => !x.eqv y
    | 2 => x.below y && !x.eqv y
    | 3 => x.below y || x.eqv y
    | 4 => y.below x && !x.eqv y
    | _ => y.below x || x.eqv y
  else
    let w := fmtBits f
    let x := a % 2 ^ w
    let y := b % 2 ^ w
    match cond with
    | 0 => x == y
    | 1 => x != y
    | 2 => decide (sextN w x < sextN w y)
    | 3 => decide (sextN w x ≤ sextN w y)
    | 4 => decide (sextN w y < sextN w x)
    | 5 => decide (sextN w y ≤ sextN w x)
    | 6 => decide (x < y)
    | 7 => decide (x ≤ y)
    | 8 => decide (y < x)
    | _ => decide (y ≤ x)

/-- VCMP (R168). With `z` the lanes that the guard leaves off become 0; the old taint joins as for every result that the
guard writes in part (R65). -/
def execVcmp (g : Guard) (b : VBody) (s : State) : Host.Outcome State Fault Refusal :=
  issue false true s fun c =>
    let mask := guardMask c.regs g
    let j := b.vd.toNat / 4
    let z := b.vd.toNat / 2 % 2 == 0
    if mask = 0 then (if z then .ok (c.putPredPair j 0 0 allLanes false) else .ok c)
    else withVecs c (opsAB b) fun vs t eat =>
      let p : Pred := BitVec.ofNat 64 ((lanesOf mask).foldl (fun a i =>
        if vcond (vfmt b) (b.vc.toNat % 16) b.fz (laneBits vs 0 i) (laneB c b vs i) then a + 2 ^ i else a) 0)
      let t := t || (scB b).any c.regs.taintS
      let c := c.putPredPair j p (mask &&& ~~~p) mask t
      .ok (eat (if z then c.putPredPair j 0 0 (~~~mask) false else c))
where
  /-- The lanes of a mask, ascending. -/
  lanesOf (mask : Pred) : List Nat := (List.range 64).filter (bitAt mask)

/-! ## Conversions and transcendentals (R169 to R171) -/

/-- VCVT (R169). -/
def execVcvt (g : Guard) (b : VBody) (s : State) : Host.Outcome State Fault Refusal :=
  let src := typeFmt (b.vc.toNat % 16)
  let mode := if isFloat (vfmt b) then (vmode b) else rmode b.var.toNat
  laneOp s g b [vopA b] [] 4 fun _ vs i => putElem (vfmt b) (convert src (vfmt b) mode b.sat b.nan b.fz (laneBits vs 0 i))

/-- A transcendental word. -/
def transcOp (s : State) (g : Guard) (b : VBody) (fn : Nat) : Host.Outcome State Fault Refusal :=
  laneOp s g b [vopA b] [] 12 fun _ vs i =>
    BitVec.ofNat 32 (flushBits 0 b.fz (transc fn (vmode b) (finVal 0 b.fz (laneBits vs 0 i))))
/-- VRCP (R170). -/
def execVrcp (g : Guard) (b : VBody) (s : State) : Host.Outcome State Fault Refusal := transcOp s g b 0
/-- VRSQ (R170). -/
def execVrsq (g : Guard) (b : VBody) (s : State) : Host.Outcome State Fault Refusal := transcOp s g b 1
/-- VEXP2 (R170). -/
def execVexp2 (g : Guard) (b : VBody) (s : State) : Host.Outcome State Fault Refusal := transcOp s g b 2
/-- VLOG2 (R170). -/
def execVlog2 (g : Guard) (b : VBody) (s : State) : Host.Outcome State Fault Refusal := transcOp s g b 3
/-- VSINC (R170). -/
def execVsinc (g : Guard) (b : VBody) (s : State) : Host.Outcome State Fault Refusal := transcOp s g b 4

/-! ## Reductions and scans (R172 to R174) -/

/-- combine of R173. -/
def combine (f : Nat → Nat → Nat) : Option Nat → Option Nat → Option Nat
  | none, h => h
  | l, none => l
  | some l, some h => some (f l h)
/-- One level of the pairwise tree. -/
def treeLevel (f : Nat → Nat → Nat) : List (Option Nat) → List (Option Nat)
  | a :: b :: t => combine f a b :: treeLevel f t
  | l => l
/-- The tree of `n` levels. -/
def redTree (f : Nat → Nat → Nat) : Nat → List (Option Nat) → Option Nat
  | 0, l => l.headD none
  | n + 1, l => redTree f n (treeLevel f l)
/-- red_tree of R173 over 64 lanes. -/
def redTree64 (f : Nat → Nat → Nat) (x : Nat → Option Nat) : Nat := (redTree f 6 ((List.range 64).map x)).getD 0

/-- Operation `v` of VRED and VSCAN on two elements (all but the integer ADD). -/
def redOp (f v : Nat) (mode : RMode) (fz : Bool) (a b : Nat) : Nat :=
  match v with
  | 0 => elAdd f mode fz false a b
  | 1 => elMin f fz a b
  | 2 => elMax f fz a b
  | 3 => a &&& b
  | 4 => a ||| b
  | _ => a ^^^ b
/-- An element as a reduction takes it in. -/
def redIn (f : Nat) (fz : Bool) (a : Nat) : Nat := if isFloat f then canon f fz a else a % 2 ^ fmtBits f

/-- VRED (R172, R173). -/
def execVred (g : Guard) (b : VBody) (s : State) : Host.Outcome State Fault Refusal :=
  issue false true s fun c =>
    let mask := guardMask c.regs g
    if mask = 0 then .ok c
    else withVecs c [vopA b] fun vs t eat => needRoomV c b.vd.toNat <|
      let f := (vfmt b)
      let v := b.var.toNat
      let r := if v = 0 && !isFloat f then
          fitInt f b.sat ((List.range 64).foldl (fun a i => if bitAt mask i then a + ivalOf f (laneBits vs 0 i) else a) 0)
        else redTree64 (redOp f v (vmode b) b.fz) fun i =>
          if bitAt mask i then some (redIn f b.fz (laneBits vs 0 i)) else none
      .ok (eat (c.putV b.vd.toNat (typedLat f) (maskLanes mask fun _ => putElem f r) mask t))

/-- One step of the scan: position `i` takes in position `i − d` (R174). -/
def scanStep (f : Nat → Nat → Nat) (d : Nat) (y : List (Option Nat)) : List (Option Nat) :=
  y.zipIdx.map fun p => if d ≤ p.2 then combine f (y.getD (p.2 - d) none) p.1 else p.1
/-- The inclusive scan of R174. -/
def scan64 (f : Nat → Nat → Nat) (x : Nat → Option Nat) : List (Option Nat) :=
  [1, 2, 4, 8, 16, 32].foldl (fun y d => scanStep f d y) ((List.range 64).map x)

/-- VSCAN (R174). -/
def execVscan (g : Guard) (b : VBody) (s : State) : Host.Outcome State Fault Refusal :=
  issue false true s fun c =>
    let mask := guardMask c.regs g
    if mask = 0 then .ok c
    else withVecs c [vopA b] fun vs t eat => needRoomV c b.vd.toNat <|
      let f := (vfmt b)
      let v := b.var.toNat
      let out : Nat → Nat := if v = 0 && !isFloat f then
          fun i => fitInt f b.sat ((List.range (i + 1)).foldl
            (fun a k => if bitAt mask k then a + ivalOf f (laneBits vs 0 k) else a) 0)
        else
          let y := scan64 (redOp f v (vmode b) b.fz) fun i =>
            if bitAt mask i then some (redIn f b.fz (laneBits vs 0 i)) else none
          fun i => (y.getD i none).getD 0
      .ok (eat (c.putV b.vd.toNat (typedLat f) (maskLanes mask fun i => putElem f (out i)) mask t))

/-! ## Permutes and moves (R175 to R180) -/

/-- Lane `j` of the concatenation of operands 0 and 1 (R176). -/
def catLane (vs : List VecReg) (j : Nat) : Word :=
  if j < 64 then laneOf (vs.getD 0 0) j else laneOf (vs.getD 1 0) (j - 64)

/-- VPERM (R175). -/
def execVperm (g : Guard) (b : VBody) (s : State) : Host.Outcome State Fault Refusal :=
  laneOp s g b [vopA b, vopB b] [] 2 fun _ vs i => laneOf (vs.getD 0 0) (laneBits vs 1 i % 64)
/-- VSHUF.ROT (R176). -/
def execVshufRot (g : Guard) (b : VBody) (s : State) : Host.Outcome State Fault Refusal :=
  laneOp s g b [vopA b] [b.vc.toNat] 2 fun c vs i =>
    laneOf (vs.getD 0 0) ((i + (c.regs.getS b.vc.toNat).toNat % 64) % 64)
/-- VSHUF.SLIDE (R176). -/
def execVshufSlide (g : Guard) (b : VBody) (s : State) : Host.Outcome State Fault Refusal :=
  laneOp s g b [vopA b, vopB b] [b.vc.toNat] 2 fun c vs i => catLane vs (i + (c.regs.getS b.vc.toNat).toNat % 64)
/-- VSHUF.ZIPLO (R176). -/
def execVshufZiplo (g : Guard) (b : VBody) (s : State) : Host.Outcome State Fault Refusal :=
  laneOp s g b [vopA b, vopB b] [] 2 fun _ vs i => laneOf (vs.getD (i % 2) 0) (i / 2)
/-- VSHUF.ZIPHI (R176). -/
def execVshufZiphi (g : Guard) (b : VBody) (s : State) : Host.Outcome State Fault Refusal :=
  laneOp s g b [vopA b, vopB b] [] 2 fun _ vs i => laneOf (vs.getD (i % 2) 0) (32 + i / 2)
/-- VSHUF.UNZE (R176). -/
def execVshufUnze (g : Guard) (b : VBody) (s : State) : Host.Outcome State Fault Refusal :=
  laneOp s g b [vopA b, vopB b] [] 2 fun _ vs i => catLane vs (2 * i)
/-- VSHUF.UNZO (R176). -/
def execVshufUnzo (g : Guard) (b : VBody) (s : State) : Host.Outcome State Fault Refusal :=
  laneOp s g b [vopA b, vopB b] [] 2 fun _ vs i => catLane vs (2 * i + 1)
/-- VSHUF.REV (R176). -/
def execVshufRev (g : Guard) (b : VBody) (s : State) : Host.Outcome State Fault Refusal :=
  laneOp s g b [vopA b] [] 2 fun _ vs i => laneOf (vs.getD 0 0) (63 - i)
/-- VBCAST (R177). -/
def execVbcast (g : Guard) (b : VBody) (s : State) : Host.Outcome State Fault Refusal :=
  laneOp s g b [] [b.va.toNat] 2 fun c _ _ => c.regs.getS b.va.toNat
/-- VBCAST.L (R177). -/
def execVbcastL (g : Guard) (b : VBody) (s : State) : Host.Outcome State Fault Refusal :=
  laneOp s g b [vopA b] [b.vb.toNat] 2 fun c vs _ => laneOf (vs.getD 0 0) ((c.regs.getS b.vb.toNat).toNat % 64)
/-- VMOV (R178). -/
def execVmov (g : Guard) (b : VBody) (s : State) : Host.Outcome State Fault Refusal :=
  laneOp s g b [vopA b] [] 2 fun _ vs i => laneOf (vs.getD 0 0) i
/-- VMOV.X (R178): one lane to a scalar. -/
def execVmovX (g : Guard) (b : VBody) (s : State) : Host.Outcome State Fault Refusal :=
  issue false true s fun c => guarded c g <| withVecs c [vopA b] fun vs t eat =>
    let v := laneOf (vs.getD 0 0) ((c.regs.getS b.vb.toNat).toNat % 64)
    .ok (eat (c.putS b.vd.toNat 2 v (t || c.regs.taintS b.vb.toNat)))
/-- VMOV.I (R178): a scalar into one lane. -/
def execVmovI (g : Guard) (b : VBody) (s : State) : Host.Outcome State Fault Refusal :=
  issue false true s fun c => guarded c g <| needRoomV c b.vd.toNat <|
    let k := (c.regs.getS b.vb.toNat).toNat % 64
    let mask : Pred := 1#64 <<< k
    .ok (c.putV b.vd.toNat 2 (maskLanes mask fun _ => c.regs.getS b.va.toNat) mask
      (c.regs.taintS b.va.toNat || c.regs.taintS b.vb.toNat))
/-- VSEL (R179). -/
def execVsel (g : Guard) (b : VBody) (s : State) : Host.Outcome State Fault Refusal :=
  issue false true s fun c =>
    let mask := guardMask c.regs g
    let k := b.vc.toNat % 16
    let p := c.regs.getP k
    if mask = 0 then .ok c
    else withVecs c [vopA b, vopB b] fun vs t eat => needRoomV c b.vd.toNat <|
      let v := maskLanes mask fun i => if bitAt p i then laneOf (vs.getD 0 0) i else laneOf (vs.getD 1 0) i
      .ok (eat (c.putV b.vd.toNat 2 v mask (t || bitAt c.regs.ptaint k)))
/-- VIOTA (R180). -/
def execViota (g : Guard) (b : VBody) (s : State) : Host.Outcome State Fault Refusal :=
  laneOp s g b [] [b.va.toNat, b.vb.toNat] 2 fun c _ i =>
    c.regs.getS b.va.toNat + BitVec.ofNat 32 i * c.regs.getS b.vb.toNat
/-- VIOTA.P (R180): the lanes below that hold 1. -/
def execViotaP (g : Guard) (b : VBody) (s : State) : Host.Outcome State Fault Refusal :=
  issue false true s fun c =>
    let mask := guardMask c.regs g
    let k := b.vc.toNat % 16
    let p := c.regs.getP k
    if mask = 0 then .ok c
    else needRoomV c b.vd.toNat <|
      let v := maskLanes mask fun i =>
        BitVec.ofNat 32 ((List.range i).foldl (fun a j => if bitAt p j then a + 1 else a) 0)
      .ok (c.putV b.vd.toNat 2 v mask (bitAt c.regs.ptaint k))

/-! ## Condensing streams (R181 to R186) -/

/-- A stream of the tile. -/
def Cur.stream (c : Cur) (k : Nat) : Stream := (c.s.tile c.die c.tile).streams.get Stream.init k
/-- Writes a stream of the tile. -/
def Cur.setStream (c : Cur) (k : Nat) (x : Stream) : Cur :=
  c.mapS fun s => s.updTile c.die c.tile fun t => { t with streams := t.streams.set Stream.init k x }
/-- A full stream that another ASID owns (R182). -/
def Stream.foreign (x : Stream) (asid : Nat) : Bool := !x.items.isEmpty && x.owner != some asid
/-- The stream as an ASID's push finds it: a free one changes owner (R182). -/
def Stream.claim (x : Stream) (asid : Nat) : Stream :=
  if x.items.isEmpty && x.owner != some asid then { x with owner := some asid, pos := 0 } else x

/-- PUSHC (R183). The need of a vector queue is tested before the stream's owner and space: R92 does not place the
checks of the stream (DESIGN CHOICE, log entry 141). -/
def execPushc (g : Guard) (b : VBody) (s : State) : Host.Outcome State Fault Refusal :=
  issue false true s fun c =>
    let mask := guardMask c.regs g
    let k := b.vb.toNat % 8
    if mask = 0 then .ok c
    else withVecs c [vopA b] fun vs t eat =>
      let x := c.stream k
      let lanes := (List.range 64).filter (bitAt mask)
      if x.foreign c.asid then .trap 0x15 c.pc
      else if 128 < x.items.length + lanes.length then .trap 0x13 c.pc
      else
        let y := x.claim c.asid
        let c1 := c.setStream k
          { y with items := y.items ++ lanes.map fun i => (laneOf (vs.getD 0 0) i, t)
                   pos := y.pos + BitVec.ofNat 32 lanes.length }
        .ok (eat (c1.putS b.vd.toNat 2 y.pos false))

/-- The first elements as a vector, with the OR of their taints. -/
def frontVec (l : List (Word × Bool)) : VecReg × Bool := (ofLanes fun i => (l.getD i (0, false)).1, l.any (·.2))

/-- POPC (R184). The space of a vector queue comes before the stream's owner and elements (DESIGN CHOICE, log entry 141). -/
def execPopcV (g : Guard) (b : VBody) (s : State) : Host.Outcome State Fault Refusal :=
  issue false true s fun c => guarded c g <| needRoomV c b.vd.toNat <|
    let k := b.va.toNat % 8
    let x := c.stream k
    if x.foreign c.asid then .trap 0x15 c.pc
    else if x.items.length < 64 then .trap 0x14 c.pc
    else
      let r := frontVec (x.items.take 64)
      .ok ((c.setStream k { x with items := x.items.drop 64 }).putV b.vd.toNat 2 r.1 allLanes r.2)
/-- POPC.D (R184). Checks in the order of POPC (DESIGN CHOICE, log entry 141). -/
def execPopcD (g : Guard) (b : VBody) (s : State) : Host.Outcome State Fault Refusal :=
  issue false true s fun c => guarded c g <| needRoomV c b.vd.toNat <|
    let k := b.va.toNat % 8
    let x := c.stream k
    if x.foreign c.asid then .trap 0x15 c.pc
    else
      let r := frontVec (x.items.take 64)
      let n := Nat.min x.items.length 64
      let c1 := (c.setStream k { x with items := x.items.drop 64 }).putV b.vd.toNat 2 r.1 allLanes r.2
      .ok (c1.putS b.vb.toNat 2 (BitVec.ofNat 32 n) false)
/-- POPC.CLR (R184). -/
def execPopcClr (g : Guard) (b : VBody) (s : State) : Host.Outcome State Fault Refusal :=
  issue false true s fun c => guarded c g <|
    let k := b.va.toNat % 8
    let x := c.stream k
    if x.foreign c.asid then .trap 0x15 c.pc else .ok (c.setStream k ⟨[], 0, some c.asid⟩)

end Sys2Proof.Machine
end

