-- ==== Sys2Proof/Machine/Attend.lean ====
section
/-! DEFINITION. Sequences and the attention engine (R317 to R332). -/

namespace Sys2Proof.Machine

/-! ## The sequence range (R320, R321) -/

/-- Bytes of a token in a layer (R320). -/
def SeqRec.tok (q : SeqRec) : Nat := 4 * q.nkv * q.hd
/-- Bytes of the position table (R320). -/
def SeqRec.ptab (q : SeqRec) : Nat := (4 * q.cap + 65535) / 65536 * 65536
/-- Address of the position of slot `j`. -/
def SeqRec.posVa (q : SeqRec) (j : Nat) : Nat := q.base + 4 * j
/-- Address of slot `j` of layer `l`. -/
def SeqRec.slotVa (q : SeqRec) (l j : Nat) : Nat := q.base + q.ptab + l * (q.cap * q.tok) + j * q.tok
/-- Address of key element `i` of head `h`. -/
def SeqRec.keyVa (q : SeqRec) (l j h i : Nat) : Nat := q.slotVa l j + 2 * (h * q.hd + i)
/-- Address of value element `i` of head `h`. -/
def SeqRec.valVa (q : SeqRec) (l j h i : Nat) : Nat := q.keyVa l j h i + 2 * q.nkv * q.hd

/-- A KV error at slot `j` (R324). -/
def kvError (j : Nat) : Nat := 6 + 256 * j
/-- Reads `n` bytes of a sequence range for slot `j`; an unmapped page reads as `dflt` (R321). The error of HBM is a KV error
(R402). The attention commands alone reach a sequence (R317). -/
def State.seqRead (s : State) (att asid va n dflt j : Nat) : Go Nat :=
  match s.resolveKv att asid va .read with
  | (s, .ok pa) => if isSpan pa then .err s 2 else if s.badAt pa n then .err (s.uecc pa) (kvError j) else .ok (s.engSees pa n) (s.readPa pa n)
  | (s, .transFault) => .ok s dflt
  | (s, .paged) => .wait s va
  | (s, .miss) => .wait s va
  | (_, .noMem pa) => .noMem pa
  | (s, _) => .err s 2

/-- Changes `pages` of a sequence record (R319). -/
def State.seqPages (s : State) (att n : Nat) (f : Nat → Nat) : State := s.updDie att fun x =>
  let b := x.seqTab.get 0 n
  { x with seqTab := x.seqTab.set 0 n (setField b 191 160 (f (fieldOf b 191 160))) }

/-- Writes one byte value over a range. -/
def State.fillPa (s : State) (b : Byte) : Nat → Nat → State
  | _, 0 => s
  | pa, n + 1 => (s.setByte pa b).fillPa b (pa + 1) n

/-- Physical address of a byte of a sequence range that is written. -/
def State.seqAt (s : State) (att asid va : Nat) : Go Nat :=
  match s.resolveKv att asid va .write with
  | (s, .ok pa) => .ok s pa
  | (s, .paged) => .wait s va
  | (s, .miss) => .wait s va
  | (_, .noMem pa) => .noMem pa
  | (s, _) => .err s 2
/-- A page of a sequence range that `KVAPP` writes for slot `j`, with its physical address: mapped by the grow fault if it is not
(R321). `fill` is the byte of a fresh page. -/
def State.seqGrow (s : State) (att asid n va : Nat) (fill : Byte) (j : Nat) : Go Nat :=
  match s.resolveKv att asid va .write with
  | (s, .ok pa) => .ok s pa
  | (s, .paged) => .wait s va
  | (s, .miss) => .wait s va
  | (_, .noMem pa) => .noMem pa
  | (s, .transFault) =>
    match s.level3 asid va with
    | none => .err s 2
    | some epa =>
      if s.readPa epa 8 % 2 = 1 then .err s 2
      else match s.poolTake att asid with
        | none => .err (s.pageRequest va asid 2 att).1 (kvError j)
        | some (s, page) =>
          let s := s.zeroPa page 65536
          let s := if fill = 0 then s else s.fillPa fill page 65536
          let s := s.writePa epa 8 (page + 0xF)
          s.seqPages att n (· + 1) |>.seqAt att asid va
  | (s, _) => .err s 2

/-! ## Rotary encoding (R327) -/

/-- f32 of R331. -/
def f32 (v : Val) : Nat := roundFp 0 .rne false v
/-- Value of FP32 bits. -/
def v32 (b : Nat) : Val := decodeVal 0 b

/-- rope of R327 on the BF16 elements of one key. -/
def rope (k : List Nat) (pos : Int) (q : SeqRec) : List Nat :=
  let b := q.rbase
  let m := 2 ^ 23 + b % 2 ^ 23
  let e : Int := ((b / 2 ^ 23 % 256 : Nat) : Int) - 150
  (List.range (q.hd / 2)).flatMap fun i =>
    let t := ropeTable pos m e i q.hd
    let x := decodeVal 2 (k.getD (2 * i) 0)
    let y := decodeVal 2 (k.getD (2 * i + 1) 0)
    let u := v32 (f32 ((v32 t.1).mul x))
    let w := v32 (f32 ((v32 t.2).mul y))
    let u2 := v32 (f32 ((v32 t.2).mul x))
    let w2 := v32 (f32 ((v32 t.1).mul y))
    if x.isNan || y.isNan then [canonNan 2, canonNan 2]
    else [roundFp 2 .rne false (Val.add .rne u w.negate), roundFp 2 .rne false (Val.add .rne u2 w2)]

/-- Reads `n` values with a reader. -/
def readList (rd : State → Nat → Go Nat) : Nat → Nat → State → Go (List Nat)
  | 0, _, s => .ok s []
  | n + 1, i, s => (rd s i).bind fun s v => (readList rd n (i + 1) s).bind fun s l => .ok s (v :: l)

/-- Writes BF16 elements at a physical address. -/
def State.writeBf (s : State) (pa : Nat) (l : List Nat) : State :=
  l.zipIdx.foldl (fun s p => s.writePa (pa + 2 * p.2) 2 p.1) s

/-! ## Checks at the start (R324) -/

/-- The first slot of a range that lies at or beyond cap. -/
def overCap (q : SeqRec) (j0 j1 : Nat) : Option Nat := if q.cap < j1 then some (Nat.max j0 q.cap) else none
/-- A KV error found when the command starts: the failing slot, if there is one (R324). It is the slot that the failed check
names, and the first slot where the check names none (log entry 148). -/
def kvStart (c : Cmd) (q : SeqRec) : Option Nat :=
  let j0 := wf32 c.f 4
  let j1 := wf32 c.f 6
  let n := uf c.f 8
  let first (b : Bool) : Option Nat := if b then some j0 else none
  (first (!q.valid || q.asid != c.asid)).or (match c.op with
    | .attn => (first (decide (q.nl < uf c.f 3) || decide (j1 < j0))).or (overCap q j0 j1)
    | .kvapp => ((first (decide (q.nl < uf c.f 3))).or (overCap q j0 (j0 + n))).or
        (if 2 ^ 32 - 1 < j1 + n then some (j0 + (2 ^ 32 - 1 - j1)) else none)
    | .kvrot => ((first (decide (j1 < j0))).or (overCap q j0 j1)).or ((first (j0 % (65536 / q.tok) != 0)).or
        (if j1 % (65536 / q.tok) ≠ 0 then some j1 else none))
    | .kvevict => (first (decide (j1 < j0))).or (overCap q j0 j1)
    | _ => none)

/-! ## The commands -/

/-- Unit `t` of a `KVAPP`: one token (R325, R326). -/
def State.kvappUnit (s : State) (die tile att : Nat) (c : Cmd) (q : SeqRec) (t : Nat) : Go (Option Nat) :=
  let j := wf32 c.f 4 + t
  let pos := wf32 c.f 6 + t
  let l := uf c.f 3
  let elems (d : Desc) (h : Nat) : State → Go (List Nat) :=
    readList (fun s i => s.engRead die tile c.asid d [(i : Int), ((t * q.nkv + h : Nat) : Int), 0, 0]) q.hd 0
  (readList (fun s h => (elems (c.descs.getD 0 noDesc) h s).bind fun s k =>
      .ok s ((rope k pos q).foldr (fun x a => x + 65536 * a) 0)) q.nkv 0 s).bind fun s ks =>
  (readList (fun s h => (elems (c.descs.getD 1 noDesc) h s).bind fun s k =>
      .ok s (k.foldr (fun x a => x + 65536 * a) 0)) q.nkv 0 s).bind fun s vs =>
  (s.seqGrow att c.asid (uf c.f 2) (q.slotVa l j) 0 j).bind fun s pa =>
  (s.seqGrow att c.asid (uf c.f 2) (q.posVa j) 0xFF j).bind fun s pp =>
    let s := ks.zipIdx.foldl (fun s p => s.writePa (pa + 2 * p.2 * q.hd) (2 * q.hd) p.1) s
    let s := vs.zipIdx.foldl (fun s p => s.writePa (pa + 2 * (q.nkv + p.2) * q.hd) (2 * q.hd) p.1) s
    .ok (s.writePa pp 4 pos) none

/-- Where the keys of one slot lie in layers `l`, `l + 1`, …, on the pages that are mapped (R329); an error is looked for in the keys,
which alone are read (R402). Nothing is changed before all
of them are at hand: a command that waits for a page resumes at the slot (R222, R325). -/
def State.rotPlaces (s : State) (att asid : Nat) (q : SeqRec) (j : Nat) : Nat → Nat → Go (List Nat)
  | 0, _ => .ok s []
  | n + 1, l =>
    match s.resolveKv att asid (q.slotVa l j) .both with
    | (s, .ok pa) =>
      if s.badAt pa (q.tok / 2) then .err (s.uecc pa) (kvError j)
      else (s.rotPlaces att asid q j n (l + 1)).bind fun s t => .ok s (pa :: t)
    | (s, .transFault) => s.rotPlaces att asid q j n (l + 1)
    | (s, .paged) => .wait s (q.slotVa l j)
    | (s, .miss) => .wait s (q.slotVa l j)
    | (_, .noMem pa) => .noMem pa
    | (s, _) => .err s 2
/-- Re-rotates the keys of one slot of one layer by `d` (R329). -/
def State.rotKeys (s : State) (q : SeqRec) (d : Int) (pa : Nat) : State :=
  (List.range q.nkv).foldl (fun s h =>
    let k := (List.range q.hd).map fun i => s.readPa (pa + 2 * (h * q.hd + i)) 2
    s.writeBf (pa + 2 * h * q.hd) (rope k d q)) s

/-- Unit `k` of a `KVROT`: one slot (R325, R329). -/
def State.kvrotUnit (s : State) (att : Nat) (c : Cmd) (q : SeqRec) (k : Nat) : Go (Option Nat) :=
  let j := wf32 c.f 4 + k
  let d := sextN 32 (wf32 c.f 8)
  (s.seqRead att c.asid (q.posVa j) 4 0xFFFF_FFFF j).bind fun s pos =>
    if pos = 0xFFFF_FFFF then .ok s none
    else
      let np := wrapN 32 ((pos : Int) + d)
      if np = 0xFFFF_FFFF then .err s (kvError j)
      else (s.seqAt att c.asid (q.posVa j)).bind fun s pp =>
        (s.rotPlaces att c.asid q j (q.nl + 1) 0).bind fun s l =>
          .ok ((l.foldl (fun s pa => s.rotKeys q d pa) s).writePa pp 4 np) none

/-- Unmaps one page of a sequence range and returns it to the free list (R328); a page that is out is waited for (R222, R373). -/
def State.seqFree (s : State) (att asid n va : Nat) : Go Unit :=
  if s.walk asid va .read = .paged then .wait s va
  else match s.level3 asid va with
  | none => .ok s ()
  | some epa =>
    let e := s.readPa epa 8
    if e % 2 = 1 then
      let s := (s.writePa epa 8 0).poolGive att asid (e / 2 ^ 16 % 2 ^ 36 * 2 ^ 16)
      let s := s.updDie att fun x => { x with tlb := x.tlb.filter fun t => !t.covers asid va }
      .ok (s.seqPages att n (· - 1)) ()
    else .ok s ()
/-- The key-value pages whose slots all lie in [j0, j1), in every layer (R328). -/
def SeqRec.freed (q : SeqRec) (j0 j1 : Nat) : List Nat :=
  let per := 65536 / q.tok
  (List.range (q.nl + 1)).flatMap fun l =>
    ((List.range (q.cap / per)).filter fun p => decide (j0 ≤ p * per) && decide ((p + 1) * per ≤ j1)).map fun p => q.slotVa l (p * per)

/-- Unit `k` of a `KVEVICT`: one slot, then with `.free` the pages (R328). -/
def State.kvevictUnit (s : State) (att : Nat) (c : Cmd) (q : SeqRec) (k : Nat) : Go (Option Nat) :=
  let j0 := wf32 c.f 4
  let j1 := wf32 c.f 6
  if k < j1 - j0 then
    match s.resolveKv att c.asid (q.posVa (j0 + k)) .write with
    | (s, .ok pa) => .ok (s.writePa pa 4 0xFFFF_FFFF) none
    | (s, .transFault) => .ok s none
    | (s, .paged) => .wait s (q.posVa (j0 + k))
    | (s, .miss) => .wait s (q.posVa (j0 + k))
    | (_, .noMem pa) => .noMem pa
    | (s, _) => .err s 2
  else if uf c.f 10 % 2 = 0 then .ok s none
  else (foldGo (fun s va => s.seqFree att c.asid (uf c.f 2) va) (q.freed j0 j1) s).bind fun s _ => .ok s none

/-! ## Attention (R331, R332) -/

/-- exp32 of a difference: equal infinities differ by 0 (R332). -/
def expDiff (a b : Nat) : Nat :=
  match v32 a, v32 b with
  | .inf x, .inf y => if x = y then 0x3F80_0000 else exp32 (Val.add .rne (.inf x) (.inf !y))
  | x, y => exp32 (Val.add .rne x y.negate)

/-- One KV head of a block of 64 slots: for each slot that is not empty its place, key and value. -/
abbrev Block := List (Nat × List Nat × List Nat)

/-- The running state of a row: m, lsum, o (R331). -/
abbrev AttnRow := Nat × Nat × List Nat

/-- FP32 sum over the slots of a block in the tree of R173. -/
def blockSum (b : Block) (f : Nat → Nat) : Nat :=
  redTree64 (elAdd 0 .rne false false) fun i => if b.any (·.1 == i) then some (f i) else none

/-- One block of one row (R331): `q` the query row, `scale` its FP32 bits. -/
def attnBlock (scale : Nat) (q : List Nat) (r : AttnRow) (b : Block) : AttnRow :=
  if b.isEmpty then r
  else
    let sc := b.map fun e => (e.1, f32 ((v32 scale).mul (match (q.zip e.2.1).map fun p =>
        (decodeVal 2 p.1).mul (decodeVal 2 p.2) with
      | [] => .fin false 0 0
      | x :: t => t.foldl (Val.add .rne) x)))
    let mn := sc.foldl (fun a e => elMax 0 false a e.2) r.1
    let ninf := infBits 0 true false
    let cf := if mn = ninf then 0x3F80_0000 else expDiff r.1 mn
    let p (i : Nat) : Nat := match sc.find? fun e => e.1 == i with
      | some e => if mn = ninf then 0 else expDiff e.2 mn
      | none => 0
    let lsum := f32 (Val.add .rne (v32 (f32 ((v32 r.2.1).mul (v32 cf)))) (v32 (blockSum b p)))
    let o := r.2.2.zipIdx.map fun x =>
      let pv (i : Nat) : Nat := match b.find? fun e => e.1 == i with
        | some e => f32 ((v32 (p i)).mul (decodeVal 2 (e.2.2.getD x.2 0)))
        | none => 0
      f32 (Val.add .rne (v32 (f32 ((v32 x.1).mul (v32 cf)))) (v32 (blockSum b pv)))
    (mn, lsum, o)

/-- Reads slot `j` of the layer of an `ATTN` in one step (R325): its position, and with it the keys and values of the token. 0 for an
empty slot, else twice the token's bits and 1. -/
def State.attnSlot (s : State) (att : Nat) (c : Cmd) (q : SeqRec) (j : Nat) : Go Nat :=
  (s.seqRead att c.asid (q.posVa j) 4 0xFFFF_FFFF j).bind fun s pos =>
    if pos = 0xFFFF_FFFF then .ok s 0
    else (s.seqRead att c.asid (q.slotVa (uf c.f 3) j) q.tok 0 j).bind fun s v => .ok s (2 * v + 1)

/-- Head `h` of the slots read of a block (R320). -/
def slotBlock (q : SeqRec) (h : Nat) (l : List Nat) : Block :=
  (l.zipIdx.filter fun p => p.1 != 0).map fun p =>
    let part (o : Nat) : List Nat := (List.range q.hd).map fun i => p.1 / 2 / 65536 ^ (o + i) % 65536
    (p.2, part (h * q.hd), part ((q.nkv + h) * q.hd))

/-- The blocks of one row, at most `n` of them, over the slots read (R331). -/
def attnRow (c : Cmd) (q : SeqRec) (h : Nat) (qr : List Nat) : Nat → List Nat → AttnRow → AttnRow
  | 0, _, r => r
  | n + 1, l, r => attnRow c q h qr n (l.drop 64) (attnBlock (wf32 c.f 8) qr r (slotBlock q h (l.take 64)))

/-- Query row `k` of an `ATTN` whose slots have been read, and its output row (R331). -/
def State.attnUnit (s : State) (die tile : Nat) (c : Cmd) (q : SeqRec) (slots : List Nat) (k : Nat) : Go (Option Nat) :=
  let out := c.descs.getD 1 noDesc
  (readList (fun s i => s.engRead die tile c.asid (c.descs.getD 0 noDesc) [(i : Int), (k : Int), 0, 0]) q.hd 0 s).bind
    fun s qr =>
  let r := attnRow c q (k / 2 ^ (uf c.f 10 % 8)) qr ((slots.length + 63) / 64) slots
    (infBits 0 true false, 0, List.replicate q.hd 0)
  (readList (fun s i => (s.engWrite die tile c out [(i : Int), (k : Int), 0, 0]
      (if r.2.1 = 0 then 0 else roundFp out.fmt .rne false (Val.quot (v32 (r.2.2.getD i 0)) (v32 r.2.1)))).bind fun s _ =>
    .ok s 0) q.hd 0 s).bind fun s _ => .ok s none

end Sys2Proof.Machine
end

