-- ==== Sys2Proof/Machine/Copy.lean ====
section
/-! DEFINITION. The copy engine and the scatter-accumulate engine (R236 to R244). -/

namespace Sys2Proof.Machine

/-- Unit `k` of a `TCOPY` (R236). -/
def State.tcopyUnit (s : State) (die tile : Nat) (c : Cmd) (k : Nat) : Go (Option Nat) :=
  let i := k % uf c.f 6
  let j := k / uf c.f 6
  let dst := c.descs.getD 0 noDesc
  let src := c.descs.getD 1 noDesc
  let m := uf c.f 8
  (s.engRead die tile c.asid src [sf c.f 2 + i, sf c.f 3 + j, uf c.f 9, 0]).bind fun s v =>
    let v := if src.fmt = dst.fmt then v
      else convert src.fmt dst.fmt (rmode (m % 4)) (m / 4 % 2 == 1) (m / 8 % 2 == 1) (m / 16 % 2 == 1) v
    s.engWrite die tile c dst [sf c.f 4 + i, sf c.f 5 + j, uf c.f 10, 0] v

/-- Unit `k` of a `TFILL` (R241). -/
def State.tfillUnit (s : State) (die tile : Nat) (c : Cmd) (k : Nat) : Go (Option Nat) :=
  let i := k % uf c.f 3
  let j := k / uf c.f 3
  let dst := c.descs.getD 0 noDesc
  s.engWrite die tile c dst [sf c.f 1 + i, sf c.f 2 + j, uf c.f 8, 0] (wf32 c.f 5 % 2 ^ fmtBits dst.fmt)

/-- Unit `k` of a `TWIN` (R237): panel element (k / 256, k % 256). -/
def State.twinUnit (s : State) (die tile : Nat) (c : Cmd) (k : Nat) : Go (Option Nat) :=
  let src := c.descs.getD 0 noDesc
  let n := k % 256
  let row := k / 256
  let key := ((uf c.f 0 % 16) * 2048 + row) * 256 + n
  let put (s : State) (v : Nat) : Go (Option Nat) :=
    .ok (s.updTile die tile fun t => { t with lp := t.lp.set 0 key v, bad := t.bad.filter (· != 2 ^ 33 + key) }) none
  if row < uf c.f 4 then (s.engRead die tile c.asid src [sf c.f 2 + n, sf c.f 3 + row, 0, 0]).bind put
  else put s 0

/-! ## TMCAST (R239, R240) -/

/-- Reads what is left of the source of a `TMCAST`, each element once, behind what has been read (R222, R239). -/
def State.castRead (s : State) (die tile : Nat) (c : Cmd) (data : List Nat) : Go Unit × List Nat :=
  readRun (fun s k => s.engRead die tile c.asid (c.descs.getD 0 noDesc)
      [sf c.f 2 + (k % uf c.f 6 : Nat), sf c.f 3 + (k / uf c.f 6 : Nat), 0, 0])
    (uf c.f 6 * uf c.f 7 - data.length) data.length data s

/-- Elements of a granule (R240). -/
def granElems (d : Desc) : Nat := 64 / fmtBytes d.fmt
/-- Granules of a `TMCAST` (R240). -/
def granules (c : Cmd) : Nat := (uf c.f 6 * uf c.f 7 * fmtBytes (c.descs.getD 0 noDesc).fmt + 63) / 64
/-- The destination of receiver `r`. -/
def castDst (c : Cmd) (r : Nat) : Desc :=
  match (receivers (uf c.f 8)).idxOf? r with
  | some i => c.descs.getD (i + 1) noDesc
  | none => noDesc

/-- Writes granule `g` on receiver `r`, from its element `i` on (R222, R240): what came of it, and the elements written. -/
def State.castGranule (s : State) (die tile : Nat) (c : Cmd) (data : List Nat) (r g i : Nat) : Go Unit × Nat :=
  let e := granElems (c.descs.getD 0 noDesc)
  let x := runUnits (fun s i =>
      let k := g * e + i
      s.engWrite die (castBase tile + r) c (castDst c r) [sf c.f 4 + (k % uf c.f 6 : Nat), sf c.f 5 + (k / uf c.f 6 : Nat), 0, 0]
        (data.getD k 0))
    (Nat.min e (data.length - g * e) - i) i [] s
  (x.1, x.2.1)

/-! ## SCAT (R242 to R244) -/

/-- combine of R243: operation, rounding and saturation from the mode. -/
def scatCombine (fmt mode x y : Nat) : Nat :=
  match mode % 4 with
  | 1 => elMin fmt false x y
  | 2 => elMax fmt false x y
  | _ => elAdd fmt (rmode (mode / 4 % 4)) false (mode / 16 % 2 == 1) x y

/-- Reads what is left of the index elements of window `w`, each once, behind what has been read (R222, R243). -/
def State.scatIdx (s : State) (die tile : Nat) (c : Cmd) (w : Nat) (data : List Nat) : Go Unit × List Nat :=
  readRun (fun s k => s.engRead die tile c.asid (c.descs.getD 1 noDesc) [((64 * w + k : Nat) : Int), 0, 0, 0])
    (Nat.min 64 (uf c.f 3 - 64 * w) - data.length) data.length data s
/-- The entries of window `w` with their indices. -/
def scatEntries (c : Cmd) (w : Nat) (data : List Nat) : List (Nat × Int) :=
  data.zipIdx.map fun p => (64 * w + p.2, ivalOf (c.descs.getD 1 noDesc).fmt p.1)

/-- The distinct indices of a window in the order of their first entry, each with its entries ascending (R243). -/
def scatGroups : List (Nat × Int) → List (Int × List Nat) → List (Int × List Nat)
  | [], gs => gs
  | (e, d) :: t, gs =>
    scatGroups t (if gs.any (·.1 == d) then gs.map fun g => if g.1 = d then (g.1, g.2 ++ [e]) else g else gs ++ [(d, [e])])

/-- Row `d` of the destination lies in bounds. -/
def scatRowIn (dst : Desc) (d : Int) : Bool := dst.ndim < 2 || (decide (0 ≤ d) && decide (d < (dst.ext 1 : Int)))

/-- The units of a window: (index, entries, column), or a row out of bounds as one unit. -/
def scatUnits (dst : Desc) (nw : Nat) (gs : List (Int × List Nat)) : List (Int × List Nat × Option Nat) :=
  gs.flatMap fun g => if scatRowIn dst g.1 then (List.range nw).map fun c => (g.1, g.2, some c) else [(g.1, g.2, none)]

/-- The merged update value of column `col` (R243). -/
def State.scatMerge (s : State) (die tile : Nat) (c : Cmd) (col : Nat) : List Nat → Option Nat → Go Nat
  | [], v => .ok s (v.getD 0)
  | e :: t, v =>
    let val := c.descs.getD 2 noDesc
    (s.engRead die tile c.asid val [(col : Int), (e : Int), 0, 0]).bind fun s x =>
      s.scatMerge die tile c col t (some (match v with
        | some y => scatCombine val.fmt (uf c.f 5) y x
        | none => x))

/-- One unit of a window: one read-modify-write at the element's home (R244), or a row out of bounds. -/
def State.scatUnit (s : State) (die tile : Nat) (c : Cmd) (u : Int × List Nat × Option Nat) : Go (Option Nat) :=
  let dst := c.descs.getD 0 noDesc
  match u.2.2 with
  | none => if dst.strict then .err s 4 else s.engOob die c.asid dst (uf c.f 4)
  | some col =>
    let x : List Int := [(col : Int), u.1, 0, 0]
    if !dst.inBounds x then (if dst.strict then .err s 4 else s.engOob die c.asid dst 1)
    else (s.scatMerge die tile c col u.2.1 none).bind fun s v =>
      s.engRmw die tile c dst x v fun old => scatCombine dst.fmt (uf c.f 5) old v

/-- Windows of a `SCAT` from window `w`, `n` of them, the first from unit `k` with the index elements `dat` read, at most `lim` units
of each; on a stop, a wait or an error the window, the units done and the index elements are kept, so that the entries of a window are
taken once (R243). -/
def State.scatRun (s : State) (die tile : Nat) (c : Cmd) (lim : Nat) :
    Nat → Nat → Nat → List Nat → List Nat → Go Unit × Nat × Nat × List Nat × List Nat
  | 0, w, k, dat, l => (.ok s (), w, k, dat, l)
  | n + 1, w, k, dat, l =>
    match s.scatIdx die tile c w dat with
    | (.ok s (), dat) =>
      let us := scatUnits (c.descs.getD 0 noDesc) (uf c.f 4) (scatGroups (scatEntries c w dat) [])
      match runUnits (fun s i => match us[i]? with
          | some u => s.scatUnit die tile c u
          | none => .ok s none) (Nat.min lim (us.length - k)) k l s with
      | (.ok s (), k, l) =>
        if k < us.length then (.ok s (), w, k, dat, l) else s.scatRun die tile c lim n (w + 1) 0 [] l
      | (r, k, l) => (r, w, k, dat, l)
    | (r, dat) => (r, w, k, dat, l)

end Sys2Proof.Machine
end

