-- ==== Sys2Proof/Machine/Matrix.lean ====
section
/-! DEFINITION. The matrix engine (R118 to R126, R224 to R235, R280): groups, K-steps, accumulator transfers. -/

namespace Sys2Proof.Machine

/-! ## Group values -/

/-- exact_sum of a list of exact values (R115): a sum of zeros of one sign keeps it. -/
def exactSum : List Val → Val
  | [] => .fin false 0 0
  | x :: t => t.foldl (Val.add .rne) x

/-- The FP8 group value (R121). -/
def fp8Group (ps : List Val) (sa sb : Val) : Val := ((exactSum ps).mul sa).mul sb

/-- floor(log2 |p|) of a nonzero finite value. -/
def valExp : Val → Option Int
  | .fin _ m e => if m = 0 then none else some ((Nat.log2 m : Int) + e)
  | _ => none
/-- trunc_below of R122. -/
def truncBelow (w : Int) : Val → Val
  | .fin n m e => if w ≤ e then .fin n m e else .fin n (m / 2 ^ (w - e).toNat) w
  | v => v
/-- The 16-bit float group value (R122). -/
def halfGroup (ps : List Val) : Val :=
  match ps.filterMap valExp with
  | [] => exactSum ps
  | x :: t => exactSum (ps.map (truncBelow (t.foldl max x - 88)))

/-- Promotion into an XF96 element (R123). -/
def promote (acc : Nat) (gv : Val) : Nat := roundFp xf96 .rne false (Val.add .rne (decodeVal xf96 acc) gv)

/-! ## K-steps -/

/-- First and one past the last K index of group `g` of an `MMA` (R120, R227). -/
def groupSpan (f : List Nat) (kg g : Nat) : Nat × Nat :=
  (Nat.max (uf f 4) (g * kg), Nat.min (uf f 4 + uf f 5) ((g + 1) * kg))
/-- The last group that an `MMA` meets. -/
def lastGroup (f : List Nat) (kg : Nat) : Nat := (uf f 4 + uf f 5 - 1) / kg

/-- Element (k, n) of the panel of a command (R226): `seg` of the presentation, else a local panel. -/
def State.panelElem (s : State) (die tile : Nat) (c : Cmd) (k n : Nat) : Nat :=
  match c.pres.bind (s.die die).ring.pres.find with
  | some p => s.segs.get 0 (((p.seg * 16 + tile) * 2048 + k) * 256 + n)
  | none => (s.tile die tile).lp.get 0 (((uf c.f 1 % 16) * 2048 + k) * 256 + n)

/-- Element (k, row) of the A operand (R227). -/
def Tile.aElem (t : Tile) (d : Desc) (k row : Nat) : Nat :=
  if d.inBounds [(k : Int), (row : Int), 0, 0] then t.read (d.addr [(k : Int), (row : Int), 0, 0]) (fmtBytes d.fmt) else d.pad

/-- Scale of a tensor at K index `k` and other index `j` (R118); no tensor gives 1.0 (R119). -/
def State.scaleAt (s : State) (die tile asid : Nat) (d : Desc) (sbw : Nat) (k j : Int) : Go Val :=
  if d.handle = 0 then .ok s (.fin false 1 0)
  else (s.engRead die tile asid d [k / 128, j / (2 ^ sbw : Nat), 0, 0]).bind fun s v => .ok s (decodeVal 0 v)

/-- The scales of `n` indices from `j`. -/
def State.scalesAt (s : State) (die tile asid : Nat) (d : Desc) (sbw : Nat) (k : Int) : Nat → Int → Go (List Val)
  | 0, _ => .ok s []
  | n + 1, j =>
    (s.scaleAt die tile asid d sbw k j).bind fun s v =>
      (s.scalesAt die tile asid d sbw k n (j + 1)).bind fun s l => .ok s (v :: l)

/-- The accumulator rows of an `MMA` start from zero in group `g`, so they are not read there (R227). -/
def freshRows (c : Cmd) (kg g : Nat) : Bool := uf c.f 7 % 2 == 0 && g == uf c.f 4 / kg
/-- A memory error meets the operands of a K-step (R402): tile memory, the accumulators unless they start from zero
(`fresh`), a local panel. -/
def State.kStepBad (s : State) (die tile : Nat) (c : Cmd) (lo hi : Nat) (fresh : Bool) : Bool :=
  let t := s.tile die tile
  let a := c.descs.getD 0 noDesc
  !t.bad.isEmpty && ((List.range (uf c.f 3)).any fun m =>
    (List.range (hi - lo)).any (fun i =>
      let x : List Int := [((lo + i : Nat) : Int), ((uf c.f 2 + m : Nat) : Int), 0, 0]
      a.inBounds x && t.badAt (a.addr x) (fmtBytes a.fmt)) ||
    (!fresh && (List.range 256).any fun n => t.badAt (2 ^ 32 + 256 * (uf c.f 6 + m) + n) 1)) ||
  (c.pres.isNone && (List.range (hi - lo)).any fun i =>
    t.badAt (2 ^ 33 + ((uf c.f 1 % 16) * 2048 + lo + i) * 256) 256)

/-- An error in the presented panel is read again from the transit store (R402). -/
def State.segReread (s : State) (die tile : Nat) (c : Cmd) : State :=
  if c.pres.isSome && (s.tile die tile).bad.any (fun x => decide (2 ^ 34 ≤ x)) then
    (s.rasBump die 1).updTile die tile fun t => { t with bad := t.bad.filter fun x => decide (x < 2 ^ 34) }
  else s

/-- The value that accumulator element (m, n) takes in a K-step (R227). -/
def kValue (s : State) (die tile : Nat) (c : Cmd) (lo hi : Nat) (base : Nat) (m n : Nat) (sa sb : Val) : Nat :=
  let t := s.tile die tile
  let a := c.descs.getD 0 noDesc
  let bf := match c.tag with
    | some x => x.fmt
    | none => 0
  let ks := (List.range (hi - lo)).map (lo + ·)
  let pair (k : Nat) : Nat × Nat := (t.aElem a k (uf c.f 2 + m), s.panelElem die tile c k n)
  if 5 ≤ a.fmt then
    wrapN 96 (ks.foldl (fun x k => x + ivalOf a.fmt (pair k).1 * ivalOf bf (pair k).2) (base : Int))
  else
    let ps := ks.map fun k => (decodeVal a.fmt (pair k).1).mul (decodeVal bf (pair k).2)
    promote base (if isFp8 a.fmt then fp8Group ps sa sb else halfGroup ps)

/-- One K-step (R229): every promotion of group `g` for all rows, or none of them. The rows that it writes lose their error
marks. -/
def State.kStep (s : State) (die tile : Nat) (c : Cmd) (g : Nat) : Go Unit :=
  let a := c.descs.getD 0 noDesc
  let kg := kGroupOf a.fmt
  let lo := (groupSpan c.f kg g).1
  let hi := (groupSpan c.f kg g).2
  let dup := uf c.f 7 / 2 % 2 == 1
  let up := (s.tile die tile).upsets.headD 0
  let fresh := freshRows c kg g
  if s.kStepBad die tile c lo hi fresh then .err (s.rasBump die 1) 5
  else
    let s := s.segReread die tile c
    let s := if dup then s.updTile die tile fun t => { t with upsets := t.upsets.drop 1 } else s
    if dup && up == 2 then .err s 8
    else
      let s := if dup && up == 1 then s.rasBump die 4 else s
      match c.tag with
      | none => .err s 3
      | some tag =>
        (s.scalesAt die tile c.asid (c.descs.getD 1 noDesc) a.sbw ((lo : Nat) : Int) (uf c.f 3) ((uf c.f 2 : Nat) : Int)).bind
          fun s sas =>
        (s.scalesAt die tile c.asid (c.descs.getD 2 noDesc) tag.sbw (tag.sx1 + ((lo : Nat) : Int)) 256 tag.sx0).bind
          fun s sbs =>
        let old := (s.tile die tile).acc
        let acc := (List.range (uf c.f 3)).foldl (fun x m => (List.range 256).foldl (fun x n =>
          let key := 256 * (uf c.f 6 + m) + n
          let base := if fresh then 0 else (old.get 0 key).toNat
          x.set 0 key (BitVec.ofNat 96 (kValue s die tile c lo hi base m n (sas.getD m .nan) (sbs.getD n .nan)))) x) old
        let row0 := 2 ^ 32 + 256 * uf c.f 6
        .ok (s.updTile die tile fun t =>
          { t with acc := acc, bad := t.bad.filter fun b => decide (b < row0) || decide (row0 + 256 * uf c.f 3 ≤ b) }) ()

/-- K-steps from group `g`, at most `n`; the group that comes next is kept. -/
def State.kSteps (s : State) (die tile : Nat) (c : Cmd) : Nat → Nat → Go Unit × Nat
  | 0, g => (.ok s (), g)
  | n + 1, g =>
    if lastGroup c.f (kGroupOf (c.descs.getD 0 noDesc).fmt) < g then (.ok s (), g)
    else match s.kStep die tile c g with
      | .ok s () => s.kSteps die tile c n (g + 1)
      | .wait s va => (.wait s va, g)
      | .err s code => (.err s code, g)
      | .noMem pa => (.noMem pa, g)

/-! ## Transfers (R233 to R235) -/

/-- Unit `k` of an `XLD`. -/
def State.xldUnit (s : State) (die tile : Nat) (c : Cmd) (k : Nat) : Go (Option Nat) :=
  let i := k % uf c.f 6
  let j := k / uf c.f 6
  let dst := c.descs.getD 0 noDesc
  let src := c.descs.getD 1 noDesc
  let m := uf c.f 8
  (s.engRead die tile c.asid src [sf c.f 2 + i, sf c.f 3 + j, 0, 0]).bind fun s v =>
    let v := if src.fmt = dst.fmt then v
      else convert src.fmt dst.fmt (rmode (m % 4)) (m / 4 % 2 == 1) (m / 8 % 2 == 1) (m / 16 % 2 == 1) v
    s.engWrite die tile c dst [sf c.f 4 + j, sf c.f 5 + i, 0, 0] v

/-- An accumulator element read out (R126). -/
def readAcc (dst mode : Nat) (v : BitVec 96) : Nat :=
  let rm := rmode (mode / 2 % 4)
  let sat := mode / 8 % 2 == 1
  let nan := mode / 16 % 2 == 1
  let fz := mode / 32 % 2 == 1
  if mode % 2 = 1 then
    (if isFloat dst then flushBits dst fz (roundFp dst rm nan (Val.ofInt v.toInt)) else fitInt dst sat v.toInt)
  else convert xf96 dst rm sat nan fz v.toNat

/-- Key of the accumulator element of unit `k` of an `ACCRD` or `ACCLD`. -/
def accKey (c : Cmd) (k : Nat) : Nat := 256 * (uf c.f 1 + k / uf c.f 4) + uf c.f 3 + k % uf c.f 4
/-- Unit `k` of an `ACCRD` (R234): one element is read, converted and written, and then cleared with `.clr`; an error in it is a memory
error (R402). -/
def State.accrdUnit (s : State) (die tile : Nat) (c : Cmd) (k : Nat) : Go (Option Nat) :=
  let t := s.tile die tile
  let dst := c.descs.getD 0 noDesc
  if t.badAt (2 ^ 32 + accKey c k) 1 then .err (s.rasBump die 1) 5
  else
    (s.engWrite die tile c dst [sf c.f 6 + (k % uf c.f 4 : Nat), sf c.f 7 + (k / uf c.f 4 : Nat), 0, 0]
      (readAcc dst.fmt (uf c.f 5) (t.acc.get 0 (accKey c k)))).bind fun s m =>
    .ok (if uf c.f 5 / 64 % 2 = 1 then s.updTile die tile fun t => { t with acc := t.acc.set 0 (accKey c k) 0 } else s) m

/-- An element loaded into an accumulator (R235). -/
def loadAcc (src : Nat) (int : Bool) (v : Nat) : BitVec 96 :=
  if int then BitVec.ofInt 96 (ivalOf src v)
  else BitVec.ofNat 96 (roundFp xf96 .rne false
    (if isFloat src then decodeVal src (v % 2 ^ fmtBits src) else Val.ofInt (ivalOf src v)))

/-- Unit `k` of an `ACCLD` (R235). -/
def State.accldUnit (s : State) (die tile : Nat) (c : Cmd) (k : Nat) : Go (Option Nat) :=
  let m := k / uf c.f 4
  let j := k % uf c.f 4
  let src := c.descs.getD 0 noDesc
  let key := accKey c k
  (s.engRead die tile c.asid src [sf c.f 6 + j, sf c.f 7 + m, 0, 0]).bind fun s v =>
    .ok (s.updTile die tile fun t =>
      { t with acc := t.acc.set 0 key (loadAcc src.fmt (uf c.f 5 % 2 == 1) v), bad := t.bad.filter (· != 2 ^ 32 + key) })
      none

end Sys2Proof.Machine
end

