-- ==== Sys2Proof/Machine/Engines.lean ====
section
/-! DEFINITION. The life of an engine command (R213 to R222, R229, R230, R240, R280): entering its engine, its work,
its completion or error, leases and chains. -/

namespace Sys2Proof.Machine

/-- An event whose condition does not hold (R218 and others). -/
def notEnabled (n : String) : Host.Outcome State Fault Refusal := .refused (.notEnabled n)

/-! ## Running commands -/

/-- The `idx`-th command that engine `eng` of a tile runs, oldest first. -/
def Engines.nth (e : Engines) (eng idx : Nat) : Option Running := (e.running.filter fun r => r.eng == eng)[idx]?
/-- Replaces a running command. -/
def Engines.setRun (e : Engines) (r : Running) : Engines :=
  { e with running := e.running.map fun x => if x.no = r.no then r else x }
/-- Takes a running command out. -/
def Engines.dropRun (e : Engines) (no : Nat) : Engines := { e with running := e.running.filter fun x => x.no != no }
/-- Commands that an engine may run at once (R219, R318). -/
def engCap (eng : Nat) : Nat :=
  match eng with
  | 0 => 1 | 1 => 4 | 2 => 1 | _ => 16

/-- The tile buffers that a command writes, with their tile (R29). -/
def Cmd.dests (c : Cmd) (tile : Nat) : List (Nat × Desc) :=
  let d (k : Nat) : List (Nat × Desc) := [(tile, c.descs.getD k noDesc)]
  (match c.op with
    | .xld => d 0 | .accrd => d 0 | .tcopy => d 0 | .tfill => d 0 | .scat => d 0 | .attn => d 1
    | .tmcast => (receivers (uf c.f 8)).map fun r => (castBase tile + r, castDst c r)
    | _ => []).filter fun p => p.2.space == 1

/-- Changes the allocations that a command writes. -/
def State.touchAllocs (s : State) (die tile : Nat) (c : Cmd) (f : Alloc → Alloc) : State :=
  (c.dests tile).foldl (fun s p => s.updTile die p.1 fun t =>
    { t with allocs := t.allocs.map fun a => if a.asid = c.asid ∧ a.base = p.2.base then f a else a }) s

/-- Changes a chain, if it is still active. -/
def State.updChain (s : State) (die tile n : Nat) (f : Chain → Chain) : State := s.updEng die tile fun e =>
  match e.chains.find n with
  | some x => { e with chains := e.chains.put n (f x) }
  | none => e

/-- A command adds its increment to its semaphore on a tile: a release at its scope (R220, R258). -/
def State.cmdSignal (s : State) (die tile : Nat) (c : Cmd) : State :=
  (s.semRelease die tile c.sidx (headOf c.pos (cmdScope c.op c.f) c.view)).semAdd die tile c.sidx c.sinc
/-- What the command's part of a step has met is carried to it (R252, R253). -/
def Cmd.meets (c : Cmd) (s : State) : Cmd :=
  { c with view := joinView c.view (s.phys.relaxed.met.map fun k => ⟨k, c.pos, 5⟩) }
/-- Nothing has been met yet. -/
def State.unmet (s : State) : State := s.updRelaxed fun x => { x with met := [] }
/-- A command has completed (R220, R222): its signal, its buffers, its chain. -/
def State.cmdDone (s : State) (die tile : Nat) (c : Cmd) : State :=
  let s := s.touchAllocs die tile c fun a => { a with writers := a.writers - 1, written := true }
  let s := match c.chain with
    | some (n, _) => s.updChain die tile n fun x => { x with done := x.done + 1 }
    | none => s
  let s := if c.sinc = 0 ∨ c.op = .tmcast then s else s.cmdSignal die tile c
  let s := if c.pres.isSome then s.freeBuffers die tile else s
  s.checkReady die

/-- Error record's info1 of a command error: the cause of R216 (8 a redundant mismatch), then what names the place
(R232, R324): acc0, M and group, or sequence and failing slot. -/
def cmdErrInfo (c : Cmd) (code : Nat) : Nat :=
  Config.errInfo 4 (
    if code % 256 = 8 then [8, uf c.f 6, uf c.f 3, c.group]
    else if code % 256 = 6 then [6, uf c.f 2, code / 256]
    else [code % 256])

/-- A command error (R222): no signal, an error record, the abort of the pusher or the stop of the chain. The chain keeps the
failure that came first in time, and a word of the chain that already stands in a queue still runs (DESIGN CHOICE, log entry
142). -/
def State.cmdError (s : State) (die tile : Nat) (c : Cmd) (code : Nat) : State :=
  let s := s.touchAllocs die tile c fun a => { a with writers := a.writers - 1 }
  let s := s.err c.queue 4 c.asid die tile c.pcAt (cmdErrInfo c code)
  let s := match c.chain with
    | some (n, k) => s.updChain die tile n fun x => { x with stop := x.stop.or (some (code % 256 + 256 * k)) }
    | none => s.updInst c.uid fun i => { i with ctx := { i.ctx with cmdErr := true } }
  let s := if c.pres.isSome then s.freeBuffers die tile else s
  s.checkReady die

/-- The work of a running command from where it stands (R219, R222), at most `lim` units of it: what came of it, and the
command with its progress. The unit is an element, a K-step, a token or a slot; an `ATTN` reads its slots one by one (R325) and then
computes its rows one by one. -/
def State.cmdUnits (s : State) (die tile : Nat) (r : Running) (lim : Nat) : Go Unit × Running :=
  let c := r.cmd
  let att := attOf die
  let q := s.seqRec die c.f
  let units (n : Nat) (f : State → Nat → Go (Option Nat)) : Go Unit × Running :=
    let x := runUnits f (Nat.min lim (n - r.done)) r.done r.posted s
    (x.1, { r with done := x.2.1, posted := x.2.2 })
  match c.op with
  | .mma =>
    let x := s.kSteps die tile c (Nat.min lim 64) c.group
    (x.1, { r with cmd := { c with group := x.2 } })
  | .xld => units (uf c.f 6 * uf c.f 7) fun s k => s.xldUnit die tile c k
  | .accrd => units (uf c.f 2 * uf c.f 4) fun s k => s.accrdUnit die tile c k
  | .accld => units (uf c.f 2 * uf c.f 4) fun s k => s.accldUnit die tile c k
  | .tcopy => units (uf c.f 6 * uf c.f 7) fun s k => s.tcopyUnit die tile c k
  | .tfill => units (uf c.f 3 * uf c.f 4) fun s k => s.tfillUnit die tile c k
  | .twin => units (2048 * 256) fun s k => s.twinUnit die tile c k
  | .tmcast =>
    (if (receivers (uf c.f 8)).all fun x => r.gran.get 0 x == granules c then .ok s () else .err s 0, r)
  | .scat =>
    let x := s.scatRun die tile c lim ((uf c.f 3 + 63) / 64 - c.group) c.group r.done r.data r.posted
    (x.1, { r with cmd := { c with group := x.2.1 }, done := x.2.2.1, data := x.2.2.2.1, posted := x.2.2.2.2 })
  | .attn =>
    let n := wf32 c.f 6 - wf32 c.f 4
    let x := readRun (fun s k => s.attnSlot att c q (wf32 c.f 4 + k)) (Nat.min lim (n - r.data.length)) r.data.length r.data s
    match x.1 with
    | .ok s () =>
      if x.2.length < n then (.ok s (), { r with data := x.2 })
      else
        let y := runUnits (fun s k => s.attnUnit die tile c q x.2 k) (Nat.min lim (q.nkv * 2 ^ (uf c.f 10 % 8) - r.done)) r.done
          r.posted s
        (y.1, { r with data := x.2, done := y.2.1, posted := y.2.2 })
    | g => (g, { r with data := x.2 })
  | .kvapp => units (uf c.f 8) fun s k => s.kvappUnit die tile att c q k
  | .kvrot => units (wf32 c.f 6 - wf32 c.f 4) fun s k => s.kvrotUnit att c q k
  | .kvevict => units (wf32 c.f 6 - wf32 c.f 4 + 1) fun s k => s.kvevictUnit att c q k

/-- At most `lim` units of a running command; what they meet is carried to it. -/
def State.runCmd (s : State) (die tile : Nat) (r : Running) (lim : Nat) : Go Unit × Running :=
  let x := s.unmet.cmdUnits die tile r lim
  match x.1 with
  | .ok s () => (x.1, { x.2 with cmd := x.2.cmd.meets s })
  | .wait s _ => (x.1, { x.2 with cmd := x.2.cmd.meets s })
  | _ => x

/-- The command waits for a page (R222). -/
def Running.waits (r : Running) (va : Nat) : Running := { r with page := some va }

/-- At most `lim` units of a command's work, and what follows: `fin` of a state in which they are done. A page that is out makes
the command wait at its element (R222). -/
def State.cmdWork (s : State) (die tile : Nat) (r : Running) (lim : Nat) (event : String) (fin : State → Running → State) :
    Host.Outcome State Fault Refusal :=
  if r.page.isSome then notEnabled event
  else
    let x := s.runCmd die tile r lim
    match x.1 with
    | .ok s () => .next (fin s x.2)
    | .wait s va => .next (s.updEng die tile fun e => e.setRun (x.2.waits va))
    | .err s code =>
      if code = 0 then notEnabled event
      else .next ((s.updEng die tile fun e => e.dropRun r.no).cmdError die tile x.2.cmd code)
    | .noMem pa => .fault (.noMemory pa)

/-- ENGINE_COMMAND_COMPLETE (R219, R220, R222): the work left is done, then the signal is added; a sys-scope command
waits first for the acknowledgements of its remote writes. -/
def execEngineCommandComplete (die tile eng idx : Nat) (s : State) : Host.Outcome State Fault Refusal :=
  match (s.tile die tile).eng.nth eng idx with
  | none => notEnabled "ENGINE_COMMAND_COMPLETE"
  | some r => s.cmdWork die tile r (2 ^ 34) "ENGINE_COMMAND_COMPLETE" fun s x =>
      if cmdScope r.cmd.op r.cmd.f = 4 ∧ !x.posted.isEmpty then s.updEng die tile fun e => e.setRun x
      else (s.updEng die tile fun e => e.dropRun r.no).cmdDone die tile x.cmd

/-- At most `lim` units of entered command `no` of a tile (the model's own move): other agents may move before its next unit
(R222, R258, log entry 44). -/
def State.units (s : State) (die tile no lim : Nat) : Host.Outcome State Fault Refusal :=
  match (s.tile die tile).eng.running.find? fun r => r.no == no && r.cmd.op != .tmcast with
  | none => notEnabled "ENGINE_COMMAND_COMPLETE"
  | some r => s.cmdWork die tile r lim "ENGINE_COMMAND_COMPLETE" fun s x => s.updEng die tile fun e => e.setRun x

/-- ENGINE_PAGE_RESUME (R222): the page has come, or the walk that it waits for has ended (R374), and the command resumes at the
element where it waited. -/
def execEnginePageResume (die tile eng idx : Nat) (s : State) : Host.Outcome State Fault Refusal :=
  match (s.tile die tile).eng.nth eng idx with
  | none => notEnabled "ENGINE_PAGE_RESUME"
  | some r =>
    match r.page with
    | none => notEnabled "ENGINE_PAGE_RESUME"
    | some va =>
      let d := if eng = 3 then attOf die else die
      if s.walk r.cmd.asid va .read = .paged ∨ (s.translateAny d r.cmd.asid va .read = .miss ∧ s.walkBusy d r.cmd.asid va) then
        notEnabled "ENGINE_PAGE_RESUME"
      else .next (s.updEng die tile fun e => e.setRun { r with page := none })

/-- TMCAST_GRANULE_DELIVERY (R239, R240): the next granule of one receiver is written there, then its semaphore
rises by sinc. The source is read once, before the first granule; after a page that was out both go on at their element (R222). -/
def execTmcastGranuleDelivery (die tile idx rcv : Nat) (s : State) : Host.Outcome State Fault Refusal :=
  match (s.tile die tile).eng.nth 1 idx with
  | none => notEnabled "TMCAST_GRANULE_DELIVERY"
  | some r =>
    let c := r.cmd
    let g := r.gran.get 0 rcv
    if c.op ≠ .tmcast ∨ r.page.isSome ∨ !hasNat (receivers (uf c.f 8)) rcv ∨ granules c ≤ g then
      notEnabled "TMCAST_GRANULE_DELIVERY"
    else
      let fail (s : State) (code : Nat) : State :=
        (s.updEng die tile fun e => e.dropRun r.no).cmdError die tile c code
      let put (s : State) (r : Running) : State := s.updEng die tile fun e => e.setRun { r with cmd := c.meets s }
      let x := s.unmet.castRead die tile c r.data
      let r := { r with data := x.2 }
      match x.1 with
      | .wait s va => .next (put s (r.waits va))
      | .err s code => .next (fail s code)
      | .noMem pa => .fault (.noMemory pa)
      | .ok s () =>
        let y := s.castGranule die tile c r.data rcv g (r.part.get 0 rcv)
        match y.1 with
        | .wait s va => .next (put s ({ r with part := r.part.set 0 rcv y.2 }.waits va))
        | .err s code => .next (fail s code)
        | .noMem pa => .fault (.noMemory pa)
        | .ok s () =>
          let c := c.meets s
          let s := put s { r with gran := r.gran.set 0 rcv (g + 1), part := r.part.set 0 rcv 0 }
          .next (if c.sinc = 0 then s else s.cmdSignal die (castBase tile + rcv) c)

/-! ## Entering an engine -/

/-- The head word has passed its wait (R101, R218); a suspended command had passed it before it was drained (R230). -/
def State.headReady (s : State) (die tile : Nat) (c : Cmd) : Bool :=
  c.suspended || c.wthr == 0 || decide (c.wthr ≤ (s.sem die tile c.widx).toNat)

/-- The next pusher after the last one whose head may enter (R213, R218). -/
def State.nextPusher (s : State) (die tile eng last : Nat) : Option Nat :=
  ((List.range 5).map fun k => (last + 1 + k) % 5).find? fun p =>
    match (s.tile die tile).eng.queues.get [] (queueKey eng p) with
    | c :: _ => s.headReady die tile c
    | [] => false

/-- One command of the lease has entered (R213). -/
def Lease.enter (l : Lease) : Option Lease :=
  let l := { l with pushed := l.pushed - 1 }
  if l.ended ∧ l.pushed = 0 then none else some l

/-- The command stands in its engine (R218): its buffers count a writer. An `MMA` whose window copy was freed (R280)
and an attention command whose sequence fails R324 are command errors at once. Passing the wait is an acquire at die scope
(R258). The rows of a suspended `MMA` stand in accumulator memory from here on (R125, R352). -/
def State.enterCmd (s : State) (die tile : Nat) (c : Cmd) : State :=
  let s := if c.rows.isEmpty then s else s.restoreRows die tile (uf c.f 6) c.rows
  let c := { c with rows := [] }
  let c := if c.wthr = 0 then c else { c with view := joinView c.view (gives (s.semHeads die tile c.widx) c.pos 2) }
  let s := s.touchAllocs die tile c fun a => { a with writers := a.writers + 1 }
  let lost := match c.pres with
    | some k => !hasNat (s.tile die tile).held k
    | none => false
  let s := s.updEng die tile fun e => { e with entries := e.entries + 1 }
  let kv := if c.op.eng = 3 then kvStart c (s.seqRec die c.f) else none
  if lost then (s.rasBump die 9).cmdError die tile c 7
  else if kv.isSome then s.cmdError die tile c (6 + 256 * kv.getD 0)
  else s.updEng die tile fun e =>
    { e with running := e.running ++ [⟨c.op.eng, c, 0, none, .empty, [], [], e.entries, .empty⟩] }

/-- The matrix engine may take a word of this pusher (R212, R213): its lease is served. -/
def Engines.served (e : Engines) (pusher : Nat) : Bool :=
  match e.lease with
  | some l => l.pos == pusher && decide (0 < l.pushed)
  | none => false

/-! ## Chains (R104, R214 to R216) -/

/-- The stream that a chain's lease stands for. -/
def chainUid (n : Nat) : Nat := 2 ^ 41 + n
/-- A word of the chain stands in a queue, so the next is not fetched (R215). -/
def Engines.chainQueued (e : Engines) (n : Nat) : Bool :=
  e.queues.cells.any fun q => q.2.any fun c => match c.chain with
    | some (k, _) => k == n
    | none => false
/-- A word of the chain is running. -/
def Engines.chainRuns (e : Engines) (n : Nat) : Bool :=
  e.running.any fun r => match r.cmd.chain with
    | some (k, _) => k == n
    | none => false

/-- The chain stops at its next word with a code (R216), unless a word of it has failed before (DESIGN CHOICE, log entry
142). -/
def State.chainStop (s : State) (die tile n code : Nat) : State := s.updChain die tile n fun x =>
  { x with stop := x.stop.or (some (code + 256 * x.next)) }

/-- A matrix word of a chain needs the chain port's implicit lease (R213): held, asked for now, or waited for. -/
inductive PortLease where
  | held | ask | wait
  deriving DecidableEq, Repr
/-- Where the chain port stands at cycle `cyc`: its lease too ends after 65,536 cycles. -/
def Engines.portLease (e : Engines) (n cyc : Nat) : PortLease :=
  match e.lease with
  | some l => if l.uid = chainUid n ∧ !l.ended ∧ 0 < l.left ∧ cyc < l.since + 65536 then .held
    else if e.asks.any (·.2.1 == chainUid n) then .wait else .ask
  | none => if e.asks.any (·.2.1 == chainUid n) then .wait else .ask

/-- A checked word of a chain is pushed on the chain port (R104). -/
def State.chainPush (s : State) (die tile n : Nat) (o : EngOp) (c : Cmd) (f : List Nat) : State :=
  let s := s.updEng die tile fun e => (if o.eng = 0 then e.countPush else e).push o.eng 4 c
  let s := s.twinTagWrite die tile o c.asid f (c.descs.getD 0 noDesc)
  s.updChain die tile n fun x => { x with next := x.next + 1 }

/-- The copy engine fetches and pushes the next word of chain `n` (R104, R215). An illegal immediate `.dup` mode stops the chain even
where TT[0] is 0 (log entry 164). -/
def State.chainFetch (s : State) (die tile n : Nat) : Host.Outcome State Fault Refusal :=
  let e := (s.tile die tile).eng
  match e.chains.find n with
  | none => notEnabled "ENGINE_COMMAND_START"
  | some x =>
    if x.stop.isSome || decide (x.count ≤ x.next) || e.chainQueued n then notEnabled "ENGINE_COMMAND_START"
    else match s.engLoad die x.asid (x.addr + 32 * x.next) 32 with
      | .wait _ _ => notEnabled "ENGINE_COMMAND_START"
      | .noMem pa => .fault (.noMemory pa)
      | .err s code => .next (s.chainStop die tile n code)
      | .ok s v =>
        let w (k : Nat) : BitVec 64 := BitVec.ofNat 64 (v / 2 ^ (64 * k))
        let bad := !isCmdWord (w 0) || (isAtt die && majorOf (w 0) == 0xF8)
        match (if bad then none else (match decodeWords (w 0) (w 1) (w 2) (w 3) with
          | .ok i => cmdOf i
          | .error _ => none)) with
        | none => .next (s.chainStop die tile n 1)
        | some (o, g, b) =>
          let vals := (flaggedFields b).map fun k => if b.field k % 64 = 0 then 0 else x.regs.get 0 (b.field k % 64)
          let f := resolveFields o b vals
          let dup (f : List Nat) : Bool := o == .mma && uf f 7 / 2 % 2 == 1
          if !b.flag 7 && dup b.fields then .next (s.chainStop die tile n 1)
          else if !bitAt g.tt 0 then
            .next (s.updChain die tile n fun x => { x with next := x.next + 1, done := x.done + 1 })
          else if (flaggedFields b).any fun k => decide (56 ≤ b.field k % 64) then .next (s.chainStop die tile n 3)
          else if dup f then .next (s.chainStop die tile n 1)
          else if e.full o.eng 4 then notEnabled "ENGINE_COMMAND_START"
          else
            let go : Host.Outcome State Fault Refusal :=
              let i := s.inst x.uid
              let seg := match i with
                | some i => (i.ex.segTask, i.ex.segDone)
                | none => (none, false)
              match s.buildCmd die tile o g b f seg none (narrow (cmdScope o f) x.view)
                  ⟨x.uid, 4, x.asid, x.queue, x.addr + 32 * x.next, some (n, x.next), x.pos, i.any (·.who.kind == .firmware)⟩ with
              | .ok s c => .next (s.chainPush die tile n o c f)
              | .wait _ _ => notEnabled "ENGINE_COMMAND_START"
              | .err s code => .next (s.chainStop die tile n code)
              | .noMem pa => .fault (.noMemory pa)
            if o.eng = 0 then
              match e.portLease n (s.die die).cyc with
              | .held => go
              | .ask => .next (s.askLease die tile 4 (chainUid n) 1)
              | .wait => notEnabled "ENGINE_COMMAND_START"
            else go

/-- Commands that an engine has in progress (R219). -/
def Engines.busy (e : Engines) (eng : Nat) : Nat := (e.running.filter fun r => r.eng == eng).length
/-- A restored word is ready: it is the first of its pusher's, and its wait holds (R218, R352). -/
def State.restoredReady (s : State) (die tile : Nat) (c : Cmd) : Bool :=
  s.headReady die tile c && ((s.tile die tile).eng.restored.find? fun x => x.pusher == c.pusher) == some c
/-- The restored word that the matrix engine takes next (R352), if it is this pusher's. A restored word that waits holds back
only its own pusher's (R218). -/
def State.restoredHead (s : State) (die tile pusher : Nat) : Option Cmd :=
  ((s.tile die tile).eng.restored.find? (s.restoredReady die tile)).filter (·.pusher == pusher)
/-- A word of a frame stands before the head word of a pusher's queue (R218, R352). -/
def Engines.behind (e : Engines) (pusher : Nat) (c : Cmd) : Bool := !c.ahead && e.restored.any (·.pusher == pusher)
/-- ENGINE_COMMAND_START (R215, R218, R219): the head word of a pusher's queue has passed its wait and enters its
engine. `pusher` 0 to 3 are the sequencers and 4 the chain port; from 8 on it names a chain, whose next word the copy
engine fetches and pushes. -/
def execEngineCommandStart (die tile eng pusher : Nat) (s : State) : Host.Outcome State Fault Refusal :=
  if 8 ≤ pusher then s.chainFetch die tile (pusher - 8)
  else
    let e := (s.tile die tile).eng
    if engCap eng ≤ e.busy eng then notEnabled "ENGINE_COMMAND_START"
    else match (if eng = 0 then s.restoredHead die tile pusher else none) with
      | some c => .next ((s.updEng die tile fun e => { e with restored := e.restored.erase c }).enterCmd die tile c)
      | none =>
        match e.queues.get [] (queueKey eng pusher) with
        | [] => notEnabled "ENGINE_COMMAND_START"
        | c :: rest =>
          let turn := match eng with
            | 0 => e.served pusher
            | 1 => s.nextPusher die tile 1 e.ceLast == some pusher
            | 2 => s.nextPusher die tile 2 e.saeLast == some pusher
            | _ => true
          if !turn || !s.headReady die tile c || (eng == 0 && (e.behind pusher c || e.restored.any (s.restoredReady die tile))) then
            notEnabled "ENGINE_COMMAND_START"
          else
            let s := s.updEng die tile fun e =>
              { e with
                queues := e.queues.set [] (queueKey eng pusher) rest
                lease := if eng = 0 then e.lease.bind Lease.enter else e.lease
                ceLast := if eng = 1 then pusher else e.ceLast
                saeLast := if eng = 2 then pusher else e.saeLast }
            .next (s.enterCmd die tile c)

/-- The status word of a chain (R216). -/
def Chain.status (x : Chain) : Nat :=
  x.done % 2 ^ 16 + (match x.stop with
    | some k => 2 ^ 16 + k % 128 * 2 ^ 17
    | none => 0)

/-- Puts a word into a pending position of a frame that the hardware parked, with its taint (R65, R349). -/
def State.frameDeliver (s : State) (fa q pos : Nat) (v : Word) (taint : Bool) : State :=
  let a := fa + 0x210 + 40 * q
  let w := s.readPa a 4
  let w := w + 1 - 16 - 2 ^ (24 + pos) + (if taint then 2 ^ (16 + pos) else 0)
  (s.writePa a 4 w).writePa (a + 4 + 4 * pos) 4 v.toNat

/-- Delivers a chain's status to its stream, or into the frame of a parked one (R216, R349). -/
def State.chainDeliver (s : State) (n : Nat) (x : Chain) (v : Word) : State :=
  match s.inst x.uid with
  | none => s
  | some i =>
    match i.ctx.prods.findIdx? fun p => p.src == .chain n with
    | none => s
    | some k =>
      let s := match i.sched.status, i.sched.frame with
        | .parked, some f => s.frameDeliver (s.frameAt i.who.die f) x.q (x.qpos % 8) v ((i.ctx.prods[k]?.map Producer.taint).getD false)
        | _, _ => s
      s.setInst x.uid { i with ctx := i.ctx.deliver k [v] 0 }

/-- CHAIN_COMPLETE (R216): every started word has completed, and no more is to start; a word that stands in a queue when the
chain stops has not started. The status word is delivered, and a stopped chain's error
record is written. -/
def execChainComplete (die tile chain : Nat) (s : State) : Host.Outcome State Fault Refusal :=
  let e := (s.tile die tile).eng
  match e.chains.find chain with
  | none => notEnabled "CHAIN_COMPLETE"
  | some x =>
    if (x.stop.isNone && (decide (x.next < x.count) || e.chainQueued chain)) || e.chainRuns chain then
      notEnabled "CHAIN_COMPLETE"
    else
      let s := s.updEng die tile fun e =>
        { e with chains := e.chains.del chain, asks := e.asks.filter fun a => a.2.1 != chainUid chain }
      let s := s.endLease die tile (chainUid chain)
      let s := match x.stop with
        | some k => s.err x.queue 3 x.asid die tile (x.addr + 32 * (k / 256)) x.status
        | none => s
      .next (s.chainDeliver chain x (BitVec.ofNat 32 x.status))

/-! ## Leases and drains -/

/-- LEASE_GRANT (R212, R213): round-robin over the four sequencers and the chain port; the holder goes on. -/
def execLeaseGrant (die tile cyc : Nat) (s : State) : Host.Outcome State Fault Refusal :=
  let e := (s.tile die tile).eng
  if e.lease.isSome || decide (cyc < (s.die die).cyc) then notEnabled "LEASE_GRANT"
  else match ((List.range 5).map fun k => (e.lastPos + 1 + k) % 5).findSome? fun p => e.asks.find? fun a => a.1 == p with
    | none => notEnabled "LEASE_GRANT"
    | some a =>
      let s := (s.advance die cyc).updEng die tile fun e =>
        { e with lease := some ⟨a.1, a.2.1, a.2.2, cyc, 0, false⟩, asks := e.asks.erase a, lastPos := a.1 }
      .next (s.updInst a.2.1 fun i => match i.sched.wait with
        | .lease n false => i.endWait (.lease n true)
        | _ => i)

/-- LEASE_EXPIRY (R213): 65,536 cycles after its grant. -/
def execLeaseExpiry (die tile cyc : Nat) (s : State) : Host.Outcome State Fault Refusal :=
  match (s.tile die tile).eng.lease with
  | none => notEnabled "LEASE_EXPIRY"
  | some l =>
    if l.ended || cyc != l.since + 65536 then notEnabled "LEASE_EXPIRY"
    else .next ((s.advance die cyc).endLease die tile l.uid)

/-- MMA_DRAIN (R229, R230): the running `MMA` performs K-steps up to a drain point; if its stream waits there to be
pre-empted at a pre-emption point (R48), it is suspended with the park. -/
def execMmaDrain (die tile ksteps : Nat) (s : State) : Host.Outcome State Fault Refusal :=
  match (s.tile die tile).eng.running.find? fun r => r.cmd.op == .mma with
  | none => notEnabled "MMA_DRAIN"
  | some r =>
    if r.page.isSome then notEnabled "MMA_DRAIN"
    else
      let x := s.unmet.kSteps die tile r.cmd ksteps r.cmd.group
      let y := { r with cmd := { r.cmd with group := x.2 } }
      let put (s : State) (y : Running) : State := s.updEng die tile fun e => e.setRun y
      match x.1 with
      | .wait s va => .next (put s (y.waits va))
      | .err s code => .next ((s.updEng die tile fun e => e.dropRun r.no).cmdError die tile y.cmd code)
      | .noMem pa => .fault (.noMemory pa)
      | .ok s () =>
        let s := put s { y with cmd := y.cmd.meets s }
        .next (match s.inst r.cmd.uid with
          | some i => if i.sched.preempt ∧ i.sched.point ∧ i.sched.status = .running ∧ r.cmd.chain = none then
              s.park r.cmd.uid true 2
            else s
          | none => s)

end Sys2Proof.Machine
end

