-- ==== Sys2Proof/Machine/Restore.lean ====
section
/-! DEFINITION. Restoring an instruction stream from a context frame (R346, R352): chain statuses still pending, the
cohort, saved command words and rows, and the wait it re-enters. -/

namespace Sys2Proof.Machine

/-- A reader of a frame at a physical address; another module's bytes are free values (log entry 21). -/
def State.frameRd (s : State) (pa o n : Nat) : Nat := s.readAnyPa (pa + o) n

/-! ## Frames at virtual addresses (R345, R346) -/

/-- Physical addresses of `n` pages from page number `p`; a miss walks at once, or answers `miss` while its walk has to wait (R374). -/
def State.mapRange (s : State) (d asid : Nat) (k : Acc) : Nat → Nat → State × Except Tr (List (Nat × Nat))
  | _, 0 => (s, .ok [])
  | p, n + 1 =>
    match s.resolveEng d asid (65536 * p) k with
    | (s, .ok pa) =>
      match s.mapRange d asid k (p + 1) n with
      | (s, .ok l) => (s, .ok ((p, pa) :: l))
      | (s, .error t) => (s, .error t)
    | (s, t) => (s, .error t)
/-- The pages that `n` bytes from `va` touch: first page number and count. -/
def pagesOf (va n : Nat) : Nat × Nat := (va / 65536, (va + n - 1) / 65536 + 1 - va / 65536)
/-- Physical address of a virtual one, by a list of pages. -/
def viaPages (l : List (Nat × Nat)) (va : Nat) : Nat :=
  match l.find? fun e => e.1 == va / 65536 with
  | some e => e.2 + va % 65536
  | none => 0
/-- A reader of a frame at a virtual address. -/
def State.virtRd (s : State) (l : List (Nat × Nat)) (va o : Nat) : Nat → Nat
  | 0 => 0
  | n + 1 => (s.byteAny (viaPages l (va + o))).toNat + 256 * s.virtRd l va (o + 1) n
/-- Bytes of another module that have been read are new free values the next time (log entry 21). -/
def State.tickPages (s : State) (l : List (Nat × Nat)) : State := if l.any fun e => isSpan e.2 then s.tick else s
/-- Writes bytes of one page; those of another module are posted (R345, R384). -/
def Cur.writePage (c : Cur) (l : List (Nat × Nat)) (a n v : Nat) : Cur :=
  let pa := viaPages l a
  if isSpan pa then c.post a pa n v [] else c.mapS fun s => s.writePa pa n v
/-- Writes one field through a list of pages; a field that crosses into the next page is written in its two parts. -/
def Cur.writeField (c : Cur) (l : List (Nat × Nat)) (a n v : Nat) : Cur :=
  let k := 65536 - a % 65536
  if n ≤ k then c.writePage l a n v else (c.writePage l a k v).writePage l (a + k) (n - k) (v / 256 ^ k)
/-- Writes fields through a list of pages. -/
def Cur.writeVia (c : Cur) (l : List (Nat × Nat)) (va : Nat) (fs : List FrameField) : Cur :=
  fs.foldl (fun c f => c.writeField l (va + f.1) f.2.1 f.2.2) c

/-! ## Pending statuses (R346, R349) -/

/-- A chain producer moved to the positions of a loaded frame; none where the frame has no pending position for it. -/
def framedProd (r : Regs) (p : Producer) : Option Producer :=
  if p.src.isChain && !p.vec then
    let q := r.getQ p.q
    let pos := q.head + (p.pos + 8 - q.head % 8) % 8
    match q.items[pos - q.head]? with
    | some none => some { p with pos := pos }
    | _ => none
  else none

/-- The producers of a loaded stream: the chains still running (R347). -/
def Inst.framed (i : Inst) (old : List Producer) : Inst :=
  { i with ctx := { i.ctx with prods := old.filterMap (framedProd i.ctx.regs) } }

/-- The value that a queue of the stream holds at physical position `p`, if it is filled there. -/
def heldAtPos (q : Queue Word) (p : Nat) : Option (Word × Bool) :=
  (q.items[(p + 8 - q.head % 8) % 8]?).join

/-- Pending positions whose chain has already delivered take the value that it delivered (log entry 40). -/
def settle (new old : Regs) (prods : List Producer) : Regs :=
  (List.range 8).foldl (fun r k =>
    let q := r.getQ k
    r.setQ k { q with items := q.items.zipIdx.map fun e =>
      match e.1 with
      | some x => some x
      | none =>
        if prods.any fun p => p.q == k && p.pos == q.head + e.2 then none
        else some ((heldAtPos (old.getQ k) ((q.head + e.2) % 8)).getD (0, false)) }) new

/-- A frame loaded into a stream (R346, R352). -/
def Inst.restore (i : Inst) (rd : Nat → Nat → Nat) : Inst :=
  let j := (i.load rd).framed i.ctx.prods
  { j with ctx := { j.ctx with regs := settle j.ctx.regs i.ctx.regs j.ctx.prods } }

/-! ## Cohort, commands, rows -/

/-- The cohort byte of a frame is loaded (R348): membership or pending join. -/
def State.loadCohort (s : State) (u : Nat) (i : Inst) (b : Nat) : State :=
  let d := i.who.die
  if s.cohortByte u i = b then s
  else
    let s := match i.coh with
      | some id =>
        let c := s.cohort d id
        s.setCohort d id { c with members := dropNat c.members u, pending := dropNat c.pending u, arrived := dropNat c.arrived u,
                                  leaving := dropNat c.leaving u, early := dropNat c.early u }
      | none => s
    let id := b % 64
    let s := s.updInst u fun j => { j with coh := if b / 64 = 0 then none else some id }
    if b / 64 = 0 then s
    else
      let c := s.cohort d id
      s.setCohort d id
        { c with members := if b / 64 % 2 = 1 then c.members ++ [u] else c.members
                 pending := if b / 128 % 2 = 1 then c.pending ++ [u] else c.pending }

/-- An unconfirmed frame of a block whose record has been confirmed since is confirmed (R296). -/
def State.settleConf (s : State) (i : Inst) : Inst :=
  match i.who.recNo.bind (s.recOf i.who.die) with
  | some r => if r.confirmed then { i with ex := { i.ex with unconf := false } } else i
  | none => i

/-- The first K-group of a command (R229). -/
def Cmd.firstGroup (c : Cmd) : Nat := if c.op = .mma then uf c.f 4 / kGroupOf (c.descs.getD 0 noDesc).fmt else 0
/-- A restored word stands ahead of the words that its pusher pushes afterwards, and behind those that stand in its queue
(R352). -/
def Engines.pushRestored (e : Engines) (c : Cmd) : Engines :=
  { e with
    restored := e.restored ++ [c]
    queues := if e.restored.any (·.pusher == c.pusher) then e.queues
      else e.queues.upd [] (queueKey 0 c.pusher) fun l => l.map fun x => { x with ahead := true } }
/-- What a frame says of a suspended `MMA` (R351): its next group, its first row, and the elements of its rows. -/
structure Held where
  group : Nat
  acc0 : Nat
  rows : List Nat
/-- The suspended `MMA` of a frame; `rows` reads the saved rows. -/
def frameHeld (rd rows : Nat → Nat → Nat) : Option Held :=
  if rd 0 4 / 2 ^ 16 % 2 = 1 ∧ 0 < rd 0x35C 4 then some ⟨rd 0x354 4, Nat.min 511 (rd 0x358 4), frameRows rd rows⟩ else none
/-- Puts the rows of a suspended command that does not come back into accumulator memory (R352). -/
def State.putHeld (s : State) (die tile : Nat) : Option Held → State
  | some h => s.restoreRows die tile h.acc0 h.rows
  | none => s
/-- A word pushed back on the matrix engine by a restore (R352). A suspended command resumes at its recorded group (R230) and takes
the elements of its rows with it: they stand in accumulator memory when it enters the engine again, whatever other commands have
done with the rows before (R125). -/
def State.pushBack (s : State) (die tile : Nat) (place : Nat) (held : Option Held) (c : Cmd) : State :=
  let own := held.filter fun h => c.op == .mma && h.acc0 == uf c.f 6
  (if own.isNone then s.putHeld die tile held else s).updEng die tile fun e => e.pushRestored
    { c with restored := true, ahead := false, suspended := held.isSome, pusher := place,
             group := ((held.map fun h => h.group).getD c.firstGroup), rows := ((own.map fun h => h.rows).getD []) }

/-- One saved command word pushed back (R352). A word that the frame holds as it was saved is the command that was drained, with
the descriptors and the panel tag of its push (R230, R238, log entry 51). A word that the runtime has changed is built anew; one
that fails a check is a command error, and one whose descriptors lie on a page that is out waits (R222). -/
def State.restoreWord (s : State) (die tile u : Nat) (i : Inst) (asid : Nat) (old : Option Cmd) (held : Option Held)
    (w : List Word64) : Go Unit :=
  let place := i.sched.seq.getD 0 % 4
  let fail (s : State) (code : Nat) : Go Unit :=
    .ok (((s.putHeld die tile held).err i.who.queue 4 asid die tile i.ctx.pc.toNat (Config.errInfo 4 [code])).updInst u fun j =>
      { j with ctx := { j.ctx with cmdErr := true } }) ()
  match old.filter fun c => c.words == w with
  | some c => .ok (s.pushBack die tile place held c) ()
  | none =>
    match (match decodeWords (w.getD 0 0) (w.getD 1 0) (w.getD 2 0) (w.getD 3 0) with
      | .ok x => cmdOf x
      | .error _ => none) with
    | none => fail s 1
    | some (o, g, b) =>
      match s.buildCmd die tile o g b b.fields (i.ex.segTask, i.ex.segDone) (old.bind (·.pres)) (narrow 2 i.ctx.ord.view)
          ⟨u, place, asid, i.who.queue, i.ctx.pc.toNat, none, seqKey die (i.sched.seq.getD 0), i.who.kind == .firmware⟩ with
      | .ok s c => .ok (s.pushBack die tile place held c) ()
      | .err s code => fail s code
      | .wait s va => .wait s va
      | .noMem pa => .noMem pa

/-- The saved words of a frame from word `k`, `n` of them, in order (R351, R352); the first one is the suspended command, if there is
one. -/
def State.restoreFrom (s : State) (die tile u : Nat) (i : Inst) (asid : Nat) (rd : Nat → Nat → Nat) :
    Nat → Nat → Option Held → Go Unit
  | 0, _, held => .ok (s.putHeld die tile held) ()
  | n + 1, k, held =>
    (s.restoreWord die tile u i asid i.sched.saved[k]? held
      ((List.range 4).map fun j => BitVec.ofNat 64 (rd (0x2900 + 32 * k + 8 * j) 8))).bind fun s _ =>
        s.restoreFrom die tile u i asid rd n (k + 1) none

/-- The saved words of a frame, then the word beyond sixteen that the instance has kept (log entry 144). `rows` reads the saved
rows. -/
def State.restoreWords (s : State) (die tile u : Nat) (i : Inst) (asid : Nat) (rd rows : Nat → Nat → Nat) : Go Unit :=
  let n := Nat.min 16 (rd 0x350 4)
  (s.restoreFrom die tile u i asid rd n 0 (frameHeld rd rows)).bind fun s _ =>
    .ok (match i.sched.saved[16]? with
      | some c => if n = 16 then s.pushBack die tile (i.sched.seq.getD 0 % 4) none c else s
      | none => s) ()

/-! ## Waits (R352) -/

/-- The status of a stream whose wait is over, or that waits. -/
def Inst.waitOver (i : Inst) (done : Bool) : Inst :=
  if done then { i with sched := { i.sched with status := .resident, wait := .none, noFrame := i.sched.noFrame.filter (· != 0) } }
  else { i with sched := { i.sched with status := .blocked } }

/-- A stream in its slot re-enters the wait that it holds (R352): a grant already taken, or a condition that holds now,
lets it go on. -/
def State.enterWait (s : State) (u : Nat) : State :=
  match s.inst u with
  | none => s
  | some i =>
    let d := i.who.die
    match i.sched.wait with
    | .none => s.setInst u (i.waitOver true)
    | .page _ => s.setInst u (i.waitOver true)
    | .waits ref thr g =>
      let ok := g || decide (thr.toNat ≤ (s.sem d (refTile ref) (refIdx ref)).toNat)
      let i := if ok && !g then i.acquire (s.semHeads d (refTile ref) (refIdx ref)) 2 else i
      s.setInst u (i.waitOver ok)
    | .waitsDec ref thr g =>
      let s := s.setInst u (i.waitOver g)
      if g || (s.tile d (refTile ref)).decq.any (·.2.1 == u) then s
      else (s.updTile d (refTile ref) fun t => { t with decq := t.decq ++ [(refIdx ref, u, thr)] }).grantDec d (refTile ref)
        (refIdx ref) (((s.tile d (refTile ref)).decq.length) + 1)
    | .cbar id g =>
      let c := s.cohort d id
      let s := s.setInst u (i.waitOver g)
      if g || hasNat c.arrived u || hasNat c.early u || i.coh != some id then s else s.cohortArrive d id u i.ctx.ord.view
    | .lease n _ => (s.setInst u (i.waitOver false)).askLease d i.tileNo ((i.sched.seq.getD 0) % 4) u n
    | .commit r => s.setInst u (i.waitOver (r || !i.ex.unconf))

end Sys2Proof.Machine
end

