-- ==== Sys2Proof/Machine/System.lean ====
section
/-! DEFINITION. Special registers (R71 to R73, R334), the handler's forms (R343 to R346), `TLBINV` (R376), the tag table
(R409) and the shape predictor (R305 to R307). -/

namespace Sys2Proof.Machine

/-! ## Special registers -/

/-- Level of the stream (R333). -/
def Cur.level (c : Cur) : Nat := c.i.who.level
/-- A form of a level (R100): the privilege fault below it. -/
def atLevel (c : Cur) (n : Nat) (e : Eff) : Eff := if c.level < n then .trap 2 c.pc else e
/-- The sequencer of the stream. -/
def Cur.seqx (c : Cur) : Seq := c.s.seq c.die c.q
/-- Die registers. -/
def Cur.dregs (c : Cur) : DieRegs := (c.s.die c.die).regs

/-- The value of a special register (R71, R334). -/
def Cur.sreg (c : Cur) (n : Nat) : Nat :=
  let w := c.i.who
  let x := c.seqx
  let r := c.dregs
  match n with
  | 0x00 => c.tile
  | 0x01 => c.die
  | 0x02 => c.q
  | 0x03 => c.i.sched.slot
  | 0x04 => w.task.toNat
  | 0x05 => w.blk.toNat
  | 0x06 => w.ext.toNat
  | 0x07 => w.tag.toNat
  | 0x08 => fieldOf w.tag 51 32
  | 0x09 => c.i.range.lo.toNat
  | 0x0A => c.i.range.hi.toNat
  | 0x0B => Nat.max (c.s.die c.die).cyc c.clk
  | 0x0C => c.i.ctx.st.sp.toNat
  | 0x0D => c.regs.plive.toNat
  | 0x0E => c.asid
  | 0x0F => if isAtt c.die then 0 else r.rcfg.toNat
  | 0x40 => c.level
  | 0x41 => r.tvec.toNat
  | 0x42 => x.cause.toNat
  | 0x43 => x.epc.toNat
  | 0x44 => x.tval.toNat
  | 0x45 => x.eact.toNat
  | 0x46 => x.eslot.toNat
  | 0x47 => x.hdb.toNat
  | 0x48 => r.hasid.toNat
  | 0x49 => r.fpool.toNat
  | 0x4A => r.fpn.toNat
  | 0x4B => r.fpacc.toNat
  | 0x4C => r.rasfa.toNat
  | 0x4D => if isAtt c.die then 0 else r.rcfg.toNat
  | 0x4E => r.ctxbase.toNat
  | 0x4F => r.rslotc.toNat
  | 0x50 => r.stkpool.toNat
  | 0x51 => r.stkn.toNat
  | 0x52 => r.stksz.toNat
  | _ => 0

/-- Changes the die's registers. -/
def Cur.setDieRegs (c : Cur) (f : DieRegs → DieRegs) : Cur :=
  c.mapS fun s => s.updDie c.die fun d => { d with regs := f d.regs }
/-- Changes the sequencer's registers. -/
def Cur.setSeqx (c : Cur) (f : Seq → Seq) : Cur := c.mapS fun s => s.updSeq c.die c.q f

/-- Fetch-ahead errors since the last look raise `%rasfa` by a free amount (R340, log entry 23). -/
def Cur.fetchAhead (c : Cur) : Cur :=
  (c.setDieRegs fun r => { r with rasfa := BitVec.ofNat 32 (Nat.min 0xFFFF_FFFF (r.rasfa.toNat + Config.freeNat c.s.free)) }).mapS
    State.tick

/-- GETS (R72, R73). -/
def execGets (g : Guard) (b : IBody) (s : State) : Host.Outcome State Fault Refusal :=
  issue false true s fun c => guarded c g <|
    let n := b.imm.toNat % 256
    atLevel c (if 0x40 ≤ n then 1 else 0) <|
      let c := if n = 0x4C then c.fetchAhead else c
      if sregWidth n = some 64 then .ok (c.putPair b.dst.toNat 1 (BitVec.ofNat 64 (c.sreg n)) false)
      else needRoom c b.dst.toNat 1 (.ok (c.putS b.dst.toNat 1 (BitVec.ofNat 32 (c.sreg n)) false))

/-- A register that `SETS` may not write (R71, R334). -/
def sregRO (n : Nat) : Bool :=
  decide (n ≤ 0x0B) || n == 0x0E || n == 0x0F || n == 0x40 || n == 0x42 || n == 0x44 || n == 0x46 || n == 0x4F
/-- A register written at firmware level only (R334). -/
def sregFirm (n : Nat) : Bool :=
  n == 0x41 || (decide (0x48 ≤ n) && decide (n ≤ 0x4B)) || n == 0x4D || n == 0x4E || decide (0x50 ≤ n)

/-- A value with its low `k` bits and its bits from `hi` up cleared (reserved bits, R4). -/
def clip (v k hi : Nat) : Nat := v % 2 ^ hi / 2 ^ k * 2 ^ k

/-- `%rcfg` after a write (R271): h alone while the ring runs. -/
def rcfgWrite (old : Word) (formed : Bool) (v : Nat) : Word :=
  if formed then setField old 2 0 v else BitVec.ofNat 32 (v % 2 ^ 27 / 2 ^ 16 * 2 ^ 16 + v % 2 ^ 15 / 2 ^ 4 * 2 ^ 4 + v % 8)

/-- The die is in a ring that has been formed. -/
def State.inRing (s : State) (d : Nat) : Bool := s.rings.cells.any fun r => r.2.formed && hasNat r.2.dies d

/-- The write of a special register (R73, R334). Bits of `%fpool`, `%ctxbase` and `%stkpool` below their alignment are taken as
reserved bits and cleared (DESIGN CHOICE, log entry 159). -/
def Cur.writeSreg (c : Cur) (n v : Nat) : Cur :=
  match n with
  | 0x0C => c.mapCtx fun x => { x with st := { x.st with sp := BitVec.ofNat 64 v } }
  | 0x0D => c.mapRegs fun r => { r with plive := BitVec.ofNat 16 v }
  | 0x41 => c.setDieRegs fun r => { r with tvec := BitVec.ofNat 64 (clip v 3 55) }
  | 0x43 => c.setSeqx fun x => { x with epc := BitVec.ofNat 64 (clip v 3 64) }
  | 0x45 => c.setSeqx fun x => { x with eact := BitVec.ofNat 32 (v % 4) }
  | 0x47 => c.setSeqx fun x => { x with hdb := x.hdb &&& ~~~(BitVec.ofNat 32 v) }
  | 0x48 => c.setDieRegs fun r => { r with hasid := BitVec.ofNat 32 (v % 512) }
  | 0x49 => c.setDieRegs fun r => { r with fpool := BitVec.ofNat 64 (clip v 14 64) }
  | 0x4A => c.setDieRegs fun r => { r with fpn := BitVec.ofNat 32 v }
  | 0x4B => c.setDieRegs fun r => { r with fpacc := BitVec.ofNat 64 v }
  | 0x4C => c.setDieRegs fun r => { r with rasfa := 0 }
  | 0x4D => if isAtt c.die then c
      else c.setDieRegs fun r => { r with rcfg := rcfgWrite r.rcfg (c.s.inRing c.die) v }
  | 0x4E => c.setDieRegs fun r => { r with ctxbase := BitVec.ofNat 64 (clip v 16 64) }
  | 0x50 => c.setDieRegs fun r => { r with stkpool := BitVec.ofNat 64 (clip v 6 64) }
  | 0x51 => c.setDieRegs fun r => { r with stkn := BitVec.ofNat 32 v }
  | 0x52 => c.setDieRegs fun r => { r with stksz := BitVec.ofNat 32 v }
  | _ => c

/-- SETS (R72, R73). The fault of a register that may not be written comes before its operand's need, and that of `%sp`'s low bits after
it (log entry 162). -/
def execSets (g : Guard) (b : IBody) (s : State) : Host.Outcome State Fault Refusal :=
  issue false true s fun c => guarded c g <|
    let n := b.imm.toNat % 256
    let wide := sregWidth n == some 64
    atLevel c (if 0x40 ≤ n then 1 else 0) <|
      if sregRO n then .trap 3 c.pc
      else if sregFirm n && decide (c.level < 2) then .trap 2 c.pc
      else withOps c (if wide then [] else [opI b]) fun l _ eat =>
        let v := if wide then (c.regs.getPair b.a.toNat).toNat else (nth l 0).toNat
        if n = 0x0C ∧ v % 8 ≠ 0 then .trap 3 c.pc else .ok (eat (c.writeSreg n v))

/-! ## The handler's forms -/

/-- The handler context ends (R343): the sequencer is free after the 8 cycles of a switch. -/
def State.endHandler (s : State) (d q : Nat) (clk : Nat) : State :=
  ({ s with insts := s.insts.del (handlerUid d q) }).updSeq d q fun x =>
    { x with running := none, trapped := none, clk := clk + 8, slice := clk + 8 }

/-- The trapped stream goes on at `pc` in its slot (R343), or re-enters a wait that `CTXLD` loaded (R352). -/
def State.resume (s : State) (d q u : Nat) (pc : Word64) : State :=
  let s := s.updInst u fun i => { i with ctx := { i.ctx with pc := pc } }
  match s.inst u with
  | none => s
  | some i =>
    if i.sched.wait = .none then
      (s.setInst u { i with sched := { i.sched with status := .running } }).updSeq d q fun x => { x with running := some u }
    else s.enterWait u

/-- The trapped stream is held in its most recent frame (R343, R346). -/
def State.hold (s : State) (u : Nat) (a : Word64) : State :=
  match s.inst u with
  | none => s
  | some i =>
    let s := s.leaveSlot u i
    s.setInst u { i with sched := { i.sched with status := .held, heldAt := some a.toNat, accTile := some i.tileNo } }

/-- The action of `ERET` on the trapped stream (R342, R343). -/
def Cur.eretAct (c : Cur) (i : Inst) : Nat :=
  let x := c.seqx
  let a := x.eact.toNat % 4
  if i.ex.surplus then 2
  else if fieldOf x.cause 9 8 = 1 ∧ a < 2 then 2
  else if a = 3 ∧ x.ctxsv.isNone then 2 else a

/-- ERET (R343). It waits for the handler's stores in other modules: a resumed instance finds them performed, and a `CTXSV` has
completed (R345, R374). A 32-byte word is skipped whole (R143); if the page of the word to skip is out, `ERET` waits for it. With no trapped stream there is nothing to end (log entry 41); a stream that has been ended while it was
trapped (R366) is gone. -/
def execEret (g : Guard) (_b : IBody) (s : State) : Host.Outcome State Fault Refusal :=
  issue false true s fun c => guarded c g <| atLevel c 1 <|
    let x := c.seqx
    match x.trapped with
    | none => .ok c
    | some u =>
      if !c.i.ctx.posted.isEmpty then .stall c else
      let s := (c.s.endHandler c.die c.q c.clk).advance c.die c.clk
      match c.s.inst u with
      | none => .done s
      | some i =>
        .done (match c.eretAct i with
          | 0 => s.resume c.die c.q u x.epc
          | 1 => (match Cur.instrLen { c with i := i } x.epc with
            | some n => s.resume c.die c.q u (x.epc + BitVec.ofNat 64 n)
            | none => c.pageWait x.epc.toNat i.who.asid 0)
          | 3 => s.hold u (x.ctxsv.getD 0)
          | _ => s.endInst u x.cause (!i.ex.surplus))

/-- WFI (R344). -/
def execWfi (g : Guard) (_b : IBody) (s : State) : Host.Outcome State Fault Refusal :=
  issue false true s fun c => guarded c g <| atLevel c 1 <| if c.seqx.hdb = 0 then .stall c else .ok c

/-- The trapped stream of the sequencer. -/
def Cur.trapped (c : Cur) : Option (Nat × Inst) := c.seqx.trapped.bind fun u => (c.s.inst u).map (u, ·)

/-- A failed translation of a frame's pages: the fault, or a wait for the walk or the page. -/
def Cur.frameFail (c : Cur) (va : Word64) (t : Tr) : Eff :=
  match t with
  | .transFault => .trap 0x0B va
  | .accFault => .trap 0x0C va
  | .noMem pa => .noMem pa
  | .miss => .stall c
  | _ => .stall (c.mapS fun s => (s.pageRequest va.toNat c.asid 0 c.die).1)

/-- Writes the frame of the trapped stream (R345, R347 to R351). The matrix words that it drains are in the frame alone: an `ERET`
with `%eact` 0 or 1 and no `CTXLD` goes on without them (DESIGN CHOICE, log entry 145). -/
def Cur.saveFrame (c : Cur) (va : Word64) (u : Nat) (i : Inst) : Eff :=
  let d := c.die
  let t := c.tile
  let x := c.s.deliverLocal i.ctx.prods.length i.ctx.landAll
  let c := { c with s := x.1 }
  let i := { i with ctx := { x.2 with pc := c.seqx.epc } }
  let need := (c.s.tile d t).eng.hasMatrix u
  let r := (c.s.endLease d t u).drain d t u (va.toNat + frameSize)
  let s := if need then r.1 else c.s.endLease d t u
  let dr := if need then r.2 else .empty
  let pg := pagesOf va.toNat (frameSize + 3072 * dr.m)
  match s.mapRange d c.asid .write pg.1 pg.2 with
  | (_, .error e) => c.frameFail va e
  | (s, .ok l) =>
    let c := ({ c with s := s }.writeVia l va.toNat (s.frameFields u i dr)).writeVia l (va.toNat + frameSize) (s.rowFields d t dr)
    let i := if dr.cmds.isEmpty then i else { i with sched := { i.sched with saved := dr.cmds } }
    .ok ((c.mapS fun s => { s with phys := { s.phys with
        frames := s.phys.frames.put (viaPages l va.toNat) (tileKey d t) } }.setInst u i).setSeqx fun x =>
      { x with ctxsv := some (BitVec.ofNat 64 (viaPages l va.toNat)) })

/-- CTXSV (R345). A producer of another module or an extent that is still pending must deliver first (R347). -/
def execCtxsv (g : Guard) (b : IBody) (s : State) : Host.Outcome State Fault Refusal :=
  issue false true s fun c => guarded c g <| atLevel c 1 <|
    let va := c.regs.getPair b.a.toNat
    if va.toNat % 256 ≠ 0 then .trap 0x0A va
    else match c.trapped with
      | none => .ok c
      | some (u, i) => if i.ctx.parkWaits then .stall c else c.saveFrame va u i

/-- The frame may not be loaded (R346). -/
def Cur.frameRefused (c : Cur) (i : Inst) (pa : Nat) (rd : Nat → Nat → Nat) : Bool :=
  frameBad rd || (framePending rd && (rd 0x20 4 != i.who.task.toNat || rd 0x24 4 != i.who.blk.toNat)) ||
    (rd 0 4 / 2 ^ 16 % 2 == 1 && (match c.s.phys.frames.find pa with
      | some k => k != tileKey c.die c.tile
      | none => false))

/-- Loads a frame into the trapped stream (R346, R352); `rows` reads its saved rows. A saved word whose descriptors lie on a page that is out makes the
instruction wait. -/
def Cur.loadFrame (c : Cur) (u : Nat) (i : Inst) (rd : Nat → Nat → Nat) (rows : Nat → Nat → Nat) : Eff :=
  let j := c.s.settleConf (i.restore rd)
  let j := { j with sched := { j.sched with wait := frameWait rd } }
  let s := c.s.setInst u j
  let s := s.loadCohort u j (rd 0x34 1)
  match s.restoreWords c.die c.tile u j j.who.asid rd rows with
  | .ok s () =>
    let s := s.updInst u fun x => { x with sched := { x.sched with saved := [] } }
    .ok (({ c with s := s }).setSeqx fun x => { x with epc := BitVec.ofNat 64 (rd 8 8) })
  | .wait _ va => .stall (c.mapS fun s => s.pageAsk va j.who.asid c.die)
  | .err _ _ => .stall c
  | .noMem pa => .noMem pa

/-- CTXLD (R346). -/
def execCtxld (g : Guard) (b : IBody) (s : State) : Host.Outcome State Fault Refusal :=
  issue false true s fun c => guarded c g <| atLevel c 1 <|
    let va := c.regs.getPair b.a.toNat
    if va.toNat % 256 ≠ 0 then .trap 0x0A va
    else match c.trapped with
      | none => .ok c
      | some (u, i) =>
        let x := c.s.deliverLocal i.ctx.prods.length i.ctx.landAll
        let c := { c with s := x.1 }
        let i := { i with ctx := { x.2 with pc := i.ctx.pc } }
        let pg := pagesOf va.toNat frameSize
        match c.s.mapRange c.die c.asid .read pg.1 pg.2 with
        | (_, .error e) => c.frameFail va e
        | (s, .ok l) =>
          let c := { c with s := s }
          let rd := s.virtRd l va.toNat
          if c.frameRefused i (viaPages l va.toNat) rd then .trap 0x43 va
          else if rd 0 4 / 2 ^ 16 % 2 = 1 ∧ rd 0x35C 4 ≠ 0 then
            let ra := rd 0x368 8
            let rp := pagesOf ra (3072 * Nat.min 512 (rd 0x35C 4))
            match s.mapRange c.die c.asid .read rp.1 rp.2 with
            | (_, .error e) => c.frameFail (BitVec.ofNat 64 ra) e
            | (s, .ok rl) => ({ c with s := s.tickPages (l ++ rl) }).loadFrame u i rd (s.virtRd rl ra)
          else ({ c with s := s.tickPages l }).loadFrame u i rd fun _ _ => 0

/-! ## TLBINV (R376, R377) -/

/-- The dies of a reach. -/
def reachDies (die : Nat) (dev : Bool) : List Nat := if dev then List.range 20 else [die]
/-- The address of an access that a producer still makes, when the entry covers it. -/
def TlbEntry.physCovers (e : TlbEntry) (pa : Nat) : Bool := e.pa / 2 ^ e.sz == pa / 2 ^ e.sz
/-- The producer may have been issued under one of the entries: it reads memory that they cover, or its load has been performed
and not delivered. -/
def Producer.under (p : Producer) (gone : List TlbEntry) : Bool :=
  match p.src with
  | .mem pa _ _ => gone.any (·.physCovers pa)
  | .lanes _ ls => ls.any fun l => match l with
    | .mem pa => gone.any (·.physCovers pa)
    | .val _ => true
    | .poisoned _ _ => true
    | _ => false
  | .known _ => true
  | .poisoned _ _ => true
  | _ => false
/-- Removes the entries that `f` names on a die; loads of this module issued under them are performed and delivered first
(R377); the lanes of a load that waits for another module are performed. -/
def State.tlbDrop (s : State) (d : Nat) (f : TlbEntry → Bool) : State :=
  let gone := (s.die d).tlb.filter f
  let s := (s.instsOn d).foldl (fun s p =>
    let c := s.capture p.2.ctx fun q => q.src.isSpan && q.under gone
    let r := s.deliverSome (·.under gone) c.prods.length c
    r.1.setInst p.1 { p.2 with ctx := r.2 }) s
  s.updDie d fun x => { x with tlb := x.tlb.filter fun e => !f e }
/-- An access of another module that was made under an entry that `f` names on a die, by a stream or an engine, has not been
answered (R377). -/
def State.tlbOpen (s : State) (d : Nat) (f : TlbEntry → Bool) : Bool :=
  let gone := (s.die d).tlb.filter f
  s.ports.sent.cells.any fun m => m.2.die == d && gone.any (·.physCovers m.2.addr)

/-- `TLBINV` (R376, R377) with the operands `ops` (what a form ignores it does not read, log entry 155): kind 1 a page, 2 an ASID, 3 all. It waits until the accesses of other modules made under what it
covers and the handler's own remote loads have been answered; every other one is performed in its step. Its completion is a release. -/
def tlbinvOp (g : Guard) (b : RBody) (ops : List Opnd) (dev : Bool) (f : Nat → Nat → TlbEntry → Bool) (s : State) :
    Host.Outcome State Fault Refusal :=
  issue false true s fun c => guarded c g <| atLevel c 1 <| withOps c ops fun l _ eat => afterAcquire c <|
    let va := (c.regs.getPair b.a.toNat).toNat
    let asid := (nth l 0).toNat % 512
    if c.i.ctx.remoteOpen || (reachDies c.die dev).any fun d => c.s.tlbOpen d (f asid va) then .stall c else
    let c1 := eat c
    let r := c1.s.deliverLocal c1.i.ctx.prods.length c1.i.ctx
    let c1 := { c1 with s := r.1, i := { c1.i with ctx := r.2 } }
    let c1 := c1.mapOrd (·.relFence (if dev then 3 else 2))
    .ok (c1.mapS fun _ => (reachDies c.die dev).foldl (fun s d => s.tlbDrop d (f asid va)) c1.save)

/-- TLBINV.PAGE (R376). -/
def execTlbinvPage (g : Guard) (b : RBody) (dev : Bool) (s : State) : Host.Outcome State Fault Refusal :=
  tlbinvOp g b [opB b] dev (fun a va e => e.covers a va) s
/-- TLBINV.ASID (R376). -/
def execTlbinvAsid (g : Guard) (b : RBody) (dev : Bool) (s : State) : Host.Outcome State Fault Refusal :=
  tlbinvOp g b [opB b] dev (fun a _ e => e.asid == a) s
/-- TLBINV.ALL (R376). -/
def execTlbinvAll (g : Guard) (b : RBody) (dev : Bool) (s : State) : Host.Outcome State Fault Refusal :=
  tlbinvOp g b [] dev (fun _ _ _ => true) s

/-! ## The tag table (R408, R409) -/

/-- Reserved bits of a tag-table image are nonzero (R272): those the table leaves out, and the fields that must be zero. -/
def tagBad (b : BitVec 256) : Bool :=
  fieldOf b 2 0 != 0 || fieldOf b 63 55 != 0 || fieldOf b 69 64 != 0 || fieldOf b 255 142 != 0 ||
    (fieldOf b 129 129 == 0 && fieldOf b 135 130 != 0)

/-- RTABW (R409). -/
def execRtabw (g : Guard) (b : RBody) (s : State) : Host.Outcome State Fault Refusal :=
  issue false true s fun c => guarded c g <| atLevel c 2 <| withOps c [opB b] fun l _ eat => afterAcquire c <|
    let v := (nth l 0).toNat
    let asid := v / 2 ^ 20 % 512
    let n := v % 2 ^ 20
    let ring := (c.s.die c.die).ring
    let va := c.regs.getPair b.a.toNat
    if v / 2 ^ 29 ≠ 0 then .trap 0x17 c.pc
    else if c.s.asidPart asid ≠ c.s.partOf c.die then .trap 0x0C c.pc
    else if ring.winLen asid ≤ n then .trap 0x17 c.pc
    else access c va 32 .read fun pa =>
      if !isSpan pa && c.s.badAt pa 32 then eccAbort c pa
      else
        let img := BitVec.ofNat 256 (c.readAny pa 32)
        if tagBad img then .trap 0x17 c.pc
        else .ok (eat ((c.mapS State.tick).mapS fun s => s.updRing c.die fun r =>
          { r with tagTab := r.tagTab.set 0 (r.winBase asid + n) img }))

/-- A window meets the window of another ASID (R409); one without entries meets none. -/
def RingSide.winMeets (r : RingSide) (asid base len : Nat) : Bool :=
  r.tagWin.keys.any fun a => a != asid && decide (0 < len) && decide (0 < r.winLen a) && decide (base < r.winBase a + r.winLen a) && decide (r.winBase a < base + len)

/-- RTABW.WIN (R409). -/
def execRtabwWin (g : Guard) (b : RBody) (s : State) : Host.Outcome State Fault Refusal :=
  issue false true s fun c => guarded c g <| atLevel c 2 <| withOps c [opB b] fun l _ eat =>
    let v := (nth l 0).toNat
    let asid := v % 512
    let w := c.regs.getPair b.a.toNat
    let base := fieldOf w 15 0
    let len := fieldOf w 32 16
    if v / 512 ≠ 0 || fieldOf w 63 33 ≠ 0 || 65536 < base + len || (c.s.die c.die).ring.winMeets asid base len then
      .trap 0x17 c.pc
    else if c.s.asidPart asid ≠ c.s.partOf c.die then .trap 0x0C c.pc
    else .ok (eat (c.mapS fun s => s.updRing c.die fun r => { r with tagWin := r.tagWin.set 0 asid w }))

/-! ## The shape predictor (R305 to R307) -/

/-- A reset entry: owned by the ASID, all else zero (R306). -/
def predReset (asid : Nat) : BitVec 128 := BitVec.ofNat 128 (2 ^ 66 + asid % 512 * 2 ^ 71)
/-- The entry belongs to the ASID. -/
def predOwned (e : BitVec 128) (asid : Nat) : Bool := fieldOf e 66 66 == 1 && fieldOf e 79 71 == asid
/-- The prediction (R306). -/
def predict (e : BitVec 128) : Nat :=
  let h (k : Nat) : Nat := fieldOf e (16 * k + 15) (16 * k)
  match fieldOf e 65 64 with
  | 0 => h 0
  | 1 => Nat.max (Nat.max (h 0) (h 1)) (Nat.max (h 2) (h 3))
  | 2 => Nat.min (h 0 + fieldOf e 95 80) 65535
  | _ => 65535
/-- Word `k` of an entry (R305). -/
def predWord (e : BitVec 128) (k : Nat) : Word :=
  if k = 3 then BitVec.ofNat 32 (predict e) else BitVec.ofNat 32 (fieldOf e (32 * k + 31) (32 * k))
/-- Word `k` written, the RO fields kept (R307). -/
def predSet (e : BitVec 128) (k v : Nat) : BitVec 128 :=
  match k with
  | 0 => setField e 31 0 v
  | 1 => setField e 63 32 v
  | 2 => setField (setField e 65 64 v) 95 80 (v / 2 ^ 16)
  | _ => e
/-- The confirmed extent enters the history (R306). -/
def predShift (e : BitVec 128) (ext : Nat) : BitVec 128 := setField (setField e 63 16 (fieldOf e 47 0)) 15 0 ext

/-- `SPTW` and `SPTW.RD` (R307): the word at issue + 2. -/
def sptwOp (g : Guard) (b : RBody) (write : Bool) (s : State) : Host.Outcome State Fault Refusal :=
  issue false true s fun c => guarded c g <| withOps c (if write then [opA b, opB b] else [opA b]) fun l t eat =>
    needRoom c b.dst.toNat 1 <|
      let n := (nth l 0).toNat % 64
      let k := (nth l 0).toNat / 64 % 4
      let e := (c.s.die c.die).sch.predictor.get 0 n
      let e := if predOwned e c.asid then e else predReset c.asid
      let e' := if write then predSet e k (nth l 1).toNat else e
      let c1 := c.mapS fun s => s.updSch c.die fun x => { x with predictor := x.predictor.set 0 n e', tableOp := (c.clk, 1, c.q) }
      .ok (eat (c1.putS b.dst.toNat 2 (predWord e k) t))

/-- SPTW (R307). -/
def execSptw (g : Guard) (b : RBody) (s : State) : Host.Outcome State Fault Refusal := sptwOp g b true s
/-- SPTW.RD (R307). -/
def execSptwRd (g : Guard) (b : RBody) (s : State) : Host.Outcome State Fault Refusal := sptwOp g b false s

end Sys2Proof.Machine
end

