-- ==== Sys2Proof/Machine/Deliver.lean ====
section
/-! DEFINITION. The delivery of variable-latency results (R55, R60, R190 to R202) and the acknowledgement of posted
stores (R195, R259). -/

namespace Sys2Proof.Machine

/-- The bytes that a source still reads: address and count. -/
def ProdSrc.spots : ProdSrc → List (Nat × Nat)
  | .mem pa n _ => [(pa, n)]
  | .lanes f ls => ls.filterMap fun l => match l with
      | .mem a => some (a, fmtBytes f)
      | _ => none
  | _ => []

/-- The entries that the bytes of a remote load become (R190, R200). -/
def spanEntries (f : LoadForm) (v : Nat) : List Word :=
  match f with
  | .elem fmt => [putElem fmt v]
  | f => loadEntries f v

/-- Earlier loads of the same bytes are performed first (R253). -/
def State.captureBefore (s : State) (c : Ctx) (k : Nat) (spots : List (Nat × Nat)) : Ctx :=
  let r := s.performAll (fun p => spots.any fun x => p.src.meets x.1 x.2) (c.prods.take k) c.ord
  { c with prods := r.2 ++ c.prods.drop k, ord := r.1 }

/-! What another module answers to a load or atomic of `n` bytes is a number `ext`: its low `8 n` bits are the value that the home
gives, the next `n` bits say which bytes come from a write later than the stream's own, and the next two whether the value was read from a
release sequence that this module heads (1), from a release at sys scope of the module that holds the location (2), or from neither. -/

/-- The value that the stream takes from the answer: its own store where no later write stands (R192, R259). -/
def answerVal (n ext : Nat) (own : List (Nat × Nat)) : Nat :=
  overlay (ext % 256 ^ n) (own.filter fun o => ext / 256 ^ n / 2 ^ o.1 % 2 == 0)
/-- The release sequences that the answer was read from (R249, R250). -/
def State.answerHeads (s : State) (m : SpanMsg) (ext : Nat) : List Head :=
  match ext / 256 ^ m.bytes / 2 ^ m.bytes % 4 with
  | 1 => s.headsAt m.addr m.bytes
  | 2 =>
    let k := m.addr / 2 ^ 44 % 128
    headOf (modulePos k) 4 (s.ports.views.get .init k).view
  | _ => []

/-- The first lane that still waits for another module takes the answer (R201, R384). -/
def answerLane (f ext : Nat) : List LaneSrc → List LaneSrc
  | [] => []
  | .span _ own :: t => .val (putElem f (answerVal (fmtBytes f) ext own)) :: t
  | l :: t => l :: answerLane f ext t
/-- The message of the first lane that still waits for another module. -/
def laneMsg (ls : List LaneSrc) : Option Nat := ls.findSome? fun l => match l with
  | .span m _ => some m
  | _ => none

/-- The answer `ext` to message `msg` of a stream's producer has come (R384): the stream has read from its sequences. -/
def State.answered (s : State) (msg uid ext : Nat) (i : Inst) (p : Producer) (f : SpanMsg → Ctx → Ctx) :
    Host.Outcome State Fault Refusal :=
  match s.ports.sent.find msg with
  | none => notEnabled "QUEUE_DELIVERY"
  | some m =>
    let c := { i.ctx with ord := i.ctx.ord.readFrom (s.answerHeads m ext) p.scope p.ldc }
    let s := { s with ports := { s.ports with sent := s.ports.sent.del msg } }
    .next (s.setInst uid { i with ctx := f m c })

/-- Delivers producer `idx` of a stream, which this module performs now (R55). -/
def State.deliverNow (s : State) (uid idx : Nat) (i : Inst) (p : Producer) : State :=
  let r := s.giveNow (s.captureBefore i.ctx idx p.src.spots) idx p
  r.1.setInst uid { i with ctx := r.2 }

/-- QUEUE_DELIVERY (R55): the result of producer `idx` of a stream fills its positions; a load of this module is
performed now. `ext` is what the home of another module answered, as above; a global `LDV` takes one such answer for each lane.
A chain's status comes with CHAIN_COMPLETE, and `SHAPE` delivers no extent before its record is confirmed (R304). -/
def execQueueDelivery (uid idx ext : Nat) (s : State) : Host.Outcome State Fault Refusal :=
  match s.inst uid with
  | none => notEnabled "QUEUE_DELIVERY"
  | some i =>
    match i.ctx.prods[idx]? with
    | none => notEnabled "QUEUE_DELIVERY"
    | some p =>
      match p.src with
      | .chain _ => notEnabled "QUEUE_DELIVERY"
      | .span msg form own =>
        s.answered msg uid ext i p fun m c => c.deliver idx (spanEntries form (answerVal m.bytes ext own)) 0
      | .lanes f ls =>
        match laneMsg ls with
        | some msg => s.answered msg uid ext i p fun _ c =>
            { c with prods := c.prods.set idx { p with src := .lanes f (answerLane f ext ls) } }
        | none => .next (s.deliverNow uid idx i p)
      | .extent _ => if i.ex.unconf then notEnabled "QUEUE_DELIVERY" else .next (s.deliverNow uid idx i p)
      | _ => .next (s.deliverNow uid idx i p)

/-- A pending load of the stream, or the first lane of a global `LDV` that the old value holds, returns old value `k` (R253): the
model's own move. It is allowed when nothing newer is
carried to the load, no earlier load of those bytes is pending, and the old value holds the load's bytes. -/
def State.stale (s : State) (uid idx k : Nat) : Host.Outcome State Fault Refusal :=
  match (s.inst uid).bind fun i => i.ctx.prods[idx]?.map (i, ·), s.phys.relaxed.olds.find k with
  | some (i, p), some v =>
    match p.src with
    | .mem pa n form =>
      let bytes := v.val / 256 ^ (pa - v.pa)
      let ws := match form with
        | .elem f => [putElem f bytes]
        | f => loadEntries f bytes
      if v.pa ≤ pa ∧ pa + n ≤ v.pa + v.n ∧ i.ctx.ord.mayRead k p.byTaint ∧
          (i.ctx.prods.take idx).all fun e => !e.src.meets pa n then
        let c := { i.ctx with ord := s.readsOld i.ctx.ord k v p.scope p.ldc,
                              prods := i.ctx.prods.set idx { p with src := .known ws } }
        .next (s.setInst uid { i with ctx := c })
      else notEnabled "STALE_READ"
    | .lanes f ls =>
      let n := fmtBytes f
      match ls.findIdx? fun l => match l with
          | .mem pa => decide (v.pa ≤ pa) && decide (pa + n ≤ v.pa + v.n) && (i.ctx.prods.take idx).all fun e => !e.src.meets pa n
          | _ => false with
      | none => notEnabled "STALE_READ"
      | some j =>
        if i.ctx.ord.mayRead k p.byTaint then
          let w := match ls.getD j .off with
            | .mem pa => putElem f (v.val / 256 ^ (pa - v.pa))
            | _ => 0
          let c := { i.ctx with ord := s.readsOld i.ctx.ord k v p.scope p.ldc,
                                prods := i.ctx.prods.set idx { p with src := .lanes f (ls.set j (.val w)) } }
          .next (s.setInst uid { i with ctx := c })
        else notEnabled "STALE_READ"
    | _ => notEnabled "STALE_READ"
  | _, _ => notEnabled "STALE_READ"

/-- A posted store is no longer waited for by its stream, engine command, packet, application core or device (R195, R220, R248, R259,
R361). -/
def State.dropPosted (s : State) (msg : Nat) : State :=
  let s := { s with insts := s.insts.mapVals fun _ i =>
    { i with ctx := { i.ctx with posted := dropNat i.ctx.posted msg } } }
  let s := s.updHost fun h => { h with agentPosted := h.agentPosted.mapAll [] fun l => dropNat l msg }
  let s := s.updHost fun h => { h with queues := h.queues.mapAll GQueue.init fun g =>
    { g with open_ := g.open_.map fun p => { p with posted := dropNat p.posted msg, late := dropNat p.late msg } } }
  s.tiles.keys.foldl (fun s k => { s with tiles := s.tiles.upd Tile.init k fun t =>
    { t with eng := { t.eng with running := t.eng.running.map fun r => { r with posted := dropNat r.posted msg } } } }) s

/-- POSTED_STORE_ACK (R195, R259): the remote home has performed the store, or a packet's `AADD` (R361). -/
def execPostedStoreAck (msg : Nat) (s : State) : Host.Outcome State Fault Refusal :=
  match s.ports.sent.find msg with
  | none => notEnabled "POSTED_STORE_ACK"
  | some m =>
    if m.op = 2 ∨ (m.op = 1 ∧ m.uid.isSome) then notEnabled "POSTED_STORE_ACK"
    else .next ({ s with ports := { s.ports with sent := s.ports.sent.del msg } }.dropPosted msg)

end Sys2Proof.Machine
end

