-- ==== Sys2Proof/Machine/Accept.lean ====
section
/-! DEFINITION. From the launch queue to the blocks: validation (R21, R24, R151, R294, R301), acceptance (R31 to R33,
R295, R296, R306), confirmation (R298, R299, R303) and tails (R300). -/

namespace Sys2Proof.Machine

/-- A field of a record image (R24). -/
def Image.f (r : Image) (hi lo : Nat) : Nat := fieldOf r.bits hi lo
/-- The address is not one of 55 bits aligned to `n` (R85, R294). -/
def addrBad (a n : Nat) : Bool := a % n != 0 || a / 2 ^ 55 != 0

/-! ## Validation -/

/-- The reserved fields of a descriptor, those of unused declarations left out (R20, R21). -/
def descReserved (b : BitVec 1024) : Bool :=
  fieldOf b 159 143 != 0 || fieldOf b 199 198 != 0 || fieldOf b 223 213 != 0 || fieldOf b 383 340 != 0 ||
    fieldOf b 1023 960 != 0 ||
    (List.range (fieldOf b 138 136)).any fun k => b.toNat / 2 ^ (384 + 128 * k + 98) % 2 ^ 30 != 0

/-- A used range is bad (R21): mode 0 or length 0. -/
def rangesBad (b : BitVec 1024) : Bool :=
  (List.range (fieldOf b 138 136)).any fun k =>
    let v := b.toNat / 2 ^ (384 + 128 * k)
    v / 2 ^ 96 % 4 == 0 || v / 2 ^ 64 % 2 ^ 32 == 0

/-- The used handles of a descriptor. -/
def descHandles (b : BitVec 1024) : List Nat :=
  (List.range (fieldOf b 135 133)).map fun k => fieldOf b (271 + 16 * k) (256 + 16 * k)

/-- The tile of a tile buffer of an ASID on a die (R21, R29): its descriptor is valid and its allocation lives. -/
def State.bufferTile (s : State) (d asid h : Nat) : Option Nat :=
  if h < 0x8000 || decide (0xFFFE < h) then none
  else match s.feRead asid (s.asidDtab asid + 64 * h) 1 with
    | (_, .ok v) => if v / 8 % 2 = 1 then (s.allocOf d asid h).map (·.1) else none
    | (_, .error _) => none

/-- The handles do not all name buffers of one tile (R21). -/
def State.handlesBad (s : State) (d asid : Nat) (b : BitVec 1024) : Bool :=
  let ts := (descHandles b).map (s.bufferTile d asid)
  ts.any (·.isNone) || ts.any fun t => t != ts.headD none

/-- The descriptor fails R21. -/
def State.descRejected (s : State) (d asid : Nat) (b : BitVec 1024) : Bool :=
  addrBad (fieldOf b 63 0) 8 || decide (4 < fieldOf b 135 133) || decide (4 < fieldOf b 138 136) || rangesBad b ||
    s.handlesBad d asid b ||
    (fieldOf b 131 131 == 1 && (!s.inWindow asid (fieldOf b 207 200) || decide (tilesOf d ≤ fieldOf b 212 208))) ||
    !s.asidValid asid || s.asidPart asid != s.partOf d || descReserved b

/-- The image names its launch by the wrong form (R24, R151): `LAUNCH` writes no predicted record, `LAUNCH.P` no other. -/
def Image.formBad (r : Image) : Bool :=
  let p := r.f 109 109 == 1
  (!p && (r.f 191 128 != 0 || r.f 255 192 != 0)) || (r.byP && !p) || (!r.byP && r.pkt.isNone && p)

/-- The completion or the cont of an image fails R24. -/
def State.imageRejected (s : State) (d : Nat) (r : Image) : Bool :=
  (r.f 108 108 == 1 && (!s.inWindow r.asid (r.f 107 100) || decide (tilesOf d ≤ 16 * r.f 110 110 + r.f 99 96))) ||
    (r.f 127 112 != 0xFFFF && (match s.recOf d (r.f 127 112) with
      | some t => t.asid != r.asid || t.retired || t.ended
      | none => true)) || r.formBad

/-- What a predicted record needs at acceptance (R294, R295, R301): address and value of its cell, physical address
of its arena block (0 for none) with base, capacity and unit. -/
structure PredFacts where
  cellPa : Nat
  cell : Nat
  arenaPa : Nat
  arena : Nat × Nat × Nat

/-- The arena block at `pa` fails R301. -/
def arenaBad (v : Nat) : Bool :=
  let cap := v / 2 ^ 64 % 2 ^ 32
  let unit := v / 2 ^ 96 % 2 ^ 32
  addrBad (v % 2 ^ 64) 65536 || cap == 0 || decide (65536 < cap) || unit % 64 != 0 || decide (unit < 64) ||
    decide (cap * 65536 < unit) || v / 2 ^ 139 % 2 == 1 || v / 2 ^ 140 % 16 != 0 || v / 2 ^ 160 != 0

/-- The arena of an image (R301): `none` rejects. -/
def State.arenaFacts (s : State) (d asid va : Nat) : State × Option (Nat × Nat × Nat × Nat) :=
  if va = 0 then (s, some (0, 0, 0, 0))
  else if addrBad va 64 then (s, none)
  else match s.resolve d asid va .both with
    | (s, .ok pa) =>
      let home : Home := if isAtt d then .hbm d else .dieMem d
      let v := s.readPa pa 64
      if isSpan pa || s.homeOf pa != some home || arenaBad v then (s, none)
      else (s, some (pa, v % 2 ^ 64, v / 2 ^ 64 % 2 ^ 32, v / 2 ^ 96 % 2 ^ 32))
    | (s, _) => (s, none)

/-- The facts of a predicted image (R294): `none` rejects. -/
def State.predFacts (s : State) (d : Nat) (r : Image) : State × Option PredFacts :=
  let ey := r.f 95 80
  let sh := r.f 191 128
  if (ey != 1 && (decide (ey < 0x8000) || decide (0x803F < ey))) || sh == 0 || addrBad sh 8 then (s, none)
  else match s.resolve d r.asid sh .read with
    | (s, .ok pa) =>
      if isSpan pa then (s, none)
      else
        let v := s.readPa pa 8
        if v / 2 ^ 33 % 2 = 1 then (s, none)
        else match s.arenaFacts d r.asid (r.f 255 192) with
          | (s, some a) => (s, some ⟨pa, v, a.1, a.2⟩)
          | (s, none) => (s, none)
    | (s, _) => (s, none)

/-! ## Acceptance -/

/-- The packet of an image counts it as accepted under a number, or as rejected (R361). -/
def State.packetTake (s : State) (r : Image) (d : Nat) (n : Option Nat) : State :=
  match r.queue, r.pkt with
  | some q, some no => s.updQueue q fun g =>
      { g with open_ := g.open_.map fun p =>
          if p.key = no then
            { p with inq := p.inq - 1, recs := match n with
                | some k => p.recs ++ [(d, k)]
                | none => p.recs }
          else p }
  | _, _ => s

/-- A record is rejected (R21): error record 0x01, nothing else. -/
def State.rejectLaunch (s : State) (d : Nat) (r : Image) (why : Nat) : State :=
  (s.err r.queue 1 r.asid d 31 (r.f 63 0) (Config.errInfo 1 [why])).packetTake r d none

/-- Block `b` of a record as it is created (R22, R24, R296). -/
def Rec.blockInst (r : Rec) (d n b : Nat) (unconf : Bool) (tile : Option Nat) : Inst :=
  let pred := r.i 109 109 == 1
  let (base, cap, unit) := r.arena
  let lo : Word := BitVec.ofNat 32 (r.d 927 896)
  let hi : Word := BitVec.ofNat 32 (r.d 959 928)
  let ext := if pred then r.ep + 2 ^ 16 else r.i 79 64 + r.i 95 80 * 2 ^ 16
  let entry : Word64 := BitVec.ofNat 64 (r.d 63 0)
  Inst.fresh
    { who := ⟨.block, 0, r.asid, d, BitVec.ofNat 32 n, BitVec.ofNat 32 b, BitVec.ofNat 32 ext, 0, some n, r.queue, r.d 129 128⟩
      ctx := Ctx.init entry 0
      range := ⟨lo, hi, true, lo, hi, false⟩
      sched := ⟨.accepted, none, 0, 0, 0, 0, false, .none, 0, false, none, none, none, tile, false, [], false, false, none, [],
        none⟩
      coh := none
      ex := ⟨pred, unconf, false, none, none, false, 0, BitVec.ofNat 64 (r.d 127 64), 0, entry, r.d 197 192, false,
        (base + b * unit, base + (b + 1) * unit), decide (cap * 65536 < (b + 1) * unit), r.i 255 192⟩ } 0

/-- The tile that a record's blocks must run on (R29). -/
def State.recTile (s : State) (d : Nat) (r : Rec) : Option Nat :=
  r.handles.head?.bind fun h => (s.allocOf d r.asid h).map (·.1)

/-- Creates blocks `first` to `first + count - 1` of record `n` (R24, R300). -/
def State.makeBlocks (s : State) (d n first count : Nat) (unconf : Bool) : State :=
  match s.recOf d n with
  | none => s
  | some r =>
    let t := s.recTile d r
    let u := s.nextUid
    let s := (List.range count).foldl (fun s k =>
      s.setInst (u + k) (r.blockInst d n (first + k) unconf t)) { s with nextUid := u + count }
    let s := s.setRec d n { r with live := r.live ++ (List.range count).map (u + ·) }
    if r.started then (List.range count).foldl (fun s k => s.updInst (u + k) fun i => i.makeReady (s.die d).cyc r.rels) s
    else s.checkRec d n

/-- What the confirmation of a record with this cell releases at die scope, having acquired the `FILL` of the cell (R298). -/
def State.confirmHead (s : State) (d cell : Nat) : List Head :=
  headOf (diePos d) 2 (gives (s.headsAt cell 8) (diePos d) 3)
/-- The record of an accepted image (R31, R32); its blocks acquire its launch (R248), and with a full cell the `FILL` that confirmed it
at its acceptance (R295, R298, R312). -/
def State.newRec (s : State) (d : Nat) (r : Image) (desc : BitVec 1024) (ep : Nat) (conf : Bool) (pa : Nat)
    (ar : Nat × Nat × Nat) : Rec :=
  { img := r.bits, desc := desc, asid := r.asid, queue := r.queue, pkt := r.pkt, order := (s.die d).sch.order,
    ctr := if fieldOf desc 130 130 = 1 then BitVec.ofNat 32 (fieldOf desc 191 160) else 0, presOk := false,
    started := false, live := [], ep := ep, confirmed := conf, arena := ar, shapePa := pa, tailDue := 0, ended := false,
    retired := false, holders := 0, rels := r.rel.toList ++ (if conf && pa != 0 then s.confirmHead d pa else []), out := [] }

/-- An accepted record enters its matcher under the lowest free number (log entry 12), its cont rises (R31), and its
blocks are created. -/
def State.enterRec (s : State) (d n : Nat) (img : Image) (r : Rec) (count : Nat) (unconf : Bool) : State :=
  let s := s.packetTake img d (some n)
  let s := s.updSch d fun x => { x with recs := x.recs.put n r, order := x.order + 1 }
  let s := if img.f 127 112 = 0xFFFF then s
    else s.updRec d (img.f 127 112) fun t => { t with ctr := t.ctr + 1, holders := t.holders + 1 }
  s.makeBlocks d n 0 count unconf

/-- Marks an arena block as claimed (R301): owner, claimed, alen. -/
def State.arenaMark (s : State) (pa n alen : Nat) : State :=
  if pa = 0 then s else s.writePa (pa + 16) 4 (n % 2048 + 2 ^ 11 + alen % 2 ^ 16 * 2 ^ 16)

/-- The predictor entry that an image names: reset if another ASID's, with E_p (R294, R306). -/
def State.takePrediction (s : State) (d : Nat) (r : Image) : State × Nat :=
  let ex := r.f 79 64
  let ey := r.f 95 80
  if ey = 1 then (s, ex)
  else
    let k := ey - 0x8000
    let e := (s.die d).sch.predictor.get 0 k
    if predOwned e r.asid then (s, Nat.min (predict e) ex)
    else (s.updSch d fun x => { x with predictor := x.predictor.set 0 k (predReset r.asid) }, ex)

/-- The confirmed extent enters the predictor entry that an image names, if it is still the ASID's (R306). -/
def State.updatePrediction (s : State) (d : Nat) (img : BitVec 256) (asid et : Nat) : State :=
  let ey := fieldOf img 95 80
  if ey = 1 then s
  else
    let k := ey - 0x8000
    let e := (s.die d).sch.predictor.get 0 k
    if predOwned e asid then s.updSch d fun x => { x with predictor := x.predictor.set 0 k (predShift e et) } else s

/-- An extent above 65,535 writes record 0x07 (R295). -/
def State.extentRecord (s : State) (d : Nat) (queue : Option Nat) (asid cellVa v : Nat) : State :=
  if v % 2 ^ 32 ≤ 65535 then s else s.err queue 7 asid d 31 cellVa (v % 2 ^ 32)

/-- Unmaps the pages of an arena at or above the trimmed length and returns them to the pool (R303); a page that is out has no
frame to return, and is asked for no longer. -/
def State.trimPages (s : State) (d asid : Nat) : Nat → Nat → State
  | _, 0 => s
  | p, n + 1 =>
    let s := match s.level3 asid (65536 * p) with
      | none => s
      | some epa =>
        let e := s.readPa epa 8
        if e % 2 = 1 then
          let s := (List.range 20).foldl (fun (s : State) x => s.tlbDrop x fun t => t.covers asid (65536 * p)) s
          (s.writePa epa 8 0).poolGive d asid (e / 2 ^ 16 % 2 ^ 36 * 2 ^ 16)
        else if e / 2 ^ 5 % 2 = 1 then s.writePa epa 8 0
        else s
    s.trimPages d asid (p + 1) n

/-- Bytes of a record's arena that stay at extent `et` (R303). -/
def Rec.trimLen (r : Rec) (et : Nat) : Nat := r.arena.2.2 * et
/-- The partial page of an arena trim is out (R303): the trim needs it, and waits for it (R354). -/
def State.trimOut (s : State) (r : Rec) (et : Nat) : Option Nat :=
  if r.i 255 192 = 0 ∨ r.trimLen et % 65536 = 0 then none
  else match s.level3 r.asid (r.arena.1 + r.trimLen et) with
    | some epa => if s.readPa epa 8 % 2 = 0 ∧ s.readPa epa 8 / 2 ^ 5 % 2 = 1 then some (r.arena.1 + r.trimLen et) else none
    | none => none
/-- The arena trim (R303). -/
def State.arenaTrim (s : State) (d : Nat) (r : Rec) (et : Nat) : State :=
  let va := r.i 255 192
  if va = 0 then s
  else
    let (base, cap, _) := r.arena
    let lb := r.trimLen et
    let s := match s.resolve d r.asid va .write with
      | (s, .ok pa) => s.writePa (pa + 18) 2 et
      | (s, _) => s
    let first := base / 65536 + (lb + 65535) / 65536
    let s := s.trimPages d r.asid first (base / 65536 + cap - first)
    if lb % 65536 = 0 then s
    else match s.level3 r.asid (base + lb) with
      | none => s
      | some epa =>
        let e := s.readPa epa 8
        if e % 2 = 1 then s.zeroPa (e / 2 ^ 16 % 2 ^ 36 * 2 ^ 16 + lb % 65536) (65536 - lb % 65536) else s

/-- A predicted image whose descriptor is good (R294 to R296): a full cell confirms it at acceptance, with the arena trim of every
confirmation (R303). A partial page that is out makes the record wait. -/
def State.acceptPred (s : State) (d n : Nat) (r : Image) (desc : BitVec 1024) (p : PredFacts) : State :=
  let t := (s.updSch d fun x => { x with tableOp := ((s.die d).cyc, 2, 0) }).takePrediction d r
  let full := cellFull p.cell
  let et := Nat.min (p.cell % 2 ^ 32) 65535
  let ep := if full then et else t.2
  let s := t.1.arenaMark p.arenaPa n ep
  let s := if full then s.arenaTrim d (s.newRec d r desc ep full p.cellPa p.arena) et else s
  let s := if full then (s.extentRecord d r.queue r.asid (r.f 191 128) p.cell).updatePrediction d r.bits r.asid et else s
  let s := s.enterRec d n r (s.newRec d r desc ep full p.cellPa p.arena) ep (!full)
  if full ∧ ep = 0 then s.recRetire d n else s

/-- The matcher of an ordered queue holds 64 unretired records (R33). -/
def State.matcherFull (s : State) (d oq : Nat) : Bool :=
  decide (64 ≤ ((s.die d).sch.recs.cells.filter fun p => !p.2.ended && p.2.d 142 139 == oq).length)
/-- A free record number (R24). -/
def State.freeRec (s : State) (d : Nat) : Option Nat :=
  (List.range 2048).find? fun n => ((s.die d).sch.recs.find n).isNone

/-- The tail record leaves the launch queue (R300): its blocks join their record. A tail whose ASID has lost its record or its place in
the die's partition since is rejected (R407): the blocks that it would have made are not made. -/
def State.acceptTail (s : State) (d n : Nat) : State :=
  match s.recOf d n with
  | none => s
  | some r =>
    let s := s.setRec d n { r with tailDue := 0 }
    if !s.asidValid r.asid || s.asidPart r.asid != s.partOf d then
      (s.err r.queue 1 r.asid d 31 (r.i 63 0) (Config.errInfo 1 [2])).recRetire d n
    else s.makeBlocks d n (r.ep - r.tailDue) r.tailDue false

/-- The head record of a die's launch queue, when it is no tail: rejected, accepted, or it waits (R24, R33). A record that fails
validation is rejected even while all numbers are in use or its matcher is full (DESIGN CHOICE, log entry 137). `q` is the state in which it still stands in the queue. -/
def State.acceptHead (s : State) (q : State) (d : Nat) (r : Image) : Host.Outcome State Fault Refusal :=
  let desc := r.f 63 0
  let wait : Host.Outcome State Fault Refusal := notEnabled "LAUNCH_RECORD_ACCEPT"
  if r.f 79 64 = 0 || r.f 95 80 = 0 || addrBad desc 128 then .next (s.rejectLaunch d r 0)
  else match s.readVa d r.asid desc 128 with
    | (_, .error (.noMem pa)) => .fault (.noMemory pa)
    | (s, .error _) => .next (s.rejectLaunch d r 1)
    | (s, .ok v) =>
      let b := BitVec.ofNat 1024 v
      if s.descRejected d r.asid b || s.imageRejected d r then .next (s.rejectLaunch d r 2)
      else
        let p := if r.f 109 109 = 1 then s.predFacts d r else (s, some ⟨0, 0, 0, 0, 0, 0⟩)
        match p.2 with
        | none => .next (p.1.rejectLaunch d r 3)
        | some f =>
          match s.freeRec d with
          | none => wait
          | some n =>
            if s.matcherFull d (fieldOf b 142 139) then wait
            else if r.f 109 109 = 1 then
              match (if cellFull f.cell then
                  p.1.trimOut (p.1.newRec d r b 0 true f.cellPa f.arena) (Nat.min (f.cell % 2 ^ 32) 65535) else none) with
              | some va => .next ((q.pageRequest va r.asid 0 d).1)
              | none => .next (p.1.acceptPred d n r b f)
            else
              let count := r.f 79 64 * r.f 95 80
              .next (p.1.enterRec d n r (p.1.newRec d r b count true 0 (0, 0, 0)) count false)

/-- LAUNCH_RECORD_ACCEPT (R21, R24, R32, R33): the head of the die's launch queue leaves it. -/
def execLaunchRecordAccept (die cyc : Nat) (s : State) : Host.Outcome State Fault Refusal :=
  match (s.die die).sch.launchq with
  | [] => notEnabled "LAUNCH_RECORD_ACCEPT"
  | r :: rest =>
    let q := s.advance die cyc
    let s := q.updSch die fun x => { x with launchq := rest }
    match r.tail with
    | some n => .next (s.acceptTail die n)
    | none => s.acceptHead q die r

/-! ## Confirmation (R298) -/

/-- A surplus instance goes (R298, R299); a trapped one is ended by its `ERET` (R342). -/
def State.dropSurplus (s : State) (u : Nat) : State :=
  match s.inst u with
  | none => s
  | some i =>
    if i.sched.status = .trapped then s.setInst u { i with ex := { i.ex with surplus := true, unconf := false } }
    else
      let s := match i.sched.seq with
        | some q => if (s.seq i.who.die q).running = some u then s.updSeq i.who.die q fun x => { x with clk := x.clk + 8 } else s
        | none => s
      s.gone u

/-- The frame of a parked instance is told of the confirmation (R348 unconf). -/
def State.confirmFrame (s : State) (i : Inst) : State :=
  match i.sched.status, i.sched.frame with
  | .parked, some f =>
    let a := s.frameAt i.who.die f
    s.writePa a 4 (s.readPa a 4 - s.readPa a 4 / 2 ^ 19 % 2 * 2 ^ 19)
  | _, _ => s

/-- A valid instance is confirmed (R296, R298): it leaves the commit-point stall, which acquires the confirmation; one that is not
there yet acquires it at once, for it passes its commit point without a stall (log entry 168). -/
def State.confirmInst (s : State) (u et : Nat) (rel : List Head) : State :=
  match s.inst u with
  | none => s
  | some i =>
    let s := s.confirmFrame i
    let o := { i.ctx.ord with pos := diePos i.who.die }.acquire rel 2
    let j := { i with ex := { i.ex with unconf := false }, ctx := { i.ctx with ord := { o with pos := i.ctx.ord.pos } } }
    let j := if j.ctx.issued = 0 then { j with who := { j.who with ext := BitVec.ofNat 32 (et + 2 ^ 16) } } else j
    s.setInst u (match j.sched.wait with
      | .commit _ => j.endWait (.commit true)
      | _ => j)

/-- Puts the tail of a record into the launch queue, or leaves it waiting outside, behind those that wait there (R300). -/
def State.sendTail (s : State) (d n : Nat) (r : Rec) : State :=
  if 256 ≤ (s.die d).sch.launchq.length || !(s.die d).sch.tails.isEmpty then s.updSch d fun x => { x with tails := x.tails ++ [n] }
  else s.enqueue d ⟨r.img, r.asid, r.queue, r.pkt, false, 0, some n, none⟩

/-- SHAPE_CONFIRMATION (R298): one step that trims or squashes the surplus instances, trims the arena, updates the
predictor, releases the valid blocks and makes the tail. A partial page of the arena that is out is asked for first (R303). -/
def execShapeConfirmation (die record cyc : Nat) (s : State) : Host.Outcome State Fault Refusal :=
  match s.recOf die record with
  | none => notEnabled "SHAPE_CONFIRMATION"
  | some r =>
    if !hasNat (s.die die).sch.confirms record || r.confirmed then notEnabled "SHAPE_CONFIRMATION"
    else
      let s := s.advance die cyc
      let v := s.readPa r.shapePa 8
      let et := Nat.min (v % 2 ^ 32) 65535
      match s.trimOut r et with
      | some va => .next (s.pageRequest va r.asid 0 die).1
      | none =>
      let rel := s.confirmHead die r.shapePa
      let s := s.updSch die fun x => { x with confirms := dropNat x.confirms record, tableOp := (cyc, 0, record) }
      let s := s.extentRecord die r.queue r.asid (r.i 191 128) v
      let surplus := r.live.filter fun u => match s.inst u with
        | some i => decide (et ≤ i.who.blk.toNat)
        | none => false
      let s := surplus.foldl State.dropSurplus s
      let s := s.arenaTrim die r et
      let s := s.updatePrediction die r.img r.asid et
      let valid := r.live.filter fun u => !hasNat surplus u
      let s := valid.foldl (fun s u => s.confirmInst u et rel) s
      let s := s.updRec die record fun x => { x with confirmed := true, ep := et, tailDue := et - r.ep, rels := joinHeads x.rels rel }
      let s := s.wakeCell r.shapePa fun w => w.own && hasNat valid w.uid
      .next (match s.recOf die record with
        | none => s
        | some x => if r.ep < et then s.sendTail die record x else s.recRetire die record)

/-- TAIL_RECORD_ENTRY (R300): an entry of the launch queue has freed. -/
def execTailRecordEntry (die record cyc : Nat) (s : State) : Host.Outcome State Fault Refusal :=
  match (s.die die).sch.tails, s.recOf die record with
  | n :: rest, some r =>
    if n ≠ record || decide (256 ≤ (s.die die).sch.launchq.length) then notEnabled "TAIL_RECORD_ENTRY"
    else .next (((s.advance die cyc).updSch die fun x => { x with tails := rest }).enqueue die
      ⟨r.img, r.asid, r.queue, r.pkt, false, 0, some record, none⟩)
  | _, _ => notEnabled "TAIL_RECORD_ENTRY"

/-- COUNTER_LOWERING (R31, R205): the `idx`-th lowering under way to a die arrives. -/
def execCounterLowering (die idx cyc : Nat) (s : State) : Host.Outcome State Fault Refusal :=
  match (s.die die).sch.lowerings[idx]? with
  | none => notEnabled "COUNTER_LOWERING"
  | some l =>
    let s := (s.advance die cyc).updSch die fun x => { x with lowerings := x.lowerings.eraseIdx idx }
    .next (s.lower die l.recNo l.asid l.queue)

/-- FUTURE_RETRY (R206): 4096 cycles after it found the waiter table full, a squashed reader is ready again. -/
def execFutureRetry (uid cyc : Nat) (s : State) : Host.Outcome State Fault Refusal :=
  match s.inst uid with
  | none => notEnabled "FUTURE_RETRY"
  | some i =>
    match (s.die i.who.die).sch.retries.find? fun r => r.1 == uid with
    | none => notEnabled "FUTURE_RETRY"
    | some r =>
      if cyc < r.2 then notEnabled "FUTURE_RETRY"
      else
        let s := (s.advance i.who.die cyc).updSch i.who.die fun x => { x with retries := x.retries.erase r }
        .next (s.updInst uid fun j => j.readyAgain cyc)

/-- COHORT_BARRIER_COMPLETE (R38, R152): 24 cycles after the last arrival of the epoch. -/
def execCohortBarrierComplete (die id cyc : Nat) (s : State) : Host.Outcome State Fault Refusal :=
  let c := s.cohort die id
  if c.members.isEmpty || !c.members.all (hasNat c.arrived) || cyc != c.lastAt + 24 then notEnabled "COHORT_BARRIER_COMPLETE"
  else .next ((s.advance die cyc).cohortComplete die id)

end Sys2Proof.Machine
end

