-- ==== Sys2Proof/Machine/Control.lean ====
section
/-! DEFINITION. Branches, calls, loops and the other control instructions (R139 to R149, R44, R45). -/

namespace Sys2Proof.Machine

/-- A direct target fails R85: a nonzero bit in [63:55]. -/
def farTarget (t : Word64) : Bool := t.toNat / 2 ^ 55 != 0
/-- An indirect target fails R85: a nonzero bit in [2:0] or [63:55]. -/
def badTarget (t : Word64) : Bool := t.toNat % 8 != 0 || farTarget t
/-- Target of the B format (R85). -/
def branchTarget (pc : Word64) (off : BitVec 32) : Word64 := pc + (off.signExtend 64 <<< 3)

/-- BR (R139): a taken branch with a negative offset is a pre-emption point (R48). -/
def execBr (g : Guard) (off : BitVec 32) (s : State) : Host.Outcome State Fault Refusal :=
  issue true true s fun c => guarded c g <|
    let t := branchTarget c.pc off
    if farTarget t then .trap 9 t else .jump c t off.msb
/-- BRI (R139). -/
def execBri (g : Guard) (b : RBody) (s : State) : Host.Outcome State Fault Refusal :=
  issue true true s fun c => guarded c g <|
    let t := c.regs.getPair b.a.toNat
    if badTarget t then .trap 9 t else .jump c t false

/-- Pushes the return PC and transfers control; a full stack spills its oldest entry first (R140, R142). -/
def callTo (c : Cur) (t : Word64) : Eff :=
  let st := c.i.ctx.st
  if st.rets.length < 4 then
    .jump (c.mapCtx fun x => { x with st := { x.st with rets := (c.pc + 8) :: x.st.rets } }) t false
  else if st.rsd = 0xFFFF_FFFF then .trap 8 c.pc
  else
    let m := st.sp - 8
    afterAcquire c <| access c m 8 .write fun pa =>
      let c := c.store m.toNat pa 8 (st.rets.getLastD 0).toNat
      .jump (c.mapCtx fun x => { x with st :=
        { x.st with rets := (c.pc + 8) :: x.st.rets.dropLast, rsd := st.rsd + 1, sp := m } }) t false

/-- CALL (R140). -/
def execCall (g : Guard) (off : BitVec 32) (s : State) : Host.Outcome State Fault Refusal :=
  issue true true s fun c => guarded c g <|
    let t := branchTarget c.pc off
    if farTarget t then .trap 9 t else callTo c t
/-- CALLI (R140). -/
def execCalli (g : Guard) (b : RBody) (s : State) : Host.Outcome State Fault Refusal :=
  issue true true s fun c => guarded c g <|
    let t := c.regs.getPair b.a.toNat
    if badTarget t then .trap 9 t else callTo c t

/-- The 8 bytes of a refill; memory of another module gives a free value (log entry 21) under what the stream itself has
stored there (R259). -/
def Cur.refill (c : Cur) (pa : Nat) : Word64 :=
  if isSpan pa then BitVec.ofNat 64 (overlay (Config.freeNat c.s.free % 2 ^ 64) (c.ownBytes pa 8))
  else BitVec.ofNat 64 (c.s.readPa pa 8)

/-- RET (R141, R142): a return PC that fails R85 takes the branch-target fault and is not popped. -/
def execRet (g : Guard) (_b : RBody) (s : State) : Host.Outcome State Fault Refusal :=
  issue true true s fun c => guarded c g <|
    match c.i.ctx.st.rets with
    | t :: rest =>
      if badTarget t then .trap 9 t
      else .jump (c.mapCtx fun x => { x with st := { x.st with rets := rest } }) t false
    | [] =>
      let st := c.i.ctx.st
      if st.rsd = 0 then .trap 8 c.pc
      else afterAcquire c <| access c st.sp 8 .read fun pa =>
        if c.s.badAt pa 8 then eccAbort c pa
        else
          let t := c.refill pa
          let c := (if isSpan pa then c else c.reads pa 8 none).mapS State.tick
          if badTarget t then .trap 9 t
          else .jump (c.mapCtx fun x => { x with st := { x.st with sp := st.sp + 8, rsd := st.rsd - 1 } }) t false

/-- LOOP (R143): a count of zero skips the body; a seventh entry overflows. A `LOOP` that is itself the end instruction of
the outer loop is compared with the entry that it has pushed, and one of count zero counts as a transfer, so the outer entry
does not step (DESIGN CHOICE, log entry 140). The page of the end instruction, if it is out, is waited for (R354). -/
def execLoop (g : Guard) (b : IBody) (s : State) : Host.Outcome State Fault Refusal :=
  issue true true s fun c => guarded c g <| withOps c [opI b] fun l _ eat =>
    let e := c.pc + (imm64 b <<< 3)
    let n := nth l 0
    if n = 0 then
      (match c.instrLen e with
        | some k => .jump (eat c) (e + BitVec.ofNat 64 k) false
        | none => .done (c.pageWait e.toNat c.asid 0))
    else if 6 ≤ c.i.ctx.st.loops.length then .trap 6 c.pc
    else .ok ((eat c).mapCtx fun x => { x with st := { x.st with loops := ⟨n, c.pc + 8, e⟩ :: x.st.loops } })

/-- LBRK (R146). The page of the end instruction, if it is out, is waited for (R354). -/
def execLbrk (g : Guard) (_b : RBody) (s : State) : Host.Outcome State Fault Refusal :=
  issue true true s fun c => guarded c g <|
    match c.i.ctx.st.loops with
    | [] => .trap 7 c.pc
    | e :: rest =>
      match c.instrLen e.stop with
      | some k => .jump (c.mapCtx fun x => { x with st := { x.st with loops := rest } }) (e.stop + BitVec.ofNat 64 k) false
      | none => .done (c.pageWait e.stop.toNat c.asid 0)

/-- LIDX (R147): the remaining count `level` places below the top, 0 beyond the depth. -/
def execLidx (g : Guard) (b : IBody) (s : State) : Host.Outcome State Fault Refusal :=
  issue true true s fun c => guarded c g <| needRoom c b.dst.toNat 1 <|
    let v : Word := match c.i.ctx.st.loops[b.imm.toNat]? with
      | some e => e.count
      | none => 0
    .ok (c.putS b.dst.toNat 1 v false)

/-- NOP (R148). -/
def execNop (_g : Guard) (_b : IBody) (s : State) : Host.Outcome State Fault Refusal :=
  issue true true s fun c => .ok c

/-- YIELD (R148, R46, R49): ready again with the current cycle as age; the state stays in the slot and the sequencer
switches (R45). -/
def execYieldI (g : Guard) (_b : IBody) (s : State) : Host.Outcome State Fault Refusal :=
  issue true false s fun c => guarded c g <|
    let c := (c.fallThrough 8).deliverAll
    let c := c.mapSched fun x => { x with status := .ready, age := c.clk, waited := 0, since := c.clk, byAge := false }
    let s := c.save.updSeq c.die c.q fun x =>
      { x with clk := c.clk + 8, running := none, slice := c.clk + 8, left := leaves c.uid c.i.ctx }
    .done ((s.endLease c.die c.tile c.uid).advance c.die c.clk)

/-- The retirement of a block is a release at die scope for its record's or its segment task's (R248, R277); the record keeps it
whole for a completion whose waiter is on another module (R260). -/
def State.exitRelease (s : State) (c : Cur) : State :=
  let v := c.i.ctx.ord.view
  if v.isEmpty then s
  else match c.i.who.recNo, c.i.ex.segTask with
    | some n, _ => s.updRec c.die n fun r => { r with out := joinView r.out v }
    | none, some k => s.updRing c.die fun r => match r.tasks.find k with
      | some t => { r with tasks := r.tasks.put k { t with out := joinView t.out (narrow 2 v) } }
      | none => r
    | none, none => s

/-- EXIT (R44, R149): it completes once every access is performed and every producer has delivered; an undeliverable
posted store makes it take the posted-store abort (R267). A prologue is then the front end's (R363). -/
def execExit (g : Guard) (_b : IBody) (s : State) : Host.Outcome State Fault Refusal :=
  issue true false s fun c => guarded c g <|
    if c.i.ctx.undeliv then .abort c 0x41
    else if !c.i.ctx.prods.isEmpty || !c.i.ctx.posted.isEmpty then .stall c
    else
      let c := c.mapCtx Ctx.landAll
      let s := c.save.updSeq c.die c.q fun x => { x with clk := c.clk + 8 }
      let s := s.advance c.die c.clk
      match c.i.who.kind with
      | .prologue => .done ((s.leaveSlot c.uid c.i).updInst c.uid fun i =>
          { i with sched := { i.sched with status := .exited } })
      | _ => .done ((s.exitRelease c).gone c.uid)

/-- TRAP (R149): a precise software trap with a 16-bit code. -/
def execTrap (g : Guard) (b : IBody) (s : State) : Host.Outcome State Fault Refusal :=
  issue true true s fun c => guarded c g <| .soft b.imm.toNat

/-- UNDEFINED_INSTRUCTION (R91): a word that no table of the manual assigns takes the precise undefined-instruction
fault at decode, whatever its guard; in a prologue it cancels it (R364), in a handler it is a double fault (R341). -/
def execUndefinedInstruction (_word : BitVec 64) (s : State) : Host.Outcome State Fault Refusal :=
  issue true true s fun c => .trap 1 c.pc

end Sys2Proof.Machine
end

