-- ==== Sys2Proof/Machine/Place.lean ====
section
/-! DEFINITION. The die scheduler at work (R35 to R37, R45 to R49, R335, R352, R353): ranking, placement, parks,
pre-emption, restores and steals. -/

namespace Sys2Proof.Machine

/-! ## Ranking (R46) -/

/-- Effective priority. -/
def Inst.eff (i : Inst) (cyc : Nat) : Nat := Nat.min 3 (i.who.prio + i.readySum cyc / 100000)
/-- It is ordered by age alone. -/
def Inst.aged (i : Inst) (cyc : Nat) : Bool := i.sched.byAge || decide (300000 ≤ i.readySum cyc)
/-- A block of a segment task. -/
def Inst.isSeg (i : Inst) : Bool := i.who.kind == .segBlock

/-- `x` is ordered before `y` by the keys of R46; the instance number breaks ties (log entry 13). -/
def ranksBefore (cyc : Nat) (x y : Nat × Inst) : Bool :=
  let a := x.2.eff cyc
  let b := y.2.eff cyc
  if a ≠ b then decide (b < a)
  else if x.2.isSeg ≠ y.2.isSeg then x.2.isSeg
  else if x.2.sched.age ≠ y.2.sched.age then decide (x.2.sched.age < y.2.sched.age)
  else decide (x.1 < y.1)
/-- `x` is older than `y`. -/
def olderThan (x y : Nat × Inst) : Bool :=
  decide (x.2.sched.age < y.2.sched.age) || (x.2.sched.age == y.2.sched.age && decide (x.1 < y.1))
/-- The first of a list under an order. -/
def firstBy {α : Type} (lt : α → α → Bool) : List α → Option α
  | [] => none
  | x :: t => match firstBy lt t with
    | some y => if lt y x then some y else some x
    | none => some x
/-- The highest-ranked ready instance (R46): the oldest of those ordered by age alone comes before every younger
instance. -/
def chooseReady (cyc : Nat) (l : List (Nat × Inst)) : Option (Nat × Inst) :=
  match firstBy olderThan (l.filter fun x => x.2.aged cyc) with
  | none => firstBy (ranksBefore cyc) l
  | some x => match firstBy (ranksBefore cyc) (l.filter fun y => olderThan y x) with
    | some y => some y
    | none => some x

/-! ## Where an instance may run -/

/-- The instance has yielded: it is ready and holds its slot (R148, log entry 146). -/
def Inst.yielded (i : Inst) : Bool := i.sched.status == .ready && i.sched.seq.isSome
/-- The instance may run on a sequencer (R29, R36, R41, R352); one that has yielded on its own alone. -/
def Inst.mayRun (i : Inst) (q : Nat) : Bool :=
  let on (t : Option Nat) : Bool := match t with
    | some t => tileOfSeq q == t
    | none => true
  decide (q < frontSeq i.who.die) && on i.sched.tile && on i.sched.accTile && (!i.yielded || i.sched.seq == some q)
/-- The ready instances of a die. -/
def State.readyOn (s : State) (d : Nat) : List (Nat × Inst) :=
  (s.instsOn d).filter fun p => p.2.sched.status == .ready && p.2.isTask
/-- The lowest free resident slot of a sequencer (R45, log entry 13). -/
def State.freeSlot (s : State) (d q : Nat) : Option Nat :=
  (List.range 4).find? fun k => ((s.seq d q).slots.find k).isNone
/-- A stack is there for the instance (R335). -/
def State.hasStack (s : State) (i : Inst) : Bool :=
  i.sched.stack.isSome || (freeBelow (s.die i.who.die).sch.stackIds (s.die i.who.die).regs.stkn.toNat).isSome

/-- The sequencer is busy until cycle `clk` when it runs nothing. -/
def Seq.upTo (x : Seq) (clk : Nat) : Seq := if x.running.isSome then x else { x with clk := Nat.max x.clk clk }

/-- Places an instance in slot `k` of a sequencer, with its stack (R46, R335). -/
def State.placeIn (s : State) (d q k u cyc : Nat) : State :=
  match s.inst u with
  | none => s
  | some i =>
    match i.sched.stack.or (freeBelow (s.die d).sch.stackIds (s.die d).regs.stkn.toNat) with
    | none => s
    | some n =>
      let s := if i.sched.stack.isSome then s else s.updSch d fun x => { x with stackIds := x.stackIds ++ [n] }
      let i := if i.sched.stack.isSome then i
        else { i with ctx := { i.ctx with st := { i.ctx.st with sp := s.stackTop d n } } }
      let s := s.setInst u { i with sched := { i.sched with
        status := .resident, seq := some q, slot := k, waited := i.readySum cyc, stack := some n, noStack := false } }
      s.updSeq d q fun x => { (x.upTo cyc) with slots := x.slots.put k u }

/-- An instance that finds no free stack is counted once (R335). -/
def State.countNoStack (s : State) (d u : Nat) : State :=
  (s.rasBump d 5).updInst u fun i => { i with sched := { i.sched with noStack := true } }

/-! ## Parks and pre-emption (R47, R48) -/

/-- The sequencers of a die that may run an instance. -/
def Inst.seqs (i : Inst) : List Nat := (List.range (frontSeq i.who.die)).filter i.mayRun
/-- The instances in the slots of a sequencer. -/
def State.inSlots (s : State) (d q : Nat) : List (Nat × Inst) :=
  (s.seq d q).slots.cells.filterMap fun p => (s.inst p.2).map (p.2, ·)
/-- `x` began to block before `y`: ties by `%seq`, then `%slot` (R47). -/
def blockedBefore (x y : Nat × Inst) : Bool :=
  let k (p : Nat × Inst) : Nat × Nat × Nat := (p.2.sched.blockedAt, p.2.sched.seq.getD 0, p.2.sched.slot)
  let a := k x
  let b := k y
  decide (a.1 < b.1) || (a.1 == b.1 && (decide (a.2.1 < b.2.1) || (a.2.1 == b.2.1 && decide (a.2.2 < b.2.2))))
/-- The instance that a park takes (R47): every slot of every sequencer of the list holds a blocked instance. -/
def State.parkVictim (s : State) (d : Nat) (qs : List Nat) : Option (Nat × Inst) :=
  let l := qs.flatMap fun q => s.inSlots d q
  if l.length = 4 * qs.length ∧ l.all fun p => p.2.sched.status == .blocked then firstBy blockedBefore l else none

/-- Takes the running instance `u` off its sequencer (R48): an uncommitted one by a squash, a committed one by a park at a
pre-emption point; before that it is only asked to. -/
def State.preempt (s : State) (d q u cyc : Nat) : State :=
  match s.inst u with
  | none => s
  | some i =>
    let switch (s : State) : State := s.updSeq d q fun x => { (x.upTo (cyc + 8)) with slice := cyc + 8 }
    if !i.sched.committed then switch (s.squash u false)
    else if i.sched.point then
      let s := s.park u true 2
      match s.inst u with
      | some j => if j.sched.status = .parked then switch s
        else s.updInst u fun k => { k with sched := { k.sched with preempt := true } }
      | none => s
    else s.setInst u { i with sched := { i.sched with preempt := true } }

/-- The instance of the sequencer that may be pre-empted: running, no trap in progress. -/
def State.preemptible (s : State) (d q : Nat) : Option (Nat × Inst) :=
  match (s.seq d q).running with
  | none => none
  | some u => match s.inst u with
    | some i => if i.isTask ∧ i.sched.status = .running then some (u, i) else none
    | none => none

/-- Places an instance if the sequencer has a free slot. -/
def State.placeFree (s : State) (d q u cyc : Nat) : State :=
  match s.freeSlot d q with
  | some k => s.placeIn d q k u cyc
  | none => s

/-- Makes room on a full sequencer for the instance and places it (R47, R48); `none` where this sequencer gives none. -/
def State.makeRoom (s : State) (d q cyc : Nat) (p : Nat × Inst) : Option State :=
  if p.2.seqs.any fun x => (s.freeSlot d x).isSome then none
  else match s.parkVictim d p.2.seqs with
    | some v =>
      if v.2.sched.seq = some q then some ((s.park v.1 false 0).placeFree d q p.1 cyc) else none
    | none =>
      match s.preemptible d q with
      | some r => if r.2.eff cyc < p.2.eff cyc then some ((s.preempt d q r.1 cyc).placeFree d q p.1 cyc) else none
      | none => none

/-- The first ready instance in rank order to which a full sequencer gives room (R47): each is judged over the sequencers that
may run it. None is placed before one that is ordered by age alone (R46). -/
def State.firstRoom (s : State) (d q cyc : Nat) : Nat → List (Nat × Inst) → Option State
  | 0, _ => none
  | n + 1, l =>
    match chooseReady cyc l with
    | none => none
    | some p =>
      match s.makeRoom d q cyc p with
      | some t => some t
      | none => if p.2.aged cyc then none else s.firstRoom d q cyc n (l.filter fun x => x.1 != p.1)

/-- TASK_PLACEMENT (R46 to R48, R335): the highest-ranked ready instance that may run on a sequencer is placed there, one that has
yielded in the slot that it holds; where there is no room, a park or a pre-emption gives it to the first that it serves. It happens
no earlier than the die's cycle. -/
def execTaskPlacement (die seq cyc : Nat) (s : State) : Host.Outcome State Fault Refusal :=
  let s := s.advance die cyc
  let cyc := Nat.max cyc (s.die die).cyc
  let l := (s.readyOn die).filter fun p => p.2.mayRun seq && (s.hasStack p.2 || !p.2.sched.noStack)
  match chooseReady cyc l with
  | none => notEnabled "TASK_PLACEMENT"
  | some p =>
    if p.2.yielded then
      .next (s.setInst p.1 { p.2 with sched := { p.2.sched with status := .resident, waited := p.2.readySum cyc } })
    else if !s.hasStack p.2 then .next (s.countNoStack die p.1)
    else if (s.freeSlot die seq).isSome then .next (s.placeFree die seq p.1 cyc)
    else match s.firstRoom die seq cyc l.length (l.filter fun x => !x.2.yielded && s.hasStack x.2) with
      | some t => .next t
      | none => notEnabled "TASK_PLACEMENT"

/-- TIME_SLICE_EXPIRY (R48): 200,000 cycles without a switch while an instance of equal or higher effective priority is
ready for the sequencer. -/
def execTimeSliceExpiry (die seq cyc : Nat) (s : State) : Host.Outcome State Fault Refusal :=
  match s.preemptible die seq with
  | none => notEnabled "TIME_SLICE_EXPIRY"
  | some r =>
    if cyc < (s.seq die seq).slice + 200000 ||
        !(s.readyOn die).any fun p => p.2.mayRun seq && decide (r.2.eff cyc ≤ p.2.eff cyc) then
      notEnabled "TIME_SLICE_EXPIRY"
    else .next ((s.advance die cyc).preempt die seq r.1 (Nat.max cyc (s.die die).cyc))

/-- The ready time of an instance is counted up to `cyc`. -/
def Inst.countTo (i : Inst) (cyc : Nat) : Inst :=
  { i with sched := { i.sched with waited := i.readySum cyc, since := cyc } }

/-- PRIORITY_AGING (R46): a full 100,000 ready, unplaced cycles raise the effective priority. -/
def execPriorityAging (uid cyc : Nat) (s : State) : Host.Outcome State Fault Refusal :=
  match s.inst uid with
  | none => notEnabled "PRIORITY_AGING"
  | some i =>
    let n := i.readySum cyc
    if i.sched.status ≠ .ready || decide (cyc < i.sched.since) || n = 0 || n % 100000 != 0 ||
        decide (3 < i.who.prio + n / 100000) then notEnabled "PRIORITY_AGING"
    else .next ((s.advance i.who.die cyc).setInst uid (i.countTo cyc))

/-- STARVATION_ORDERING (R46): at 300,000 ready, unplaced cycles. -/
def execStarvationOrdering (uid cyc : Nat) (s : State) : Host.Outcome State Fault Refusal :=
  match s.inst uid with
  | none => notEnabled "STARVATION_ORDERING"
  | some i =>
    if i.sched.status ≠ .ready || i.sched.byAge || decide (cyc < i.sched.since) || decide (i.readySum cyc < 300000) then
      notEnabled "STARVATION_ORDERING"
    else
      let j := i.countTo cyc
      .next ((s.advance i.who.die cyc).setInst uid { j with sched := { j.sched with byAge := true } })

/-! ## Restores (R352) -/

/-- The wait of a parked instance is over (R47). A lease is asked for again after the restore, so that wait is over when the matrix
engine of the tile would grant it: no lease stands, and no one asks. -/
def State.waitHolds (s : State) (i : Inst) (tile : Nat) : Bool :=
  match i.sched.wait with
  | .none => true
  | .waits ref thr g => g || decide (thr.toNat ≤ (s.sem i.who.die (refTile ref) (refIdx ref)).toNat)
  | .waitsDec _ _ g => g
  | .cbar _ g => g
  | .lease _ _ =>
    let e := (s.tile i.who.die tile).eng
    e.lease.isNone && e.asks.isEmpty
  | .commit g => g || !i.ex.unconf
  | .page g => g

/-- The wait of a restored instance (R352): what it waits for with a grant already taken, unless the runtime has changed it in the
frame. -/
def restoredWait (w : Wait) (rd : Nat → Nat → Nat) : Wait :=
  if waitFields w = (rd 0x1E0 4, rd 0x1E4 4, rd 0x1E8 4) then w else frameWait rd
/-- The grant of a `WAITS.DEC` has committed its instance (R42, R209). -/
def Wait.commits : Wait → Bool
  | .waitsDec _ _ g => g
  | _ => false
/-- Restores an instance from its frame into a slot (R352): fields, cohort, saved words with the rows of a suspended one, wait. -/
def State.restoreIn (s : State) (u : Nat) (i : Inst) (q k cyc : Nat) (rd rows : Nat → Nat → Nat) : Go Unit :=
  let d := i.who.die
  let t := tileOfSeq q
  let j := s.settleConf (i.restore rd)
  let w := restoredWait i.sched.wait rd
  let j := { j with sched := { j.sched with
    status := .resident, seq := some q, slot := k, wait := w, committed := j.sched.committed || w.commits } }
  let s := (s.setInst u j).loadCohort u j (rd 0x34 1)
  (s.restoreWords d t u j j.who.asid rd rows).bind fun s _ =>
    let s := s.updInst u fun x => { x with sched := { x.sched with
      frame := none, accSlot := none, heldAt := none, accTile := none, saved := [] } }
    let s := s.updSeq d q fun x => { (x.upTo cyc) with slots := x.slots.put k u }
    .ok (s.enterWait u) ()

/-- PARKED_RESTORE (R47, R352, R353): the wait of a parked instance holds and a slot is free; its frame slots free. A saved word
whose descriptors lie on a page that is out makes it wait for the page. -/
def execParkedRestore (uid seq cyc : Nat) (s : State) : Host.Outcome State Fault Refusal :=
  match s.inst uid with
  | none => notEnabled "PARKED_RESTORE"
  | some i =>
    let d := i.who.die
    match i.sched.status, i.sched.frame, s.freeSlot d seq with
    | .parked, some f, some k =>
      if !i.mayRun seq || !s.waitHolds i (tileOfSeq seq) then notEnabled "PARKED_RESTORE"
      else
        let s := s.advance d cyc
        let cyc := Nat.max cyc (s.die d).cyc
        let rows := match i.sched.accSlot with
          | some a => s.frameRd (s.accAt d a)
          | none => fun _ _ => 0
        match s.restoreIn uid i seq k cyc (s.frameRd (s.frameAt d f)) rows with
        | .ok t () => .next (t.freeFrame i)
        | .wait _ va => .next (s.pageAsk va i.who.asid d)
        | .err t _ => .next (t.freeFrame i)
        | .noMem pa => .fault (.noMemory pa)
    | _, _, _ => notEnabled "PARKED_RESTORE"

/-! ## Steals (R35 to R37) -/

/-- The victim gives this instance: placed, not yet issued, and it may run on the thief's sequencer. The one that the victim has
switched to is running, though it has issued nothing (log entry 161). -/
def givable (thief : Nat) (p : Nat × Inst) : Bool :=
  p.2.isTask && p.2.sched.status == .resident && p.2.ctx.issued == 0 && p.2.mayRun thief

/-- The second half of a range goes to a new instance of the same record and block (R36, R37), which starts with what its victim
saw at its start (R261). -/
def Inst.half (r : Inst) (mid : Word) (cyc : Nat) (ord : Ledger) : Inst :=
  Inst.fresh { r with
    ctx := { r.ctx with ord := ord }
    range := ⟨mid, r.range.hi, true, mid, r.range.hi, false⟩
    sched := ⟨.ready, none, 0, cyc, 0, cyc, false, .none, 0, false, none, none, none, r.sched.tile, false, [], false, false,
      none, [], none⟩
    coh := none
    ex := { r.ex with surplus := false } } 0

/-- The victim keeps the first half; of its starting range, what the thief got never returns (R43). -/
def Range.keep (r : Range) (mid : Word) : Range := { r with hi := mid, hi0 := if r.set then r.hi0 else mid }

/-- A new instance belongs to its record or segment task (R37, R277). -/
def State.adopt (s : State) (d u : Nat) (i : Inst) : State :=
  match i.who.recNo, i.ex.segTask with
  | some n, _ => s.updRec d n fun r => { r with live := r.live ++ [u] }
  | none, some k => s.updRing d fun r => match r.tasks.find k with
    | some t => { r with tasks := r.tasks.put k { t with live := t.live ++ [u], undone := t.undone ++ [u] } }
    | none => r
  | none, none => s

/-- The running instance of the victim can be split for the thief: its number, the instance, the middle. -/
def State.splittable (s : State) (d victim thief : Nat) : Option (Nat × Inst × Word) :=
  match s.preemptible d victim with
  | none => none
  | some r =>
    let n := r.2.range.hi.toNat - r.2.range.lo.toNat
    if r.2.range.steal ∧ 2 ≤ n ∧ r.2.mayRun thief then
      some (r.1, r.2, r.2.range.lo + BitVec.ofNat 32 ((n + 1) / 2))
    else none

/-- A thief got work: it starts over with its refusals. -/
def State.thiefServed (s : State) (d thief : Nat) : State := s.updSeq d thief fun x => { x with refusals := 0 }

/-- STEAL_REQUEST (R36): a sequencer with a free slot and no ready task asks another of its die, which gives, splits or
refuses. The event names the victim: the generator's choice is not guaranteed. -/
def execStealRequest (die thief victim cyc : Nat) (s : State) : Host.Outcome State Fault Refusal :=
  match s.freeSlot die thief with
  | none => notEnabled "STEAL_REQUEST"
  | some k =>
    if thief = victim || decide (frontSeq die ≤ thief) || decide (frontSeq die ≤ victim) ||
        (s.seq die thief).backoff.isSome || (s.readyOn die).any fun p => p.2.mayRun thief then
      notEnabled "STEAL_REQUEST"
    else
      let s := s.advance die cyc
      let cyc := Nat.max cyc (s.die die).cyc
      match firstBy (fun x y => olderThan y x) ((s.inSlots die victim).filter (givable thief)) with
      | some p =>
        let s := (s.endLease die p.2.tileNo p.1).leaveSlot p.1 p.2
        let s := s.setInst p.1 { p.2 with sched := { p.2.sched with seq := some thief, slot := k } }
        .next ((s.updSeq die thief fun x => { (x.upTo cyc) with slots := x.slots.put k p.1 }).thiefServed die thief)
      | none =>
        match s.splittable die victim thief with
        | some (u, r, mid) =>
          let n := s.nextUid
          let j := r.half mid cyc (s.startOrd r)
          let s := ({ s with nextUid := n + 1 }.setInst u { r with range := r.range.keep mid }).setInst n j
          let s := (s.adopt die n j).thiefServed die thief
          .next (if s.hasStack j then s.placeIn die thief k n cyc else s.countNoStack die n)
        | none =>
          .next (s.updSeq die thief fun x =>
            if 7 ≤ x.refusals then { x with refusals := 0, backoff := some (cyc + 512) } else { x with refusals := x.refusals + 1 })

/-- STEAL_BACKOFF_EXPIRY (R36): 512 cycles after the eighth refusal. -/
def execStealBackoffExpiry (die seq cyc : Nat) (s : State) : Host.Outcome State Fault Refusal :=
  match (s.seq die seq).backoff with
  | none => notEnabled "STEAL_BACKOFF_EXPIRY"
  | some t =>
    if cyc < t then notEnabled "STEAL_BACKOFF_EXPIRY"
    else .next ((s.advance die cyc).updSeq die seq fun x => { x with backoff := none })

end Sys2Proof.Machine
end

