-- ==== Sys2Proof/Machine/Pages.lean ====
section
/-! DEFINITION. The ends of page walks (R373, R374), page parks (R354), and the eviction engine (R380, R381). -/

namespace Sys2Proof.Machine

/-! ## Walks -/

/-- The stream that waits for a walk, if it still stands at its word. -/
def State.walker (s : State) (u : Nat) : Option Cur :=
  match s.inst u with
  | none => none
  | some i =>
    match i.sched.seq with
    | none => none
    | some q =>
      let x := s.seq i.who.die q
      if x.running = some u then some ⟨s, u, { i with ctx := i.ctx.landAt x.clk }, q, x.clk⟩ else none

/-- A walk that fails makes its stream take the fault of its word (R373). -/
def State.walkFault (s : State) (u code va : Nat) : State :=
  match s.walker u with
  | none => s
  | some c => State.takeTrap c code 0 0 c.pc (BitVec.ofNat 64 va)

/-- A walk that finds a page out (R354). -/
def State.walkPaged (s : State) (u asid va : Nat) : State :=
  match s.walker u with
  | none => s
  | some c =>
    c.pageWait va asid 0

/-- Two misses share one walk (R374): one 64 KiB page of one ASID. -/
def Walk.shares (x y : Walk) : Bool := x.page == y.page
/-- The walks of a die that began before the one of page `p`: at most 96 run at once, in the order of the misses (R374). -/
def Die.walksBefore (x : Die) (p : Nat × Nat) : Nat := ((x.walks.map Walk.page).takeWhile (· != p)).eraseDups.length

/-- The TLB of a die takes an entry that it does not hold. -/
def State.tlbPut (s : State) (d : Nat) (e : TlbEntry) : State :=
  s.updDie d fun x => if x.tlb.any (· == e) then x else { x with tlb := e :: x.tlb }

/-- A walk ends for one of the streams that share it: its kind of access is checked in the leaf (R373). -/
def State.walkEnd (s : State) (d : Nat) (x : Walk) : Host.Outcome State Fault Refusal :=
  match s.walk x.asid x.va (Acc.ofCode x.kind) with
  | .leaf e epa a => .next ((s.setAccessed epa a).tlbPut d e)
  | .transFault => .next (s.walkFault x.uid 0x0B x.va)
  | .accFault => .next (s.walkFault x.uid 0x0C x.va)
  | .paged => .next (s.walkPaged x.uid x.asid x.va)
  | .noMem pa => .fault (.noMemory pa)

/-- PAGE_WALK_COMPLETE (R373, R374): one of the at most 96 walks that a die runs ends, for every stream that shares
it. -/
def execPageWalkComplete (die idx : Nat) (s : State) : Host.Outcome State Fault Refusal :=
  match (s.die die).walks[idx]? with
  | none => notEnabled "PAGE_WALK_COMPLETE"
  | some w =>
    if 96 ≤ (s.die die).walksBefore w.page then notEnabled "PAGE_WALK_COMPLETE"
    else
      let l := (s.die die).walks.filter w.shares
      let s := s.updDie die fun x => { x with walks := x.walks.filter fun y => !w.shares y }
      l.foldl (fun o x => match o with
        | .next s => s.walkEnd die x
        | o => o) (.next s)

/-! ## Eviction -/

/-- Some engine of a die has a command: it may prefetch (R381). -/
def State.engActive (s : State) (d : Nat) : Bool :=
  (List.range (tilesOf d)).any fun t => !(s.tile d t).eng.running.isEmpty
/-- Cancels the prefetches of `n` bytes from `frame` on a die, one count each (R381). How many of those issued are still under
way is free, and so is the number of engine prefetches, of which the manual gives no rule (log entry 27). -/
def State.cancelPrefetch (s : State) (d frame n : Nat) : State :=
  let hit (p : Nat × Nat) : Bool := decide (frame ≤ p.2) && decide (p.2 < frame + n)
  let m := ((s.die d).prefetch.filter hit).length
  let eng := s.engActive d
  if m = 0 ∧ !eng then s
  else
    let k := if eng then Config.freeNat s.free else Config.freeNat s.free % (m + 1)
    s.tick.updDie d fun x =>
      { x with
        prefetch := x.prefetch.filter fun p => !hit p
        ras := setField x.ras 223 192 (Nat.min 0xFFFF_FFFF (fieldOf x.ras 223 192 + k)) }

/-- The eviction is abandoned (R380): it is counted in the host die's RAS block (R403). -/
def State.abandonEviction (s : State) : State := s.updHost fun h => { h with ras := bumpCounter h.ras 0 }

/-- The first step of an eviction (R380): the engine reads the entry at its home. -/
def State.evictRead (s : State) (leaf : Nat) : Host.Outcome State Fault Refusal :=
  if (s.homeOf leaf).isNone then .fault (.noMemory leaf)
  else .next (s.updHost fun h => { h with evReads := h.evReads.put leaf (s.readPa leaf 8) })

/-- Bytes that the leaf entry at `leaf` maps (R372): found on the path of the address, with `n` levels left at table `t`. -/
def State.leafSize (s : State) (va leaf : Nat) : Nat → Nat → Nat
  | 0, _ => 65536
  | n + 1, t =>
    let epa := t + 8 * (va / 2 ^ (16 + 13 * n) % 8192)
    if epa = leaf then 2 ^ (16 + 13 * n) else s.leafSize va leaf n (s.readPa epa 8 / 2 ^ 16 % 2 ^ 36 * 2 ^ 16)

/-- EVICTION_START (R380, R381): the leaf entry at `leaf` is unmapped, if it was valid and not pinned when the engine read it and
still holds what was read; else the eviction is abandoned. Prefetches are cancelled, and the shootdown sets out. Where the entry
has not been read before, it is read now. -/
def execEvictionStart (asid va leaf backing : Nat) (s : State) : Host.Outcome State Fault Refusal :=
  if (s.homeOf leaf).isNone then .fault (.noMemory leaf)
  else
    let now := s.readPa leaf 8
    let e := (s.host.evReads.find leaf).getD now
    let s := s.updHost fun h => { h with evReads := h.evReads.del leaf }
    if e % 2 = 0 || e / 2 ^ 8 % 256 != 0 || e != now then .next s.abandonEviction
    else
      let frame := e / 2 ^ 16 % 2 ^ 36 * 2 ^ 16
      let size := s.leafSize va leaf 3 (fieldOf (s.asidRec asid) 63 0)
      let s := s.rmwPa leaf 8 (e - 1 - e / 32 % 2 * 32 + 32)
      let s := (List.range 20).foldl (fun (s : State) d => s.cancelPrefetch d frame size) s
      .next (s.updHost fun h => { h with evictions := h.evictions ++ [(asid, va, frame, backing, size)] })

/-- Copies a page of `n` bytes: what the destination lists is replaced, error marks travel along. -/
def State.copyPage (s : State) (src dst n : Nat) : State :=
  let inside (a : Nat) : Bool := decide (src ≤ a) && decide (a < src + n)
  let cells := s.phys.mem.cells.filter fun c => inside c.1
  let bad := s.phys.bad.filter inside
  let s := s.zeroPa dst n
  let s := cells.foldl (fun s c => s.setByte (dst + (c.1 - src)) c.2) s
  { s with phys := { s.phys with bad := s.phys.bad ++ bad.map fun a => dst + (a - src) } }

/-- EVICTION_SHOOTDOWN_DONE (R377, R380, R381): no translation of the page is left and the accesses issued under one are
performed and delivered; the page is copied out, and its frame is the runtime's. -/
def execEvictionShootdownDone (idx : Nat) (s : State) : Host.Outcome State Fault Refusal :=
  match s.host.evictions[idx]? with
  | none => notEnabled "EVICTION_SHOOTDOWN_DONE"
  | some (asid, va, frame, backing, size) =>
    if (s.homeOf frame).isNone then .fault (.noMemory frame)
    else if (s.homeOf backing).isNone then .fault (.noMemory backing)
    else if (List.range 20).any fun d => s.tlbOpen d fun e => e.covers asid va then notEnabled "EVICTION_SHOOTDOWN_DONE"
    else
      let s := (List.range 20).foldl (fun (s : State) d => s.tlbDrop d fun e => e.covers asid va) s
      let s := s.updHost fun h => { h with evictions := h.evictions.eraseIdx idx }
      .next (s.copyPage frame backing size)

end Sys2Proof.Machine
end

