-- ==== Sys2Proof/Machine/Ring.lean ====
section
/-! DEFINITION. The weight ring (R12 to R17, R269 to R280, R284 to R286): slots, presentations, formation points, window
buffers; the junction and re-injection after a bypass (R397, R398). -/

namespace Sys2Proof.Machine

/-! ## Formation of segment tasks (R41, R275 to R277) -/

/-- How a formation point of presentation `p` finds context `n` (R276): gathered because next = n or through its route
mask, and whether it was skipping. A skipping context is gathered for its next ordinal at the first formation point only
(R278). -/
def State.gatherable (s : State) (d : Nat) (p : Pres) (first : Bool) (n : Nat) : Option (Bool × Bool) :=
  let b := s.ctxOf d n
  let st := ctxState b
  if ctxAsid b ≠ p.asid ∨ hasNat p.listed n then none
  else
    let byNext := ctxNext b == p.ord && (st == 1 || (st == 6 && first))
    let byRoute := tagIndep p.entry && ctxRoute b / 2 ^ fieldOf p.entry 135 130 % 2 == 1 && (st == 1 || st == 6)
    if byNext || byRoute then some (byNext, st == 6) else none

/-- Address of gather-list slot `g` as the tasks of a die see it, and in physical memory (R277, log entry 3). -/
def State.gatherAt (s : State) (d g : Nat) : Nat × Nat :=
  (s.phys.gatherVa + d * 2 ^ 24 + 2048 * g, s.dieBase d + s.phys.gatherPa + 2048 * g)

/-- Block `j` of a segment task (R22, R41, R71, R277): it acquires what the earlier tasks of its contexts carry. -/
def segBlock (d j asid prio ord pk tk count : Nat) (tag : Word64) (entry opb list : Nat) (cyc : Nat) (view : List Know) : Inst :=
  let e : Word64 := BitVec.ofNat 64 entry
  let i : Inst := Inst.fresh
    { who := ⟨.segBlock, 0, asid, d, BitVec.ofNat 32 (2 ^ 31 + ord), BitVec.ofNat 32 j, 0x0001_0010, tag, none, none, prio⟩
      ctx := Ctx.init e 0
      range := ⟨0, 0, true, 0, 0, false⟩
      sched := ⟨.accepted, none, 0, 0, 0, 0, false, .none, 0, false, none, none, none, some j, false, [], false, false, none, [],
        none⟩
      coh := none
      ex := ⟨false, false, false, some pk, some tk, false, BitVec.ofNat 32 count, BitVec.ofNat 64 opb, BitVec.ofNat 64 list, e, 0,
        false, (0, 0), false, 0⟩ } 0
  let i := i.makeReady cyc []
  { i with ctx := { i.ctx with ord := i.ctx.ord.learn view } }

/-- The formation point of presentation `k` at cycle `cyc` (R275, R276): a list that is not empty starts a segment task of 16 blocks. -/
def State.form (s : State) (d k cyc : Nat) : State :=
  match (s.die d).ring.pres.find k with
  | none => s
  | some p =>
    let l := if p.ended || p.unclaimed then [] else
      (List.range 1024).filterMap fun n => (s.gatherable d p (p.cyc == cyc) n).map fun h => (n, h.1, h.2)
    if l.isEmpty then s
    else
      let r := (s.die d).ring
      let g := (freeBelow (r.tasks.cells.map (·.2.list)) 7680).getD 0
      let at_ := s.gatherAt d g
      let s := l.foldl (fun s c => s.setCtx d c.1 (setField (s.ctxOf d c.1) 23 20 2)) s
      let s := l.zipIdx.foldl (fun s c => s.writePa (at_.2 + 2 * c.2) 2 c.1.1) s
      let u := s.nextUid
      let view := l.foldl (fun v c => joinView v (r.carried.get [] c.1)) []
      let us := (List.range 16).map (u + ·)
      let tk := r.nextTask
      let s := s.updRing d fun r =>
        { r with
          tasks := r.tasks.put tk ⟨k, l, us, us, g, cyc, []⟩
          nextTask := tk + 1
          pres := r.pres.put k { p with listed := p.listed ++ l.map (·.1), tasks := p.tasks ++ [tk] }
          dues := l.foldl (fun m c => m.del c.1) r.dues }
      (List.range 16).foldl (fun s j => s.setInst (u + j)
        (segBlock d j p.asid (fieldOf p.entry 137 136) p.ord k tk l.length p.tag (fieldOf p.entry 63 0) (fieldOf p.entry 127 64)
          at_.1 cyc view)) { s with nextUid := u + 16 }

/-! ## Window buffers (R280) -/

/-- Frees the copy `h` on a tile: the `MMA`s that still read it stop at their last drain point with a command error. -/
def State.overrun (s : State) (d t h : Nat) : State :=
  let runs := (s.tile d t).eng.running.filter fun r => r.cmd.pres == some h
  let s := s.updTile d t fun x => { x with held := dropNat x.held h }
  let s := s.updRing d fun r => match r.pres.find h with
    | some p => { r with pres := r.pres.put h { p with lost := p.lost ++ [t] } }
    | none => r
  runs.foldl (fun s r => ((s.updEng d t fun e => e.dropRun r.no).rasBump d 9).cmdError d t r.cmd 7) s

/-- Presentation `k` takes a segment buffer of a tile; with none of the twelve free the oldest held copy goes. -/
def State.takeBuffer (s : State) (d t k : Nat) : State :=
  let x := s.tile d t
  let r := (s.die d).ring
  let s := if x.held.length < 12 then s
    else match x.held.find? fun h => match r.pres.find h with
        | some p => p.ended
        | none => true with
      | some h => s.overrun d t h
      | none => s
  s.updTile d t fun x => { x with held := x.held ++ [k] }

/-! ## Presentation (R269, R273, R275, R286) -/

/-- Rotation number of the presentation of a segment in the current slot (R270, R286). -/
def State.nextRot (s : State) (d : Nat) (g : Segment) : Nat :=
  let x := s.die d
  if x.ring.bypassed then
    match x.ring.rots.find g.id with
    | some k => k + 1
    | none => x.ring.maxRot
  else x.regs.sigma / x.regs.rotLen

/-- The records of a die that wait for an ordinal of their ASID see it presented (R27, R30). -/
def State.presentTo (s : State) (d asid ord : Nat) : State :=
  let s := (s.die d).sch.recs.keys.foldl (fun s n => s.updRec d n fun r =>
    if r.asid = asid ∧ r.d 132 132 = 1 ∧ r.d 339 320 = ord then { r with presOk := true } else r) s
  s.checkReady d

/-- A format code of R272. -/
def panelFmt (f : Nat) : Bool := decide (1 ≤ f) && decide (f ≤ 6)

/-- The operator parameter block's first word, or record 0x0F (R273, R410). -/
def State.readOpb (s : State) (d : Nat) (g : Segment) (e : BitVec 256) : State × Option Nat :=
  let opb := fieldOf e 127 64
  match s.readVa d g.asid opb 8 with
  | (s, .ok v) => (s, some v)
  | (s, .error _) => (s.errTo g.asid 0x0F g.asid d 31 (g.ord % 2 ^ 20 + g.asid % 512 * 2 ^ 20) opb, none)

/-- The presentation of a segment at a die in the slot that begins at cycle `cyc`: tag, buffers, entry. -/
def State.present (s : State) (d cyc : Nat) (g : Segment) : State :=
  let x := s.die d
  let rot := s.nextRot d g
  let tag : Word64 := BitVec.ofNat 64 (rot % 2 ^ 32 + g.ord % 2 ^ 20 * 2 ^ 32 + g.asid % 512 * 2 ^ 55)
  let k := x.ring.nextPres
  let e := x.ring.entry g.asid g.ord
  let usable := tagValid e && panelFmt (tagFmt e)
  let r := if usable then s.readOpb d g e else (s, none)
  let s := r.1.updRing d fun y =>
    { y with
      nextPres := k + 1
      pres := y.pres.put k ⟨g.asid, g.ord, tag, g.id, x.regs.sigma, e, BitVec.ofNat 64 (r.2.getD 0), x.regs.depth, [], [], false,
        r.2.isNone, [], cyc, false⟩
      rots := y.rots.put g.id rot
      maxRot := Nat.max y.maxRot rot }
  let s := if r.2.isNone then s.rasBump d 3 else s
  let s := (List.range 16).foldl (fun s t => s.takeBuffer d t k) s
  s.presentTo d g.asid g.ord

/-! ## Positions on the move (R14, R15, R397, R398) -/

/-- A position that carries no segment. -/
def Position.empty : Position := ⟨none, false, none⟩

/-- What the head position of a die shows in its slot (R397): the segment presented, the position as it is forwarded,
and whether a failed re-read makes it go out empty. -/
def Position.show (p : Position) (d : Nat) : Option Segment × Position × Bool :=
  match p.out with
  | some x => if x = d ∧ !p.torn then (p.seg, { p with out := none }, false) else (none, p, false)
  | none => if p.torn ∧ p.seg.isSome then (none, { p with out := some d }, true) else (p.seg, p, false)

/-- Stands for the other modules of a spliced ring. -/
def outside : Nat := 32
/-- The next die in the direction of travel: after this module's last one a spliced ring goes on in the next module (R16). -/
def Ring.next (r : Ring) (d : Nat) : Nat :=
  match r.dies.idxOf? d with
  | some i => if r.spliced ∧ i + 1 = r.dies.length then outside else r.dies.getD ((i + 1) % r.dies.length) d
  | none => d
/-- The die before. -/
def Ring.prev (r : Ring) (d : Nat) : Nat :=
  match r.dies.idxOf? d with
  | some i => r.dies.getD ((i + r.dies.length - 1) % r.dies.length) d
  | none => d

/-- What reaches a die at the slot boundary: the head of the die before it, or what the extension receiver takes in (R16). -/
def Ring.incoming (r : Ring) (heads : FMap Position) (d : Nat) : Position :=
  if r.spliced ∧ r.dies.head? = some d then r.inFrom.headD .empty
  else (heads.find (r.prev d)).getD .empty

/-- A die's store after the boundary: its head is gone and the incoming position is there. -/
def RingSide.shift (x : RingSide) (p : Position) : RingSide := { x with transit := x.transit.drop 1 ++ [p] }

/-- Drops empty positions, at most `n`, that come to the front of a store while a delay is outstanding (R398); answers how
many. -/
def RingSide.dropFront (x : RingSide) : Nat → RingSide × Nat
  | 0 => (x, 0)
  | n + 1 =>
    let y := x.dropFront n
    match y.1.transit with
    | [] => y
    | p :: rest =>
      if y.2 = n ∧ 0 < y.1.owed ∧ p.seg.isNone then ({ y.1 with transit := rest, owed := y.1.owed - 1 }, n + 1) else y

/-- The empty positions of a list. -/
def empties (l : List Position) : Nat := (l.filter fun p => p.seg.isNone).length
/-- The empty positions of a die's store that it does not yet owe. -/
def RingSide.room (x : RingSide) : Nat := empties x.transit - x.owed
/-- The empty positions that the store of die `e` held when the junction arrived: when the first of the `n` segments that the dies
before it have inserted came in. As many positions have since gone on to the next die, or module (R398, log entry 149). -/
def Ring.roomAt (r : Ring) (store : Nat → RingSide) (e n : Nat) : Nat :=
  let x := store e
  let y := if r.next e = outside then r.outTo else (store (r.next e)).transit
  empties (x.transit.take (x.transit.length - n)) + empties (y.drop (y.length - n)) - x.owed
/-- The junction at a slot boundary: one position less is ahead of it, or it goes on to the next die, whose empty positions count
as of its arrival, or to the next module. -/
def Bypass.move (b : Bypass) (r : Ring) (store : Nat → RingSide) : Bypass :=
  if b.at_ = outside then b
  else if 0 < b.ahead then { b with ahead := b.ahead - 1 }
  else
    let e := r.next b.at_
    let n := if e = b.up then 0 else b.put
    if e = outside then { b with at_ := outside, ahead := 0, room := none, spent := false }
    else { b with at_ := e, ahead := (store e).transit.length - 1, room := some (r.roomAt store e n), spent := false, put := n }
/-- The dies of a ring, those in other modules among them. -/
def State.ringDies (s : State) (r : Ring) : Nat := if r.spliced then (s.die (r.dies.headD 0)).regs.ringSize else r.dies.length

/-- Lost segments that stay absent are recorded (R399, R401). -/
def State.reportAbsent (s : State) (d : Nat) (g : Segment) (pos : Nat) : State :=
  let info := g.ord % 2 ^ 20 + g.asid % 512 * 2 ^ 20
  let s := s.errTo 0 0x0D g.asid d 31 info pos
  if g.asid = 0 then s else s.errTo g.asid 0x0D g.asid d 31 info pos

/-- A junction at the front of its die's store (R398): the die puts the next lost segment there if it has room and the
image has arrived. An image that has not ends its insertions for this lap; a full lap of dies without room leaves the rest absent
(R399). -/
def State.junction (s : State) (r : Ring) (b : Bypass) : State × Bypass :=
  let b := { b with started := b.started || b.at_ == b.up }
  if b.at_ = outside || b.ahead ≠ 0 || b.lost.isEmpty || !b.started || b.spent then (s, b)
  else
    let room := b.room.getD (s.die b.at_).ring.room
    if room = 0 then
      if s.ringDies r ≤ b.idle + 1 then
        (b.lost.foldl (fun s l => s.reportAbsent b.at_ l.seg l.pos) s, { b with lost := [], spent := true })
      else (s, { b with idle := b.idle + 1, spent := true })
    else match b.lost with
      | [] => (s, b)
      | l :: rest =>
        if l.arrived then
          (s.updRing b.at_ fun x => { x with transit := ⟨some l.seg, false, none⟩ :: x.transit, owed := x.owed + 1 },
           { b with lost := rest, ahead := 1, room := some (room - 1), idle := 0, spent := room == 1, put := b.put + 1 })
        else (s, { b with idle := 0, spent := true })

/-! ## Slots -/

/-- A die does not accept the slot that begins at cycle `at_` (R394). -/
def State.silent (s : State) (d at_ : Nat) : Bool :=
  (s.die d).ring.stopped || (match (s.die d).ring.fence with
    | some c => decide (c + 64 ≤ at_)
    | none => false)

/-- The last cycle of a slot at a die: saddles whose last slot it was end (R275). -/
def State.endSlot (s : State) (d : Nat) : State :=
  let sg := (s.die d).regs.sigma
  ((s.die d).ring.pres.cells.filter fun p => !p.2.ended && decide (p.2.slot + p.2.depth ≤ sg)).foldl
    (fun s p => s.saddleEnd d p.1) s

/-- The slot that begins at cycle `cyc`, at a die: the presentation of the head position. -/
def State.beginSlot (s : State) (cyc d : Nat) : State :=
  match (s.die d).ring.transit with
  | [] => s
  | p :: rest =>
    let v := p.show d
    let s := s.updRing d fun x => { x with transit := v.2.1 :: rest }
    let s := if v.2.2 then s.rasBump d 8 else s
    match v.1 with
    | some g => s.present d cyc g
    | none => s

/-- The formation points of a die in a slot that began at cycle `cyc`, oldest presentation first (R275, log entry 14). -/
def State.formAll (s : State) (cyc d : Nat) : State :=
  ((s.die d).ring.pres.cells.filter fun p => !p.2.ended).foldl (fun s p => s.form d p.1 cyc) s
/-- The formation points of a ring's current slot, if they are yet to come: they read each context after every change made at or
before the first cycle of the slot (R276). -/
def State.formSlot (s : State) (ring : Nat) : State :=
  let r := s.rings.get Ring.init ring
  if r.forming then
    r.dies.foldl (fun s d => s.formAll r.start d) { s with rings := s.rings.set Ring.init ring { r with forming := false } }
  else s

/-- Moves every position of the ring on by one die and advances S (R14, R270). -/
def State.rotate (s : State) (r : Ring) : State :=
  let heads := r.dies.foldl (fun m d => m.put d ((s.die d).ring.transit.headD .empty)) (FMap.empty : FMap Position)
  r.dies.foldl (fun s d => s.updDie d fun x =>
    { x with ring := x.ring.shift (r.incoming heads d), regs := { x.regs with rslotc := x.regs.rslotc + 1 },
             cyc := Nat.max x.cyc (r.start + r.slotCycles) }) s

/-- The junctions of a ring after the boundary. -/
def State.junctions (s : State) (r : Ring) : List Bypass → State × List Bypass
  | [] => (s, [])
  | b :: t =>
    let x := s.junction r b
    let y := x.1.junctions r t
    (y.1, x.2 :: y.2)

/-- A die drops what its delay calls for, up to the first junction in its store; a junction at the front stops it only
before the die has had its turn there (R398). -/
def State.dropAt (s : State) (bs : List Bypass) (turnDone : Bool) (d : Nat) : State × List Bypass :=
  let mine (b : Bypass) : Bool := b.at_ == d && (!turnDone || decide (0 < b.ahead))
  let x := (s.die d).ring
  let n := (bs.filter mine).foldl (fun m b => Nat.min m b.ahead) x.transit.length
  let y := x.dropFront n
  (s.updRing d fun _ => y.1, bs.map fun b => if mine b then { b with ahead := b.ahead - y.2 } else b)
/-- `dropAt` on every die of a list. -/
def State.dropAll (s : State) (bs : List Bypass) (turnDone : Bool) : List Nat → State × List Bypass
  | [] => (s, bs)
  | d :: t =>
    let y := s.dropAt bs turnDone d
    y.1.dropAll y.2 turnDone t

/-- RING_SLOT (R13 to R15, R270): the slot boundary of a ring. Its formation points come after the words of the slot's first cycle
(R276). -/
def execRingSlot (ring : Nat) (s : State) : Host.Outcome State Fault Refusal :=
  let r := s.rings.get Ring.init ring
  if !r.formed || r.halted || r.dies.any fun d => s.silent d (r.start + r.slotCycles) then notEnabled "RING_SLOT"
  else
    let s := r.dies.foldl State.endSlot (s.formSlot ring)
    let moved := r.bypasses.map fun b => b.move r fun d => (s.die d).ring
    let sent := if r.spliced then (r.outTo ++ [(s.die (r.dies.getLastD 0)).ring.transit.headD .empty]) else []
    let s := s.rotate r
    let a := s.dropAll moved false r.dies
    let b := a.1.junctions r a.2
    let j := b.1.dropAll b.2 true r.dies
    let s : State := { j.1 with rings := j.1.rings.set Ring.init ring { r with 
      start := r.start + r.slotCycles, bypasses := j.2, inFrom := r.inFrom.drop 1, outTo := sent.drop (sent.length - 384),
      forming := true } }
    .next (r.dies.foldl (State.beginSlot · (r.start + r.slotCycles)) s)

/-- RING_IMAGE_ARRIVAL (R398): the images of the lost segments arrive in their order. -/
def markArrived : List LostSeg → Option (List LostSeg)
  | [] => none
  | l :: t => if l.arrived then (markArrived t).map (l :: ·) else some ({ l with arrived := true } :: t)
/-- The first bypass of a ring that still waits for an image gets it. -/
def arriveIn : List Bypass → Option (List Bypass)
  | [] => none
  | b :: t => match markArrived b.lost with
    | some l => some ({ b with lost := l } :: t)
    | none => (arriveIn t).map (b :: ·)

/-- RING_IMAGE_ARRIVAL (R398). -/
def execRingImageArrival (ring : Nat) (s : State) : Host.Outcome State Fault Refusal :=
  let r := s.rings.get Ring.init ring
  match arriveIn r.bypasses with
  | none => notEnabled "RING_IMAGE_ARRIVAL"
  | some l => .next { s with rings := s.rings.set Ring.init ring { r with bypasses := l } }

/-- The first torn position of a list that `f` names is whole again. -/
def mendFirst (f : Position → Bool) : List Position → Option (Position × Nat × List Position)
  | [] => none
  | p :: t =>
    if p.torn && p.seg.isSome && f p then some (p, 0, { p with torn := false } :: t)
    else (mendFirst f t).map fun x => (x.1, x.2.1 + 1, p :: x.2.2)

/-- Where the re-read of a die ends (R397): a position of its own store, else one that it has forwarded empty. -/
def State.findTorn (s : State) (r : Ring) (d : Nat) : Option (Nat × Position × Nat × List Position) :=
  match mendFirst (fun p => p.out.isNone) (s.die d).ring.transit with
  | some x => some (d, x)
  | none => r.dies.findSome? fun e =>
      (mendFirst (fun p => p.out == some d) (s.die e).ring.transit).map fun x => (e, x)

/-- Position number of place `k` of a die's store (R270). -/
def State.posNumber (s : State) (d k : Nat) : Nat :=
  let r := (s.die d).regs
  (r.sigma + k) % r.rotLen

/-- RING_IMAGE_REREAD (R397, R402, R403): a re-read from the ring image completes, or fails and is recorded. -/
def execRingImageReread (ring die : Nat) (ok : Bool) (s : State) : Host.Outcome State Fault Refusal :=
  let r := s.rings.get Ring.init ring
  match s.findTorn r die with
  | none => notEnabled "RING_IMAGE_REREAD"
  | some (e, p, k, l) =>
    let s := s.rasBump die 2
    if ok then .next (s.updRing e fun x => { x with transit := l })
    else match p.seg with
      | some g => .next (s.reportAbsent die g (s.posNumber e k))
      | none => .next s

end Sys2Proof.Machine
end

