-- ==== Sys2Proof/Machine/Repair.lean ====
section
/-! DEFINITION. Lanes and rings (R16), the formation of a ring (R271), failures, fences, lane tests, the takeover (R394 to
R401) and the patrol scrub (R402). -/

namespace Sys2Proof.Machine

/-! ## Lanes (R16, R395, R396) -/

/-- The dies of ring `k` of an arrangement in the direction of travel (R16, R406). -/
def ringOrder (arr k : Nat) : List Nat :=
  match arr with
  | 1 => [0, 1, 3, 5, 7, 6, 4, 2].map (8 * k + ·)
  | 2 => [0, 1, 3, 2].map (4 * k + ·)
  | _ => List.range 16

/-- The lane from die `a` to die `b`: ring links 0 to 31, col links 32 to 63; of each link the forward lane is even. -/
def laneOfHop (a b : Nat) : Nat :=
  if b = (a + 1) % 16 then 2 * a
  else if a = (b + 1) % 16 then 2 * b + 1
  else if b = (a + 2) % 16 then 32 + 2 * a
  else 33 + 2 * b
/-- The die that sends on a lane. -/
def laneDie (lane : Nat) : Nat :=
  if lane < 32 then (if lane % 2 = 0 then lane / 2 else (lane / 2 + 1) % 16)
  else (if lane % 2 = 0 then (lane - 32) / 2 else ((lane - 32) / 2 + 2) % 16)
/-- The die that receives on a lane. -/
def laneTo (lane : Nat) : Nat :=
  if lane < 32 then (if lane % 2 = 0 then (lane / 2 + 1) % 16 else lane / 2)
  else (if lane % 2 = 0 then ((lane - 32) / 2 + 2) % 16 else (lane - 32) / 2)
/-- The lanes of a path of dies. -/
def pathLanes : List Nat → List Nat
  | a :: b :: t => laneOfHop a b :: pathLanes (b :: t)
  | _ => []
/-- The lanes that a ring uses (R16). -/
def ringLanes (arr k : Nat) : List Nat :=
  let l := ringOrder arr k
  pathLanes (l ++ l.take 1)

/-- The bypass route around a failed die, from the upstream die on (R396). In a spliced ring the hops 14 to 0 and 15 to 1 are the
col lanes that lead to the extension transmitter and come from the receiver (R16). -/
def bypassPath (arr x : Nat) : List Nat :=
  match arr with
  | 1 =>
    let b := x / 8 * 8
    (match x % 8 with
      | 0 => [2, 1]
      | 1 => [0, 2, 3]
      | 3 => [1, 2, 4, 5]
      | 5 => [3, 4, 6, 7]
      | 7 => [5, 6]
      | 6 => [7, 5, 4]
      | 4 => [6, 5, 3, 2]
      | _ => [4, 3, 1, 0]).map (b + ·)
  | 2 =>
    let b := x / 4 * 4
    (match x % 4 with
      | 0 => [2, 1]
      | 1 => [0, 2, 3]
      | 3 => [1, 2]
      | _ => [3, 1, 0]).map (b + ·)
  | _ => [(x + 15) % 16, (x + 1) % 16]

/-- The lanes that a ring uses: a lane to or from a bypassed die is idle, and the routes are in use. The last ring lane of a module
of a spliced ring leads to the next module, whatever its first die (R16). -/
def Ring.lanes (r : Ring) (k : Nat) : List Nat :=
  let dead (d : Nat) : Bool := r.bypasses.any fun b => b.die == d
  ((ringLanes r.arr k).filter fun l => !dead (laneDie l) && ((r.spliced && l == 30) || !dead (laneTo l))) ++
    r.bypasses.flatMap (·.route)
/-- The lanes in use: those of the formed rings and of the bypass routes. -/
def State.lanesUsed (s : State) : List Nat := s.rings.cells.flatMap fun r => if r.2.formed then r.2.lanes r.1 else []

/-- LANE_TEST (R395): an idle lane that fails is marked unusable and counted. -/
def execLaneTest (lane : Nat) (ok : Bool) (s : State) : Host.Outcome State Fault Refusal :=
  if hasNat s.lanesUsed lane then notEnabled "LANE_TEST"
  else if ok then .next s
  else
    let s := s.rasBump (laneDie lane) 7
    .next (s.updHost fun h => { h with badLanes := if hasNat h.badLanes lane then h.badLanes else h.badLanes ++ [lane] })

/-! ## Forming a ring (R16, R271, R418) -/

/-- A presentation of a ring that is formed anew: its saddle is over and no later look finds it. -/
def Pres.retired (p : Pres) : Pres := { p with ended := true, unclaimed := true, asid := 512, slot := 0 }

/-- A die enters a ring of D dies, its store empty. Its `%rcfg` is what the firmware wrote; where the N16 itself forms the ring, at
the change to full service, it writes dies and index (R271). -/
def Die.enterRing (x : Die) (D : Nat) (idx : Option Nat) : Die :=
  { x with
    regs := { x.regs with
      rslotc := BitVec.ofNat 64 (384 * (D - 1))
      rcfg := match idx with
        | some i => setField (setField x.regs.rcfg 14 4 D) 26 16 i
        | none => x.regs.rcfg }
    ring := { x.ring with
      transit := List.replicate 384 .empty
      pres := x.ring.pres.mapVals fun _ p => p.retired
      rots := .empty, maxRot := 0, bypassed := false, owed := 0, dues := .empty } }

/-- The splice that the supervisor has assigned (R285): the dies of the whole ring and this module's place in it, as the firmware
has written them into `%rcfg` of die 15 (log entry 151); none where the module is not spliced. -/
def State.spliceOf (s : State) : Option (Nat × Nat) :=
  let r := (s.die 15).regs
  if r.ringSize % 16 = 0 ∧ 32 ≤ r.ringSize ∧ r.ringSize ≤ 1024 ∧ r.ringIdx % 16 = 15 ∧ r.ringIdx < r.ringSize
  then some (r.ringSize, r.ringIdx / 16) else none
/-- Ring `k` of an arrangement is formed at a cycle, on every die at once (R271); the module ring of a spliced module is its part
of the spliced ring, with slots of 2048 cycles (R16, R17, R285). `own`: the N16 itself writes idx and dies. -/
def State.formRing (s : State) (arr k cyc : Nat) (own : Bool) : State :=
  let l := ringOrder arr k
  let sp := if arr = 1 ∨ arr = 2 then none else s.spliceOf
  let D := (sp.map (·.1)).getD l.length
  let base := (sp.map fun x => 16 * x.2).getD 0
  let s := l.zipIdx.foldl (fun s p => s.updDie p.1 fun x => x.enterRing D (if own then some (base + p.2) else none)) s
  let slot := if sp.isSome then 2048 else 1024
  { s with rings := s.rings.set Ring.init k ⟨arr, l, slot, cyc, true, false, [], sp.isSome, [], [], false⟩ }

/-! ## Failures (R394) -/

/-- DIE_FENCE_ORDER (R394): it takes effect at the first slot boundary at least 64 cycles later. -/
def execDieFenceOrder (die cyc : Nat) (s : State) : Host.Outcome State Fault Refusal :=
  .next ((s.advance die cyc).updRing die fun x => { x with fence := x.fence.or (some cyc) })

/-! ## Takeover (R396, R398, R400, R401) -/

/-- The failed die's contexts in state waiting, busy, held or skipping go to lost (R400): their numbers with ASIDs. -/
def State.loseContexts (s : State) (d : Nat) (keep : Nat → Bool) : State × List (Nat × Nat) :=
  let l := (List.range 1024).filter fun n => !keep (ctxState (s.ctxOf d n))
  (l.foldl (fun s n => s.setCtx d n (setField (s.ctxOf d n) 23 20 5)) s, l.map fun n => (n, ctxAsid (s.ctxOf d n)))

/-- Writes a record to ring 0 and to an ASID's ring (R401). -/
def State.errBoth (s : State) (asid code die info0 info1 : Nat) : State :=
  let s := s.errTo 0 code asid die 31 info0 info1
  if asid = 0 then s else s.errTo asid code asid die 31 info0 info1

/-- The records 0x0C of lost contexts (R401). -/
def State.reportLost (s : State) (d : Nat) (l : List (Nat × Nat)) : State :=
  l.foldl (fun s c => s.errBoth c.2 0x0C d c.1 c.2) s

/-- The ASIDs of a list of lost contexts, each once. -/
def lostAsids (l : List (Nat × Nat)) : List Nat := (l.map (·.2)).eraseDups
/-- info1 of record 0x0B (R401). -/
def lostMask (l : List (Nat × Nat)) : Nat :=
  if (lostAsids l).any fun a => decide (64 ≤ a) then 2 ^ 64 - 1 else (lostAsids l).foldl (fun m a => m + 2 ^ a) 0

/-- The engines of a tile whose die has failed: only commands that the attention die has started run on (R400). -/
def Engines.dieLost (e : Engines) : Engines :=
  { e with
    queues := .empty, running := e.running.filter fun r => r.eng == 3, restored := [], lease := none, asks := [], chains := .empty }
/-- Every instance of the die is ended without restart and without a record; its unstarted records are ended targets
(R31), and nothing waits on it any more (R400). -/
def State.endDie (s : State) (d : Nat) : State :=
  let s := (s.instsOn d).foldl (fun s p => { (s.dropWaiter p.1) with insts := s.insts.del p.1 }) s
  let s := (List.range (frontSeq d + 1)).foldl (fun s q => s.updSeq d q fun x =>
    { x with slots := .empty, running := none, trapped := none }) s
  let s := (List.range (tilesOf d)).foldl (fun s t => (s.updEng d t Engines.dieLost).updTile d t fun x => { x with decq := [] }) s
  s.updSch d fun x =>
    { x with launchq := [], recs := x.recs.mapVals fun _ r => { r with ended := true, live := [] }, tails := [], retries := [],
             lowerings := [], confirms := [], cohorts := .empty, stackIds := [], frames := [], accs := [], parks := [] }

/-- A surviving die whose ring index or whose ring size falls (R396): its die-local slots count on (R270). -/
def Die.reindex (x : Die) (from_ : Nat) : Die :=
  let idx := x.regs.ringIdx
  let down := decide (from_ < idx)
  let cfg := setField x.regs.rcfg 14 4 (x.regs.ringSize - 1)
  { x with
    regs := { x.regs with rcfg := if down then setField cfg 26 16 (idx - 1) else cfg }
    ring := { x.ring with
      bypassed := true
      pres := if down then x.ring.pres.mapVals fun _ p => { p with slot := p.slot + 384 } else x.ring.pres } }

/-- The lost segments of a takeover in slot F, oldest first, with the positions that die `d` forwarded them at (R398): the last of them
in slot F - 1. -/
def lostFrom (store : List Position) (F rotLen : Nat) : List LostSeg :=
  store.zipIdx.filterMap fun p => p.1.seg.map fun g => ⟨g, (F + rotLen - store.length + p.2) % rotLen, false⟩

/-- The dies of the ring that are left take their new index and ring size when the die at ring index `idx` is bypassed (R396). -/
def State.reindexAll (s : State) (dies : List Nat) (idx : Nat) : State :=
  dies.foldl (fun s e => s.updDie e fun z => z.reindex idx) s
/-- The work of failed die `x`, bypassed by die `d` in its slot F, is lost and reported (R400, R401). -/
def State.loseDie (s : State) (d x F : Nat) : State :=
  let c := s.loseContexts x fun st => st == 0 || st == 4 || st == 5 || decide (7 ≤ st)
  let s := c.1.endDie x
  let s := s.updRing x fun z => { z with stopped := true, transit := [] }
  let info := x + d * 2 ^ 5 + F * 2 ^ 32
  let s := s.errTo 0 0x0B 0 x 31 info (lostMask c.2)
  let s := ((lostAsids c.2).filter (· != 0)).foldl (fun s a => s.errTo a 0x0B a x 31 info (lostMask c.2)) s
  s.reportLost x c.2

/-- The takeover around failed die `x` by die `d`, toward die `y` (R396 to R398, R400). In a spliced ring `x`, or `y` alone, may be
outside this module: the lost segments of a failed die there are those that the transmitter has sent last. -/
def State.takeover (s : State) (k : Nat) (r : Ring) (d x y : Nat) : State :=
  let du := s.die d
  let F := du.regs.sigma + 1
  let far := x == outside
  let store := if far then r.outTo else (s.die x).ring.transit
  let last := store.headD .empty
  let torn := last.seg.isSome && Config.freeNat s.free % 2 == 1
  let gone := store.drop 1 ++ [du.ring.transit.headD .empty]
  let lost := lostFrom gone F du.regs.rotLen
  let last := { last with torn := last.torn || torn }
  let ahead := if y = outside then 0 else (s.die y).ring.transit.length + 1
  let route := if far then [] else pathLanes (bypassPath r.arr x)
  let b : Bypass := ⟨x, d, F, route, lost, y, ahead, none, false, 0, false, 0⟩
  let old := r.bypasses.map fun o => if o.at_ = x then { o with at_ := y, ahead := ahead, room := none } else o
  let s := if far then s else s.tick.updRing d fun z => { z with transit := last :: z.transit.drop 1 }
  let idx := if far then (du.regs.ringIdx + 1) % du.regs.ringSize else (s.die x).regs.ringIdx
  let dies := dropNat r.dies x
  let s := s.reindexAll dies idx
  let s : State := { s with rings := s.rings.set Ring.init k { r with dies := dies, bypasses := old ++ [b] } }
  if far then s else s.loseDie d x F

/-- The route of R396 may be taken: it runs from `d` to `y`, over idle, usable lanes and surviving dies. What lies in another module
of a spliced ring is not this module's to test. -/
def State.routeFree (s : State) (r : Ring) (d x y next : Nat) : Bool :=
  let path := bypassPath r.arr x
  x == outside ||
    (path.head? == some d && (y == outside || (path.getLast? == some y && !s.silent y next)) &&
      path.all (fun e => (r.spliced && (x == 15 && e == 0)) || !s.silent e next) &&
      (pathLanes path).all fun l => !hasNat s.host.badLanes l && !hasNat s.lanesUsed l)

/-- COL_BYPASS_TAKEOVER (R394, R396): the die at place `idx` of the ring has had no accept from the next one. Without a
free route the ring halts. -/
def execColBypassTakeover (ring idx : Nat) (s : State) : Host.Outcome State Fault Refusal :=
  let r := s.rings.get Ring.init ring
  let next := r.start + r.slotCycles
  match r.dies[idx]? with
  | none => notEnabled "COL_BYPASS_TAKEOVER"
  | some d =>
    let x := r.next d
    let y := if x = outside then outside else r.next x
    if !r.formed || r.halted || s.silent d next || (x != outside && !s.silent x next) then notEnabled "COL_BYPASS_TAKEOVER"
    else if s.routeFree r d x y next then .next (s.takeover ring r d x y)
    else .next { s with rings := s.rings.set Ring.init ring { r with halted := true } }

/-! ## What reaches this module of a spliced ring (R16, R396, R398) -/

/-- The extension receiver of a spliced ring is to take in a position. -/
def State.inbound (s : State) (ring : Nat) (p : Position) : Host.Outcome State Fault Refusal :=
  let r := s.rings.get Ring.init ring
  if !r.formed || !r.spliced then .refused (.notEnabled "extension port")
  else .next { s with rings := s.rings.set Ring.init ring { r with inFrom := r.inFrom ++ [p] } }
/-- A junction comes in with the lost segments that are left (R398): the one that die `up` of this module formed, or another
module's. -/
def State.inJunction (s : State) (ring up : Nat) (started : Bool) (idle : Nat) (lost : List LostSeg) :
    Host.Outcome State Fault Refusal :=
  let r := s.rings.get Ring.init ring
  match r.dies with
  | [] => .refused (.notEnabled "extension port")
  | d :: _ =>
    if !r.formed || !r.spliced then .refused (.notEnabled "extension port")
    else
      let x := (s.die d).ring
      let put (b : Bypass) : Bypass :=
        { b with at_ := d, ahead := x.transit.length, room := some x.room, started := started, idle := idle, lost := lost, spent := false, put := 0 }
      let l :=
        if r.bypasses.any fun b => b.up == up && b.at_ == outside
        then r.bypasses.map fun b => if b.up = up ∧ b.at_ = outside then put b else b
        else r.bypasses ++ [put ⟨outside, outside, 0, [], [], d, 0, none, false, 0, false, 0⟩]
      .next { s with rings := s.rings.set Ring.init ring { r with bypasses := l } }
/-- The slot number F of a takeover at the die before die `x`, which may stand in another module: its ring index is one lower than
`x`'s, or the last one (R270). -/
def DieRegs.slotBefore (r : DieRegs) : Nat := r.sigma + 385 - (if r.ringIdx = 0 then 384 * r.ringSize else 0)
/-- The die at ring index `idx` of a spliced ring is bypassed by a die of another module (R396): this module's dies take their new
index; where it is this module's first die, its work is lost and the next one takes its input from the receiver, after the position
that the failed die forwarded last (R397); a junction in its store is at the next die now. The ring halts where the route cannot be
taken or the next die has failed too. -/
def State.farBypass (s : State) (ring idx : Nat) : Host.Outcome State Fault Refusal :=
  let r := s.rings.get Ring.init ring
  let x := r.dies.headD 0
  let y := r.next x
  let next := r.start + r.slotCycles
  let put (s : State) (r : Ring) : State := { s with rings := s.rings.set Ring.init ring r }
  if !r.formed || !r.spliced then .refused (.notEnabled "extension port")
  else if (s.die x).regs.ringIdx ≠ idx then .next (s.reindexAll r.dies idx)
  else if !s.silent x next then .refused (.notEnabled "extension port")
  else
    let route := pathLanes (bypassPath r.arr x)
    if x ≠ 0 || s.silent y next || route.any fun l => hasNat s.host.badLanes l || hasNat s.lanesUsed l then
      .next (put s { r with halted := true })
    else
      let F := (s.die x).regs.slotBefore
      let dies := dropNat r.dies x
      let last := (s.die x).ring.transit.headD .empty
      let torn := last.torn || (last.seg.isSome && Config.freeNat s.free % 2 == 1)
      let s := s.tick.reindexAll dies idx
      let b : Bypass := ⟨x, outside, F, route, [], outside, 0, none, true, 0, true, 0⟩
      let old := r.bypasses.map fun o =>
        if o.at_ = x then { o with at_ := y, ahead := (s.die y).ring.transit.length + 1, room := none } else o
      .next ((put s { r with dies := dies, bypasses := old ++ [b], inFrom := { last with torn := torn } :: r.inFrom.drop 1 }).loseDie
        15 x F)

/-! ## Losses (R394, R405) -/

/-- An attention die is lost, and with it the KV sequences of its four ring dies (R405): no record of its sequence table is valid any
more, an attention command that runs there ends as a KV error at its first slot (R324), and what the die itself ran has ended
(log entry 127). -/
def State.loseAtt (s : State) (d : Nat) : State :=
  let s := s.updDie d fun x => { x with seqTab := x.seqTab.mapAll 0 fun r => setField r 73 73 0 }
  let s := (((List.range 16).filter fun e => attOf e == d) ++ [d]).foldl (fun s e =>
    (List.range (tilesOf e)).foldl (fun s t =>
      ((s.tile e t).eng.running.filter fun r => r.eng == 3).foldl (fun s r =>
        (s.updEng e t fun g => g.dropRun r.no).cmdError e t r.cmd (kvError (wf32 r.cmd.f 4))) s) s) s
  (s.endDie d).updRing d fun x => { x with stopped := true }
/-- DIE_FAILURE (R394, R405): whatever the cause, a ring die accepts and forwards nothing from the next slot on; an attention die
loses its sequences. -/
def execDieFailure (die : Nat) (_cause : DieFault) (s : State) : Host.Outcome State Fault Refusal :=
  .next (if isAtt die then s.loseAtt die else s.updRing die fun x => { x with stopped := true })
/-- Rings that `f` names halt: every job of theirs is interrupted (R405). -/
def State.haltRings (s : State) (f : Nat → Ring → Bool) : State :=
  { s with rings := s.rings.mapVals fun k r => if r.formed && f k r then { r with halted := true } else r }

/-! ## Soft errors and the patrol scrub (R402) -/

/-- An error comes about (R402, log entry 31): a corrected one is counted; an uncorrectable one is noted where it lies, and meets
the first access that reads it; one of a stream's own storage is counted and due as the machine-check abort. -/
def State.soft (s : State) (e : SoftError) : Host.Outcome State Fault Refusal :=
  let off : Host.Outcome State Fault Refusal := .refused (.notEnabled "soft error")
  match e with
  | .corrected d => if 20 ≤ d then off else .next (s.rasBump d 0)
  | .memory pa =>
    if (s.homeOf pa).isNone || (s.ctlAt pa).isSome || hasNat s.phys.bad pa then off
    else .next { s with phys := { s.phys with bad := s.phys.bad ++ [pa] } }
  | .tile d t a =>
    if tilesOf d ≤ t then off else .next (s.updTile d t fun x => { x with bad := if hasNat x.bad a then x.bad else x.bad ++ [a] })
  | .stream u =>
    match s.inst u with
    | none => off
    | some i => .next ((s.rasBump i.who.die 1).setInst u { i with ctx := { i.ctx with check := true } })
  | .redundant d t k =>
    if tilesOf d ≤ t || decide (2 < k) then off else .next (s.updTile d t fun x => { x with upsets := x.upsets ++ [k] })
  | .segment d n =>
    match (s.die d).ring.transit[n]? with
    | none => off
    | some p =>
      if p.seg.isNone || p.torn then off
      else .next ((s.rasBump d 1).updRing d fun x => { x with transit := setNth x.transit n { p with torn := true } })

/-- The bytes of a 64-byte line. -/
def lineBytes (l : Nat) : List Nat := (List.range 64).map (64 * l + ·)

/-- PATROL_SCRUB (R402): each line of the die's memory with an uncorrectable error that is not yet poisoned is counted
and poisoned; corrected errors are counted, as many as there are (log entry 26). -/
def execPatrolScrub (die : Nat) (s : State) : Host.Outcome State Fault Refusal :=
  let home : Home := if isAtt die then .hbm die else .dieMem die
  let mine := s.phys.bad.filter fun a => s.homeOf a == some home
  let lines := ((mine.map (· / 64)).eraseDups).filter fun l => !(lineBytes l).all (hasNat s.phys.bad)
  let s := lines.foldl (fun (s : State) l =>
    let s := s.rasBump die 1
    { s with phys := { s.phys with bad := s.phys.bad ++ (lineBytes l).filter fun a => !hasNat s.phys.bad a } }) s
  let n := Config.freeNat s.free
  .next (s.tick.updDie die fun d =>
    { d with ras := setField d.ras 31 0 (Nat.min 0xFFFF_FFFF (fieldOf d.ras 31 0 + n)) })

end Sys2Proof.Machine
end

