-- ==== Sys2Proof/Machine/Front.lean ====
section
/-! DEFINITION. The front end (R356 to R366): examination of the queues, the packet types, prologues, completions and
queue resets. -/

namespace Sys2Proof.Machine

/-! ## Queues -/

/-- en of the shadow (R356). -/
def GQueue.on (g : GQueue) : Bool := fieldOf g.shadow 77 77 == 1
/-- sup of the shadow. -/
def GQueue.sup (g : GQueue) : Bool := fieldOf g.shadow 78 78 == 1
/-- asid of the shadow. -/
def GQueue.asid (g : GQueue) : Nat := fieldOf g.shadow 76 68
/-- seq: the sequence number that the front end expects next. -/
def GQueue.seq (g : GQueue) : Nat := fieldOf g.shadow 191 160
/-- rd: packets consumed. -/
def GQueue.rd (g : GQueue) : Nat := fieldOf g.shadow 223 192
/-- state: 0 off, 1 idle, 2 running, 3 waiting, 4 resetting, 5 error. -/
def GQueue.st (g : GQueue) : Nat := fieldOf g.shadow 231 224
/-- Packets that the ring holds. -/
def GQueue.cap (g : GQueue) : Nat := 2 ^ (fieldOf g.shadow 67 64 + 4)
/-- Virtual address of the slot of packet `rd`. -/
def GQueue.slotVa (g : GQueue) : Nat := fieldOf g.shadow 63 0 / 4096 * 4096 + 64 * (g.rd % g.cap)
/-- The queue in a state. -/
def GQueue.put (g : GQueue) (v : Nat) : GQueue := { g with shadow := setField g.shadow 231 224 v }
/-- The stored copies of a `LOOP` are all read and some act is left (R361). -/
def GQueue.replays (g : GQueue) : Bool := !g.copies.isEmpty && g.toRead == 0
/-- state as the queue's work says: idle, running or waiting; off, resetting and error stay. -/
def GQueue.refresh (g : GQueue) : GQueue :=
  if g.st = 0 ∨ 4 ≤ g.st then g
  else if g.waiting ∨ g.page.isSome then g.put 3
  else if g.head.isSome ∨ !g.open_.isEmpty ∨ g.replays ∨ g.toRead ≠ 0 then g.put 2
  else g.put 1
/-- Consumes packet `rd` (R359): a seq that would become 0 becomes 1. -/
def GQueue.consume (g : GQueue) : GQueue :=
  let n := (g.seq + 1) % 2 ^ 32
  { g with shadow := setField (setField g.shadow 191 160 (if n = 0 then 1 else n)) 223 192 (g.rd + 1) }
/-- Nothing is left to interpret. -/
def GQueue.clear (g : GQueue) : GQueue :=
  { g with head := none, waiting := false, copies := [], toRead := 0, left := 0, skip := 0, kick := false, page := none }

/-- type of a packet (R359). -/
def Packet.typ (p : Packet) : Nat := fieldOf p.hdr 39 32
/-- bar. -/
def Packet.bar (p : Packet) : Bool := fieldOf p.hdr 40 40 == 1
/-- cmpl. -/
def Packet.cmpl (p : Packet) : Bool := fieldOf p.hdr 41 41 == 1
/-- remote. -/
def Packet.remote (p : Packet) : Bool := fieldOf p.hdr 42 42 == 1
/-- die. -/
def Packet.die (p : Packet) : Nat := fieldOf p.hdr 52 48
/-- Word `k` of a packet, 2 to 7. -/
def Packet.w (p : Packet) (k : Nat) : Nat := (p.body.getD (k - 2) 0).toNat
/-- Every word from `k` on is zero (R361). -/
def Packet.unused (p : Packet) (k : Nat) : Bool := (p.body.drop (k - 2)).all (· == 0)
/-- The packet is complete (R361): its own action done, every record it launched retired, every write at its home. -/
def Packet.complete (p : Packet) : Bool := p.ready && !p.prologue && p.recs.isEmpty && p.inq == 0 && p.posted.isEmpty
/-- A packet as read from its slot. -/
def Packet.ofSlot (no v : Nat) : Packet :=
  ⟨0, no, v % 2 ^ 32, BitVec.ofNat 64 v, BitVec.ofNat 64 (v / 2 ^ 64),
    (List.range 6).map fun k => BitVec.ofNat 64 (v / 2 ^ (64 * (k + 2))), [], 0, false, 0, false, [], 0, [], []⟩

/-- A header that is a packet error whatever the body (R359, R361, R407). -/
def State.headerBad (s : State) (g : GQueue) (p : Packet) : Bool :=
  let a := p.caddr.toNat
  fieldOf p.hdr 47 43 != 0 || fieldOf p.hdr 63 53 != 0 || decide (9 < p.typ) || (decide (8 ≤ p.typ) && !g.sup) ||
    (if p.cmpl then a % 8 != 0 || a / 2 ^ 55 != 0 else a != 0) || decide (19 < p.die) ||
    (if p.typ = 0 ∨ p.typ = 6 ∨ p.typ = 7 then p.die != 0 else s.partOf p.die != s.asidPart g.asid)

/-- A packet error (R361): the queue goes to state 5 and record 0x08 names the packet. -/
def State.packetError (s : State) (q die no : Nat) : State :=
  (s.updQueue q fun g => g.clear.put 5).err (some q) 8 (s.queue q).asid die 31 q no

/-- Changes the firmware complex. -/
def State.updFw (s : State) (f : Firmware → Firmware) : State := { s with fw := f s.fw }
/-- The packet core of a queue (R356): the one that the policy core has assigned, else the queues go round (log entry 150). -/
def State.coreOf (s : State) (q : Nat) : Nat := (s.fw.cores.find q).getD (1 + q % 6)

/-- A read of the front end at a physical address, with or without acquire at sys scope: an answer of another module is free (log
entry 21), an uncorrectable error is counted. -/
def State.frontLoad (s : State) (q pa n : Nat) (acq : Bool) : State × Nat :=
  if isSpan pa then (s.tick, Config.freeNat s.free % 256 ^ n)
  else
    let t := s.queueOrd q fun o => s.reads o pa n (if acq then some 4 else none) false
    (if s.badAt pa n then t.uecc pa else t, s.readPa pa n)

/-- A page that the front end waits for is asked for; answers the request number (R360, R378). -/
def State.frontPage (s : State) (q die va : Nat) : State × Nat := s.pageRequest va (s.queue q).asid 0 die

/-- The examination of the slot of packet rd (R360), repeated after each packet that it consumes without acting on it
(R361: a skipped packet, or a packet of a `LOOP` body). The sequence word is read with acquire at sys scope, words 1 to 7 only where it
is the one expected. The number bounds the repetition. -/
def State.examine (q : Nat) : Nat → State → Host.Outcome State Fault Refusal
  | 0, s => .next s
  | n + 1, s =>
    let g := s.queue q
    if !g.on || decide (4 ≤ g.st) then .next (s.updQueue q fun g => { g with kick := false })
    else if s.fw.quiesced then .next (s.updQueue q fun g => { g with kick := true })
    else if g.head.isSome || g.replays then .next s
    else
      let s := s.updQueue q fun g => { g with kick := false, page := none }
      match s.feResolve g.asid g.slotVa .read with
      | (_, .noMem pa) => .fault (.noMemory pa)
      | (s, .paged) =>
        let r := s.frontPage q 0 g.slotVa
        .next (r.1.updQueue q fun g => { g with page := some r.2 }.put 3)
      | (s, .ok pa) =>
        let h := s.frontLoad q pa 8 true
        if h.2 % 2 ^ 32 ≠ g.seq then .next (h.1.updQueue q GQueue.refresh)
        else
        let r := h.1.frontLoad q (pa + 8) 56 false
        let s := r.1
        let p := Packet.ofSlot g.rd (h.2 + 2 ^ 64 * r.2)
        if 0 < g.skip then (s.updQueue q fun g => { g.consume with skip := g.skip - 1 }).examine q n
        else if s.headerBad g p then .next (s.packetError q p.die g.rd)
        else if g.toRead = 0 then .next (s.updQueue q fun g => { g with head := some p }.refresh)
        else if p.typ = 6 then .next (s.packetError q p.die g.rd)
        else
          let s := s.updQueue q fun g => { g.consume with copies := g.copies ++ [p], toRead := g.toRead - 1 }
          if g.toRead = 1 then .next (s.updQueue q fun g => { g with head := g.copies.head? }.refresh) else s.examine q n
      | (s, _) => .next (s.packetError q 31 g.rd)

/-- The examination after a packet has been consumed (R360). -/
def State.exam (s : State) (q : Nat) : Host.Outcome State Fault Refusal :=
  s.examine q ((s.queue q).skip + (s.queue q).toRead + 1)

/-- What the queue starts next: the next stored copy of a `LOOP`, with the copies that a `COND` skips passed over, else the
packet in the next slot (R361). -/
def State.nextHead (s : State) (q : Nat) : Host.Outcome State Fault Refusal :=
  let g := s.queue q
  if g.replays then
    let k := Nat.min g.skip g.left
    let n := g.copies.length
    let left := g.left - k
    if left = 0 then (s.updQueue q fun g => { g with copies := [], left := 0, skip := g.skip - k }).exam q
    else .next (s.updQueue q fun g =>
      { g with left := left, skip := g.skip - k, head := g.copies[(n - left % n) % n]? }.refresh)
  else s.exam q

/-- Examines the queues whose kick is latched, and starts the resets that a store asked for: what a store to a doorbell or
a QCB sets off. -/
def State.wake (s : State) (start : Nat → State → State) : Host.Outcome State Fault Refusal :=
  s.host.queues.cells.foldl (fun o c => match o with
    | .next s =>
      let g := s.queue c.1
      let s := if fieldOf g.shadow 232 232 = 1 ∧ g.st ≠ 4 then start c.1 s else s
      if (s.queue c.1).kick then s.exam c.1 else .next s
    | o => o) (.next s)

/-- QUEUE_DOORBELL_WRITE (R360): a kick carries no data; the slot of packet rd is examined. -/
def execQueueDoorbellWrite (q : Nat) (s : State) : Host.Outcome State Fault Refusal :=
  match (s.queue q).page with
  | some no => if s.host.requests.any (·.1 == no) then .next s else s.exam q
  | none => s.exam q

/-- QCB_COMMIT (R358): a write to commit. -/
def execQcbCommit (q gen : Nat) (s : State) : Host.Outcome State Fault Refusal := .next (s.commitQcb q gen)

/-! ## Starting a packet -/

/-- What starting a packet, or going on with one that waits, gives. -/
inductive Act where
  /-- It has started: it counts as open, with what is left of it. -/
  | go (s : State) (p : Packet)
  /-- It waits, the queue in state 3, for a page or for its condition. -/
  | wait (s : State) (p : Packet) (page : Option Nat)
  /-- A packet error. -/
  | bad (s : State) (p : Packet)
  /-- It cannot start now. -/
  | later
  /-- It accesses an address behind which nothing exists. -/
  | noMem (pa : Nat)

/-- The packet that the queue may start or go on with (R359, R361, R369): of the type, not held back by bar or by a missing page.
While an update of the firmware quiesces the packet cores, only a packet that has started goes on. -/
def State.startable (s : State) (q ty : Nat) : Option Packet :=
  let g := s.queue q
  match g.head with
  | none => none
  | some p =>
    let held := match g.page with
      | some no => s.host.requests.any (·.1 == no)
      | none => false
    if p.typ = ty ∧ g.on ∧ g.st < 4 ∧ (!s.fw.quiesced ∨ g.waiting) ∧ !held ∧ (g.waiting ∨ !p.bar ∨ g.open_.isEmpty) then some p else none

/-- The queue with its head consumed: a packet of the ring by rd and seq, a stored copy by the acts left. -/
def GQueue.begin_ (g : GQueue) : GQueue :=
  if g.waiting then { g with waiting := false, page := none }
  else
    let h := if g.replays then { g with left := g.left - 1 } else g.consume
    { h with starts := g.starts + 1, page := none }

/-- Starts the head packet if it has the type: `f` says what it does. The queue's packet core has taken it last (R356). -/
def State.startPacket (s : State) (q ty : Nat) (name : String) (f : State → Packet → Act) : Host.Outcome State Fault Refusal :=
  match s.startable q ty with
  | none => notEnabled name
  | some p =>
    let g := s.queue q
    let p := if g.waiting then p else { p with key := g.starts }
    let s := s.updFw fun w => { w with turn := w.turn.put (s.coreOf q) q }
    match f (s.updQueue q GQueue.begin_) p with
    | .later => notEnabled name
    | .noMem pa => .fault (.noMemory pa)
    | .bad s p => .next (s.packetError q p.die p.no)
    | .wait s p page => .next (s.updQueue q fun g => { g with head := some p, waiting := true, page := page }.put 3)
    | .go s p => (s.updQueue q fun g => { g with head := none, open_ := g.open_ ++ [p] }.refresh).nextHead q

/-- The page request of a packet. -/
def Act.page (s : State) (q : Nat) (p : Packet) (va : Nat) : Act :=
  let r := s.frontPage q p.die va
  .wait r.1 p (some r.2)

/-- An access of a packet at a virtual address of its queue (R361). -/
def State.packetAt (s : State) (q : Nat) (p : Packet) (va : Nat) (k : Acc) (f : State → Nat → Act) : Act :=
  match s.feResolve (s.queue q).asid va k with
  | (s, .ok pa) => f s pa
  | (s, .paged) => Act.page s q p va
  | (_, .noMem pa) => .noMem pa
  | (s, _) => .bad s p

/-- A store or `AADD` of a packet: at its home now, or sent to another module (R383, R384). `rel` is the scope of its release,
which covers what is carried to the packet core and to the packet (R260). -/
def State.packetStore (s : State) (q : Nat) (p : Packet) (va pa n op v : Nat) (rel : Option Nat) : State × Packet :=
  if isSpan pa then
    (s.sendSpan ⟨none, (s.queue q).asid, some q, p.die, pa, va, n, op, v, (s.die p.die).cyc, 1⟩,
      { p with posted := p.posted ++ [s.ports.nextMsg] })
  else
    let o := (s.queue q).ledger
    let heads := match rel with
      | some k => (o.learn p.view).release k
      | none => o.rels
    let r := if op = 1 then s.rmwAs o pa n (s.readPa pa n + v) heads else s.writeAs o pa n v heads
    (r.1.queueOrd q fun _ => r.2, p)
/-- Scope of a packet's release (R361, R365): dev, or sys where its waiter is on another module. -/
def Packet.relScope (p : Packet) : Nat := if p.remote then 4 else 3

/-! ## The packet types (R361) -/

/-- GULDON_NOP. -/
def execGuldonNop (q : Nat) (s : State) : Host.Outcome State Fault Refusal :=
  s.startPacket q 0 "GULDON_NOP" fun s p => if p.unused 2 then .go s { p with ready := true } else .bad s p

/-- The launch record image of a packet. -/
def Packet.image (p : Packet) : BitVec 256 :=
  BitVec.ofNat 256 (p.w 2 + p.w 3 * 2 ^ 64 + p.w 4 * 2 ^ 128 + p.w 5 * 2 ^ 192)
/-- Writes a record of a packet to the launch queue of its die: a release at dev scope (R361). -/
def State.packetLaunch (s : State) (q : Nat) (p : Packet) (img : BitVec 256) : State :=
  s.enqueue p.die ⟨img, (s.queue q).asid, some q, some p.key, false, 0, none, (headOf hostPos 3 (s.queue q).ledger.view).head?⟩

/-- The prologue of a packet at its first instruction (R363). -/
def State.prologueInst (s : State) (q : Nat) (p : Packet) (run stack : Nat) : Inst :=
  let d := p.die
  let entry : Word64 := BitVec.ofNat 64 (p.w 6)
  let i : Inst :=
    { who := ⟨.prologue, 0, (s.queue q).asid, d, BitVec.ofNat 32 (2 ^ 30 + q), 0, 0x0001_0001, 0, none, some q, 3⟩
      ctx := Ctx.init entry 0
      range := ⟨0, 0, true, 0, 0, false⟩
      sched := ⟨.resident, some (frontSeq d), 0, (s.die d).cyc, 0, 0, false, .none, 0, false, none, none, some stack, none, false,
        [], false, false, none, [], none⟩
      coh := none
      ex := ⟨false, false, false, none, none, false, BitVec.ofNat 32 run, BitVec.ofNat 64 (s.phys.scratchVa + d * 2 ^ 24),
        BitVec.ofNat 64 (p.w 7), entry, 0, false, (0, 0), false, 0⟩ }
  let i := i.fresh (s.stackTop d stack)
  { i with ctx := { i.ctx with ord := { Ledger.init with view := narrow 3 (s.queue q).ledger.view } } }
/-- Where the front end keeps the image copy of a die's prologue (R363). -/
def State.scratchAt (s : State) (d : Nat) : Nat := s.dieBase d + s.phys.scratchPa

/-- Starts the prologue of a packet on the front-end sequencer of its die (R335, R363): one at a time. -/
def State.startPrologue (s : State) (q : Nat) (p : Packet) : Act :=
  let d := p.die
  match s.host.prologues.find d, freeBelow (s.die d).sch.stackIds (s.die d).regs.stkn.toNat with
  | none, some k =>
    let u := s.nextUid
    let s := { s with nextUid := u + 1 }.writePa (s.scratchAt d) 32 p.image.toNat
    let s := s.updSch d fun x => { x with stackIds := x.stackIds ++ [k] }
    let s := s.setInst u (s.prologueInst q p 0 k)
    let s := s.updSeq d (frontSeq d) fun x => { x with slots := x.slots.put 0 u }
    .go (s.updHost fun h => { h with prologues := h.prologues.put d (q, p.key, 0) }) { p with prologue := true }
  | _, _ => .later

/-- GULDON_LAUNCH. A prologue PC that no stream may hold (R79) is a packet error (log entry 170). -/
def execGuldonLaunch (q : Nat) (s : State) : Host.Outcome State Fault Refusal :=
  s.startPacket q 1 "GULDON_LAUNCH" fun s p =>
    if p.w 6 ≠ 0 then (if addrBad (p.w 6) 8 then .bad s p else s.startPrologue q p)
    else if s.launchFull p.die then .later
    else .go (s.packetLaunch q p p.image) { p with inq := 1, ready := true }

/-- GULDON_ILAUNCH: ex and ey come from memory. -/
def execGuldonIlaunch (q : Nat) (s : State) : Host.Outcome State Fault Refusal :=
  s.startPacket q 2 "GULDON_ILAUNCH" fun s p =>
    if !p.unused 7 || addrBad (p.w 6) 4 then .bad s p
    else if s.launchFull p.die then .later
    else s.packetAt q p (p.w 6) .read fun s pa =>
      let r := s.frontLoad q pa 4 true
      .go (r.1.packetLaunch q p (setField p.image 95 64 r.2)) { p with inq := 1, ready := true }

/-- Copies the bytes left of a `COPY`, ascending: a failed access ends it, a missing page suspends it. -/
def State.copyBytes (q : Nat) : Nat → State → Packet → Act
  | 0, s, p => .go s { p with ready := true }
  | n + 1, s, p =>
    let src := p.w 2 + p.pos
    let dst := p.w 3 + p.pos
    match s.feResolve (s.queue q).asid src .read with
    | (s, .ok pa) =>
      match s.feResolve (s.queue q).asid dst .write with
      | (s, .ok pb) =>
        let r := s.frontLoad q pa 1 false
        let t := r.1.packetStore q p dst pb 1 0 r.2 none
        t.1.copyBytes q n { t.2 with pos := p.pos + 1 }
      | (s, .paged) => Act.page s q p dst
      | (_, .noMem pb) => .noMem pb
      | (s, _) => .bad s p
    | (s, .paged) => Act.page s q p src
    | (_, .noMem pa) => .noMem pa
    | (s, _) => .bad s p

/-- GULDON_COPY. -/
def execGuldonCopy (q : Nat) (s : State) : Host.Outcome State Fault Refusal :=
  s.startPacket q 3 "GULDON_COPY" fun s p =>
    if !p.unused 5 || p.w 4 = 0 || decide (2 ^ 32 < p.w 4) then .bad s p else s.copyBytes q (p.w 4 - p.pos) p

/-- The semaphore reference of a packet is good on its die (R207, R361). -/
def State.packetRef (s : State) (q : Nat) (p : Packet) : Bool :=
  p.w 2 / 2 ^ 13 == 0 && s.refOk p.die (s.queue q).asid (BitVec.ofNat 32 (p.w 2))

/-- Some posted store of the queue's work has not been acknowledged (R260). -/
def State.workPosted (s : State) (q : Nat) : Bool := s.ports.sent.cells.any fun m => m.2.queue == some q && m.2.op == 0
/-- What is carried to the packet core goes to a semaphore (R248). -/
def State.packetSem (s : State) (q : Nat) (p : Packet) : State :=
  s.semRelease p.die (p.w 2 / 256 % 32) (p.w 2 % 256) (headOf hostPos p.relScope (s.queue q).ledger.view)
/-- GULDON_SIGNAL: with a waiter on another module it is a release at sys scope, after the acknowledgements that R260 names. -/
def execGuldonSignal (q : Nat) (s : State) : Host.Outcome State Fault Refusal :=
  s.startPacket q 4 "GULDON_SIGNAL" fun s p =>
    let op := p.w 4
    let t := p.w 2 / 256 % 32
    let i := p.w 2 % 256
    let p' := { p with ready := true }
    if 3 < op || !p.unused 5 then .bad s p
    else if p.remote && s.workPosted q then .later
    else if op < 2 then
      if addrBad (p.w 2) 8 then .bad s p
      else s.packetAt q p (p.w 2) (if op = 0 then .write else .both) fun s pa =>
        let r := s.packetStore q p' (p.w 2) pa 8 op (p.w 3) (some p.relScope)
        .go r.1 r.2
    else if !s.packetRef q p then .bad s p
    else if op = 2 then .go ((s.packetSem q p).semAdd p.die t i (p.w 3)) p'
    else .go ((s.packetSem q p).semStep p.die t i (BitVec.ofNat 32 (p.w 3))) p'

/-- A `WAIT` reads its location: it is done, or it waits on (R361). -/
def State.waitPacket (s : State) (q : Nat) (p : Packet) : Act :=
  let p' := { p with ready := true }
  let v := p.w 3
  if 2 < p.w 4 || !p.unused 5 then .bad s p
  else if p.w 4 = 2 then
    if !s.packetRef q p then .bad s p
    else if v % 2 ^ 32 ≤ (s.sem p.die (p.w 2 / 256 % 32) (p.w 2 % 256)).toNat then
      .go (s.queueOrd q fun o => o.acquire (s.semHeads p.die (p.w 2 / 256 % 32) (p.w 2 % 256)) 4) p'
    else .wait s p none
  else if addrBad (p.w 2) 8 then .bad s p
  else s.packetAt q p (p.w 2) .read fun s pa =>
    let r := s.frontLoad q pa 8 true
    if (if p.w 4 = 0 then decide (v ≤ r.2) else r.2 == v) then .go r.1 p' else .wait r.1 p none

/-- GULDON_WAIT: the first read. -/
def execGuldonWait (q : Nat) (s : State) : Host.Outcome State Fault Refusal :=
  if (s.queue q).waiting then notEnabled "GULDON_WAIT"
  else s.startPacket q 5 "GULDON_WAIT" fun s p => s.waitPacket q p

/-- GULDON_WAIT_SATISFIED: a later read of a `WAIT` finds its condition true, or fails. -/
def execGuldonWaitSatisfied (q : Nat) (s : State) : Host.Outcome State Fault Refusal :=
  if !(s.queue q).waiting then notEnabled "GULDON_WAIT_SATISFIED"
  else s.startPacket q 5 "GULDON_WAIT_SATISFIED" fun s p =>
    match s.waitPacket q p with
    | .wait _ _ none => .later
    | a => a

/-- GULDON_LOOP: the next n packets are read once and acted on k times. -/
def execGuldonLoop (q : Nat) (s : State) : Host.Outcome State Fault Refusal :=
  s.startPacket q 6 "GULDON_LOOP" fun s p =>
    let n := p.w 2
    let k := p.w 3
    if !p.unused 4 || n = 0 || decide (16 < n) || k = 0 || decide (2 ^ 32 ≤ k) || decide ((s.queue q).cap ≤ n) then .bad s p
    else .go (s.updQueue q fun g => { g with toRead := n, left := n * k }) { p with ready := true }

/-- The condition of a `COND`. -/
def condHolds (op m v : Nat) : Bool :=
  match op with
  | 0 => m == v
  | 1 => m != v
  | 2 => decide (m < v)
  | _ => decide (v ≤ m)

/-- GULDON_COND: a false condition skips the next n packets. -/
def execGuldonCond (q : Nat) (s : State) : Host.Outcome State Fault Refusal :=
  s.startPacket q 7 "GULDON_COND" fun s p =>
    let n := p.w 5
    if !p.unused 6 || decide (3 < p.w 4) || decide (2 ^ 16 ≤ n) || decide ((s.queue q).cap ≤ n) || addrBad (p.w 2) 8 then
      .bad s p
    else s.packetAt q p (p.w 2) .read fun s pa =>
      let r := s.frontLoad q pa 8 true
      let p' := { p with ready := true }
      if condHolds (p.w 4) r.2 (p.w 3) then .go r.1 p' else .go (r.1.updQueue q fun g => { g with skip := n }) p'

/-- The first page of a range that is marked paged-out. -/
def State.pagedOf (s : State) (asid : Nat) (pg : Nat × Nat) : Option Nat :=
  ((List.range pg.2).map fun k => 65536 * (pg.1 + k)).find? fun va =>
    match (s.feResolve asid va .read).2 with
    | .paged => true
    | _ => false

/-- Reads a range of pages for a packet; while a walk has to wait (R374), the packet starts later. -/
def State.packetPages (s : State) (q : Nat) (p : Packet) (va n : Nat) (f : State → (Nat → Nat → Nat) → Nat → Act) : Act :=
  let asid := (s.queue q).asid
  let pg := pagesOf va n
  match s.mapRange p.die asid .read pg.1 pg.2 with
  | (s, .ok l) => f s (s.virtRd l va) (viaPages l va)
  | (_, .error (.noMem pa)) => .noMem pa
  | (_, .error .miss) => .later
  | (s, .error _) => match s.pagedOf asid pg with
    | some v => Act.page s q p v
    | none => .bad s p

/-- The lowest free slot of the sequencers of a tile. -/
def State.tileSlot (s : State) (d t : Nat) : Option (Nat × Nat) :=
  (List.range 4).findSome? fun k => (s.freeSlot d (4 * t + k)).map (4 * t + k, ·)

/-- GULDON_RESTORE (R346, R352): the instance that was parked in the named frame is restored on its saving tile. -/
def execGuldonRestore (q : Nat) (s : State) : Host.Outcome State Fault Refusal :=
  s.startPacket q 8 "GULDON_RESTORE" fun s p =>
    let d := p.die
    if !p.unused 3 || addrBad (p.w 2) 256 then .bad s p
    else s.packetPages q p (p.w 2) frameSize fun s rd pa =>
      match (s.instsOn d).find? fun x => x.2.sched.status == .held && x.2.sched.heldAt == some pa with
      | none => .bad s p
      | some (u, i) =>
        if frameBad rd || (framePending rd && (rd 0x20 4 != i.who.task.toNat || rd 0x24 4 != i.who.blk.toNat)) then .bad s p
        else match s.tileSlot d (i.sched.accTile.getD 0) with
          | none => .later
          | some (x, k) =>
            let done (s : State) (rows : Nat → Nat → Nat) : Act :=
              match s.restoreIn u i x k (s.die d).cyc rd rows with
              | .ok t () => .go t { p with ready := true }
              | .wait _ va => if s.walk i.who.asid va .read = .paged then Act.page s q p va else .later
              | .err t _ => .go t { p with ready := true }
              | .noMem pa => .noMem pa
            if rd 0 4 / 2 ^ 16 % 2 = 1 ∧ rd 0x35C 4 ≠ 0 then
              s.packetPages q p (rd 0x368 8) (3072 * Nat.min 512 (rd 0x35C 4)) fun s rows _ => done s rows
            else done s fun _ _ => 0

/-- GULDON_DOORBELL (R344): bits of `%hdb` of a sequencer are set. -/
def execGuldonDoorbell (q : Nat) (s : State) : Host.Outcome State Fault Refusal :=
  s.startPacket q 9 "GULDON_DOORBELL" fun s p =>
    if !p.unused 4 || decide (frontSeq p.die ≤ p.w 2) || decide (2 ^ 32 ≤ p.w 3) then .bad s p
    else .go (s.updSeq p.die (p.w 2) fun x => { x with hdb := x.hdb ||| BitVec.ofNat 32 (p.w 3) }) { p with ready := true }

/-! ## The end of a prologue, and completions -/

/-- The packet of a prologue goes on: `more` images written, its own action done or its prologue runs again. -/
def State.prologueTurn (s : State) (q key more : Nat) (done : Bool) : State := s.updQueue q fun g =>
  { g with open_ := g.open_.map fun p =>
      if p.key = key then { p with inq := p.inq + more, ready := done, prologue := !done, run := p.run + 1 } else p }

/-- PROLOGUE_END (R363, R364): after `EXIT` the front end acts on s6[1:0]. -/
def execPrologueEnd (die : Nat) (s : State) : Host.Outcome State Fault Refusal :=
  match s.host.prologues.find die, (s.instsOn die).find? fun x => x.2.who.kind == .prologue && x.2.sched.status == .exited with
  | some (q, key, run), some (u, i) =>
    match (s.queue q).open_.find? fun p => p.key == key with
    | none => notEnabled "PROLOGUE_END"
    | some p =>
      let act := (i.ctx.landAll.regs.getS 6).toNat % 4
      let img := BitVec.ofNat 256 (s.readPa (s.scratchAt die) 32)
      let finish (s : State) (more : Nat) : State :=
        (((s.queueOrd q fun o => o.learn (narrow 3 i.ctx.ord.view)).gone u).updHost fun h =>
          { h with prologues := h.prologues.del die }).prologueTurn q key more true
      if act = 1 then .next (finish s 0)
      else if act = 3 then .next (s.prologueCancel die u 3)
      else if s.launchFull die then notEnabled "PROLOGUE_END"
      else
        let s := s.packetLaunch q p img
        if act = 0 then .next (finish s 1)
        else
          let s := s.prologueTurn q key 1 false
          if 1024 ≤ run + 1 then .next (s.prologueCancel die u 4)
          else
            let s := s.setInst u (s.prologueInst q p (run + 1) (i.sched.stack.getD 0))
            let s := s.updSeq die (frontSeq die) fun x => { x with slots := x.slots.put 0 u }
            .next (s.updHost fun h => { h with prologues := h.prologues.put die (q, key, run + 1) })
  | _, _ => notEnabled "PROLOGUE_END"

/-- PACKET_COMPLETION (R260, R359, R365): a complete packet posts its seq and holds nothing back any more; for a waiter on another
module only when every posted store of its blocks has been acknowledged. `pkt` is the number of its start. -/
def execPacketCompletion (q pkt : Nat) (s : State) : Host.Outcome State Fault Refusal :=
  let g := s.queue q
  match g.open_.find? fun p => p.key == pkt with
  | none => notEnabled "PACKET_COMPLETION"
  | some p =>
    if !p.complete || g.st = 4 || (p.remote && !p.late.isEmpty) then notEnabled "PACKET_COMPLETION"
    else
      let s := s.updQueue q fun g => { g with open_ := g.open_.filter fun x => x.key != pkt }.refresh
      if !p.cmpl then .next s
      else match s.feResolve g.asid p.caddr.toNat .write with
        | (s, .ok pa) => .next (s.packetStore q p p.caddr.toNat pa 8 0 p.seq (some p.relScope)).1
        | (_, .noMem pa) => .fault (.noMemory pa)
        | (s, _) => .next (s.err (some q) 0x10 g.asid p.die 31 q p.no)

/-- PAGE_RESUME (R360, R378): the runtime writes a request number to a die's page-resume register; the examinations that
waited for the page resume. -/
def execPageResume (die reqno : Nat) (s : State) : Host.Outcome State Fault Refusal :=
  let s := s.resumePage die reqno
  s.host.queues.cells.foldl (fun o c => match o with
    | .next s => if c.2.page = some reqno ∧ c.2.head.isNone then s.exam c.1 else .next s
    | o => o) (.next s)

/-! ## Queue reset (R366) -/

/-- A command stands for a stream: its own push, or a word of one of its chains. -/
def Engines.ofStream (e : Engines) (u : Nat) (c : Cmd) : Bool :=
  match c.chain with
  | some (n, _) => match e.chains.find n with
    | some x => x.uid == u
    | none => false
  | none => c.uid == u

/-- Drops the commands of a stream that have not started; its chains fetch no further word. -/
def Engines.dropQueued (e : Engines) (u : Nat) : Engines :=
  let keep (c : Cmd) : Bool := !e.ofStream u c
  { e with
    queues := e.queues.mapAll [] fun l => l.filter keep
    restored := e.restored.filter keep
    chains := e.chains.mapVals fun _ x => if x.uid = u then { x with count := x.next } else x
    lease := e.lease.bind fun l =>
      let n := ((e.queues.get [] l.pos).filter (e.ofStream u)).length
      let l := { l with pushed := l.pushed - n }
      if l.ended ∧ l.pushed = 0 then none else some l }

/-- Drops the unstarted commands of a stream on every tile of its die. -/
def State.dropCommands (s : State) (d u : Nat) : State :=
  (List.range (tilesOf d)).foldl (fun s t => s.updEng d t fun e => e.dropQueued u) s

/-- The instance has started: it runs, waits, is parked, held or trapped, or has issued a word. -/
def Inst.began (i : Inst) : Bool :=
  decide (0 < i.ctx.issued) || i.sched.committed ||
    [Status.running, .blocked, .parked, .held, .trapped].any (· == i.sched.status)

/-- An unstarted record is ended (R31, R366): nothing of it runs, and the record that its cont names is lowered. -/
def State.endRec (s : State) (d n : Nat) (r : Rec) : State :=
  let s := r.live.foldl (fun s u => match s.inst u with
    | some i => { (s.forget u i) with insts := s.insts.del u }
    | none => s) s
  let s := s.setRec d n { r with ended := true, live := [], tailDue := 0, confirmed := true }
  let s := s.updSch d fun x => { x with confirms := dropNat x.confirms n, tails := dropNat x.tails n }
  let s := if r.holders = 0 then s.updSch d fun x => { x with recs := x.recs.del n } else s
  if r.i 127 112 = 0xFFFF then s else s.contRelease d (r.i 127 112) r.asid r.queue

/-- The launch queue, the unstarted records and the tails of a queue's work on a die go; what waited for them may start (R27). -/
def State.resetDie (s : State) (q d : Nat) : State :=
  let s := s.updSch d fun x =>
    { x with launchq := x.launchq.filter fun r => r.queue != some q }
  State.checkReady (d := d) <| ((s.die d).sch.recs.cells.filter fun p => p.2.queue == some q).foldl (fun s p =>
    match s.recOf d p.1 with
    | none => s
    | some r =>
      if !r.started || (r.i 109 109 == 1 && !r.confirmed && !r.live.any fun u => ((s.inst u).map (·.began)).getD false) then
        s.endRec d p.1 r
      else
        let s := s.updSch d fun x => { x with confirms := dropNat x.confirms p.1, tails := dropNat x.tails p.1 }
        s.setRec d p.1 { r with tailDue := 0, confirmed := true }) s

/-- The running prologues of a queue are cancelled (R366). -/
def State.resetPrologues (s : State) (q : Nat) : State :=
  let ds := (s.host.prologues.cells.filter fun c => c.2.1 == q).map (·.1)
  ds.foldl (fun s d =>
    let us := ((s.instsOn d).filter fun x => x.2.who.kind == .prologue).map (·.1)
    (us.foldl State.gone s).updHost fun h => { h with prologues := h.prologues.del d }) s

/-- The reset starts (R366): consumption stops, prologues are cancelled, unstarted blocks trimmed, instances ended, and the
commands they pushed that have not started dropped. -/
def State.resetStart (q : Nat) (s : State) : State :=
  let s := s.updQueue q fun g => { g.clear.put 4 with ended := 0 }
  let s := s.updQueue q fun g => { g with shadow := setField g.shadow 232 232 1 }
  let s := s.resetPrologues q
  let s := (List.range 20).foldl (fun s d => s.resetDie q d) s
  let l := s.insts.cells.filter fun p => p.2.who.queue == some q
  let n := (l.filter fun p => p.2.began).length
  let s := l.foldl (fun s p => (s.dropCommands p.2.who.die p.1).gone p.1) s
  s.updQueue q fun g => { g with ended := n }

/-- QUEUE_RESET (R366): a write of rreq = 1; while a reset is under way it has no further effect. -/
def execQueueReset (q : Nat) (s : State) : Host.Outcome State Fault Refusal :=
  if (s.queue q).st = 4 then .next s else .next (s.resetStart q)

/-- Work of the queue is still to be performed or dropped: commands, posted stores, instances, records (R366). -/
def State.queueBusy (s : State) (q : Nat) : Bool :=
  (s.insts.cells.any fun p => p.2.who.queue == some q) ||
    (s.ports.sent.cells.any fun m => m.2.queue == some q) ||
    s.tiles.cells.any fun t => t.2.eng.running.any (fun r => r.cmd.queue == some q) ||
      t.2.eng.restored.any (fun c => c.queue == some q) || t.2.eng.queues.cells.any fun l => l.2.any fun c => c.queue == some q

/-- QUEUE_RESET_COMPLETE (R366): state idle, rreq 0, record 0x09; completions of the reset work are not posted. -/
def execQueueResetComplete (q : Nat) (s : State) : Host.Outcome State Fault Refusal :=
  let g := s.queue q
  if g.st ≠ 4 || s.queueBusy q then notEnabled "QUEUE_RESET_COMPLETE"
  else
    let s := s.updQueue q fun g =>
      { (g.clear.put 1) with open_ := [], shadow := setField (g.clear.put 1).shadow 232 232 0 }
    .next (s.err (some q) 9 g.asid 31 31 q g.ended)

end Sys2Proof.Machine
end

