-- ==== Sys2Proof/Machine/Firmware.lean ====
section
/-! DEFINITION. The firmware complex (R358, R367 to R369): heartbeats, the watchdog, live update and rollback. Cycles of
these events count half nanoseconds (R3). -/

namespace Sys2Proof.Machine

/-- Cycles of 1 ms (R3). -/
def msCycles : Nat := 2000000

/-- The firmware complex runs: the boot ROM has passed and the module is not in recovery (R411, R416). -/
def State.fwRuns (s : State) : Bool := s.host.phase != 0 && s.host.phase != 5

/-- The new image may start the queues: it knows the version of the handover structure (R369). -/
def State.imageKnows (s : State) : Bool := Config.knowsVersion (s.fw.images.get 0 (if s.fw.slotB then 1 else 0)) s.fw.hversion

/-- A firmware core's first heartbeat after an update ends the update (R369). -/
def Firmware.settle (f : Firmware) (knows : Bool) : Firmware := { f with updating := none, quiesced := !knows }

/-- What the handover structure holds of a queue (R369). -/
def GQueue.toHand (g : GQueue) : HandQueue := ⟨g.seq, g.rd, g.copies, g.toRead, g.left, g.skip⟩
/-- The queue without what its packet core kept: the slot of packet rd is examined again. -/
def GQueue.handed (g : GQueue) : GQueue :=
  { g with head := none, copies := [], toRead := 0, left := 0, skip := 0, kick := g.kick || g.head.isSome || !g.copies.isEmpty }
/-- An image takes a queue up from the handover structure: seq, rd, and the `LOOP` where it stood (R369). -/
def GQueue.fromHand (g : GQueue) (h : HandQueue) : GQueue :=
  let n := h.copies.length
  let g := { g with
    shadow := setField (setField g.shadow 191 160 h.seq) 223 192 h.rd
    copies := h.copies, toRead := h.toRead, left := h.left, skip := h.skip }
  { g with head := if g.replays then h.copies[(n - h.left % n) % n]? else none }
/-- The image that now runs reads the handover structure (R369). -/
def State.takeHandover (s : State) : State :=
  let s := s.fw.handover.cells.foldl (fun s h => s.updQueue h.1 fun g => g.fromHand h.2) s
  s.updFw fun f => { f with handover := .empty }

/-- The front end goes on: latched kicks are delivered, and stores that asked for a reset take effect. -/
def State.wakeAll (s : State) : Host.Outcome State Fault Refusal := s.wake State.resetStart

/-- Phase 1 ends when LPDDR6 is trained and the policy core runs, as its heartbeat shows (R416, log entry 125). -/
def State.leaveHostPhase (s : State) : State :=
  if s.host.phase = 1 ∧ s.host.trained ∧ (s.fw.beat.find 0).isSome then s.updHost fun h => { h with phase := 2 } else s
/-- LPDDR6 is trained (R416). -/
def State.memTrained (s : State) : Host.Outcome State Fault Refusal :=
  if s.host.phase ≠ 1 then .refused (.notEnabled "memory training")
  else .next (s.updHost fun h => { h with trained := true }).leaveHostPhase
/-- HEARTBEAT_WRITE (R368, R369, R416): core 0 is the policy core, 1 to 6 the packet cores. -/
def execHeartbeatWrite (core cyc : Nat) (s : State) : Host.Outcome State Fault Refusal :=
  let t := s.updFw fun f => { f with beat := f.beat.put core cyc }
  match s.fw.updating with
  | none =>
    if !s.fwRuns then notEnabled "HEARTBEAT_WRITE"
    else .next t.leaveHostPhase
  | some start =>
    if cyc < start || decide (start + 100 * msCycles < cyc) then notEnabled "HEARTBEAT_WRITE"
    else
      let t := t.updFw fun f => f.settle s.imageKnows
      (if s.imageKnows then t.takeHandover else t).wakeAll

/-- Every live copy becomes its shadow again (R358). -/
def GQueue.restoreLive (g : GQueue) : GQueue :=
  { g with live := setField (setField g.live 78 0 (fieldOf g.shadow 78 0)) 127 96 (fieldOf g.shadow 127 96) }
/-- A packet that had been read and not consumed is read again (R368). -/
def GQueue.reread (g : GQueue) : GQueue :=
  if g.head.isSome && !g.waiting && !g.replays then { g with head := none, kick := true } else g

/-- A core starts again (R368): the policy core from the active image slot, a packet core from the packet-core image, and its private
SRAM holds what that brings. -/
def Firmware.restart (f : Firmware) (core : Nat) : Firmware :=
  { f with
    running := if core = 0 then f.running.set 0 0 (f.images.get 0 (if f.slotB then 1 else 0)) else f.running
    sram := ⟨f.sram.cells.filter fun c => c.1 / 65536 != core⟩ }

/-- WATCHDOG_RESET (R358, R368): the core has missed its heartbeat of 1 ms; an update that had not been committed is
discarded, packets that a packet core has not yet consumed from its queues are read again, and the core starts again. -/
def execWatchdogReset (core cyc : Nat) (s : State) : Host.Outcome State Fault Refusal :=
  if !s.fwRuns || decide (cyc ≤ (s.fw.beat.find core).getD 0 + msCycles) then notEnabled "WATCHDOG_RESET"
  else
    let s := s.updHost fun h => { h with queues := h.queues.mapAll GQueue.init GQueue.restoreLive }
    let s := (s.host.queues.keys.filter fun q => s.coreOf q == core).foldl (fun s q => s.updQueue q GQueue.reread) s
    (s.updFw fun f => { f.restart core with beat := f.beat.put core cyc }).wakeAll

/-- The handover structure (R369): seq, rd and `LOOP` state of every queue. What an image has not taken up stays. -/
def State.handoverOf (s : State) : FMap HandQueue :=
  ⟨s.host.queues.cells.map fun c => (c.1, (s.fw.handover.find c.1).getD c.2.toHand)⟩
/-- A packet core still has a packet that has started and waits (R369). -/
def State.packetWaits (s : State) : Bool := s.host.queues.cells.any fun c => c.2.waiting

/-- FIRMWARE_UPDATE (R369, R411): quiesce, and once no packet core has a packet that it must finish: verify, measure, hand over,
start. A failed verification leaves the old image running. The slots hold policy-core images; the packet cores start again from the
packet-core image of the boot (R412, log entry 172). -/
def execFirmwareUpdate (image version cyc : Nat) (s : State) : Host.Outcome State Fault Refusal :=
  if !s.fwRuns || s.fw.updating.isSome then notEnabled "FIRMWARE_UPDATE"
  else if s.packetWaits then .next (s.updFw fun f => { f with quiesced := true })
  else if !Config.signatureOk s.sec.fuseRoot image || decide (version < s.sec.fuseVersion) then
    (s.updFw fun f => { f with quiesced := !f.handover.cells.isEmpty }).wakeAll
  else
    let old := s.fw.images.get 0 (if s.fw.slotB then 1 else 0)
    let slot := if s.fw.slotB then 0 else 1
    let s := { s with sec := { s.sec with meas := (s.sec.meas.set 0 5 (s.sec.meas.get 0 2)).set 0 2 (Config.sha512 image) } }
    let hand := s.handoverOf
    let s := s.updHost fun h => { h with queues := h.queues.mapAll GQueue.init GQueue.handed }
    .next (s.updFw fun f =>
      { f with
        quiesced := true, updating := some cyc, slotB := !f.slotB, images := f.images.set 0 slot image
        versions := f.versions.set 0 slot version, handover := hand, hversion := Config.handoverVersion old
        hlength := Config.handoverLength old hand.cells.length, running := f.running.set 0 0 image
        sram := .empty })

/-- UPDATE_ROLLBACK (R369): 100 ms without a heartbeat of the new image; the old slot resumes, and record 0x0E goes to
ring 0. -/
def execUpdateRollback (cyc : Nat) (s : State) : Host.Outcome State Fault Refusal :=
  match s.fw.updating with
  | none => notEnabled "UPDATE_ROLLBACK"
  | some start =>
    if cyc < start + 100 * msCycles then notEnabled "UPDATE_ROLLBACK"
    else
      let s := s.updFw fun f =>
        { f with
          updating := none, quiesced := false, slotB := !f.slotB, sram := .empty
          running := f.running.set 0 0 (f.images.get 0 (if f.slotB then 0 else 1)) }
      let s := s.takeHandover
      let s := { s with sec := { s.sec with meas := s.sec.meas.set 0 2 (s.sec.meas.get 0 5) } }
      (s.errTo 0 0x0E 0 31 31 (if s.fw.slotB then 1 else 0) s.fw.hversion).wakeAll

/-! ## The cores (R356, R367, R368) -/

/-- The policy core assigns an enabled queue to a packet core (R356). -/
def State.assign (s : State) (q core : Nat) : Host.Outcome State Fault Refusal :=
  if core = 0 ∨ 6 < core ∨ !(s.queue q).on then .refused (.notEnabled "queue assignment")
  else .next (s.updFw fun f => { f with cores := f.cores.put q core })
/-- One byte of a packet core's private SRAM (R367): what the image brought there, until the core stores to it. -/
def Firmware.sramByte (f : Firmware) (core k : Nat) : Byte :=
  (f.sram.find (65536 * core + k)).getD (Config.sramImage (f.running.get 0 core) k)
/-- Stores bytes into a private SRAM. -/
def Firmware.sramPut (f : Firmware) (core k v : Nat) : Nat → Firmware
  | 0 => f
  | n + 1 => { f with sram := f.sram.put (65536 * core + k % 65536) (BitVec.ofNat 8 v) }.sramPut core (k + 1) (v / 256) n
/-- A store of a firmware core (R368): a packet core's addresses below 64 KiB are its own SRAM; of the rest the egress filter lets
through what R368 lists, and drops and counts every other store. The launch queues have no address (log entry 152). -/
def State.coreStore (s : State) (core addr n bits : Nat) : Host.Outcome State Fault Refusal :=
  if !s.fwRuns || decide (6 < core) || decide (8 < n) then .refused (.notEnabled "firmware store")
  else if core ≠ 0 ∧ addr + n ≤ 65536 then .next (s.updFw fun f => f.sramPut core addr bits n)
  else if s.egress addr ∧ s.egress (addr + n - 1) then
    let r := s.writeAs { (s.host.agents.get .init (2 ^ 20 + core)) with pos := hostPos } addr n bits []
    (r.1.updHost fun h => { h with agents := h.agents.put (2 ^ 20 + core) r.2 }).wakeAll
  else .next (s.updFw fun f => { f with filtered := f.filtered + 1 })

end Sys2Proof.Machine
end

