-- ==== Sys2Proof/Machine/Ports.lean ====
section
/-! DEFINITION. The Ultra Ethernet ports (R382 to R389): span requests from other modules, the resending and failing of
messages that this module sent, reassembly, landing rings and snapshots. -/

namespace Sys2Proof.Machine

/-- Ports, devices and application cores run: not before the boot ROM has passed, and not in recovery (R411). -/
def State.hostRuns (s : State) : Bool := s.fwRuns

/-! ## Span traffic (R383, R384, R267) -/

/-- The request is rejected (R383): the entry of its source is not valid, its key is not the entry's or authenticates
nothing, or an address lies outside the window. -/
def State.spanRejected (s : State) (r : SpanReq) : Bool :=
  let e := s.ports.peers.get 0 r.src
  fieldOf e 0 0 == 0 || fieldOf e 12 1 != r.key || (s.sec.keys.find r.key).isNone ||
    decide (r.addr < 65536 * fieldOf e 63 16) || decide (65536 * fieldOf e 127 80 < r.addr + r.bytes)

/-- What is carried to the agent of another module that sends a request (the agents of a module count as one, log entry 45): what
the module has met here, and what the agent has acquired from the sequences that this module has headed there (R249 to R252). -/
def State.moduleOrd (s : State) (r : SpanReq) : Ledger :=
  r.seen.foldl (fun o p => o.acquire (s.headsAt (2 ^ 51 + 2 ^ 44 * r.src + p.1 % 2 ^ 44) p.2) 4)
    { s.ports.views.get .init r.src with pos := modulePos r.src }
/-- The scope of a request's acquire (R248). -/
def spanAcq (r : SpanReq) : Option Nat := if r.acq then some 4 else none
/-- The sequences that a request's write heads (R250). -/
def spanHeads (r : SpanReq) (o : Ledger) : List Head := if r.rel then o.release 4 else []
/-- A message of another module has been performed (R384): its number, and what the module has met. -/
def State.served (s : State) (r : SpanReq) (o : Ledger) : State :=
  { s with ports := { s.ports with views := s.ports.views.put r.src o, served := s.ports.served ++ [(r.src, r.no)] } }

/-- SPAN_REQUEST_ARRIVAL (R383, R384): a request of another module is performed at its home, or rejected with no effect here. A
store or atomic that is sent again is performed at most once; an atomic that meets an uncorrectable error is counted and writes
nothing (R402, log entry 173). -/
def execSpanRequestArrival (req : SpanReq) (s : State) : Host.Outcome State Fault Refusal :=
  if !s.hostRuns then notEnabled "SPAN_REQUEST_ARRIVAL"
  else if s.spanRejected req then .next s
  else if (s.homeOf req.addr).isNone then .fault (.noMemory req.addr)
  else match req.op with
    | .load =>
      let t := { s with ports := { s.ports with
        views := s.ports.views.put req.src (s.reads (s.moduleOrd req) req.addr req.bytes (spanAcq req) false) } }
      .next (if s.badAt req.addr req.bytes then t.uecc req.addr else t)
    | .store =>
      if s.ports.served.any (· == (req.src, req.no)) then .next s
      else
        let o := s.moduleOrd req
        let r := s.writeAs o req.addr req.bytes req.data (spanHeads req o)
        (r.1.served req r.2).wakeAll
    | .atomic op =>
      if s.ports.served.any (· == (req.src, req.no)) then .next s
      else if s.badAt req.addr req.bytes then .next ((s.served req (s.moduleOrd req)).uecc req.addr)
      else
        let heads := spanHeads req (s.moduleOrd req)
        let o := s.reads (s.moduleOrd req) req.addr req.bytes (spanAcq req) false
        match atomNew op (8 * req.bytes) (s.readPa req.addr req.bytes) req.data req.cmp with
        | some v =>
          let r := s.rmwAs o req.addr req.bytes v heads
          (r.1.served req r.2).wakeAll
        | none => .next ((s.putHeads req.addr req.bytes (joinHeads (s.headsAt req.addr req.bytes) heads)).served req o)

/-- Cycles of the 2 ms after which a store is undeliverable (R384). -/
def spanLimit : Nat := 2 * msCycles

/-- SPAN_RESEND (R384): at most 7 times, within 2 ms of the first send. -/
def execSpanResend (msg cyc : Nat) (s : State) : Host.Outcome State Fault Refusal :=
  match s.ports.sent.find msg with
  | none => notEnabled "SPAN_RESEND"
  | some m =>
    if 8 ≤ m.sends || decide (m.sent + spanLimit < cyc) then notEnabled "SPAN_RESEND"
    else .next { s with ports := { s.ports with sent := s.ports.sent.put msg { m with sends := m.sends + 1 } } }

/-- The engine command that waits for a message: its tile's key and the command. -/
def State.waitsFor (s : State) (msg : Nat) : Option (Nat × Running) :=
  s.tiles.cells.findSome? fun t => (t.2.eng.running.find? fun r => hasNat r.posted msg).map (t.1, ·)

/-- A store that no home performs (R267): its record, and the failing of the command that waits for it. -/
def State.storeLost (s : State) (msg : Nat) (m : SpanMsg) : State :=
  let cmd := s.waitsFor msg
  let s := (s.dropPosted msg).err m.queue 5 m.asid m.die 31 m.va (m.addr / 2 ^ 44 % 128)
  match cmd with
  | some (k, r) => (s.updEng (k / 64) (k % 64) fun e => e.dropRun r.no).cmdError (k / 64) (k % 64) r.cmd 2
  | none => s

/-- SPAN_UNDELIVERABLE (R267, R383, R384): a message of this module has stayed unanswered for 2 ms, or its home has rejected
it. A load or an atomic returns no data; the stream takes the posted-store abort at its next sys-scope release. -/
def execSpanUndeliverable (msg cyc : Nat) (s : State) : Host.Outcome State Fault Refusal :=
  match s.ports.sent.find msg with
  | none => notEnabled "SPAN_UNDELIVERABLE"
  | some m =>
    if cyc < m.sent then notEnabled "SPAN_UNDELIVERABLE"
    else
      let s := { s with ports := { s.ports with sent := s.ports.sent.del msg } }
      let s := match m.uid with
        | some u => s.updInst u fun i => { i with ctx := { i.ctx with undeliv := true } }
        | none => s
      .next (if m.op = 2 ∨ (m.op = 1 ∧ m.uid.isSome) then s else s.storeLost msg m)

/-! ## Landing rings (R385 to R388) -/

/-- A field of a landing ring's control block. -/
def State.lr (s : State) (n hi lo : Nat) : Nat := fieldOf (s.ports.lrcb.get 0 n) hi lo
/-- Changes a landing ring's control block. -/
def State.updLr (s : State) (n : Nat) (f : BitVec 1024 → BitVec 1024) : State :=
  { s with ports := { s.ports with lrcb := s.ports.lrcb.upd 0 n f } }
/-- Changes the ports. -/
def State.updPorts (s : State) (f : Ports → Ports) : State := { s with ports := f s.ports }

/-- Adds to a 64-bit counter at bit `lo`; it stops at its greatest value and sets ovf (R388). -/
def addCount (b : BitVec 1024) (lo v : Nat) : BitVec 1024 :=
  let x := fieldOf b (lo + 63) lo + v
  if 2 ^ 64 ≤ x then setField (setField b (lo + 63) lo (2 ^ 64 - 1)) 640 640 1 else setField b (lo + 63) lo x

/-- Counts lost messages and bytes (R388). -/
def State.countLost (s : State) (n msgs bytes : Nat) : State := s.updLr n fun b => addCount (addCount b 384 msgs) 448 bytes

/-- A sum of gap counts, which saturates (R388). -/
def gapSum (a b : Nat) : Nat := Nat.min (a + b) (2 ^ 64 - 1)

/-- A message is lost (R388): it is counted, and the next gap record will cover it. -/
def State.msgLost (s : State) (m : Message) : State :=
  let s := s.countLost m.ring 1 m.len
  s.updPorts fun p => { p with gaps := p.gaps.put m.ring (match p.gaps.find m.ring with
    | some g => (gapSum g.1 1, gapSum g.2.1 m.len, g.2.2)
    | none => (1, m.len, m.num)) }

/-- A message that fails authentication is dropped (R388). -/
def State.authLost (s : State) (m : Message) : State := s.updLr m.ring fun b => addCount (addCount b 512 1) 576 m.len

/-- A message takes its number (R386). -/
def State.number (s : State) (m : Message) : State × Message :=
  (s.updLr m.ring fun b => setField b 383 320 (fieldOf b 383 320 + 1), { m with num := s.lr m.ring 383 320 })

/-- The payload of a reassembled message. -/
def Message.payload (m : Message) : List Byte := (m.got.cells.flatMap (·.2)).take m.len
/-- Length of a message's record (R386). -/
def Message.recLen (m : Message) : Nat := (16 + m.len + 63) / 64 * 64

/-- Bytes of a word, lowest first. -/
def bytesOf (v : Nat) : Nat → List Byte
  | 0 => []
  | n + 1 => BitVec.ofNat 8 v :: bytesOf (v / 256) n

/-- The two words that head a record (R386). -/
def recHead (len kind num : Nat) : List Byte := bytesOf (len + kind * 2 ^ 32) 8 ++ bytesOf num 8

/-- Writes bytes of a landing ring from count `c` on; `none` if its buffer cannot be reached. -/
def State.landBytes (s : State) (n c : Nat) : List Byte → Option State
  | [] => some s
  | b :: t =>
    match s.feWrite (s.lr n 80 72) (s.lr n 63 0 + c % 2 ^ s.lr n 68 64) 1 b.toNat with
    | (s, .ok ()) => s.landBytes n (c + 1) t
    | (_, .error _) => none

/-- Writes several runs of bytes. -/
def State.landRuns (s : State) (n : Nat) : List (Nat × List Byte) → Option State
  | [] => some s
  | r :: t => (s.landBytes n r.1 r.2).bind fun s => s.landRuns n t

/-- Where a message would land: after a pending gap record and a pad record where it would cross the end (R386, R388). -/
structure Landing where
  gap : Option (Nat × Nat × Nat)
  padAt : Nat
  pad : Nat
  at_ : Nat
  stop : Nat

/-- The place of a message in its ring. -/
def State.landing (s : State) (m : Message) : Landing :=
  let size := 2 ^ s.lr m.ring 68 64
  let gap := s.ports.gaps.find m.ring
  let p := s.lr m.ring 191 128 + (if gap.isSome then 64 else 0)
  let pad := if size < p % size + m.recLen then size - p % size else 0
  ⟨gap, p, pad, p + pad, p + pad + m.recLen⟩

/-- The tail that the port uses (R386). -/
def State.lrTail (s : State) (n : Nat) : Nat := Nat.min (s.lr n 255 192) (s.lr n 191 128)

/-- Address of a word of a ring's control block (R385). -/
def State.lrPa (s : State) (n off : Nat) : Nat := s.phys.lrBase + 128 * n + off
/-- What is carried to the ports. -/
def Ports.ledger (p : Ports) : Ledger := { p.landOrd with pos := hostPos }
/-- The port acquires a ring's tail at dev scope (R389). -/
def State.acquireTail (s : State) (n : Nat) : State :=
  s.updPorts fun p => { p with landOrd := p.ledger.sync (s.headsAt (s.lrPa n 24) 8) 3 }

/-- The records that the consumer has finished with are held no longer; low stands at the oldest one left (R385). -/
def State.releaseHeld (s : State) (n : Nat) : State :=
  let s := s.acquireTail n
  let held := ((s.ports.recsHeld.find n).getD []).filter fun r => decide (s.lrTail n < r.start + r.len)
  let low := match held with
    | r :: _ => r.start
    | [] => s.lr n 191 128
  (s.updPorts fun p => { p with recsHeld := p.recsHeld.put n held }).updLr n fun b => setField b 319 256 low

/-- The message fits, with 64 bytes kept for a gap record (R386). -/
def State.fits (s : State) (m : Message) : Bool :=
  let n := m.ring
  let free := 2 ^ s.lr n 68 64 - (s.lr n 191 128 - Nat.max (s.lrTail n) (s.lr n 319 256))
  decide ((s.landing m).stop - s.lr n 191 128 + 64 ≤ free)

/-- The old values of the words of a ring's control block that the port itself writes. -/
def State.lrOlds (s : State) (n : Nat) : List Nat :=
  s.oldsAt (s.lrPa n 16) 8 ++ s.oldsAt (s.lrPa n 32) 48 ++ s.oldsAt (s.lrPa n 84) 4 ++ s.oldsAt (s.lrPa n 96) 32

/-- A release at dev scope of the port at a word of a ring's control block (R386, R387, R389): it covers everything that the ports
have written so far. -/
def State.lrRelease (s : State) (n off bytes : Nat) : State :=
  let o := s.ports.ledger.meet (s.phys.relaxed.met ++ s.lrOlds n)
  ((s.updPorts fun p => { p with landOrd := o }).putHeads (s.lrPa n off) bytes (o.release 3)).unmet

/-- An overwritten record is read with the new low alone (R389): no old value of low is read any longer (log entry 174). -/
def State.lowSeen (s : State) (n : Nat) : State :=
  s.updRelaxed fun x => { x with olds := ⟨x.olds.cells.filter fun v => !meetBytes (s.lrPa n 32) 8 v.2.pa v.2.n⟩ }

/-- Writes the records of a message and moves head (R386, R388). A ring whose buffer cannot be reached loses it. -/
def State.land (s : State) (m : Message) : State :=
  let n := m.ring
  let l := s.landing m
  let head := s.lr n 191 128
  let gapRun := match l.gap with
    | some g => [(head, recHead 0 2 g.2.2 ++ bytesOf g.1 8 ++ bytesOf g.2.1 8)]
    | none => []
  let padRun := if l.pad = 0 then [] else [(l.padAt, recHead 0 0 0)]
  let gapRec := match l.gap with
    | some g => [(⟨head, 64, false, g.1, g.2.1, g.2.2⟩ : LandRec)]
    | none => []
  let padRec := if l.pad = 0 then [] else [(⟨l.padAt, l.pad, false, 0, 0, 0⟩ : LandRec)]
  match s.unmet.landRuns n (gapRun ++ padRun ++ [(l.at_, recHead m.len 1 m.num ++ m.payload)]) with
  | none => s.msgLost m
  | some s =>
    let s := s.updPorts fun p =>
      { p with
        gaps := p.gaps.del n
        recsHeld := p.recsHeld.put n ((p.recsHeld.find n).getD [] ++ gapRec ++ padRec ++
          [⟨l.at_, m.recLen, true, 1, m.len, m.num⟩]) }
    (s.updLr n fun b => setField b 191 128 l.stop).lrRelease n 16 8

/-- Overwrites the oldest records, whole, until the message fits (R387): what is taken off, oldest first. -/
def State.overwrite (s : State) (m : Message) : List LandRec → List LandRec → State × List LandRec
  | gone, [] => (s, gone)
  | gone, r :: t =>
    if s.fits m then (s, gone)
    else
      let s := s.updPorts fun p => { p with recsHeld := p.recsHeld.put m.ring t }
      (s.updLr m.ring fun b => setField b 319 256 (r.start + r.len)).overwrite m (gone ++ [r]) t

/-- The gap record of the overwritten records (R387) goes into the last 64 bytes that they freed. -/
def State.overwriteGap (s : State) (n : Nat) (gone : List LandRec) : State :=
  let msgs := gone.foldl (fun a r => gapSum a r.msgs) 0
  let bytes := gone.foldl (fun a r => gapSum a r.bytes) 0
  let num := match gone.find? fun r => r.msgs != 0 with
    | some r => r.num
    | none => 0
  let data := gone.filter (·.data)
  let at_ := s.lr n 319 256 - 64
  let s := s.countLost n data.length (data.foldl (fun a r => a + r.bytes) 0)
  let s := (s.unmet.landBytes n at_ (recHead 0 2 num ++ bytesOf msgs 8 ++ bytesOf bytes 8)).getD s
  let gap : LandRec := ⟨at_, 64, false, msgs, bytes, num⟩
  let s := s.updPorts fun p => { p with recsHeld := p.recsHeld.put n (gap :: (p.recsHeld.find n).getD []) }
  ((s.updLr n fun b => setField b 319 256 at_).lrRelease n 32 8).lowSeen n

/-- Bytes of payload in the ingest buffer of a port (R387). -/
def Ports.inBuffer (p : Ports) (port : Nat) : Nat := (p.buffered.filter fun m => m.port == port).foldl (fun a m => a + m.len) 0
/-- What names a sender that a port has sent a congestion notification (R387). -/
def Message.sender (m : Message) : Nat × Nat × Nat := (m.port, m.ring, m.src)
/-- A message waits in the ingest buffer of its port, which notifies the sender (R387). -/
def Ports.hold (p : Ports) (m : Message) : Ports :=
  { p with
    buffered := p.buffered ++ [m]
    notified := if p.notified.any (· == m.sender) then p.notified else p.notified ++ [m.sender] }
/-- A message has left the ingest buffer: senders of whom none waits there count as notified no more. -/
def Ports.unhold (p : Ports) (idx : Nat) : Ports :=
  let l := p.buffered.eraseIdx idx
  { p with buffered := l, notified := p.notified.filter fun n => l.any fun m => m.sender == n }

/-- A numbered message meets its ring (R386, R387): it lands, is lost, overwrites or waits, by the policy. -/
def State.meetRing (s : State) (m : Message) : State :=
  let n := m.ring
  let s := s.releaseHeld n
  if 16368 < m.len then s.msgLost m
  else if s.lr n 70 69 = 1 then
    if s.fits m then s.land m
    else
      let r := s.overwrite m [] ((s.ports.recsHeld.find n).getD [])
      (r.1.overwriteGap n r.2).land m
  else
    let waits := s.ports.buffered.any fun x => x.ring == n
    if s.fits m && !waits then s.land m
    else if s.lr n 70 69 = 2 ∧ s.ports.inBuffer m.port + m.len ≤ 0x200_0000 then s.updPorts fun p => p.hold m
    else s.msgLost m

/-! ## The events of the ports -/

/-- A packet's payload authenticates (R382, R388, R390): its key is the ring's, and valid. -/
def State.packetAuth (s : State) (p : UetPacket) : Bool :=
  p.key == s.lr p.ring 92 81 && (match s.sec.keys.find p.key with
    | some k => Config.tssOk k (p.bytes.foldr (fun b a => b.toNat + 256 * a) p.tag)
    | none => false)

/-- The packet belongs to the message. -/
def Message.has (m : Message) (p : UetPacket) : Bool := m.ring == p.ring && m.src == p.src && m.msg == p.msg

/-- The message with the packet's bytes. -/
def Message.take (m : Message) (p : UetPacket) (ok : Bool) : Message :=
  { m with got := m.got.put p.frag p.bytes, keyOk := m.keyOk && ok }

/-- A message has finished reassembly (R386, R388): it takes its number, or is dropped if it does not authenticate. -/
def State.finished (s : State) (m : Message) : State :=
  if !m.keyOk then s.authLost m
  else
    let r := s.number m
    r.1.updPorts fun p => { p with done := p.done ++ [r.2] }

/-- A message is given up (R386): not whole 1 ms after its first packet. It takes a number and is lost, or does not
authenticate. -/
def State.late (s : State) (m : Message) : State :=
  if !m.keyOk then s.authLost m
  else
    let r := s.number m
    r.1.msgLost r.2

/-- What names a message: its ring, source and number there. -/
def Message.id (m : Message) : Nat × Nat × Nat := (m.ring, m.src, m.msg)
/-- A message that is being reassembled is given up (R386): packets of it that are still to come belong to no other message. -/
def State.giveUp (s : State) (m : Message) : State :=
  let s := s.updPorts fun p => { p with reasm := p.reasm.filter fun x => x.id != m.id, givenUp := p.givenUp ++ [m.id] }
  if s.lr m.ring 71 71 = 0 then s else s.late m

/-- UET_PACKET_ARRIVAL (R382, R386): an ingest packet of a supported mode joins its message; others are counted at the port.
A packet that comes 1 ms or more after the first one finds its message lost, and those after it are dropped. A ring that is not
enabled takes nothing. -/
def execUetPacketArrival (pkt : UetPacket) (s : State) : Host.Outcome State Fault Refusal :=
  if !s.hostRuns then notEnabled "UET_PACKET_ARRIVAL"
  else if pkt.mode ≠ .uud || pkt.otherFeature then .next (s.updHost fun h => { h with ras := bumpCounter h.ras (1 + pkt.port) })
  else if s.lr pkt.ring 71 71 = 0 || s.ports.givenUp.any (· == (pkt.ring, pkt.src, pkt.msg)) then .next s
  else
    let old := (s.ports.reasm.find? fun m => m.has pkt).getD
      ⟨pkt.ring, pkt.src, pkt.msg, pkt.len, pkt.frags, .empty, pkt.cyc, true, 0, pkt.port⟩
    let m := old.take pkt (s.packetAuth pkt)
    let rest := s.ports.reasm.filter fun x => !x.has pkt
    if old.first + msCycles ≤ pkt.cyc then .next (s.giveUp old)
    else if m.got.cells.length < m.frags then .next (s.updPorts fun p => { p with reasm := rest ++ [m] })
    else .next ((s.updPorts fun p => { p with reasm := rest }).finished m)

/-- INGEST_MESSAGE_LANDING (R385 to R387): the `idx`-th reassembled message; those of a ring land in the order of their
numbers. A ring that has been disabled takes nothing. -/
def execIngestMessageLanding (idx : Nat) (s : State) : Host.Outcome State Fault Refusal :=
  match s.ports.done[idx]? with
  | none => notEnabled "INGEST_MESSAGE_LANDING"
  | some m =>
    if (s.ports.done.take idx).any fun x => x.ring == m.ring then notEnabled "INGEST_MESSAGE_LANDING"
    else
      let s := s.updPorts fun p => { p with done := p.done.eraseIdx idx }
      .next (if s.lr m.ring 71 71 = 0 then s else s.meetRing m)

/-- INGEST_REASSEMBLY_TIMEOUT (R386): 1 ms after the first packet of a message that is not whole. -/
def execIngestReassemblyTimeout (idx cyc : Nat) (s : State) : Host.Outcome State Fault Refusal :=
  match s.ports.reasm[idx]? with
  | none => notEnabled "INGEST_REASSEMBLY_TIMEOUT"
  | some m =>
    if cyc < m.first + msCycles then notEnabled "INGEST_REASSEMBLY_TIMEOUT"
    else .next (s.giveUp m)

/-- INGEST_BUFFERED_LANDING (R387): a message in the ingest buffer lands once it fits, in order. -/
def execIngestBufferedLanding (idx : Nat) (s : State) : Host.Outcome State Fault Refusal :=
  match s.ports.buffered[idx]? with
  | none => notEnabled "INGEST_BUFFERED_LANDING"
  | some m =>
    let s := s.releaseHeld m.ring
    if ((s.ports.buffered.take idx).any fun x => x.ring == m.ring) || s.lr m.ring 71 71 = 0 ||
        !s.fits m then notEnabled "INGEST_BUFFERED_LANDING"
    else .next ((s.updPorts fun p => p.unhold idx).land m)

/-- The snapshot of the loss counters (R389); that of ovf, for which R385 gives no bit, stands beside it (log entry 118). -/
def takeSnap (b : BitVec 1024) : BitVec 1024 :=
  setField (setField b 1023 768 (fieldOf b 639 384)) 703 672 (fieldOf b 703 672 + 1)

/-- SNAPSHOT_REQUEST (R389): the counters are copied in one step, for every request pending on the ring; snapgen is released. -/
def execSnapshotRequest (ring : Nat) (s : State) : Host.Outcome State Fault Refusal :=
  let ovf := s.lr ring 640 640 == 1
  .next (((s.unmet.updLr ring takeSnap).updPorts fun p =>
    { p with
      snapReq := dropNat p.snapReq ring
      snapOvf := if ovf then ring :: dropNat p.snapOvf ring else dropNat p.snapOvf ring }).lrRelease ring 84 4)

/-- LANDING_RING_ENABLE (R385): a write of en = 1. -/
def execLandingRingEnable (ring : Nat) (s : State) : Host.Outcome State Fault Refusal :=
  .next (s.updPorts fun p => p.writeLow ring (fieldOf (setField (p.lrcb.get 0 ring) 71 71 1) 127 0))

end Sys2Proof.Machine
end

