-- ==== Sys2Proof/Machine/Security.lean ====
section
/-! DEFINITION. The security engine (R390, R411, R412), power (R413 to R415) and bring-up (R411, R416 to R418). -/

namespace Sys2Proof.Machine

/-- Changes the security engine. -/
def State.updSec (s : State) (f : Security → Security) : State := { s with sec := f s.sec }

/-! ## Keys (R390) -/

/-- KEY_INSTALL (R390): firmware has written index, wrapped key and go bit. -/
def execKeyInstall (index wrapped cyc : Nat) (s : State) : Host.Outcome State Fault Refusal :=
  if !s.fwRuns then notEnabled "KEY_INSTALL"
  else .next (s.updSec fun x => { x with install := some (index, wrapped, cyc), status := 0 })

/-- KEY_INSTALL_DONE (R390): the entry is replaced in one step with status 1 within 2 µs, or stays with status 2. -/
def execKeyInstallDone (cyc : Nat) (s : State) : Host.Outcome State Fault Refusal :=
  match s.sec.install with
  | none => notEnabled "KEY_INSTALL_DONE"
  | some (index, wrapped, since) =>
    match Config.keyUnwrap wrapped with
    | none =>
      if cyc < since then notEnabled "KEY_INSTALL_DONE"
      else .next (s.updSec fun x => { x with install := none, status := 2 })
    | some k =>
      if cyc < since || decide (since + 4000 < cyc) then notEnabled "KEY_INSTALL_DONE"
      else .next (s.updSec fun x => { x with install := none, status := 1, keys := x.keys.put index k })

/-! ## SPDM (R412) -/

/-- An SPDM request that needs a negotiation state of at least `need`: `f` answers it, and the request joins the
transcript. Out of order it is answered by an error of SPDM. -/
def State.spdm (s : State) (req need : Nat) (params : List Nat) (f : Security → Nat × List Nat) : State :=
  s.updSec fun x =>
    if x.spdm < need then { x with answer := Config.spdmAnswer 0x7F [req] }
    else
      let r := f x
      { x with spdm := r.1, answer := r.2, transcript := if req = 0x84 then [req] else x.transcript ++ (req :: params) }

/-- The one certificate slot is slot 0 (R412). -/
def slotBad (slot : Nat) : Bool := slot != 0
/-- An SPDM error answer. -/
def spdmError (x : Security) (req : Nat) : Nat × List Nat := (x.spdm, Config.spdmAnswer 0x7F [req])

/-- GET_VERSION (R412). -/
def execGetVersion (s : State) : Host.Outcome State Fault Refusal :=
  .next (s.spdm 0x84 0 [] fun _ => (1, Config.spdmAnswer 0x84 []))
/-- GET_CAPABILITIES (R412). -/
def execGetCapabilities (s : State) : Host.Outcome State Fault Refusal :=
  .next (s.spdm 0xE1 1 [] fun _ => (2, Config.spdmAnswer 0xE1 []))
/-- NEGOTIATE_ALGORITHMS (R412): RSASSA-4096 (bit 5 of the asymmetric algorithms) and SHA-512 (bit 2 of the hashes) only. -/
def execNegotiateAlgorithms (asym hash : Nat) (s : State) : Host.Outcome State Fault Refusal :=
  .next (s.spdm 0xE3 2 [asym, hash] fun x =>
    if asym / 32 % 2 = 1 ∧ hash / 4 % 2 = 1 then (3, Config.spdmAnswer 0xE3 [32, 4]) else spdmError x 0xE3)
/-- GET_DIGESTS (R412): the SHA-512 digest of the certificate slot. -/
def execGetDigests (s : State) : Host.Outcome State Fault Refusal :=
  .next (s.spdm 0x81 3 [] fun _ => (3, [Config.sha512 (Config.certificate.foldr (fun b a => b % 256 + 256 * a) 0)]))
/-- GET_CERTIFICATE (R412): a part of the certificate chain. -/
def execGetCertificate (slot off len : Nat) (s : State) : Host.Outcome State Fault Refusal :=
  .next (s.spdm 0x82 3 [slot, off, len] fun x =>
    if slotBad slot then spdmError x 0x82 else (3, (Config.certificate.drop off).take len))
/-- CHALLENGE (R412): the transcript, signed under the module identity key. -/
def execChallenge (slot nonce : Nat) (s : State) : Host.Outcome State Fault Refusal :=
  .next (s.spdm 0x83 3 [slot, nonce] fun x =>
    if slotBad slot then spdmError x 0x83 else (3, Config.spdmSign (x.transcript ++ [0x83, slot, nonce])))

/-- The measurements that a request names (R412): one of 1 to 6; 0 asks for their number, 0xFF for all of them. -/
def Security.named (x : Security) (index : Nat) : List Nat :=
  if index = 0 then [6]
  else if index = 0xFF then (List.range 6).map fun i => x.meas.get 0 (i + 1)
  else [x.meas.get 0 index]

/-- GET_MEASUREMENTS (R412): the SHA-512 digests, with a signature over the transcript. -/
def execGetMeasurements (index nonce : Nat) (s : State) : Host.Outcome State Fault Refusal :=
  .next (s.spdm 0xE0 3 [index, nonce] fun x =>
    if 6 < index ∧ index ≠ 0xFF then spdmError x 0xE0
    else (3, x.named index ++ Config.spdmSign (x.transcript ++ [0xE0, index, nonce])))

/-! ## Power (R413, R414) -/

/-- BUDGET_WRITE (R413): at least the sum of the floors. -/
def execBudgetWrite (watts : Nat) (s : State) : Host.Outcome State Fault Refusal := .next (s.setBudget watts)

/-- What the arbiter has given so far (R414): the grants by consumer, what is left, the consumer after the last one that
received a unit. -/
structure Arbiter where
  grants : List Nat
  left : Nat
  pointer : Nat

/-- The loop of R414 from consumer `i`. -/
def arbitrate (want : List Nat) : Nat → Nat → Arbiter → Arbiter
  | 0, _, a => a
  | n + 1, i, a =>
    if a.left = 0 || !(a.grants.zip want).any fun p => decide (p.1 < p.2) then a
    else
      let j := (i + 1) % 22
      if a.grants.getD i 0 < want.getD i 0 then
        arbitrate want n j ⟨a.grants.set i (a.grants.getD i 0 + 1), a.left - 1, j⟩
      else arbitrate want n j a

/-- The power block of consumer `i` with a new demand, grant and duty (R413). -/
def powerNext (b : BitVec 128) (demand grant duty : Nat) : BitVec 128 :=
  setField (setField (setField b 47 32 demand) 63 48 grant) 69 64 duty

/-- POWER_ARBITRATION (R414, R415): every 10 µs. What the consumers ask for, and the duty that a die then keeps, are free
(log entry 28). -/
def execPowerArbitration (cyc : Nat) (s : State) : Host.Outcome State Fault Refusal :=
  if cyc % 20000 ≠ 0 then notEnabled "POWER_ARBITRATION"
  else
    let blocks := (List.range 22).map fun i => s.host.power.get (powerInit i) i
    let ask := (List.range 22).map fun i => Config.demand i s.free % 65536
    let want := (blocks.zip ask).map fun p => Nat.min p.2 (fieldOf p.1 31 16)
    let floors := blocks.map fun b => fieldOf b 15 0
    let a := arbitrate want (22 * (s.host.budget + 1)) s.host.pointer ⟨floors, s.host.budget - s.floors, s.host.pointer⟩
    let duty (i : Nat) : Nat := if i < 20 then Config.demand (22 + i) s.free % 64 else 0
    let next (i : Nat) (b : BitVec 128) : BitVec 128 := powerNext b (ask.getD i 0) (a.grants.getD i 0) (duty i)
    let s := (List.range 22).foldl (fun s i => s.updHost fun h =>
      { h with power := h.power.upd (powerInit i) i (next i) }) s
    .next (s.tick.updHost fun h => { h with pointer := a.pointer })

/-! ## Boot and bring-up (R411, R416 to R418) -/

/-- The policy-core image that the boot starts (R411): what the active slot holds, or what the boot brings while it is empty. -/
def State.bootImage (s : State) (b : BootConfig) : Nat :=
  let i := s.fw.images.get 0 (if s.fw.slotB then 1 else 0)
  if i = 0 then b.policyImage else i
/-- An image passes the check of R411: its signature, and a security version that is not below the fused one. -/
def Security.accepts (x : Security) (image version : Nat) : Bool := Config.signatureOk x.fuseRoot image && decide (x.fuseVersion ≤ version)
/-- Every check of R411 passes: the root key, the first stage, and the same way every later image. -/
def State.bootOk (s : State) (b : BootConfig) : Bool :=
  Config.sha512 b.rootKey == s.sec.fuseRoot && s.sec.accepts b.image b.version &&
    [s.bootImage b, b.packetImage, b.seqImage].all fun i => s.sec.accepts i (Config.imageVersion i)

/-- The module at reset, with what outlives a reset: fuses and firmware image slots; the agenda and the free counter are
the model's own. -/
def State.cold (s : State) : State :=
  { State.reset with
    sec := { Security.init with fuseRoot := s.sec.fuseRoot, fuseVersion := s.sec.fuseVersion }
    fw := { Firmware.init with slotB := s.fw.slotB, images := s.fw.images, versions := s.fw.versions }
    agenda := s.agenda, focus := s.focus, free := s.free }

/-- The measurements after a boot that started this policy-core image (R412). -/
def bootMeasures (b : BootConfig) (policy : Nat) : FMap Nat :=
  let m := ((FMap.empty.set 0 1 (Config.sha512 b.image)).set 0 2 (Config.sha512 policy)).set 0 3 (Config.sha512 b.packetImage)
  (m.set 0 4 (Config.sha512 b.seqImage)).set 0 6 (Config.sha512 (Config.bootBytes [b.arr, b.moduleNo]))

/-- MODULE_RESET (R406, R411): the boot ROM verifies, locks the partition map and starts the policy core on the active image slot, or
the module enters recovery. The packet cores run the packet-core image (R412). -/
def execModuleReset (boot : BootConfig) (s : State) : Host.Outcome State Fault Refusal :=
  let t := s.cold
  if !s.bootOk boot then .next (t.updHost fun h => { h with phase := 5 })
  else
    let slot := if s.fw.slotB then 1 else 0
    let policy := s.bootImage boot
    let t := t.updHost fun h => { h with phase := 1, part := BitVec.ofNat 32 (boot.arr % 4 + 4) }
    let t := t.updFw fun f =>
      { f with
        images := f.images.set 0 slot policy, versions := f.versions.set 0 slot (Config.imageVersion policy)
        running := (List.range 6).foldl (fun m c => m.set 0 (c + 1) boot.packetImage) (FMap.empty.set 0 0 policy) }
    .next ((t.updSec fun x => { x with meas := bootMeasures boot policy }).updPorts fun p => { p with moduleNo := boot.moduleNo })

/-- RECOVERY_IMAGE (R411): in recovery the mailbox takes a signed image for the active slot, from which the next module reset boots;
another leaves all as it is. -/
def execRecoveryImage (image : Nat) (s : State) : Host.Outcome State Fault Refusal :=
  if s.host.phase ≠ 5 then notEnabled "RECOVERY_IMAGE"
  else if !s.sec.accepts image (Config.imageVersion image) then .next s
  else .next (s.updFw fun f =>
    let slot := if f.slotB then 1 else 0
    { f with images := f.images.set 0 slot image, versions := f.versions.set 0 slot (Config.imageVersion image) })

/-- Reduced service may begin: ring dies 0 to 3 and attention die 16 are ready (R416). -/
def State.reducedReady (s : State) : Bool := [0, 1, 2, 3, 16].all fun d => (s.die d).ready
/-- Every die is ready. -/
def State.allReady (s : State) : Bool := (List.range 20).all fun d => (s.die d).ready

/-- DIE_CALIBRATED (R416, R417): reduced service begins with dies 0 to 3 and 16, at half their clock, as one ring. -/
def execDieCalibrated (die : Nat) (s : State) : Host.Outcome State Fault Refusal :=
  if s.host.phase ≠ 2 ∧ s.host.phase ≠ 3 then notEnabled "DIE_CALIBRATED"
  else
    let s := s.updDie die fun x => { x with ready := true }
    if s.host.phase = 2 ∧ s.reducedReady then
      let s := [0, 1, 2, 3, 16].foldl (fun (s : State) d => s.updDie d fun x => { x with half := true }) s
      .next ((s.updHost fun h => { h with phase := 3 }).formRing 2 0 (s.die 0).cyc false)
    else .next s

/-- Every request context of dies 0 to 3 that is not free or done goes to lost, with its record (R418). -/
def State.loseReduced (s : State) : State :=
  (List.range 4).foldl (fun s d =>
    let r := s.loseContexts d fun k => k == 0 || k == 4
    r.1.reportLost d r.2) s

/-- FULL_SERVICE_START (R418): with four 4-die rings the reduced ring goes on in place and the others are formed; else the
mapped rings are formed, and undrained contexts are lost. -/
def execFullServiceStart (cyc : Nat) (s : State) : Host.Outcome State Fault Refusal :=
  if s.host.phase ≠ 3 || !s.allReady then notEnabled "FULL_SERVICE_START"
  else
    let arr := fieldOf s.host.part 1 0
    let s := (List.range 20).foldl (fun (s : State) d => (s.advance d cyc).updDie d fun x => { x with half := false }) s
    let s := s.updHost fun h => { h with phase := 4 }
    if arr = 2 then .next ([1, 2, 3].foldl (fun (s : State) k => s.formRing 2 k cyc true) s)
    else if arr = 1 then .next ([0, 1].foldl (fun (s : State) k => s.formRing 1 k cyc true) s.loseReduced)
    else .next (s.loseReduced.formRing 0 0 cyc true)

/-! ## A ring with a die that never becomes ready (R418) -/

/-- A mapped ring of a module that stays in reduced service (R418): it is formed with its dies that are not ready bypassed, or stands
still where the routes of R396 are not free. One with dies 0 to 3 takes the place of the reduced ring, if some die of it is not ready:
what their contexts have not brought to an end is lost, as at the change to full service (log entry 126). -/
def State.formShort (s : State) (k cyc : Nat) : Host.Outcome State Fault Refusal :=
  let arr := fieldOf s.host.part 1 0
  let l := ringOrder arr k
  let old := s.rings.get Ring.init k
  let live := l.filter fun d => (s.die d).ready
  let gone := l.filter fun d => !(s.die d).ready
  let known := match arr with
    | 1 => k == 1 || (k == 0 && !gone.isEmpty)
    | 2 => decide (1 ≤ k) && decide (k ≤ 3)
    | _ => k == 0 && !gone.isEmpty
  if s.host.phase ≠ 3 || s.allReady || !known || (old.formed && old.arr == arr) then
    .refused (.notEnabled "ring formation")
  else
    let s := if hasNat l 0 then s.loseReduced else s
    let lanes := gone.flatMap fun x => pathLanes (bypassPath arr x)
    let ok := gone.all (fun x => (bypassPath arr x).all (hasNat live)) && decide lanes.Nodup &&
      lanes.all fun n => !hasNat s.host.badLanes n
    let b (x : Nat) : Bypass :=
      ⟨x, (bypassPath arr x).headD 0, 0, pathLanes (bypassPath arr x), [], outside, 0, none, true, 0, true, 0⟩
    let s := live.zipIdx.foldl (fun (s : State) p => (s.advance p.1 cyc).updDie p.1 fun x =>
      { x.enterRing live.length (some p.2) with half := true }) s
    .next { s with rings := s.rings.set Ring.init k ⟨arr, live, 1024, cyc, true, !ok, gone.map b, false, [], [], false⟩ }

end Sys2Proof.Machine
end

