-- ==== Sys2Proof/Machine/HostSide.lean ====
section
/-! DEFINITION. What the host side does to the module: writes of control fields (R4), accesses of application cores (R248)
and of devices (R245). -/

namespace Sys2Proof.Machine

/-- A write of a field of a queue's live copy (R358). -/
def State.liveField (s : State) (q hi lo v : Nat) : State := s.updQueue q fun g => { g with live := setField g.live hi lo v }
/-- A write of a field of an error ring's control entry (R362). -/
def State.ringField (s : State) (n hi lo v : Nat) : State :=
  s.updHost fun h => { h with rings := h.rings.upd 0 n fun b => setField b hi lo v }
/-- A write of a field in the low 128 bits of a landing ring's control block (R385). -/
def State.lrField (s : State) (n hi lo v : Nat) : State :=
  s.updPorts fun p => p.writeLow n (fieldOf (setField (p.lrcb.get 0 n) hi lo v) 127 0)
/-- A write of floor or cap (R413): a cap below the floor takes the floor. -/
def State.powerField (s : State) (i : Nat) (floor cap : Option Nat) : State :=
  let f (b : BitVec 128) : BitVec 128 := setFloorCap b (floor.getD (fieldOf b 15 0)) (cap.getD (fieldOf b 31 16))
  s.updHost fun h => { h with power := h.power.upd (powerInit i) i f }
/-- The fields of a span peer entry that exist (R383). -/
def peerBits (v : Nat) : BitVec 128 :=
  BitVec.ofNat 128 (v % 2 ^ 13 + v / 2 ^ 16 % 2 ^ 48 * 2 ^ 16 + v / 2 ^ 80 % 2 ^ 48 * 2 ^ 80)

/-- REGISTER_WRITE (R4): a write of a control field, by its access code. -/
def execRegisterWrite (reg : CtlReg) (value : Nat) (s : State) : Host.Outcome State Fault Refusal :=
  .next (match reg with
    | .qcbBase q => s.liveField q 63 0 value
    | .qcbLsz q => s.liveField q 67 64 value
    | .qcbAsid q => s.liveField q 76 68 value
    | .qcbEn q => s.liveField q 77 77 value
    | .qcbSup q => s.liveField q 78 78 value
    | .qcbEslot q => s.liveField q 127 96 value
    | .ringBase n => s.ringField n 63 0 value
    | .ringLsz n => s.ringField n 67 64 value
    | .ringTail n => s.ringField n 159 128 value
    | .ringAsid n => s.ringField n 200 192 value
    | .asidRecord n => s.ctlStore (.asid n) 0 64 value
    | .rasCounter i w => s.ctlStore (.ras i) (4 * w) 4 value
    | .powerFloor i => s.powerField i (some value) none
    | .powerCap i => s.powerField i none (some value)
    | .lrBase n => s.lrField n 63 0 value
    | .lrLsz n => s.lrField n 68 64 value
    | .lrPolicy n => s.lrField n 70 69 value
    | .lrEn n => s.lrField n 71 71 value
    | .lrAsid n => s.lrField n 80 72 value
    | .lrKey n => s.lrField n 92 81 value
    | .lrTail n => s.updLr n fun b => setField b 255 192 value
    | .lrOvf n => if value % 2 = 1 then s.updLr n fun b => setField b 640 640 0 else s
    | .spanPeer n => s.updPorts fun p => { p with peers := p.peers.set 0 n (peerBits value) }
    | .poolBase d a => s.writePa (s.poolPa d a) 8 value
    | .poolCount d a => s.writePa (s.poolPa d a + 8) 4 value)

/-- Keeps what is carried to an agent of the host side. -/
def State.setAgent (s : State) (k : Nat) (o : Ledger) : State := s.updHost fun h => { h with agents := h.agents.put k o }
/-- The position of an agent of the host side (R247): the cores stand on the host die, devices in the sys instance alone. -/
def agentPos (k : Nat) : Nat := if k % 2 = 0 then hostPos else modulePos (128 + k)
/-- Sends a store or AMO of an agent to another module: it is posted (R246, R384). -/
def State.agentSend (s : State) (k : Nat) (a : HostAccess) (op : Nat) : State :=
  let no := s.ports.nextMsg
  (s.sendSpan ⟨none, 0, none, 31, a.addr, a.addr, a.bytes, op, a.data, (s.die 0).cyc, 1⟩).updHost fun h =>
    { h with agentPosted := h.agentPosted.upd [] k fun l => l ++ [no] }

/-- An access of agent `k` of the host die or of a device to a physical address (R245, R248): what it loads leaves the module; a
store or AMO sets off what it rings or requests; an AMO that meets an uncorrectable error is counted and writes nothing (R402, log
entry 173). Its aq and rl are acquire and release at sys scope, its fence is both; a release
waits until its posted stores are acknowledged (R259). -/
def State.hostAccess (s : State) (k : Nat) (a : HostAccess) (name : String) : Host.Outcome State Fault Refusal :=
  let o : Ledger := { s.host.agents.get .init k with pos := agentPos k }
  let releases := a.rl || (match a.op with
    | .fence => true
    | _ => false)
  let acq := if a.aq then some 4 else none
  let heads := if a.rl then o.release 4 else o.rels
  if !s.hostRuns || (releases && !(s.host.agentPosted.get [] k).isEmpty) then notEnabled name
  else
    match a.op with
    | .fence => .next (s.setAgent k ((o.acqFence 4).relFence 4))
    | .load =>
      if isSpan a.addr then .next s
      else if (s.homeOf a.addr).isNone then .fault (.noMemory a.addr)
      else
        let t := s.setAgent k (s.reads o a.addr a.bytes acq false)
        .next (if s.badAt a.addr a.bytes then t.uecc a.addr else t)
    | .store =>
      if isSpan a.addr then .next ((s.agentSend k a 0).awayWrite a.addr a.bytes heads)
      else if (s.homeOf a.addr).isNone then .fault (.noMemory a.addr)
      else
        let r := s.writeAs o a.addr a.bytes a.data heads
        (r.1.setAgent k r.2).wakeAll
    | .amo op =>
      if isSpan a.addr then .next ((s.agentSend k a 1).awayRmw a.addr a.bytes heads)
      else if (s.homeOf a.addr).isNone then .fault (.noMemory a.addr)
      else if s.badAt a.addr a.bytes then .next (s.uecc a.addr)
      else
        let o := s.reads o a.addr a.bytes acq false
        match atomNew op (8 * a.bytes) (s.readPa a.addr a.bytes) (a.data % 2 ^ (8 * a.bytes)) (a.cmp % 2 ^ (8 * a.bytes)) with
        | some v =>
          let r := s.rmwAs o a.addr a.bytes v heads
          (r.1.setAgent k r.2).wakeAll
        | none => .next ((s.putHeads a.addr a.bytes (joinHeads (s.headsAt a.addr a.bytes) heads)).setAgent k o)

/-- APPLICATION_CORE_ACCESS (R248). -/
def execApplicationCoreAccess (acc : HostAccess) (s : State) : Host.Outcome State Fault Refusal :=
  s.hostAccess (2 * acc.agent) acc "APPLICATION_CORE_ACCESS"
/-- DEVICE_MEMORY_ACCESS (R245): a PCIe or CXL device. -/
def execDeviceMemoryAccess (acc : HostAccess) (s : State) : Host.Outcome State Fault Refusal :=
  s.hostAccess (2 * acc.agent + 1) acc "DEVICE_MEMORY_ACCESS"

end Sys2Proof.Machine
end

