-- ==== Sys2Proof/Machine/Scalar.lean ====
section
/-! DEFINITION. The scalar arithmetic, address and predicate instructions (R127 to R138). Each result lands at
issue + L (R62): 1, but 3 for the multiplies and 24 for the divides. -/

namespace Sys2Proof.Machine

/-! ## Results -/

/-- The shift amount of a register form: b[4:0] (R129). -/
def shAmt (b : Word) : Nat := b.toNat % 32
/-- ADD (R129). -/
def aluAdd (a b : Word) : Word := a + b
/-- SUB (R129). -/
def aluSub (a b : Word) : Word := a - b
/-- AND (R129). -/
def aluAnd (a b : Word) : Word := a &&& b
/-- OR (R129). -/
def aluOr (a b : Word) : Word := a ||| b
/-- XOR (R129). -/
def aluXor (a b : Word) : Word := a ^^^ b
/-- ANDN (R129). -/
def aluAndn (a b : Word) : Word := a &&& ~~~b
/-- SHL (R129). -/
def aluShl (a b : Word) : Word := a <<< shAmt b
/-- SHR (R129). -/
def aluShr (a b : Word) : Word := a >>> shAmt b
/-- SRA (R129). -/
def aluSra (a b : Word) : Word := a.sshiftRight (shAmt b)
/-- ROT (R129): rotate left. -/
def aluRot (a b : Word) : Word := (a <<< shAmt b) ||| (a >>> (32 - shAmt b))
/-- MIN (R129). -/
def aluMin (a b : Word) : Word := if a.slt b then a else b
/-- MAX (R129). -/
def aluMax (a b : Word) : Word := if a.slt b then b else a
/-- MINN (R129). -/
def aluMinn (a b : Word) : Word := if a.ult b then a else b
/-- MAXN (R129). -/
def aluMaxn (a b : Word) : Word := if a.ult b then b else a
/-- Position of the highest one bit below `n`, counted from it: the leading zeros of an `n`-bit number. -/
def clzN (v : Nat) : Nat → Nat
  | 0 => 0
  | n + 1 => if v / 2 ^ n % 2 = 1 then 0 else 1 + clzN v n
/-- CLZ (R129). -/
def aluClz (a : Word) : Word := BitVec.ofNat 32 (clzN a.toNat 32)
/-- POPC (R129). -/
def aluPopc (a : Word) : Word := BitVec.ofNat 32 (popBits a.toNat 32)
where
  /-- One bits among the low `n`. -/
  popBits (v : Nat) : Nat → Nat
    | 0 => 0
    | n + 1 => v / 2 ^ n % 2 + popBits v n
/-- BREV (R129). -/
def aluBrev (a : Word) : Word := a.reverse
/-- MUL (R130). -/
def aluMul (a b : Word) : Word := a * b
/-- MULH (R130). -/
def aluMulh (a b : Word) : Word := BitVec.ofInt 32 (a.toInt * b.toInt / 2 ^ 32)
/-- MULHN (R130). -/
def aluMulhn (a b : Word) : Word := BitVec.ofNat 32 (a.toNat * b.toNat / 2 ^ 32)
/-- sdiv of R130: toward zero, the two corners named. -/
def aluDiv (a b : Word) : Word :=
  if b = 0 then 0xFFFF_FFFF
  else if a.toInt = -2 ^ 31 ∧ b.toInt = -1 then 0x8000_0000
  else BitVec.ofInt 32 (a.toInt.tdiv b.toInt)
/-- udiv of R130. -/
def aluDivn (a b : Word) : Word := if b = 0 then 0xFFFF_FFFF else BitVec.ofNat 32 (a.toNat / b.toNat)
/-- srem of R130: the sign of the dividend. -/
def aluRem (a b : Word) : Word :=
  if b = 0 then a
  else if a.toInt = -2 ^ 31 ∧ b.toInt = -1 then 0
  else BitVec.ofInt 32 (a.toInt - b.toInt * a.toInt.tdiv b.toInt)
/-- urem of R130. -/
def aluRemn (a b : Word) : Word := if b = 0 then a else BitVec.ofNat 32 (a.toNat - b.toNat * (a.toNat / b.toNat))

/-! ## Register forms -/

/-- ADD (R129). -/
def execAdd (g : Guard) (b : RBody) (s : State) : Host.Outcome State Fault Refusal := scalarR2 s g b 1 aluAdd
/-- SUB (R129). -/
def execSub (g : Guard) (b : RBody) (s : State) : Host.Outcome State Fault Refusal := scalarR2 s g b 1 aluSub
/-- AND (R129). -/
def execAnd (g : Guard) (b : RBody) (s : State) : Host.Outcome State Fault Refusal := scalarR2 s g b 1 aluAnd
/-- OR (R129). -/
def execOr (g : Guard) (b : RBody) (s : State) : Host.Outcome State Fault Refusal := scalarR2 s g b 1 aluOr
/-- XOR (R129). -/
def execXor (g : Guard) (b : RBody) (s : State) : Host.Outcome State Fault Refusal := scalarR2 s g b 1 aluXor
/-- ANDN (R129). -/
def execAndn (g : Guard) (b : RBody) (s : State) : Host.Outcome State Fault Refusal := scalarR2 s g b 1 aluAndn
/-- SHL (R129). -/
def execShl (g : Guard) (b : RBody) (s : State) : Host.Outcome State Fault Refusal := scalarR2 s g b 1 aluShl
/-- SHR (R129). -/
def execShr (g : Guard) (b : RBody) (s : State) : Host.Outcome State Fault Refusal := scalarR2 s g b 1 aluShr
/-- SRA (R129). -/
def execSra (g : Guard) (b : RBody) (s : State) : Host.Outcome State Fault Refusal := scalarR2 s g b 1 aluSra
/-- ROT (R129). -/
def execRot (g : Guard) (b : RBody) (s : State) : Host.Outcome State Fault Refusal := scalarR2 s g b 1 aluRot
/-- MIN (R129). -/
def execMin (g : Guard) (b : RBody) (s : State) : Host.Outcome State Fault Refusal := scalarR2 s g b 1 aluMin
/-- MAX (R129). -/
def execMax (g : Guard) (b : RBody) (s : State) : Host.Outcome State Fault Refusal := scalarR2 s g b 1 aluMax
/-- MINN (R129). -/
def execMinn (g : Guard) (b : RBody) (s : State) : Host.Outcome State Fault Refusal := scalarR2 s g b 1 aluMinn
/-- MAXN (R129). -/
def execMaxn (g : Guard) (b : RBody) (s : State) : Host.Outcome State Fault Refusal := scalarR2 s g b 1 aluMaxn
/-- CLZ (R129). -/
def execClz (g : Guard) (b : RBody) (s : State) : Host.Outcome State Fault Refusal := scalarR1 s g b 1 aluClz
/-- POPC (R129). -/
def execPopc (g : Guard) (b : RBody) (s : State) : Host.Outcome State Fault Refusal := scalarR1 s g b 1 aluPopc
/-- BREV (R129). -/
def execBrev (g : Guard) (b : RBody) (s : State) : Host.Outcome State Fault Refusal := scalarR1 s g b 1 aluBrev
/-- SEL (R129): a if lane 0 of the predicate that c names is 1, else b; the predicate's taint joins. -/
def execSel (g : Guard) (b : RBody) (s : State) : Host.Outcome State Fault Refusal :=
  issue true true s fun c => guarded c g <| withOps c [opA b, opB b] fun l t eat =>
    let k := b.c.toNat % 16
    let v := if bitAt (c.regs.getP k) 0 then nth l 0 else nth l 1
    needRoom c b.dst.toNat 1 (.ok (eat (c.putS b.dst.toNat 1 v (t || bitAt c.regs.ptaint k))))
/-- MUL (R130), L = 3. -/
def execMul (g : Guard) (b : RBody) (s : State) : Host.Outcome State Fault Refusal := scalarR2 s g b 3 aluMul
/-- MULH (R130), L = 3. -/
def execMulh (g : Guard) (b : RBody) (s : State) : Host.Outcome State Fault Refusal := scalarR2 s g b 3 aluMulh
/-- MULHN (R130), L = 3. -/
def execMulhn (g : Guard) (b : RBody) (s : State) : Host.Outcome State Fault Refusal := scalarR2 s g b 3 aluMulhn
/-- DIV (R130), L = 24. -/
def execDiv (g : Guard) (b : RBody) (s : State) : Host.Outcome State Fault Refusal := scalarR2 s g b 24 aluDiv
/-- DIVN (R130), L = 24. -/
def execDivn (g : Guard) (b : RBody) (s : State) : Host.Outcome State Fault Refusal := scalarR2 s g b 24 aluDivn
/-- REM (R130), L = 24. -/
def execRem (g : Guard) (b : RBody) (s : State) : Host.Outcome State Fault Refusal := scalarR2 s g b 24 aluRem
/-- REMN (R130), L = 24. -/
def execRemn (g : Guard) (b : RBody) (s : State) : Host.Outcome State Fault Refusal := scalarR2 s g b 24 aluRemn

/-! ## Immediate forms -/

/-- ADD with an immediate (R129). -/
def execAddI (g : Guard) (b : IBody) (s : State) : Host.Outcome State Fault Refusal := scalarI s g b 1 aluAdd
/-- SUB with an immediate (R129). -/
def execSubI (g : Guard) (b : IBody) (s : State) : Host.Outcome State Fault Refusal := scalarI s g b 1 aluSub
/-- AND with an immediate (R129). -/
def execAndI (g : Guard) (b : IBody) (s : State) : Host.Outcome State Fault Refusal := scalarI s g b 1 aluAnd
/-- OR with an immediate (R129). -/
def execOrI (g : Guard) (b : IBody) (s : State) : Host.Outcome State Fault Refusal := scalarI s g b 1 aluOr
/-- XOR with an immediate (R129). -/
def execXorI (g : Guard) (b : IBody) (s : State) : Host.Outcome State Fault Refusal := scalarI s g b 1 aluXor
/-- ANDN with an immediate (R129). -/
def execAndnI (g : Guard) (b : IBody) (s : State) : Host.Outcome State Fault Refusal := scalarI s g b 1 aluAndn
/-- SHL with an immediate (R129). -/
def execShlI (g : Guard) (b : IBody) (s : State) : Host.Outcome State Fault Refusal := scalarI s g b 1 aluShl
/-- SHR with an immediate (R129). -/
def execShrI (g : Guard) (b : IBody) (s : State) : Host.Outcome State Fault Refusal := scalarI s g b 1 aluShr
/-- SRA with an immediate (R129). -/
def execSraI (g : Guard) (b : IBody) (s : State) : Host.Outcome State Fault Refusal := scalarI s g b 1 aluSra
/-- ROT with an immediate (R129). -/
def execRotI (g : Guard) (b : IBody) (s : State) : Host.Outcome State Fault Refusal := scalarI s g b 1 aluRot
/-- MIN with an immediate (R129). -/
def execMinI (g : Guard) (b : IBody) (s : State) : Host.Outcome State Fault Refusal := scalarI s g b 1 aluMin
/-- MAX with an immediate (R129). -/
def execMaxI (g : Guard) (b : IBody) (s : State) : Host.Outcome State Fault Refusal := scalarI s g b 1 aluMax
/-- MINN with an immediate (R129). -/
def execMinnI (g : Guard) (b : IBody) (s : State) : Host.Outcome State Fault Refusal := scalarI s g b 1 aluMinn
/-- MAXN with an immediate (R129). -/
def execMaxnI (g : Guard) (b : IBody) (s : State) : Host.Outcome State Fault Refusal := scalarI s g b 1 aluMaxn
/-- MUL with an immediate (R130), L = 3. -/
def execMulI (g : Guard) (b : IBody) (s : State) : Host.Outcome State Fault Refusal := scalarI s g b 3 aluMul
/-- DIV with an immediate (R130), L = 24. -/
def execDivI (g : Guard) (b : IBody) (s : State) : Host.Outcome State Fault Refusal := scalarI s g b 24 aluDiv
/-- DIVN with an immediate (R130), L = 24. -/
def execDivnI (g : Guard) (b : IBody) (s : State) : Host.Outcome State Fault Refusal := scalarI s g b 24 aluDivn
/-- REM with an immediate (R130), L = 24. -/
def execRemI (g : Guard) (b : IBody) (s : State) : Host.Outcome State Fault Refusal := scalarI s g b 24 aluRem
/-- REMN with an immediate (R130), L = 24. -/
def execRemnI (g : Guard) (b : IBody) (s : State) : Host.Outcome State Fault Refusal := scalarI s g b 24 aluRemn
/-- MOVI (R131): sext(imm24). -/
def execMovi (g : Guard) (b : IBody) (s : State) : Host.Outcome State Fault Refusal :=
  scalarOp s g [] b.dst.toNat 1 fun _ => imm32 b
/-- MOVI.H (R131): sA[15:0] | imm24[15:0] << 16. -/
def execMoviH (g : Guard) (b : IBody) (s : State) : Host.Outcome State Fault Refusal :=
  scalarOp s g [opI b] b.dst.toNat 1 fun l => b.imm.extractLsb' 0 16 ++ (nth l 0).extractLsb' 0 16

/-! ## Addresses (R132) -/

/-- A 64-bit result from a pair and a 32-bit operand: both halves land at issue + 1 (R132). -/
def addressOp (s : State) (g : Guard) (a dst : Nat) (ops : List Opnd) (f : Word64 → List Word → Word64) :
    Host.Outcome State Fault Refusal :=
  issue true true s fun c => guarded c g <| withOps c ops fun l t eat =>
    .ok (eat (c.putPair dst 1 (f (c.regs.getPair a) l) (t || c.regs.taintPair a)))

/-- ADDP (R132). -/
def execAddp (g : Guard) (b : RBody) (s : State) : Host.Outcome State Fault Refusal :=
  addressOp s g b.a.toNat b.dst.toNat [opB b] fun p l => p + (nth l 0).signExtend 64
/-- LEAP (R132): the shift is the number in c. -/
def execLeap (g : Guard) (b : RBody) (s : State) : Host.Outcome State Fault Refusal :=
  addressOp s g b.a.toNat b.dst.toNat [opB b] fun p l => p + ((nth l 0).signExtend 64 <<< b.c.toNat)
/-- ADDPI (R132). -/
def execAddpi (g : Guard) (b : IBody) (s : State) : Host.Outcome State Fault Refusal :=
  addressOp s g b.a.toNat b.dst.toNat [] fun p _ => p + imm64 b

/-! ## Compares and predicates -/

/-- A compare of two values (R133, R134): with a false guard `.k` does nothing and `.z` writes untainted zeros. -/
def compareOp (s : State) (g : Guard) (j : Nat) (zk : Bool) (ops : List Opnd) (f : List Word → Bool) :
    Host.Outcome State Fault Refusal :=
  issue true true s fun c =>
    if guardAt c.regs g 0 then
      withOps c ops fun l t eat =>
        let v := f l
        .ok (eat (c.putPredPair j (if v then allLanes else 0) (if v then 0 else allLanes) allLanes t))
    else if zk then .ok c
    else .ok (c.putPredPair j 0 0 allLanes false)

/-- imm22 of `CMPI`: b[25:20] and rest[15:0], sign-extended (R133). -/
def imm22 (b : PBody) : Word := (b.b ++ b.rest).signExtend 32

/-- CMP (R133). -/
def execCmp (g : Guard) (b : PBody) (s : State) : Host.Outcome State Fault Refusal :=
  compareOp s g b.pair.toNat b.zk [⟨b.a.toNat, false⟩, ⟨b.b.toNat, false⟩] fun l => condTrue b.cond.toNat (nth l 0) (nth l 1)
/-- CMPI (R133). -/
def execCmpi (g : Guard) (b : PBody) (s : State) : Host.Outcome State Fault Refusal :=
  compareOp s g b.pair.toNat b.zk [⟨b.a.toNat, false⟩] fun l => condTrue b.cond.toNat (nth l 0) (imm22 b)

/-- tt[4·px + 2·py + pz] in every lane (R135). -/
def plogLanes (tt : BitVec 8) (x y z : Pred) : Pred :=
  BitVec.ofNat 64 ((List.range 64).foldl (fun a i =>
    let n (p : Pred) : Nat := if bitAt p i then 1 else 0
    if bitAt tt (4 * n x + 2 * n y + n z) then a + 2 ^ i else a) 0)

/-- PLOG (R135): lane by lane under guard(i). -/
def execPlog (g : Guard) (b : PBody) (s : State) : Host.Outcome State Fault Refusal :=
  issue true true s fun c =>
    let r := c.regs
    let m := guardMask r g
    let px := b.a.toNat % 16
    let py := b.b.toNat % 16
    let pz := b.cond.toNat
    let v := plogLanes (b.rest.extractLsb' 8 8) (r.getP px) (r.getP py) (r.getP pz)
    let t := bitAt r.ptaint px || bitAt r.ptaint py || bitAt r.ptaint pz
    if b.zk then (if m = 0 then .ok c else .ok (c.putPredPair b.pair.toNat v (~~~v) m t))
    else .ok (c.putPredPair b.pair.toNat (v &&& m) (~~~v &&& m) allLanes (m != 0 && t))

/-- PMOV pD, pA (R136): lane by lane under guard(i). -/
def execPmovPred (g : Guard) (b : RBody) (s : State) : Host.Outcome State Fault Refusal :=
  issue true true s fun c =>
    let m := guardMask c.regs g
    let a := b.a.toNat % 16
    if m = 0 then .ok c
    else .ok (c.mapCtx fun x => x.fly c.clk 1 (.p (b.dst.toNat % 16) (c.regs.getP a) m (bitAt c.regs.ptaint a)))
/-- PMOV pD, sA:sA+1 (R136). -/
def execPmovFromPair (g : Guard) (b : RBody) (s : State) : Host.Outcome State Fault Refusal :=
  issue true true s fun c => guarded c g <|
    .ok (c.mapCtx fun x => x.fly c.clk 1
      (.p (b.dst.toNat % 16) (c.regs.getPair b.a.toNat) allLanes (c.regs.taintPair b.a.toNat)))
/-- PMOV sD:sD+1, pA (R136). -/
def execPmovToPair (g : Guard) (b : RBody) (s : State) : Host.Outcome State Fault Refusal :=
  issue true true s fun c => guarded c g <|
    .ok (c.putPair b.dst.toNat 1 (c.regs.getP (b.a.toNat % 16)) (bitAt c.regs.ptaint (b.a.toNat % 16)))

/-- A word that reduces a predicate to a scalar (R137). -/
def predReduce (s : State) (g : Guard) (b : RBody) (f : Pred → Word) : Host.Outcome State Fault Refusal :=
  issue true true s fun c => guarded c g <| needRoom c b.dst.toNat 1 <|
    .ok (c.putS b.dst.toNat 1 (f (c.regs.getP (b.a.toNat % 16))) (bitAt c.regs.ptaint (b.a.toNat % 16)))
/-- PANY (R137). -/
def execPany (g : Guard) (b : RBody) (s : State) : Host.Outcome State Fault Refusal :=
  predReduce s g b fun p => if p = 0 then 0 else 1
/-- PALL (R137). -/
def execPall (g : Guard) (b : RBody) (s : State) : Host.Outcome State Fault Refusal :=
  predReduce s g b fun p => if p = allLanes then 1 else 0
/-- PCNT (R137). -/
def execPcnt (g : Guard) (b : RBody) (s : State) : Host.Outcome State Fault Refusal :=
  predReduce s g b fun p => BitVec.ofNat 32 (aluPopc.popBits p.toNat 64)
/-- PLIVE (R138): `%plive` for every instruction issued after it. -/
def execPlive (g : Guard) (b : IBody) (s : State) : Host.Outcome State Fault Refusal :=
  issue true true s fun c => guarded c g <| .ok (c.mapRegs fun r => { r with plive := b.imm.extractLsb' 0 16 })

end Sys2Proof.Machine
end

