-- ==== Sys2Proof/Machine/Dispatch.lean ====
section
/-! DEFINITION. One arm per constructor of `Instr`: the meaning that the manual gives it. -/

namespace Sys2Proof.Machine

/-- The meaning of every step of the machine. -/
def exec (i : Instr) (s : State) : Host.Outcome State Fault Refusal :=
  match i with
  | .add g b => Sys2Proof.Machine.execAdd g b s
  | .sub g b => Sys2Proof.Machine.execSub g b s
  | .and g b => Sys2Proof.Machine.execAnd g b s
  | .or g b => Sys2Proof.Machine.execOr g b s
  | .xor g b => Sys2Proof.Machine.execXor g b s
  | .andn g b => Sys2Proof.Machine.execAndn g b s
  | .shl g b => Sys2Proof.Machine.execShl g b s
  | .shr g b => Sys2Proof.Machine.execShr g b s
  | .sra g b => Sys2Proof.Machine.execSra g b s
  | .rot g b => Sys2Proof.Machine.execRot g b s
  | .min g b => Sys2Proof.Machine.execMin g b s
  | .max g b => Sys2Proof.Machine.execMax g b s
  | .minn g b => Sys2Proof.Machine.execMinn g b s
  | .maxn g b => Sys2Proof.Machine.execMaxn g b s
  | .clz g b => Sys2Proof.Machine.execClz g b s
  | .popc g b => Sys2Proof.Machine.execPopc g b s
  | .brev g b => Sys2Proof.Machine.execBrev g b s
  | .sel g b => Sys2Proof.Machine.execSel g b s
  | .mul g b => Sys2Proof.Machine.execMul g b s
  | .mulh g b => Sys2Proof.Machine.execMulh g b s
  | .mulhn g b => Sys2Proof.Machine.execMulhn g b s
  | .div g b => Sys2Proof.Machine.execDiv g b s
  | .divn g b => Sys2Proof.Machine.execDivn g b s
  | .rem g b => Sys2Proof.Machine.execRem g b s
  | .remn g b => Sys2Proof.Machine.execRemn g b s
  | .addI g b => Sys2Proof.Machine.execAddI g b s
  | .subI g b => Sys2Proof.Machine.execSubI g b s
  | .andI g b => Sys2Proof.Machine.execAndI g b s
  | .orI g b => Sys2Proof.Machine.execOrI g b s
  | .xorI g b => Sys2Proof.Machine.execXorI g b s
  | .andnI g b => Sys2Proof.Machine.execAndnI g b s
  | .shlI g b => Sys2Proof.Machine.execShlI g b s
  | .shrI g b => Sys2Proof.Machine.execShrI g b s
  | .sraI g b => Sys2Proof.Machine.execSraI g b s
  | .rotI g b => Sys2Proof.Machine.execRotI g b s
  | .minI g b => Sys2Proof.Machine.execMinI g b s
  | .maxI g b => Sys2Proof.Machine.execMaxI g b s
  | .minnI g b => Sys2Proof.Machine.execMinnI g b s
  | .maxnI g b => Sys2Proof.Machine.execMaxnI g b s
  | .mulI g b => Sys2Proof.Machine.execMulI g b s
  | .divI g b => Sys2Proof.Machine.execDivI g b s
  | .divnI g b => Sys2Proof.Machine.execDivnI g b s
  | .remI g b => Sys2Proof.Machine.execRemI g b s
  | .remnI g b => Sys2Proof.Machine.execRemnI g b s
  | .movi g b => Sys2Proof.Machine.execMovi g b s
  | .moviH g b => Sys2Proof.Machine.execMoviH g b s
  | .addp g b => Sys2Proof.Machine.execAddp g b s
  | .leap g b => Sys2Proof.Machine.execLeap g b s
  | .addpi g b => Sys2Proof.Machine.execAddpi g b s
  | .cmp g b => Sys2Proof.Machine.execCmp g b s
  | .cmpi g b => Sys2Proof.Machine.execCmpi g b s
  | .plog g b => Sys2Proof.Machine.execPlog g b s
  | .pmovPred g b => Sys2Proof.Machine.execPmovPred g b s
  | .pmovFromPair g b => Sys2Proof.Machine.execPmovFromPair g b s
  | .pmovToPair g b => Sys2Proof.Machine.execPmovToPair g b s
  | .pany g b => Sys2Proof.Machine.execPany g b s
  | .pall g b => Sys2Proof.Machine.execPall g b s
  | .pcnt g b => Sys2Proof.Machine.execPcnt g b s
  | .plive g b => Sys2Proof.Machine.execPlive g b s
  | .br g off => Sys2Proof.Machine.execBr g off s
  | .bri g b => Sys2Proof.Machine.execBri g b s
  | .call g off => Sys2Proof.Machine.execCall g off s
  | .calli g b => Sys2Proof.Machine.execCalli g b s
  | .ret g b => Sys2Proof.Machine.execRet g b s
  | .loop g b => Sys2Proof.Machine.execLoop g b s
  | .lbrk g b => Sys2Proof.Machine.execLbrk g b s
  | .lidx g b => Sys2Proof.Machine.execLidx g b s
  | .nop g b => Sys2Proof.Machine.execNop g b s
  | .yieldI g b => Sys2Proof.Machine.execYieldI g b s
  | .exit g b => Sys2Proof.Machine.execExit g b s
  | .trap g b => Sys2Proof.Machine.execTrap g b s
  | .launch g b => Sys2Proof.Machine.execLaunch g b s
  | .launchP g b => Sys2Proof.Machine.execLaunchP g b s
  | .shape g b => Sys2Proof.Machine.execShape g b s
  | .ralloc g b => Sys2Proof.Machine.execRalloc g b s
  | .join g b => Sys2Proof.Machine.execJoin g b s
  | .leave g b => Sys2Proof.Machine.execLeave g b s
  | .cbar g b => Sys2Proof.Machine.execCbar g b s
  | .rng g b => Sys2Proof.Machine.execRng g b s
  | .rngset g b => Sys2Proof.Machine.execRngset g b s
  | .rngsetSplit g b => Sys2Proof.Machine.execRngsetSplit g b s
  | .rsub g b => Sys2Proof.Machine.execRsub g b s
  | .segdone g b => Sys2Proof.Machine.execSegdone g b s
  | .rtag g b => Sys2Proof.Machine.execRtag g b s
  | .ldN8 g b => Sys2Proof.Machine.execLdN8 g b s
  | .ldI8 g b => Sys2Proof.Machine.execLdI8 g b s
  | .ldN16 g b => Sys2Proof.Machine.execLdN16 g b s
  | .ldI16 g b => Sys2Proof.Machine.execLdI16 g b s
  | .ld32 g b => Sys2Proof.Machine.execLd32 g b s
  | .ld64 g b => Sys2Proof.Machine.execLd64 g b s
  | .st8 g b => Sys2Proof.Machine.execSt8 g b s
  | .st16 g b => Sys2Proof.Machine.execSt16 g b s
  | .st32 g b => Sys2Proof.Machine.execSt32 g b s
  | .st64 g b => Sys2Proof.Machine.execSt64 g b s
  | .ldc32 g b => Sys2Proof.Machine.execLdc32 g b s
  | .ldc64 g b => Sys2Proof.Machine.execLdc64 g b s
  | .ldOrdered g b m => Sys2Proof.Machine.execLdOrdered g b m s
  | .stOrdered g b m => Sys2Proof.Machine.execStOrdered g b m s
  | .fence g b m => Sys2Proof.Machine.execFence g b m s
  | .pref g b => Sys2Proof.Machine.execPref g b s
  | .aadd g b m => Sys2Proof.Machine.execAadd g b m s
  | .aand g b m => Sys2Proof.Machine.execAand g b m s
  | .aor g b m => Sys2Proof.Machine.execAor g b m s
  | .axor g b m => Sys2Proof.Machine.execAxor g b m s
  | .amin g b m => Sys2Proof.Machine.execAmin g b m s
  | .amax g b m => Sys2Proof.Machine.execAmax g b m s
  | .axchg g b m => Sys2Proof.Machine.execAxchg g b m s
  | .acas g b m => Sys2Proof.Machine.execAcas g b m s
  | .ldt g b => Sys2Proof.Machine.execLdt g b s
  | .stt g b => Sys2Proof.Machine.execStt g b s
  | .ldv g b => Sys2Proof.Machine.execLdv g b s
  | .ldvCol g b => Sys2Proof.Machine.execLdvCol g b s
  | .ldvIdx g b => Sys2Proof.Machine.execLdvIdx g b s
  | .stv g b => Sys2Proof.Machine.execStv g b s
  | .stvCol g b => Sys2Proof.Machine.execStvCol g b s
  | .stvIdx g b => Sys2Proof.Machine.execStvIdx g b s
  | .rdf g b => Sys2Proof.Machine.execRdf g b s
  | .fill g b => Sys2Proof.Machine.execFill g b s
  | .waits g b => Sys2Proof.Machine.execWaits g b s
  | .waitsDec g b => Sys2Proof.Machine.execWaitsDec g b s
  | .sig g b => Sys2Proof.Machine.execSig g b s
  | .semset g b => Sys2Proof.Machine.execSemset g b s
  | .semrd g b => Sys2Proof.Machine.execSemrd g b s
  | .qcnt g b => Sys2Proof.Machine.execQcnt g b s
  | .qdrn g b => Sys2Proof.Machine.execQdrn g b s
  | .lease g b => Sys2Proof.Machine.execLease g b s
  | .unlease g b => Sys2Proof.Machine.execUnlease g b s
  | .chain g b => Sys2Proof.Machine.execChain g b s
  | .vadd g b => Sys2Proof.Machine.execVadd g b s
  | .vsub g b => Sys2Proof.Machine.execVsub g b s
  | .vmul g b => Sys2Proof.Machine.execVmul g b s
  | .vfma g b => Sys2Proof.Machine.execVfma g b s
  | .vmin g b => Sys2Proof.Machine.execVmin g b s
  | .vmax g b => Sys2Proof.Machine.execVmax g b s
  | .vabs g b => Sys2Proof.Machine.execVabs g b s
  | .vneg g b => Sys2Proof.Machine.execVneg g b s
  | .vand g b => Sys2Proof.Machine.execVand g b s
  | .vor g b => Sys2Proof.Machine.execVor g b s
  | .vxor g b => Sys2Proof.Machine.execVxor g b s
  | .vshl g b => Sys2Proof.Machine.execVshl g b s
  | .vshr g b => Sys2Proof.Machine.execVshr g b s
  | .vsra g b => Sys2Proof.Machine.execVsra g b s
  | .vcmp g b => Sys2Proof.Machine.execVcmp g b s
  | .vcvt g b => Sys2Proof.Machine.execVcvt g b s
  | .vrcp g b => Sys2Proof.Machine.execVrcp g b s
  | .vrsq g b => Sys2Proof.Machine.execVrsq g b s
  | .vexp2 g b => Sys2Proof.Machine.execVexp2 g b s
  | .vlog2 g b => Sys2Proof.Machine.execVlog2 g b s
  | .vsinc g b => Sys2Proof.Machine.execVsinc g b s
  | .vred g b => Sys2Proof.Machine.execVred g b s
  | .vscan g b => Sys2Proof.Machine.execVscan g b s
  | .vperm g b => Sys2Proof.Machine.execVperm g b s
  | .vshufRot g b => Sys2Proof.Machine.execVshufRot g b s
  | .vshufSlide g b => Sys2Proof.Machine.execVshufSlide g b s
  | .vshufZiplo g b => Sys2Proof.Machine.execVshufZiplo g b s
  | .vshufZiphi g b => Sys2Proof.Machine.execVshufZiphi g b s
  | .vshufUnze g b => Sys2Proof.Machine.execVshufUnze g b s
  | .vshufUnzo g b => Sys2Proof.Machine.execVshufUnzo g b s
  | .vshufRev g b => Sys2Proof.Machine.execVshufRev g b s
  | .vbcast g b => Sys2Proof.Machine.execVbcast g b s
  | .vbcastL g b => Sys2Proof.Machine.execVbcastL g b s
  | .vmov g b => Sys2Proof.Machine.execVmov g b s
  | .vmovX g b => Sys2Proof.Machine.execVmovX g b s
  | .vmovI g b => Sys2Proof.Machine.execVmovI g b s
  | .vsel g b => Sys2Proof.Machine.execVsel g b s
  | .viota g b => Sys2Proof.Machine.execViota g b s
  | .viotaP g b => Sys2Proof.Machine.execViotaP g b s
  | .pushc g b => Sys2Proof.Machine.execPushc g b s
  | .popcV g b => Sys2Proof.Machine.execPopcV g b s
  | .popcD g b => Sys2Proof.Machine.execPopcD g b s
  | .popcClr g b => Sys2Proof.Machine.execPopcClr g b s
  | .gets g b => Sys2Proof.Machine.execGets g b s
  | .sets g b => Sys2Proof.Machine.execSets g b s
  | .eret g b => Sys2Proof.Machine.execEret g b s
  | .wfi g b => Sys2Proof.Machine.execWfi g b s
  | .ctxsv g b => Sys2Proof.Machine.execCtxsv g b s
  | .ctxld g b => Sys2Proof.Machine.execCtxld g b s
  | .tlbinvPage g b dev => Sys2Proof.Machine.execTlbinvPage g b dev s
  | .tlbinvAsid g b dev => Sys2Proof.Machine.execTlbinvAsid g b dev s
  | .tlbinvAll g b dev => Sys2Proof.Machine.execTlbinvAll g b dev s
  | .rtabw g b => Sys2Proof.Machine.execRtabw g b s
  | .rtabwWin g b => Sys2Proof.Machine.execRtabwWin g b s
  | .sptw g b => Sys2Proof.Machine.execSptw g b s
  | .sptwRd g b => Sys2Proof.Machine.execSptwRd g b s
  | .mma g c => Sys2Proof.Machine.execMma g c s
  | .xld g c => Sys2Proof.Machine.execXld g c s
  | .accrd g c => Sys2Proof.Machine.execAccrd g c s
  | .accld g c => Sys2Proof.Machine.execAccld g c s
  | .tcopy g c => Sys2Proof.Machine.execTcopy g c s
  | .tmcast g c => Sys2Proof.Machine.execTmcast g c s
  | .twin g c => Sys2Proof.Machine.execTwin g c s
  | .tfill g c => Sys2Proof.Machine.execTfill g c s
  | .scat g c => Sys2Proof.Machine.execScat g c s
  | .attn g c => Sys2Proof.Machine.execAttn g c s
  | .kvapp g c => Sys2Proof.Machine.execKvapp g c s
  | .kvrot g c => Sys2Proof.Machine.execKvrot g c s
  | .kvevict g c => Sys2Proof.Machine.execKvevict g c s
  | .undefinedInstruction word => Sys2Proof.Machine.execUndefinedInstruction word s
  | .engineCommandStart die tile eng pusher => Sys2Proof.Machine.execEngineCommandStart die tile eng pusher s
  | .engineCommandComplete die tile eng idx => Sys2Proof.Machine.execEngineCommandComplete die tile eng idx s
  | .tmcastGranuleDelivery die tile idx rcv => Sys2Proof.Machine.execTmcastGranuleDelivery die tile idx rcv s
  | .enginePageResume die tile eng idx => Sys2Proof.Machine.execEnginePageResume die tile eng idx s
  | .mmaDrain die tile ksteps => Sys2Proof.Machine.execMmaDrain die tile ksteps s
  | .chainComplete die tile chain => Sys2Proof.Machine.execChainComplete die tile chain s
  | .leaseGrant die tile cyc => Sys2Proof.Machine.execLeaseGrant die tile cyc s
  | .leaseExpiry die tile cyc => Sys2Proof.Machine.execLeaseExpiry die tile cyc s
  | .queueDelivery uid idx ext => Sys2Proof.Machine.execQueueDelivery uid idx ext s
  | .postedStoreAck msg => Sys2Proof.Machine.execPostedStoreAck msg s
  | .launchRecordAccept die cyc => Sys2Proof.Machine.execLaunchRecordAccept die cyc s
  | .taskPlacement die seq cyc => Sys2Proof.Machine.execTaskPlacement die seq cyc s
  | .parkedRestore uid seq cyc => Sys2Proof.Machine.execParkedRestore uid seq cyc s
  | .timeSliceExpiry die seq cyc => Sys2Proof.Machine.execTimeSliceExpiry die seq cyc s
  | .priorityAging uid cyc => Sys2Proof.Machine.execPriorityAging uid cyc s
  | .starvationOrdering uid cyc => Sys2Proof.Machine.execStarvationOrdering uid cyc s
  | .stealRequest die thief victim cyc => Sys2Proof.Machine.execStealRequest die thief victim cyc s
  | .stealBackoffExpiry die seq cyc => Sys2Proof.Machine.execStealBackoffExpiry die seq cyc s
  | .cohortBarrierComplete die id cyc => Sys2Proof.Machine.execCohortBarrierComplete die id cyc s
  | .futureRetry uid cyc => Sys2Proof.Machine.execFutureRetry uid cyc s
  | .counterLowering die idx cyc => Sys2Proof.Machine.execCounterLowering die idx cyc s
  | .shapeConfirmation die record cyc => Sys2Proof.Machine.execShapeConfirmation die record cyc s
  | .tailRecordEntry die record cyc => Sys2Proof.Machine.execTailRecordEntry die record cyc s
  | .pageWalkComplete die idx => Sys2Proof.Machine.execPageWalkComplete die idx s
  | .pageResume die reqno => Sys2Proof.Machine.execPageResume die reqno s
  | .evictionStart asid va leaf backing => Sys2Proof.Machine.execEvictionStart asid va leaf backing s
  | .evictionShootdownDone idx => Sys2Proof.Machine.execEvictionShootdownDone idx s
  | .ringSlot ring => Sys2Proof.Machine.execRingSlot ring s
  | .colBypassTakeover ring idx => Sys2Proof.Machine.execColBypassTakeover ring idx s
  | .dieFenceOrder die cyc => Sys2Proof.Machine.execDieFenceOrder die cyc s
  | .ringImageArrival ring => Sys2Proof.Machine.execRingImageArrival ring s
  | .ringImageReread ring die ok => Sys2Proof.Machine.execRingImageReread ring die ok s
  | .laneTest lane ok => Sys2Proof.Machine.execLaneTest lane ok s
  | .patrolScrub die => Sys2Proof.Machine.execPatrolScrub die s
  | .queueDoorbellWrite q => Sys2Proof.Machine.execQueueDoorbellWrite q s
  | .qcbCommit q gen => Sys2Proof.Machine.execQcbCommit q gen s
  | .queueReset q => Sys2Proof.Machine.execQueueReset q s
  | .queueResetComplete q => Sys2Proof.Machine.execQueueResetComplete q s
  | .guldonNop q => Sys2Proof.Machine.execGuldonNop q s
  | .guldonLaunch q => Sys2Proof.Machine.execGuldonLaunch q s
  | .guldonIlaunch q => Sys2Proof.Machine.execGuldonIlaunch q s
  | .guldonCopy q => Sys2Proof.Machine.execGuldonCopy q s
  | .guldonSignal q => Sys2Proof.Machine.execGuldonSignal q s
  | .guldonWait q => Sys2Proof.Machine.execGuldonWait q s
  | .guldonWaitSatisfied q => Sys2Proof.Machine.execGuldonWaitSatisfied q s
  | .guldonLoop q => Sys2Proof.Machine.execGuldonLoop q s
  | .guldonCond q => Sys2Proof.Machine.execGuldonCond q s
  | .guldonRestore q => Sys2Proof.Machine.execGuldonRestore q s
  | .guldonDoorbell q => Sys2Proof.Machine.execGuldonDoorbell q s
  | .prologueEnd die => Sys2Proof.Machine.execPrologueEnd die s
  | .packetCompletion q pkt => Sys2Proof.Machine.execPacketCompletion q pkt s
  | .heartbeatWrite core cyc => Sys2Proof.Machine.execHeartbeatWrite core cyc s
  | .watchdogReset core cyc => Sys2Proof.Machine.execWatchdogReset core cyc s
  | .firmwareUpdate image version cyc => Sys2Proof.Machine.execFirmwareUpdate image version cyc s
  | .updateRollback cyc => Sys2Proof.Machine.execUpdateRollback cyc s
  | .spanRequestArrival req => Sys2Proof.Machine.execSpanRequestArrival req s
  | .spanResend msg cyc => Sys2Proof.Machine.execSpanResend msg cyc s
  | .spanUndeliverable msg cyc => Sys2Proof.Machine.execSpanUndeliverable msg cyc s
  | .ingestMessageLanding idx => Sys2Proof.Machine.execIngestMessageLanding idx s
  | .ingestReassemblyTimeout idx cyc => Sys2Proof.Machine.execIngestReassemblyTimeout idx cyc s
  | .ingestBufferedLanding idx => Sys2Proof.Machine.execIngestBufferedLanding idx s
  | .snapshotRequest ring => Sys2Proof.Machine.execSnapshotRequest ring s
  | .keyInstall index wrapped cyc => Sys2Proof.Machine.execKeyInstall index wrapped cyc s
  | .keyInstallDone cyc => Sys2Proof.Machine.execKeyInstallDone cyc s
  | .budgetWrite watts => Sys2Proof.Machine.execBudgetWrite watts s
  | .powerArbitration cyc => Sys2Proof.Machine.execPowerArbitration cyc s
  | .getVersion => Sys2Proof.Machine.execGetVersion s
  | .getCapabilities => Sys2Proof.Machine.execGetCapabilities s
  | .negotiateAlgorithms asym hash => Sys2Proof.Machine.execNegotiateAlgorithms asym hash s
  | .getDigests => Sys2Proof.Machine.execGetDigests s
  | .getCertificate slot off len => Sys2Proof.Machine.execGetCertificate slot off len s
  | .challenge slot nonce => Sys2Proof.Machine.execChallenge slot nonce s
  | .getMeasurements index nonce => Sys2Proof.Machine.execGetMeasurements index nonce s
  | .moduleReset boot => Sys2Proof.Machine.execModuleReset boot s
  | .dieCalibrated die => Sys2Proof.Machine.execDieCalibrated die s
  | .fullServiceStart cyc => Sys2Proof.Machine.execFullServiceStart cyc s
  | .registerWrite reg value => Sys2Proof.Machine.execRegisterWrite reg value s
  | .dieFailure die cause => Sys2Proof.Machine.execDieFailure die cause s
  | .uetPacketArrival pkt => Sys2Proof.Machine.execUetPacketArrival pkt s
  | .landingRingEnable ring => Sys2Proof.Machine.execLandingRingEnable ring s
  | .recoveryImage image => Sys2Proof.Machine.execRecoveryImage image s
  | .applicationCoreAccess acc => Sys2Proof.Machine.execApplicationCoreAccess acc s
  | .deviceMemoryAccess acc => Sys2Proof.Machine.execDeviceMemoryAccess acc s

end Sys2Proof.Machine
end

