-- ==== Sys2Proof/Machine/Runtime.lean ====
section
/-! DEFINITION. The runtime's calls, which the manual gives by their effect: TALLOC and TFREE (R78), the request and
sequence calls (R40, R319), programs of the firmware complex (R333), the placing of segments and their bytes in a ring (R17, R398),
and the moves of other agents that no event of the opcode table names. -/

namespace Sys2Proof.Machine

/-- Bytes of a contiguous tensor: the product of its extents times the element bytes. -/
def tensorBytes (fmt : Nat) (extent : List Nat) : Nat := extent.foldl (· * ·) (fmtBytes fmt)

/-- The first run of `size` free bytes of tile memory, in 4 KiB granules (R78, log entry 10). -/
def freeRun (allocs : List Alloc) (size : Nat) : Option Nat :=
  (List.range 4096).findSome? fun g =>
    let b := 4096 * g
    if b + size ≤ 0x100_0000 ∧ allocs.all fun a => decide (a.base + a.size ≤ b) || decide (b + size ≤ a.base)
    then some b else none

/-- Byte strides of a contiguous tensor (R78). -/
def contiguous (fmt : Nat) (extent : List Nat) : List Nat :=
  (extent.foldl (fun a e => (a.1 * e, a.2 ++ [a.1])) (fmtBytes fmt, [])).2

/-- The bits of a descriptor (R75). -/
def descBits (strict : Bool) (fmt tile base pad : Nat) (extent stride : List Nat) : Nat :=
  1 + (if strict then 4 else 0) + 8 + fmt * 2 ^ 4 + (extent.length - 1) * 2 ^ 8 + tile / 16 % 2 * 2 ^ 10 +
    tile % 16 * 2 ^ 12 + base * 2 ^ 64 + pad * 2 ^ 128 +
    (extent.zipIdx.foldl (fun a p => a + p.1 % 2 ^ 32 * 2 ^ (192 + 32 * p.2)) 0) +
    (stride.zipIdx.foldl (fun a p => a + p.1 % 2 ^ 32 * 2 ^ (320 + 32 * p.2)) 0)

/-- Writes bytes of a descriptor table (R74): the runtime does so whatever permission tasks have. -/
def State.descWrite (s : State) (asid va n v : Nat) : State × Bool :=
  match s.feResolve asid va .read with
  | (s, .ok pa) =>
    if isSpan pa then (s.sendSpan ⟨none, asid, none, 20, pa, va, n, 0, v % 256 ^ n, (s.die 0).cyc, 1⟩, true)
    else (s.writePa pa n v, true)
  | (s, _) => (s, false)

/-- TALLOC (R78): reserves granules and writes the descriptor. -/
def State.talloc (s : State) (die tile asid handle fmt : Nat) (extent : List Nat) (pad : Nat) (strict : Bool) :
    Host.Outcome State Fault Refusal :=
  let size := (tensorBytes fmt extent + 4095) / 4096 * 4096
  if handle < 0x8000 || decide (0xFFFE < handle) || decide (10 < fmt) || extent.isEmpty || decide (4 < extent.length) ||
      extent.any (· == 0) || decide (tilesOf die ≤ tile) || (s.allocOf die asid handle).isSome then
    .refused (.notEnabled "TALLOC")
  else match freeRun (s.tile die tile).allocs size with
    | none => .refused (.notEnabled "TALLOC")
    | some b =>
      match s.descWrite asid (s.asidDtab asid + 64 * handle) 64
          (descBits strict fmt tile b (pad % 2 ^ fmtBits fmt) extent (contiguous fmt extent)) with
      | (s, true) => .next (s.updTile die tile fun x => { x with allocs := x.allocs ++ [⟨asid, handle, b, size, 0, false⟩] })
      | (_, false) => .refused (.notEnabled "TALLOC")

/-- A command names an allocation of a tile: by its handle or by a descriptor of that tile with its base (R78). -/
def Cmd.names (c : Cmd) (asid tile handle base : Nat) : Bool :=
  c.asid == asid && c.descs.any fun d => d.handle == handle || (d.space == 1 && d.tile == tile && d.base == base)
/-- Some command of the engines names the allocation, standing in a queue, waiting or running (R78). -/
def Engines.names (e : Engines) (asid tile handle base : Nat) : Bool :=
  e.running.any (fun r => r.cmd.names asid tile handle base) || e.restored.any (·.names asid tile handle base) ||
    e.queues.cells.any fun q => q.2.any (·.names asid tile handle base)
/-- Some command of a die names the allocation; one that stands drained in a frame has not completed (R78, R230). -/
def State.bufferNamed (s : State) (die asid tile handle base : Nat) : Bool :=
  ((List.range (tilesOf die)).any fun t => (s.tile die t).eng.names asid tile handle base) ||
    (s.instsOn die).any fun i => i.2.sched.saved.any (·.names asid tile handle base)

/-- TFREE (R78): once no command names the buffer, valid := 0 and the allocation is gone. -/
def State.tfree (s : State) (die tile asid handle : Nat) : Host.Outcome State Fault Refusal :=
  match (s.tile die tile).allocs.find? fun a => a.asid == asid && a.handle == handle with
  | none => .refused (.notEnabled "TFREE")
  | some a =>
    if s.bufferNamed die asid tile handle a.base then
      .refused (.notEnabled "TFREE")
    else
      let va := s.asidDtab asid + 64 * handle
      match s.feRead asid va 1 with
      | (s, .ok v) =>
        match s.descWrite asid va 1 (v &&& 0xF7) with
        | (s, _) => .next (s.updTile die tile fun x => { x with allocs := x.allocs.erase a })
      | (_, .error _) => .refused (.notEnabled "TFREE")

/-- Place of ring position `pos` counted from the position that die `d` presents in the current slot (R270). -/
def State.posOffset (s : State) (d pos : Nat) : Nat :=
  let r := (s.die d).regs
  (pos + r.rotLen - r.sigma % r.rotLen) % r.rotLen

/-- A program of the firmware complex on the front-end sequencer of a die, at firmware level (R333, R367). -/
def State.placeFirmware (s : State) (die asid pc : Nat) : State :=
  let u := s.nextUid
  let q := frontSeq die
  let entry : Word64 := BitVec.ofNat 64 pc
  let i : Inst :=
    { who := ⟨.firmware, 2, asid, die, 0, 0, 0x0001_0001, 0, none, none, 3⟩
      ctx := Ctx.init entry 0
      range := ⟨0, 0, true, 0, 0, false⟩
      sched := ⟨.resident, some q, 1, (s.die die).cyc, 0, 0, false, .none, 0, true, none, none, none, none, false, [], false,
        false, none, [], none⟩
      coh := none
      ex := ⟨false, false, false, none, none, false, 0, 0, 0, entry, 0, false, (0, 0), false, 0⟩ }
  ({ s with nextUid := u + 1 }.setInst u i).updSeq die q fun x => { x with slots := x.slots.put 1 u }

/-- The module is in recovery (R411). -/
def State.recovering (s : State) : Bool := s.host.phase == 5
/-- A move that recovery does not shut out: no core, die or port makes it. -/
def Move.inRecovery : Move → Bool
  | .note _ _ => true
  | .soft _ => true
  | .issue _ _ => true
  | .event _ => true
  | _ => false

/-- What a move does that is neither an event of the opcode table nor an issue. -/
def State.move (s : State) : Move → Host.Outcome State Fault Refusal
  | .talloc die tile asid handle fmt extent pad strict => s.talloc die tile asid handle fmt extent pad strict
  | .tfree die tile asid handle => s.tfree die tile asid handle
  | .seqCall die n bits =>
    if isAtt die && decide (n < 65536) then .next (s.updDie die fun x => { x with seqTab := x.seqTab.set 0 n bits })
    else .refused (.notEnabled "sequence call")
  | .ctxCall die n bits =>
    if !isAtt die && decide (n < 1024) then .next (s.setCtx die n bits) else .refused (.notEnabled "request call")
  | .place ring pos seg =>
    match (s.rings.get Ring.init ring).dies.find? fun d => decide (s.posOffset d pos < (s.die d).ring.transit.length) with
    | none => .refused (.notEnabled "segment placing")
    | some d => .next (s.updRing d fun r => { r with transit := setNth r.transit (s.posOffset d pos) ⟨seg, false, none⟩ })
  | .elem seg tile k n bits =>
    .next { s with segs := s.segs.set 0 (((seg * 16 + tile) * 2048 + k) * 256 + n) bits }
  | .firmware die asid pc =>
    if (s.seq die (frontSeq die)).slots.find 1 |>.isSome then .refused (.notEnabled "firmware program")
    else .next (s.placeFirmware die asid pc)
  | .note pa n =>
    if n = 0 || isSpan pa || (s.homeOf pa).isNone then .refused (.notEnabled "old value") else .next (s.note pa n)
  | .stale uid idx k => s.stale uid idx k
  | .units die tile no n => s.units die tile no n
  | .evictRead leaf => s.evictRead leaf
  | .inbound ring p => s.inbound ring p
  | .inJunction ring up started idle lost => s.inJunction ring up started idle lost
  | .farBypass ring idx => s.farBypass ring idx
  | .assign q core => s.assign q core
  | .coreStore core addr n bits => s.coreStore core addr n bits
  | .soft e => s.soft e
  | .formShort ring cyc => s.formShort ring cyc
  | .memTrained => s.memTrained
  | .hostLoss => .next (s.haltRings fun _ _ => true)
  | .portLoss ring => .next (s.haltRings fun k r => k == ring && r.spliced)
  | .issue die seq => .next { s with focus := (die, seq) }
  | .event _ => .refused (.notEnabled "event")

/-- A move that is neither an event of the opcode table nor an issue. -/
def State.runtime (s : State) (m : Move) : Host.Outcome State Fault Refusal :=
  if s.recovering && !m.inRecovery then .refused (.notEnabled "recovery") else s.move m

end Sys2Proof.Machine
end

