-- ==== Sys2Proof/Machine/Agenda.lean ====
section
/-! DEFINITION. The order of moves in cycles: the sequencers of a die issue in the order of their cycles, in one cycle by
ascending `%seq` (R185, R306); the slot boundaries of a ring and the events that name a cycle fall among them (R13, R270); a packet
core takes its queues in turn (R356). -/

namespace Sys2Proof.Machine

/-- The sequencer has something to issue now. -/
def State.canIssue (s : State) (d q : Nat) : Bool :=
  (s.seq d q).running.isSome || (s.pick d q).isSome || (s.parkAtWait d q).isSome
/-- `(c, q)` comes before `(c', q')`: earlier cycle, then lower `%seq` (R185). -/
def issuesBefore (c q c' q' : Nat) : Bool := decide (c < c') || (c == c' && decide (q < q'))
/-- The first sequencer of the dies that issues before place `(c, q)` (R185). -/
def State.laggard (s : State) (dies : List Nat) (c q : Nat) : Option (Nat × Nat) :=
  (s.seqs.cells.foldl (fun (a : Option (Nat × Nat × Nat)) x =>
    let d := x.1 / 256
    let k := x.1 % 256
    if hasNat dies d && issuesBefore x.2.clk k c q && s.canIssue d k then
      match a with
      | some b => if issuesBefore x.2.clk k b.1 b.2.2 then some (x.2.clk, d, k) else a
      | none => some (x.2.clk, d, k)
    else a) none).map (·.2)

/-- A ring of some of the dies whose next slot boundary has come by cycle `c` (R270), and can take place. -/
def State.dueRing (s : State) (dies : List Nat) (c : Nat) : Option Nat :=
  (s.rings.cells.find? fun r =>
    r.2.formed && !r.2.halted && decide (r.2.start + r.2.slotCycles ≤ c) && r.2.dies.any (hasNat dies) &&
      !r.2.dies.any fun d => s.silent d (r.2.start + r.2.slotCycles)).map (·.1)

/-- A ring of some of the dies whose current slot began before cycle `c` and whose formation points are yet to come (R276). -/
def State.formingRing (s : State) (dies : List Nat) (c : Nat) : Option Nat :=
  (s.rings.cells.find? fun r => r.2.forming && decide (r.2.start < c) && r.2.dies.any (hasNat dies)).map (·.1)

/-- What has to come before something on these dies at place `(c, q)`: the word of a sequencer that is behind, a slot boundary of
their ring, which itself comes after the words of earlier cycles on every die of the ring, or the formation points of a slot, which
come after the words of its first cycle too (R276). -/
inductive Before where
  | word (die seq : Nat)
  | slot (ring : Nat)
  | form (ring : Nat)
  deriving DecidableEq, Repr

/-- The formation points of the ring's current slot come next, or a word that is to come before them (R276). -/
def State.formNext (s : State) (ring : Nat) : Before :=
  let r := s.rings.get Ring.init ring
  match s.laggard r.dies r.start 256 with
  | some p => .word p.1 p.2
  | none => .form ring
/-- What has to come before the next slot boundary of a ring. -/
def State.beforeSlot (s : State) (ring : Nat) : Option Before :=
  let r := s.rings.get Ring.init ring
  if r.forming then some (s.formNext ring)
  else (s.laggard r.dies (r.start + r.slotCycles) 0).map fun p => .word p.1 p.2
/-- What has to come before something on these dies at place `(c, q)`. -/
def State.before (s : State) (dies : List Nat) (c q : Nat) : Option Before :=
  let p := s.laggard dies c q
  let at_ := match p with
    | some x => (s.seq x.1 x.2).clk
    | none => c
  match s.formingRing dies at_ with
  | some k => some (s.formNext k)
  | none =>
    match s.dueRing dies at_ with
    | some k => (s.beforeSlot k).or (some (.slot k))
    | none => p.map fun x => .word x.1 x.2

/-- Die, cycle and place of an event that names a cycle of a die. An acceptance comes after the words of its cycle (R306). -/
def State.eventAt (s : State) : Instr → Option (Nat × Nat × Nat)
  | .launchRecordAccept d c => some (d, c, 256)
  | .shapeConfirmation d _ c => some (d, c, 0)
  | .leaseGrant d _ c => some (d, c, 0)
  | .leaseExpiry d _ c => some (d, c, 0)
  | .taskPlacement d _ c => some (d, c, 0)
  | .timeSliceExpiry d _ c => some (d, c, 0)
  | .stealRequest d _ _ c => some (d, c, 0)
  | .stealBackoffExpiry d _ c => some (d, c, 0)
  | .cohortBarrierComplete d _ c => some (d, c, 0)
  | .counterLowering d _ c => some (d, c, 0)
  | .tailRecordEntry d _ c => some (d, c, 0)
  | .dieFenceOrder d c => some (d, c, 0)
  | .parkedRestore u _ c => (s.inst u).map fun i => (i.who.die, c, 0)
  | .priorityAging u c => (s.inst u).map fun i => (i.who.die, c, 0)
  | .starvationOrdering u c => (s.inst u).map fun i => (i.who.die, c, 0)
  | .futureRetry u c => (s.inst u).map fun i => (i.who.die, c, 0)
  | _ => none
/-- What has to come before an event. -/
def State.beforeEvent (s : State) (i : Instr) : Option Before :=
  match i with
  | .ringSlot k => s.beforeSlot k
  | i => (s.eventAt i).bind fun x => s.before [x.1] x.2.1 x.2.2

/-- An operation on the predictor table may follow the last one on the die (R306): by cycle, then confirmations in ascending record
number, `SPTW` in ascending `%seq`, acceptances. -/
def tableOrdered (last now : Nat × Nat × Nat) : Bool :=
  decide (last.1 < now.1) || (last.1 == now.1 && (decide (last.2.1 < now.2.1) ||
    (last.2.1 == now.2.1 && decide (last.2.2 ≤ now.2.2))))

/-- The queue whose packet an event starts. -/
def startsOf : Instr → Option Nat
  | .guldonNop q => some q
  | .guldonLaunch q => some q
  | .guldonIlaunch q => some q
  | .guldonCopy q => some q
  | .guldonSignal q => some q
  | .guldonWait q => some q
  | .guldonLoop q => some q
  | .guldonCond q => some q
  | .guldonRestore q => some q
  | .guldonDoorbell q => some q
  | _ => none
/-- The die has been bypassed: it does no work any more (R400, log entry 154). -/
def State.bypassedDie (s : State) (d : Nat) : Bool := s.rings.cells.any fun r => r.2.bypasses.any fun b => b.die == d
/-- A packet whose prologue would run on a bypassed die waits without end (R400). -/
def State.deadPrologue (s : State) (p : Packet) : Bool := p.typ == 1 && p.w 6 != 0 && s.bypassedDie p.die
/-- The outcome is no refusal. -/
def runs (o : Host.Outcome State Fault Refusal) : Bool :=
  match o with
  | .refused _ => false
  | _ => true
/-- The head packet of a queue could start: it waits for nothing that the packet core can see. -/
def State.queueReady (s : State) (q : Nat) : Bool :=
  let g := s.queue q
  match g.head with
  | none => false
  | some p =>
    !g.waiting && (s.startable q p.typ).isSome && !s.deadPrologue p &&
      (match p.typ with
        | 1 => runs (execGuldonLaunch q s)
        | 2 => runs (execGuldonIlaunch q s)
        | 4 => !(p.remote && s.workPosted q)
        | 8 => runs (execGuldonRestore q s)
        | _ => true)
/-- How far queue `q` is from the one that its packet core took last. -/
def State.turnOf (s : State) (q : Nat) : Nat := (q + 1023 - (s.fw.turn.find (s.coreOf q)).getD 1023) % 1024
/-- It is the queue's turn on its packet core (R356): no other ready queue of the core comes first. -/
def State.inTurn (s : State) (q : Nat) : Bool :=
  s.host.queues.keys.all fun x => x == q || s.coreOf x != s.coreOf q || !s.queueReady x || decide (s.turnOf q ≤ s.turnOf x)

/-- What runs in recovery (R411): the mailbox of the security engine (R412), which takes a recovery image, and the module's reset. -/
def inRecovery : Instr → Bool
  | .recoveryImage _ => true
  | .moduleReset _ => true
  | .getVersion => true
  | .getCapabilities => true
  | .negotiateAlgorithms _ _ => true
  | .getDigests => true
  | .getCertificate _ _ _ => true
  | .challenge _ _ => true
  | .getMeasurements _ _ => true
  | _ => false

/-- The event keeps the orders of the predictor table and of the packet cores, and asks nothing of a bypassed die or of a module in
recovery. -/
def State.inOrder (s : State) (i : Instr) : Bool :=
  (!s.recovering || inRecovery i) &&
  (match i with
    | .shapeConfirmation d n c => tableOrdered (s.die d).sch.tableOp (c, 0, n)
    | .launchRecordAccept d c => !s.bypassedDie d && tableOrdered (s.die d).sch.tableOp (c, 2, 0)
    | _ => true) &&
  match startsOf i with
  | some q => s.inTurn q && !((s.queue q).head.any s.deadPrologue)
  | none => true

/-- The sequencer in focus issues the word at its PC (R62), or does what comes before it. -/
def State.issueWord (s : State) : Host.Outcome State Fault Refusal :=
  match s.fetch with
  | .word i => exec i s
  | .state t => .next t
  | .nothing => .refused .noInstance
  | .noMem pa => .fault (.noMemory pa)

/-- The next word of the sequencer in focus, or what has to come before it. -/
def State.issueNext (s : State) : Host.Outcome State Fault Refusal :=
  match s.before [s.focus.1] (s.seq s.focus.1 s.focus.2).clk s.focus.2 with
  | some (.word d q) => { s with focus := (d, q) }.issueWord
  | some (.slot k) => execRingSlot k s
  | some (.form k) => .next (s.formSlot k)
  | none => s.issueWord

/-- The event at the head of the agenda, `rest` behind it; what has to come before it comes first and leaves the agenda as it is. -/
def State.issueEvent (s : State) (i : Instr) (rest : List Move) : Host.Outcome State Fault Refusal :=
  match s.beforeEvent i with
  | some (.word d q) => { s with focus := (d, q) }.issueWord
  | some (.slot k) => execRingSlot k s
  | some (.form k) => .next (s.formSlot k)
  | none => if s.inOrder i then exec i { s with agenda := rest } else .refused (.notEnabled "event out of order")

end Sys2Proof.Machine
end

