-- ==== Sys2Proof/Machine/Step.lean ====
section
/-! DEFINITION. One step of the module. The agenda (plain data) says which agent moves next; with an empty agenda the
sequencer in focus issues its next word. -/

namespace Sys2Proof.Machine

/-- The next move: the head of the agenda, else the sequencer in focus. -/
def step (s : State) : Host.Outcome State Fault Refusal :=
  match s.agenda with
  | [] => s.issueNext
  | .event i :: rest => s.issueEvent i rest
  | .issue die seq :: rest => State.issueNext { s with agenda := rest, focus := (die, seq) }
  | m :: rest => State.runtime { s with agenda := rest } m

/-- The block instance that `withFetchWord` places: ASID 0, die 0, sequencer 0, at task level, at the first word of
its page. -/
def fetchInst : Inst :=
  { who := ⟨.block, 0, 0, 0, 0, 0, 0x0001_0001, 0, none, none, 0⟩
    ctx := Ctx.init 0x1_0000 0
    range := ⟨0, 0, true, 0, 0, false⟩
    sched := ⟨.running, some 0, 0, 0, 0, 0, false, .none, 0, false, none, none, none, none, false, [], false, false, none, [], none⟩
    coh := none
    ex := ⟨false, false, false, none, none, false, 0, 0, 0, 0x1_0000, 0, false, (0, 0), false, 0⟩ }

/-- The bytes of a table word in memory, 32 from the start of a page of die 0's memory; higher bytes are zero. -/
def State.putWord (s : State) (pa w : Nat) : Nat → State
  | 0 => s
  | n + 1 => (s.setByte pa (BitVec.ofNat 8 w)).putWord (pa + 1) (w / 256) n

/-- The state with a table word where the sequencer in focus fetches next: an instance on sequencer 0 of die 0 whose
PC lies in an executable page held by the TLB, and the word there (log entry 1). -/
def State.withFetchWord (s : State) (nbits w : Nat) : State :=
  let s := { s with agenda := [], focus := (0, 0) }
  let s := s.setInst 0 fetchInst
  let s := s.setSeq 0 0 { s.seq 0 0 with running := some 0, trapped := none, slots := (s.seq 0 0).slots.put 0 0 }
  let s := s.updDie 0 fun d => { d with tlb := ⟨0, 0x1_0000, 16, 0x100_0000_0000, true, true, true⟩ :: d.tlb }
  s.putWord 0x100_0000_0000 (w % 2 ^ nbits) 32

end Sys2Proof.Machine
end

