-- ==== Sys2Proof/Safety.lean ====
section
/-! DEFINITION. What counts as a sound state and a safe run, and the terms that statements are written in: a stream that
can issue a word with the word's own effect, what a completed word leaves alone, and the memory's canonical form. -/

namespace Sys2Proof.Machine

/-! ## Invariant -/

/-- The memory of the module is in canonical form: addresses strictly rising, no entry equal to what an unlisted address
reads as. -/
def State.memWf (s : State) : Prop := s.phys.mem.wf 0 = true

/-- A run of `n` steps never meets a physical address behind which nothing exists. -/
def safeRun : Nat → State → Prop
  | 0, _ => True
  | n + 1, s => match step s with
    | .next t => safeRun n t
    | .fault _ => False
    | .refused _ => True

/-! ## Words -/

/-- The sequencer in focus runs the stream `c`, and no abort of an earlier command or access waits for it (R222, R336,
R402): the word at its PC issues with its own effect. -/
structure State.Issues (s : State) (c : Cur) : Prop where
  cur : s.cur = some c
  cmdErr : c.i.ctx.cmdErr = false
  check : c.i.ctx.check = false

/-- The stream is a task instance, a segment block or firmware: neither a handler nor a prologue, to which some words are
barred (R341, R364). -/
def Cur.Ordinary (c : Cur) : Prop := c.i.who.kind ≠ .handler ∧ c.i.who.kind ≠ .prologue

/-- The context after a word of `len` bytes that issued at `pc` and did not transfer control: the PC moves past the
word, or where the loop stack takes it (R79, R144). -/
def Ctx.past (x : Ctx) (pc : Word64) (len : Nat) : Ctx :=
  let r := loopStep pc len (pc + BitVec.ofNat 64 len) x.st.loops
  { x with pc := r.1, st := { x.st with loops := r.2.1 }, issued := x.issued + 1 }

/-- The instance after such a word: the end of a loop iteration is a pre-emption point (R48, R144). -/
def Inst.past (i : Inst) (pc : Word64) (len : Nat) : Inst :=
  { i with
    ctx := i.ctx.past pc len
    sched := { i.sched with
      point := (loopStep pc len (pc + BitVec.ofNat 64 len) i.ctx.st.loops).2.2
      noFrame := i.sched.noFrame.filter (· < 3) } }

/-- The instance after a word that transferred control to `pc` (R139). -/
def Inst.jumped (i : Inst) (pc : Word64) (point : Bool) : Inst :=
  { i with
    ctx := { i.ctx with pc := pc, issued := i.ctx.issued + 1 }
    sched := { i.sched with point := point, noFrame := i.sched.noFrame.filter (· < 3) } }

/-- `t` is the state `b` but for three things: the stream is now the instance `i`, its sequencer has gone on by one
cycle, and the cycle counter of its die shows at least that cycle. With `b` the state in which the word issued, this is
the frame of a word that changes nothing but its own stream. -/
structure Cur.Leaves (c : Cur) (b : State) (i : Inst) (t : State) : Prop where
  inst : t.inst c.uid = some i
  insts : ∀ u, u ≠ c.uid → t.inst u = b.inst u
  seq : t.seq c.die c.q = { b.seq c.die c.q with clk := c.clk + 1 }
  seqs : ∀ k, k ≠ seqKey c.die c.q → t.seqs.get Seq.init k = b.seqs.get Seq.init k
  die : t.die c.die = { b.die c.die with cyc := Nat.max (b.die c.die).cyc (c.clk + 1) }
  dies : ∀ d, d ≠ c.die → t.die d = b.die d
  tiles : t.tiles = b.tiles
  phys : t.phys = b.phys
  host : t.host = b.host
  ports : t.ports = b.ports
  rings : t.rings = b.rings
  segs : t.segs = b.segs
  fw : t.fw = b.fw
  sec : t.sec = b.sec
  agenda : t.agenda = b.agenda
  focus : t.focus = b.focus
  free : t.free = b.free
  nextUid : t.nextUid = b.nextUid

/-- The context of a word whose 32-bit result lands at issue + `lat` (R62): its queue operands are consumed (R57), every
register keeps its value until the landing; a queue destination gets its position now (R55). -/
def Cur.scalarResult (c : Cur) (taken : FMap Nat) (dst lat : Nat) (v : Word) (t : Bool) : Ctx :=
  if dst < 56 then
    { c.i.ctx with
      regs := c.regs.eat taken
      flights := insertFlight ⟨c.clk + lat, .s dst v t⟩ c.i.ctx.flights }
  else
    { c.i.ctx with
      regs := (c.regs.setQ (dst - 56) ((c.regs.getQ (dst - 56)).reserve 1)).eat taken
      flights := insertFlight ⟨c.clk + lat, .q (dst - 56) (c.regs.getQ (dst - 56)).tailPos v t⟩ c.i.ctx.flights }

/-- The context of a word whose 64-bit result lands in an even pair at issue + 1 (R52). -/
def Cur.pairResult (c : Cur) (taken : FMap Nat) (dst : Nat) (lo hi : Word) (t : Bool) : Ctx :=
  { c.i.ctx with
    regs := c.regs.eat taken
    flights := insertFlight ⟨c.clk + 1, .s (dst + 1) hi t⟩ (insertFlight ⟨c.clk + 1, .s dst lo t⟩ c.i.ctx.flights) }

/-- The context of a word whose result is a predicate pair that lands at issue + 1 (R66). -/
def Cur.predResult (c : Cur) (taken : FMap Nat) (j : Nat) (p0 p1 mask : Pred) (t : Bool) : Ctx :=
  { c.i.ctx with
    regs := c.regs.eat taken
    flights := insertFlight ⟨c.clk + 1, .p (2 * j + 1) p1 mask t⟩
      (insertFlight ⟨c.clk + 1, .p (2 * j) p0 mask t⟩ c.i.ctx.flights) }

/-- The context of a word whose vector result lands at issue + `lat` in the lanes of the mask (R61, R68); an entry of a
vector queue has zero in its other lanes. -/
def Cur.vectorResult (c : Cur) (taken : FMap Nat) (vd lat : Nat) (v : VecReg) (mask : Pred) (t : Bool) : Ctx :=
  if vd < 28 then
    { c.i.ctx with
      regs := c.regs.eatV taken
      flights := insertFlight ⟨c.clk + lat, .v vd v mask t⟩ c.i.ctx.flights }
  else
    { c.i.ctx with
      regs := (c.regs.setVq (vd - 28) ((c.regs.getVq (vd - 28)).reserve 1)).eatV taken
      flights := insertFlight ⟨c.clk + lat, .vq (vd - 28) (c.regs.getVq (vd - 28)).tailPos (mergeLanes 0 v mask) t⟩
        c.i.ctx.flights }

/-- The context `x` of a word that reserves `k` positions of queue `dst` for a variable-latency result (R55, R56); `scope` is
that of its acquire (R248), `byTaint` says that its address is tainted (R257). -/
def Ctx.reserves (x : Ctx) (dst k : Nat) (src : ProdSrc) (taint acq ldc : Bool) (scope : Option Nat := none)
    (byTaint : Bool := false) : Ctx :=
  { x with
    regs := x.regs.setQ (dst - 56) ((x.regs.getQ (dst - 56)).reserve k)
    prods := x.prods ++ [⟨false, dst - 56, (x.regs.getQ (dst - 56)).tailPos, k, src, taint, acq, ldc, scope, byTaint⟩] }

/-- The instance `i` with the context `x`. -/
def Inst.withCtx (i : Inst) (x : Ctx) : Inst := { i with ctx := x }

/-- The instance after its commit point (R42). -/
def Inst.committed (i : Inst) : Inst := { i with sched := { i.sched with committed := true } }

/-- The handle `h` names the descriptor `d` in memory of this module, at the physical address `pa`, and the descriptor
passes every check of R77 for this stream's ASID and the tile given. -/
structure Cur.NamesOn (c : Cur) (tile h : Nat) (d : Desc) (pa : Nat) : Prop where
  num : h ≠ 0 ∧ h < 0xFFFF
  aligned : (c.s.descVa c.asid h).toNat % 64 = 0
  held : c.s.translate c.die c.asid (c.s.descVa c.asid h).toNat .read = .ok pa
  home : isSpan pa = false
  sound : c.s.badAt pa 64 = false
  read : d = parseDesc h (c.s.descVa c.asid h).toNat (c.s.readPa pa 64)
  ok : c.s.descOk c.die tile c.asid (c.s.readPa pa 64) d = true

/-- The handle in the low half of a register names such a descriptor for the stream's own tile (R200). -/
def Cur.Names (c : Cur) (h : Word) (d : Desc) (pa : Nat) : Prop := c.NamesOn c.tile (h.toNat % 2 ^ 16) d pa

/-- `t` is the state `b` with the stream blocked on `w` at `pc` (R45): every result has landed, only chain statuses, loads
of other modules and extents are still pending, the sequencer is free 8 cycles on, and until those have delivered it lets no
other instance issue; no other stream has changed. -/
structure Cur.Blocks (c : Cur) (b : State) (w : Wait) (pc : Word64) (t : State) : Prop where
  inst : ∃ j, t.inst c.uid = some j ∧ j.sched.status = .blocked ∧ j.sched.wait = w ∧ j.sched.blockedAt = c.clk ∧
    j.sched.point = true ∧ j.ctx.pc = pc ∧ j.ctx.flights = [] ∧ j.who = c.i.who ∧
    (∀ p ∈ j.ctx.prods, p.src.isChain = true ∨ p.src.isSpan = true ∨ p.src.isExtent = true) ∧
    t.seq c.die c.q =
      { b.seq c.die c.q with clk := c.clk + 8, running := none, slice := c.clk + 8, left := leaves c.uid j.ctx }
  insts : ∀ u, u ≠ c.uid → t.inst u = b.inst u
  seqs : ∀ k, k ≠ seqKey c.die c.q → t.seqs.get Seq.init k = b.seqs.get Seq.init k
  phys : t.phys = b.phys
  host : t.host = b.host
  ports : t.ports = b.ports

end Sys2Proof.Machine
end

