-- ==== Sys2Proof/Certificates/Slice0/Obligations.lean ====
section
/-! DEFINITION. The statements for the provers. A word's statement says: when the stream in focus issues it and its
operands can be read, `exec` answers a next state, what the stream then holds, and that nothing else has changed
(`Cur.Leaves`). The tables under `Claims` write the manual's results out anew. The cycle counters of a sequencer and of a die
are the model's own bookkeeping (log entry 4). -/

open Sys2Proof Sys2Proof.Machine

/-! ## Memory -/

/-- A write of this module: its bytes, and the release sequences that it heads (R250). -/
def Claims.wrote (s : State) (pa n v : Nat) (heads : List Head) : State := (s.writePa pa n v).putHeads pa n heads
/-- The context of a stream that writes: its earlier loads of the bytes are performed first (R192), and no older value of them
can reach it any more (R252). -/
def Claims.meets (s : State) (x : Ctx) (pa n : Nat) : Ctx :=
  let y := s.captureFor x pa n
  { y with ord := y.ord.meet (s.oldsAt pa n) }
/-- `Cur.Leaves` but for what the memory model keeps: what is carried to the stream, and what stands beside memory (log
entry 45). -/
def Claims.Leaves (c : Cur) (b : State) (i : Inst) (t : State) : Prop :=
  ∃ (o : Ledger) (r : Relaxed), c.Leaves (b.updRelaxed fun _ => r) { i with ctx := { i.ctx with ord := o } } t

/-! ## Scalar words (R127 to R132) -/

/-- Register forms of R129 and R130 with two operands: constructor, latency, result. -/
def Claims.scalar2 : List ((Guard → RBody → Instr) × Nat × (Word → Word → Word)) :=
  [(.add, 1, fun a b => a + b), (.sub, 1, fun a b => a - b), (.and, 1, fun a b => a &&& b), (.or, 1, fun a b => a ||| b),
   (.xor, 1, fun a b => a ^^^ b), (.andn, 1, fun a b => a &&& ~~~b), (.shl, 1, fun a b => a <<< (b.toNat % 32)),
   (.shr, 1, fun a b => a >>> (b.toNat % 32)), (.sra, 1, fun a b => a.sshiftRight (b.toNat % 32)),
   (.rot, 1, fun a b => a.rotateLeft (b.toNat % 32)), (.min, 1, fun a b => if a.toInt ≤ b.toInt then a else b),
   (.max, 1, fun a b => if a.toInt ≤ b.toInt then b else a), (.minn, 1, fun a b => if a.toNat ≤ b.toNat then a else b),
   (.maxn, 1, fun a b => if a.toNat ≤ b.toNat then b else a), (.mul, 3, fun a b => BitVec.ofInt 32 (a.toInt * b.toInt)),
   (.mulh, 3, fun a b => BitVec.ofInt 32 (a.toInt * b.toInt / 2 ^ 32)),
   (.mulhn, 3, fun a b => BitVec.ofNat 32 (a.toNat * b.toNat / 2 ^ 32)),
   (.div, 24, fun a b => if b = 0 then BitVec.allOnes 32 else BitVec.ofInt 32 (a.toInt.tdiv b.toInt)),
   (.divn, 24, fun a b => if b = 0 then BitVec.allOnes 32 else a / b),
   (.rem, 24, fun a b => if b = 0 then a else BitVec.ofInt 32 (a.toInt.tmod b.toInt)),
   (.remn, 24, fun a b => if b = 0 then a else a % b)]

/-- The register forms of R129 and R130 with two operands complete with the result of the table, which lands in the
destination (a register, or a queue position reserved now) `lat` cycles after the issue with the taint of the operands;
queue operands are consumed, and nothing but the stream, its sequencer's cycle and its die's cycle counter changes. -/
def Obligations.ScalarRegisterForms : Prop :=
  ∀ e ∈ Claims.scalar2, ∀ (g : Guard) (b : RBody) (s : State) (c : Cur) (x y : Word) (tx ty : Bool) (taken : FMap Nat),
    s.Issues c → guardAt c.regs g 0 = true → c.regs.reads [opA b, opB b] = .vals [(x, tx), (y, ty)] taken →
    c.room b.dst.toNat 1 = true →
    ∃ t, exec (e.1 g b) s = .next t ∧
      c.Leaves s ((c.i.withCtx (c.scalarResult taken b.dst.toNat e.2.1 (e.2.2 x y) (tx || ty))).past c.pc 8) t

/-- Immediate forms of R129 and R130: the second operand is sext(imm24). -/
def Claims.scalarImm : List ((Guard → IBody → Instr) × Nat × (Word → Word → Word)) :=
  [(.addI, 1, fun a b => a + b), (.subI, 1, fun a b => a - b), (.andI, 1, fun a b => a &&& b), (.orI, 1, fun a b => a ||| b),
   (.xorI, 1, fun a b => a ^^^ b), (.andnI, 1, fun a b => a &&& ~~~b), (.shlI, 1, fun a b => a <<< (b.toNat % 32)),
   (.shrI, 1, fun a b => a >>> (b.toNat % 32)), (.sraI, 1, fun a b => a.sshiftRight (b.toNat % 32)),
   (.rotI, 1, fun a b => a.rotateLeft (b.toNat % 32)), (.minI, 1, fun a b => if a.toInt ≤ b.toInt then a else b),
   (.maxI, 1, fun a b => if a.toInt ≤ b.toInt then b else a), (.minnI, 1, fun a b => if a.toNat ≤ b.toNat then a else b),
   (.maxnI, 1, fun a b => if a.toNat ≤ b.toNat then b else a), (.mulI, 3, fun a b => BitVec.ofInt 32 (a.toInt * b.toInt)),
   (.divI, 24, fun a b => if b = 0 then BitVec.allOnes 32 else BitVec.ofInt 32 (a.toInt.tdiv b.toInt)),
   (.divnI, 24, fun a b => if b = 0 then BitVec.allOnes 32 else a / b),
   (.remI, 24, fun a b => if b = 0 then a else BitVec.ofInt 32 (a.toInt.tmod b.toInt)),
   (.remnI, 24, fun a b => if b = 0 then a else a % b),
   (.moviH, 1, fun a b => b.extractLsb' 0 16 ++ a.extractLsb' 0 16)]

/-- The immediate forms of R129 to R131 complete with the result of the table on the register and sext(imm24); `MOVI`
writes sext(imm24). -/
def Obligations.ScalarImmediateForms : Prop :=
  (∀ e ∈ Claims.scalarImm, ∀ (g : Guard) (b : IBody) (s : State) (c : Cur) (x : Word) (tx : Bool) (taken : FMap Nat),
    s.Issues c → guardAt c.regs g 0 = true → c.regs.reads [⟨b.a.toNat, false⟩] = .vals [(x, tx)] taken →
    c.room b.dst.toNat 1 = true →
    ∃ t, exec (e.1 g b) s = .next t ∧
      c.Leaves s ((c.i.withCtx (c.scalarResult taken b.dst.toNat e.2.1 (e.2.2 x (b.imm.signExtend 32)) tx)).past c.pc 8) t) ∧
  ∀ (g : Guard) (b : IBody) (s : State) (c : Cur),
    s.Issues c → guardAt c.regs g 0 = true → c.room b.dst.toNat 1 = true →
    ∃ t, exec (.movi g b) s = .next t ∧
      c.Leaves s ((c.i.withCtx (c.scalarResult .empty b.dst.toNat 1 (b.imm.signExtend 32) false)).past c.pc 8) t

/-- The words of one operand (R129) and those that reduce a predicate (R137): constructor and result. -/
def Claims.scalar1 : List ((Guard → RBody → Instr) × (Word → Nat)) :=
  [(.clz, fun a => a.clz.toNat), (.popc, fun a => (List.range 32).countP fun i => a.getLsbD i),
   (.brev, fun a => (BitVec.ofFnLE fun i : Fin 32 => a.getLsbD (31 - i)).toNat)]
/-- The words that reduce a predicate to a scalar (R137). -/
def Claims.reduce : List ((Guard → RBody → Instr) × (Pred → Nat)) :=
  [(.pany, fun p => if (List.range 64).any fun i => p.getLsbD i then 1 else 0),
   (.pall, fun p => if (List.range 64).all fun i => p.getLsbD i then 1 else 0),
   (.pcnt, fun p => (List.range 64).countP fun i => p.getLsbD i)]

/-- `CLZ`, `POPC` and `BREV` (R129), `SEL` (R129), `PANY`, `PALL` and `PCNT` (R137) complete with their results, and
`PLIVE` sets `%plive` (R138).

The address words of R132 complete: the 64-bit sum lands in the destination pair one cycle after the issue. -/
def Obligations.ReductionsAndAddressForms : Prop :=
  ((∀ e ∈ Claims.scalar1, ∀ (g : Guard) (b : RBody) (s : State) (c : Cur) (x : Word) (tx : Bool) (taken : FMap Nat),
    s.Issues c → guardAt c.regs g 0 = true → c.regs.reads [opA b] = .vals [(x, tx)] taken → c.room b.dst.toNat 1 = true →
    ∃ t, exec (e.1 g b) s = .next t ∧
      c.Leaves s ((c.i.withCtx (c.scalarResult taken b.dst.toNat 1 (BitVec.ofNat 32 (e.2 x)) tx)).past c.pc 8) t) ∧
  (∀ (g : Guard) (b : RBody) (s : State) (c : Cur) (x y : Word) (tx ty : Bool) (taken : FMap Nat),
    s.Issues c → guardAt c.regs g 0 = true → c.regs.reads [opA b, opB b] = .vals [(x, tx), (y, ty)] taken →
    c.room b.dst.toNat 1 = true →
    ∃ t, exec (.sel g b) s = .next t ∧
      c.Leaves s ((c.i.withCtx (c.scalarResult taken b.dst.toNat 1
        (if (c.regs.getP (b.c.toNat % 16)).getLsbD 0 = true then x else y)
        (tx || ty || c.regs.ptaint.getLsbD (b.c.toNat % 16)))).past c.pc 8) t) ∧
  (∀ e ∈ Claims.reduce, ∀ (g : Guard) (b : RBody) (s : State) (c : Cur),
    s.Issues c → guardAt c.regs g 0 = true → c.room b.dst.toNat 1 = true →
    ∃ t, exec (e.1 g b) s = .next t ∧
      c.Leaves s ((c.i.withCtx (c.scalarResult .empty b.dst.toNat 1 (BitVec.ofNat 32 (e.2 (c.regs.getP (b.a.toNat % 16))))
        (c.regs.ptaint.getLsbD (b.a.toNat % 16)))).past c.pc 8) t) ∧
  ∀ (g : Guard) (b : IBody) (s : State) (c : Cur), s.Issues c → guardAt c.regs g 0 = true →
    ∃ t, exec (.plive g b) s = .next t ∧
      c.Leaves s ((c.i.withCtx { c.i.ctx with regs := { c.regs with plive := b.imm.extractLsb' 0 16 } }).past c.pc 8) t) ∧
  ((∀ e ∈ ([(.addp, fun _ => 0), (.leap, fun b => b.c.toNat)] : List ((Guard → RBody → Instr) × (RBody → Nat))),
    ∀ (g : Guard) (b : RBody) (s : State) (c : Cur) (y : Word) (ty : Bool) (taken : FMap Nat),
    s.Issues c → guardAt c.regs g 0 = true → c.regs.reads [opB b] = .vals [(y, ty)] taken →
    let v := c.regs.getPair b.a.toNat + (y.signExtend 64 <<< e.2 b)
    ∃ t, exec (e.1 g b) s = .next t ∧
      c.Leaves s ((c.i.withCtx (c.pairResult taken b.dst.toNat (v.extractLsb' 0 32) (v.extractLsb' 32 32)
        (ty || c.regs.taintPair b.a.toNat))).past c.pc 8) t) ∧
  ∀ (g : Guard) (b : IBody) (s : State) (c : Cur), s.Issues c → guardAt c.regs g 0 = true →
    let v := c.regs.getPair b.a.toNat + b.imm.signExtend 64
    ∃ t, exec (.addpi g b) s = .next t ∧
      c.Leaves s ((c.i.withCtx (c.pairResult .empty b.dst.toNat (v.extractLsb' 0 32) (v.extractLsb' 32 32)
        (c.regs.taintPair b.a.toNat))).past c.pc 8) t)

/-! ## Compares and predicates (R133 to R136) -/

/-- cond_true of R133. -/
def Claims.cond (k : Nat) (a b : Word) : Bool :=
  match k with
  | 0 => decide (a = b)
  | 1 => decide (a ≠ b)
  | 2 => decide (a.toInt < b.toInt)
  | 3 => decide (a.toInt ≤ b.toInt)
  | 4 => decide (b.toInt < a.toInt)
  | 5 => decide (b.toInt ≤ a.toInt)
  | 6 => decide (a.toNat < b.toNat)
  | 7 => decide (a.toNat ≤ b.toNat)
  | 8 => decide (b.toNat < a.toNat)
  | _ => decide (b.toNat ≤ a.toNat)

/-- The pair that a compare with outcome `v` writes. -/
def Claims.pairOf (v : Bool) : Pred × Pred := if v then (BitVec.allOnes 64, 0) else (0, BitVec.allOnes 64)

/-- `CMP` and `CMPI` (R133, R134): with a true guard the pair gets the condition and its complement in every lane, with
the operands' taint; with a false one `.k` does nothing and `.z` writes untainted zeros. Codes of condition are 0 to 9.

`PLOG` (R135) and the three forms of `PMOV` (R136) complete: the values lane by lane, the lanes that they write, and
the taint. -/
def Obligations.ComparesAndPredicateMoves : Prop :=
  ((∀ (g : Guard) (b : PBody) (s : State) (c : Cur) (x y : Word) (tx ty : Bool) (taken : FMap Nat),
    s.Issues c → guardAt c.regs g 0 = true → b.cond.toNat ≤ 9 →
    c.regs.reads [⟨b.a.toNat, false⟩, ⟨b.b.toNat, false⟩] = .vals [(x, tx), (y, ty)] taken →
    ∃ t, exec (.cmp g b) s = .next t ∧
      c.Leaves s ((c.i.withCtx (c.predResult taken b.pair.toNat (Claims.pairOf (Claims.cond b.cond.toNat x y)).1
        (Claims.pairOf (Claims.cond b.cond.toNat x y)).2 (BitVec.allOnes 64) (tx || ty))).past c.pc 8) t) ∧
  (∀ (g : Guard) (b : PBody) (s : State) (c : Cur) (x : Word) (tx : Bool) (taken : FMap Nat),
    s.Issues c → guardAt c.regs g 0 = true → b.cond.toNat ≤ 9 → c.regs.reads [⟨b.a.toNat, false⟩] = .vals [(x, tx)] taken →
    let y : Word := (b.b ++ b.rest).signExtend 32
    ∃ t, exec (.cmpi g b) s = .next t ∧
      c.Leaves s ((c.i.withCtx (c.predResult taken b.pair.toNat (Claims.pairOf (Claims.cond b.cond.toNat x y)).1
        (Claims.pairOf (Claims.cond b.cond.toNat x y)).2 (BitVec.allOnes 64) tx)).past c.pc 8) t) ∧
  ∀ mk ∈ [Instr.cmp, Instr.cmpi], ∀ (g : Guard) (b : PBody) (s : State) (c : Cur),
    s.Issues c → guardAt c.regs g 0 = false →
    ∃ t, exec (mk g b) s = .next t ∧
      c.Leaves s ((c.i.withCtx (if b.zk then c.i.ctx
        else c.predResult .empty b.pair.toNat 0 0 (BitVec.allOnes 64) false)).past c.pc 8) t) ∧
  ((∀ (g : Guard) (b : PBody) (s : State) (c : Cur), s.Issues c →
    let r := c.regs
    let x := r.getP (b.a.toNat % 16)
    let y := r.getP (b.b.toNat % 16)
    let z := r.getP b.cond.toNat
    let m := guardMask r g
    let tt : BitVec 8 := b.rest.extractLsb' 8 8
    let taint := r.ptaint.getLsbD (b.a.toNat % 16) || r.ptaint.getLsbD (b.b.toNat % 16) || r.ptaint.getLsbD b.cond.toNat
    ∃ t, ∃ v : Pred, exec (.plog g b) s = .next t ∧
      (∀ i < 64, v.getLsbD i = tt.getLsbD (4 * (x.getLsbD i).toNat + 2 * (y.getLsbD i).toNat + (z.getLsbD i).toNat)) ∧
      c.Leaves s ((c.i.withCtx (
        if b.zk then (if m = 0 then c.i.ctx else c.predResult .empty b.pair.toNat v (~~~v) m taint)
        else c.predResult .empty b.pair.toNat (v &&& m) (~~~v &&& m) (BitVec.allOnes 64) (decide (m ≠ 0) && taint))).past c.pc 8) t) ∧
  (∀ (g : Guard) (b : RBody) (s : State) (c : Cur), s.Issues c →
    let m := guardMask c.regs g
    let w : Write := .p (b.dst.toNat % 16) (c.regs.getP (b.a.toNat % 16)) m (c.regs.ptaint.getLsbD (b.a.toNat % 16))
    ∃ t, exec (.pmovPred g b) s = .next t ∧
      c.Leaves s ((c.i.withCtx (if m = 0 then c.i.ctx else c.i.ctx.fly c.clk 1 w)).past c.pc 8) t) ∧
  (∀ (g : Guard) (b : RBody) (s : State) (c : Cur), s.Issues c → guardAt c.regs g 0 = true →
    let w : Write := .p (b.dst.toNat % 16) (c.regs.getPair b.a.toNat) (BitVec.allOnes 64) (c.regs.taintPair b.a.toNat)
    ∃ t, exec (.pmovFromPair g b) s = .next t ∧
      c.Leaves s ((c.i.withCtx (c.i.ctx.fly c.clk 1 w)).past c.pc 8) t) ∧
  ∀ (g : Guard) (b : RBody) (s : State) (c : Cur), s.Issues c → guardAt c.regs g 0 = true →
    let p := c.regs.getP (b.a.toNat % 16)
    ∃ t, exec (.pmovToPair g b) s = .next t ∧
      c.Leaves s ((c.i.withCtx (c.pairResult .empty b.dst.toNat (p.extractLsb' 0 32) (p.extractLsb' 32 32)
        (c.regs.ptaint.getLsbD (b.a.toNat % 16)))).past c.pc 8) t)

/-! ## Control (R139 to R149) -/

/-- Target of a direct branch (R85): the word's address plus eight times the signed offset. -/
def Claims.target (pc : Word64) (off : BitVec 32) : Word64 := pc + (off.signExtend 64 <<< 3)

/-- The context of a call whose return stack has room (R140). -/
def Claims.pushed (c : Cur) : Ctx :=
  { c.i.ctx with st := { c.i.ctx.st with rets := (c.pc + 8) :: c.i.ctx.st.rets } }

/-- `BR` and `BRI` (R139): a taken branch goes to its target, a `BR` backwards being a pre-emption point; a target with a
nonzero bit in [63:55], or for `BRI` in [2:0], takes the branch-target fault.

`CALL`, `CALLI` and `RET` with the return stack neither full nor empty (R140, R141): the return PC is pushed, and the
newest one is popped.

The model's reading: `%tval` of the branch-target fault is the target (log entry 43). -/
def Obligations.BranchesAndCalls : Prop :=
  ((∀ (g : Guard) (off : BitVec 32) (s : State) (c : Cur), s.Issues c → guardAt c.regs g 0 = true →
    let a := Claims.target c.pc off
    if a.toNat < 2 ^ 55 then ∃ t, exec (.br g off) s = .next t ∧ c.Leaves s (c.i.jumped a off.msb) t
    else exec (.br g off) s = .next (State.takeTrap c 9 0 0 c.pc a)) ∧
  ∀ (g : Guard) (b : RBody) (s : State) (c : Cur), s.Issues c → guardAt c.regs g 0 = true →
    let a := c.regs.getPair b.a.toNat
    if a.toNat % 8 = 0 ∧ a.toNat < 2 ^ 55 then ∃ t, exec (.bri g b) s = .next t ∧ c.Leaves s (c.i.jumped a false) t
    else exec (.bri g b) s = .next (State.takeTrap c 9 0 0 c.pc a)) ∧
  ((∀ (g : Guard) (off : BitVec 32) (s : State) (c : Cur), s.Issues c → guardAt c.regs g 0 = true →
    (Claims.target c.pc off).toNat < 2 ^ 55 → c.i.ctx.st.rets.length < 4 →
    ∃ t, exec (.call g off) s = .next t ∧
      c.Leaves s ((c.i.withCtx (Claims.pushed c)).jumped (Claims.target c.pc off) false) t) ∧
  (∀ (g : Guard) (b : RBody) (s : State) (c : Cur), s.Issues c → guardAt c.regs g 0 = true →
    (c.regs.getPair b.a.toNat).toNat % 8 = 0 → (c.regs.getPair b.a.toNat).toNat < 2 ^ 55 → c.i.ctx.st.rets.length < 4 →
    ∃ t, exec (.calli g b) s = .next t ∧
      c.Leaves s ((c.i.withCtx (Claims.pushed c)).jumped (c.regs.getPair b.a.toNat) false) t) ∧
  ∀ (g : Guard) (b : RBody) (s : State) (c : Cur) (a : Word64) (rest : List Word64),
    s.Issues c → guardAt c.regs g 0 = true → c.i.ctx.st.rets = a :: rest →
    if a.toNat % 8 = 0 ∧ a.toNat < 2 ^ 55 then ∃ t, exec (.ret g b) s = .next t ∧
      c.Leaves s ((c.i.withCtx { c.i.ctx with st := { c.i.ctx.st with rets := rest } }).jumped a false) t
    else exec (.ret g b) s = .next (State.takeTrap c 9 0 0 c.pc a))

/-- The spill of a full return stack and the refill of an empty one (R140 to R142), for the address of the slot held by
the TLB in memory of this module: `CALL` and `CALLI` store the oldest entry at `%sp` − 8, lower `%sp` and raise rsd; `RET` goes to the 64 bits
at `%sp`, raises `%sp` and lowers rsd. With rsd at its end, or zero, they take the return-stack fault and change nothing.

The model's readings: that the stored entry stands in memory in the state that the instruction answers is the model's choice (log
entry 45: a store takes effect in the step that issues it; R140 asks for it before a later access of the instance only); `%tval` of a
fault that names no address is the PC (log entry 42). -/
def Obligations.SpillAndRefill : Prop :=
  (∀ e ∈ ([(fun g off _ => .call g off, fun c off _ => Claims.target c.pc off),
      (fun g _ b => .calli g b, fun c _ b => c.regs.getPair b.a.toNat)] :
        List ((Guard → BitVec 32 → RBody → Instr) × (Cur → BitVec 32 → RBody → Word64))),
    ∀ (g : Guard) (off : BitVec 32) (r : RBody) (s : State) (c : Cur) (a b2 b3 b4 : Word64) (pa : Nat),
    s.Issues c → guardAt c.regs g 0 = true → (e.2 c off r).toNat % 8 = 0 → (e.2 c off r).toNat < 2 ^ 55 →
    c.i.ctx.st.rets = [b4, b3, b2, a] →
    let st := c.i.ctx.st
    let m := st.sp - 8
    (st.rsd = 0xFFFF_FFFF → exec (e.1 g off r) s = .next (State.takeTrap c 8 0 0 c.pc c.pc)) ∧
    (st.rsd ≠ 0xFFFF_FFFF → c.i.ctx.acqOpen = false → m.toNat % 8 = 0 →
      c.s.translate c.die c.asid m.toNat .write = .ok pa → isSpan pa = false → c.mayStore pa = true →
      ∃ t, exec (e.1 g off r) s = .next t ∧
        c.Leaves (Claims.wrote s pa 8 a.toNat c.i.ctx.ord.rels) ((c.i.withCtx { (Claims.meets s c.i.ctx pa 8) with st :=
          { st with rets := [c.pc + 8, b4, b3, b2], sp := m, rsd := st.rsd + 1 } }).jumped
            (e.2 c off r) false) t)) ∧
  ∀ (g : Guard) (b : RBody) (s : State) (c : Cur) (pa : Nat), s.Issues c → guardAt c.regs g 0 = true →
    c.i.ctx.st.rets = [] →
    let st := c.i.ctx.st
    (st.rsd = 0 → exec (.ret g b) s = .next (State.takeTrap c 8 0 0 c.pc c.pc)) ∧
    (st.rsd ≠ 0 → c.i.ctx.acqOpen = false → st.sp.toNat % 8 = 0 →
      c.s.translate c.die c.asid st.sp.toNat .read = .ok pa → isSpan pa = false → s.badAt pa 8 = false →
      s.readPa pa 8 % 8 = 0 → s.readPa pa 8 < 2 ^ 55 →
      ∃ t, exec (.ret g b) s = .next t ∧
        Claims.Leaves c s.tick ((c.i.withCtx { (s.captureFor c.i.ctx pa 8) with st :=
          { st with sp := st.sp + 8, rsd := st.rsd - 1 } }).jumped (BitVec.ofNat 64 (s.readPa pa 8)) false) t)

/-- `LOOP` (R143): a zero count skips the body, another count pushes an entry, a seventh entry takes the loop-overflow
fault. `LBRK` (R146) pops and leaves the loop, or takes the loop-stack fault. `LIDX` (R147) gives the count `level` places
below the top, or 0.

The step of a loop (R144): a word that is not at the end address of the top entry leaves the stack alone and goes on
to the next word; at the end address the count falls by 1 and the body starts again, or at the last iteration the entry is
popped, an entry below with the same end address steps too, and control leaves past the end word. The length of the end word is read
where its page is not out (R354).

The model's readings: what happens where a `LOOP` or `LBRK` stands on the end word of the outer loop is the model's choice, because R144 is
silent on it (log entry 140); `%tval` of a fault that names no address is the PC (log entry 42). -/
def Obligations.Loops : Prop :=
  ((∀ (g : Guard) (b : IBody) (s : State) (c : Cur) (n : Word) (tn : Bool) (taken : FMap Nat),
    s.Issues c → guardAt c.regs g 0 = true → c.regs.reads [⟨b.a.toNat, false⟩] = .vals [(n, tn)] taken →
    let st := c.i.ctx.st
    let e := c.pc + (b.imm.signExtend 64 <<< 3)
    let x : Ctx := { c.i.ctx with regs := c.regs.eat taken }
    (∀ k, n = 0 → c.instrLen e = some k → ∃ t, exec (.loop g b) s = .next t ∧
      c.Leaves s ((c.i.withCtx x).jumped (e + BitVec.ofNat 64 k) false) t) ∧
    (n ≠ 0 → st.loops.length < 6 → ∃ t, exec (.loop g b) s = .next t ∧
      c.Leaves s ((c.i.withCtx { x with st := { st with loops := ⟨n, c.pc + 8, e⟩ :: st.loops } }).past c.pc 8) t) ∧
    (n ≠ 0 → 6 ≤ st.loops.length → exec (.loop g b) s = .next (State.takeTrap c 6 0 0 c.pc c.pc))) ∧
  (∀ (g : Guard) (b : RBody) (s : State) (c : Cur), s.Issues c → guardAt c.regs g 0 = true →
    (c.i.ctx.st.loops = [] → exec (.lbrk g b) s = .next (State.takeTrap c 7 0 0 c.pc c.pc)) ∧
    ∀ e rest k, c.i.ctx.st.loops = e :: rest → c.instrLen e.stop = some k → ∃ t, exec (.lbrk g b) s = .next t ∧
      c.Leaves s ((c.i.withCtx { c.i.ctx with st := { c.i.ctx.st with loops := rest } }).jumped
        (e.stop + BitVec.ofNat 64 k) false) t) ∧
  ∀ (g : Guard) (b : IBody) (s : State) (c : Cur), s.Issues c → guardAt c.regs g 0 = true → c.room b.dst.toNat 1 = true →
    ∃ t, exec (.lidx g b) s = .next t ∧
      c.Leaves s ((c.i.withCtx (c.scalarResult .empty b.dst.toNat 1
        ((c.i.ctx.st.loops.map LoopEntry.count).getD b.imm.toNat 0) false)).past c.pc 8) t) ∧
  (∀ (pc next : Word64) (len : Nat) (e : LoopEntry) (rest : List LoopEntry),
    loopStep pc len next [] = (next, [], false) ∧
    (e.stop ≠ pc → loopStep pc len next (e :: rest) = (next, e :: rest, false)) ∧
    (e.stop = pc → e.count ≠ 1 →
      loopStep pc len next (e :: rest) = (e.start, { e with count := e.count - 1 } :: rest, true)) ∧
    (e.stop = pc → e.count = 1 →
      (rest.head?.map LoopEntry.stop ≠ some pc →
        loopStep pc len next (e :: rest) = (e.stop + BitVec.ofNat 64 len, rest, true)) ∧
      (rest.head?.map LoopEntry.stop = some pc →
        (loopStep pc len next (e :: rest)).2.1 = (loopStep pc len (e.stop + BitVec.ofNat 64 len) rest).2.1 ∧
        (loopStep pc len next (e :: rest)).1 = (loopStep pc len (e.stop + BitVec.ofNat 64 len) rest).1)))

/-- `NOP` (R148) only goes on, whatever its guard; `TRAP` (R149) takes the software trap with its code, to resume at
PC + 8; a word that no table assigns takes the undefined-instruction fault (R91).

`YIELD` (R46, R49, R148): the instance is in its slot, ready with the current cycle as its age, at the next word, and its
sequencer is free 8 cycles later, for another instance once every producer still pending has delivered (R45). `EXIT` (R44) of an instance that is no
prologue: with every access performed and every producer delivered, the instance is gone; with one outstanding it stays at issue; an undeliverable posted store makes it take the abort
0x41.

The model's reading: `%tval` of a fault that names no address is the PC (log entry 42). -/
def Obligations.NopYieldExitTrap : Prop :=
  ((∀ (g : Guard) (b : IBody) (s : State) (c : Cur), s.Issues c →
    ∃ t, exec (.nop g b) s = .next t ∧ c.Leaves s (c.i.past c.pc 8) t) ∧
  (∀ (g : Guard) (b : IBody) (s : State) (c : Cur), s.Issues c → guardAt c.regs g 0 = true →
    exec (.trap g b) s = .next (State.takeTrap c 0x20 2 b.imm.toNat (c.pc + 8) c.pc)) ∧
  ∀ (w : BitVec 64) (s : State) (c : Cur), s.Issues c →
    exec (.undefinedInstruction w) s = .next (State.takeTrap c 1 0 0 c.pc c.pc)) ∧
  ((∀ (g : Guard) (b : IBody) (s : State) (c : Cur), s.Issues c → c.Ordinary → guardAt c.regs g 0 = true →
    ∃ t j, exec (.yieldI g b) s = .next t ∧ t.inst c.uid = some j ∧
      j.sched.status = .ready ∧ j.sched.age = c.clk ∧ j.ctx.pc = (c.i.past c.pc 8).ctx.pc ∧
      (t.seq c.die c.q).left = (if j.ctx.prods = [] then none else some c.uid) ∧ (t.seq c.die c.q).running = none ∧ (t.seq c.die c.q).slots = (s.seq c.die c.q).slots ∧
      (t.seq c.die c.q).clk = c.clk + 8 ∧ t.phys = s.phys ∧ t.host = s.host) ∧
  ∀ (g : Guard) (b : IBody) (s : State) (c : Cur), s.Issues c → c.Ordinary → guardAt c.regs g 0 = true →
    (c.i.ctx.undeliv = true → exec (.exit g b) s = .next (State.takeTrap c 0x41 1 0 c.pc c.pc)) ∧
    (c.i.ctx.undeliv = false → (c.i.ctx.prods ≠ [] ∨ c.i.ctx.posted ≠ []) →
      exec (.exit g b) s = .next (c.after 1)) ∧
    (c.i.ctx.undeliv = false → c.i.ctx.prods = [] → c.i.ctx.posted = [] →
      ∃ t, exec (.exit g b) s = .next t ∧ t.inst c.uid = none))
/-! ## Memory words (R187 to R202) -/

/-- The context as an access with an address of taint `t` finds it: every earlier `LDC` is performed first (R193). -/
def Claims.ordered (s : State) (x : Ctx) (t : Bool) : Ctx := if t then s.captureLdc x else x

/-- Plain loads and `LDC` (R190, R193): constructor, bytes, queue entries, form, whether it is an `LDC`. -/
def Claims.loads : List ((Guard → IBody → Instr) × Nat × Nat × LoadForm × Bool) :=
  [(.ldN8, 1, 1, .zext 1, false), (.ldI8, 1, 1, .sext 1, false), (.ldN16, 2, 1, .zext 2, false),
   (.ldI16, 2, 1, .sext 2, false), (.ld32, 4, 1, .w32, false), (.ld64, 8, 2, .w64, false), (.ldc32, 4, 1, .w32, true),
   (.ldc64, 8, 2, .w64, true)]

/-- Loads (R187, R190, R193): with the address aligned and its translation held, a load reserves its queue entries and
goes on; the value is read when it is delivered, and is tainted for an `LDC`. Memory of another module is asked for by a
message (R383), whose answer gives way to what the stream itself has stored there (R192). A misaligned address takes the alignment fault, and a failed translation its fault.

The model's readings: an access is one that the TLB answers (log entries 46 and 47), and a load is read when it is delivered
(log entry 130). -/
def Obligations.Loads : Prop :=
  ∀ e ∈ Claims.loads, ∀ (g : Guard) (b : IBody) (s : State) (c : Cur), s.Issues c → guardAt c.regs g 0 = true →
    c.room b.dst.toNat e.2.2.1 = true → c.i.ctx.acqOpen = false →
    let va := c.regs.getPair b.a.toNat + b.imm.signExtend 64
    let tainted := c.regs.taintPair b.a.toNat
    let x := Claims.ordered s c.i.ctx tainted
    let n := e.2.1
    (va.toNat % n ≠ 0 → exec (e.1 g b) s = .next (State.takeTrap c 0x0A 0 0 c.pc va)) ∧
    (va.toNat % n = 0 →
      (s.translate c.die c.asid va.toNat .read = .transFault →
        exec (e.1 g b) s = .next (State.takeTrap c 0x0B 0 0 c.pc va)) ∧
      ∀ pa, s.translate c.die c.asid va.toNat .read = .ok pa → ∃ t, exec (e.1 g b) s = .next t ∧
        if isSpan pa then
          c.Leaves (s.sendSpan (c.spanMsg va.toNat pa n 2 0)) ((c.i.withCtx (x.reserves b.dst.toNat e.2.2.1
            (.span s.ports.nextMsg e.2.2.2.1 (c.ownBytes pa n)) e.2.2.2.2 false e.2.2.2.2 none tainted)).past c.pc 8) t
        else c.Leaves s ((c.i.withCtx (x.reserves b.dst.toNat e.2.2.1 (.mem pa n e.2.2.2.1) e.2.2.2.2 false
          e.2.2.2.2 none tainted)).past c.pc 8) t)

/-- The instance after a store: a store that is not retractable is a commit point (R42, R189, R297). -/
def Claims.stored (c : Cur) (va n : Nat) (i : Inst) : Inst := if c.retracts va n then i else i.committed

/-- A write that the egress filter drops is counted (R368). -/
def Claims.filtered (s : State) : State := { s with fw := { s.fw with filtered := s.fw.filtered + 1 } }
/-- What a store leaves of the machine and of its context `x` (R191): firmware's store that the egress filter drops is counted
(R368); one to another module is a posted message (R259, R384), whose bytes the stream's own loads return from now on (R192) and which
heads the sequences of the stream's release fences there (R250); one to this module writes its bytes, after the stream's earlier
loads of them (R192). -/
def Claims.stores (s : State) (c : Cur) (x : Ctx) (va pa n v : Nat) : State × Ctx :=
  if c.mayStore pa = false then (Claims.filtered s, x)
  else if isSpan pa then ((s.sendSpan (c.spanMsg va pa n 0 v)).awayWrite pa n x.ord.rels,
    { x with posted := x.posted ++ [s.ports.nextMsg], away := putBytes x.away pa n v })
  else (Claims.wrote s pa n v x.ord.rels, Claims.meets s x pa n)

/-- Stores (R191, R192): with the address aligned and its translation held, the low `n` bytes of the data are written at that
address and nothing else is, with earlier loads of the same bytes performed first; a store to another module goes out as a
message, and one of firmware outside what its filter lets through is counted. A misaligned address takes the alignment fault,
and one in a window that the die maps for reading only the access fault.

The model's choices: a store of this module is performed in the step that issues it (log entry 45), after the earlier loads
of its bytes (log entry 130). -/
def Obligations.Stores : Prop :=
  (∀ e ∈ ([(.st8, 1), (.st16, 2), (.st32, 4)] : List ((Guard → IBody → Instr) × Nat)),
    ∀ (g : Guard) (b : IBody) (s : State) (c : Cur) (v : Word) (tv : Bool) (taken : FMap Nat),
    s.Issues c → guardAt c.regs g 0 = true → c.i.ex.unconf = false → c.i.ctx.acqOpen = false →
    c.regs.reads [⟨b.dst.toNat, false⟩] = .vals [(v, tv)] taken →
    let va := c.regs.getPair b.a.toNat + b.imm.signExtend 64
    let x := Claims.ordered s c.i.ctx (c.regs.taintPair b.a.toNat)
    (va.toNat % e.2 ≠ 0 → exec (e.1 g b) s = .next (State.takeTrap c 0x0A 0 0 c.pc va)) ∧
    (va.toNat % e.2 = 0 → s.translate c.die c.asid va.toNat .write = .accFault →
      exec (e.1 g b) s = .next (State.takeTrap c 0x0C 0 0 c.pc va)) ∧
    ∀ pa, va.toNat % e.2 = 0 → s.translate c.die c.asid va.toNat .write = .ok pa → ∃ t, exec (e.1 g b) s = .next t ∧
      let r := Claims.stores s c x va.toNat pa e.2 (v.toNat % 256 ^ e.2)
      c.Leaves r.1 (Claims.stored c va.toNat e.2 ((c.i.withCtx { r.2 with regs := c.regs.eat taken }).past c.pc 8)) t) ∧
  ∀ (g : Guard) (b : IBody) (s : State) (c : Cur),
    s.Issues c → guardAt c.regs g 0 = true → c.i.ex.unconf = false → c.i.ctx.acqOpen = false →
    let va := c.regs.getPair b.a.toNat + b.imm.signExtend 64
    let x := Claims.ordered s c.i.ctx (c.regs.taintPair b.a.toNat)
    (va.toNat % 8 ≠ 0 → exec (.st64 g b) s = .next (State.takeTrap c 0x0A 0 0 c.pc va)) ∧
    ∀ pa, va.toNat % 8 = 0 → s.translate c.die c.asid va.toNat .write = .ok pa → ∃ t, exec (.st64 g b) s = .next t ∧
      let r := Claims.stores s c x va.toNat pa 8 (c.regs.getPair b.dst.toNat).toNat
      c.Leaves r.1 (Claims.stored c va.toNat 8 ((c.i.withCtx r.2).past c.pc 8)) t

/-- What a load delivers (R1, R190): the bytes at its address, the lowest address least significant, extended as its form
says; 64 bits are two entries, the low half first.

The bytes of a write (R1, R191): a write of `n` bytes at an address that belongs to no control structure puts byte `k`
of the value at address `k` of the range, and every address outside the range reads as before. -/
def Obligations.BytesOfLoadsAndStores : Prop :=
  (∀ (s : State) (pa : Nat),
    let b (k : Nat) : Byte := s.byteAt (pa + k)
    s.loadNow (.mem pa 1 (.zext 1)) = some [(b 0).setWidth 32] ∧
    s.loadNow (.mem pa 1 (.sext 1)) = some [(b 0).signExtend 32] ∧
    s.loadNow (.mem pa 2 (.zext 2)) = some [(b 1 ++ b 0 : BitVec 16).setWidth 32] ∧
    s.loadNow (.mem pa 2 (.sext 2)) = some [(b 1 ++ b 0 : BitVec 16).signExtend 32] ∧
    s.loadNow (.mem pa 4 .w32) = some [b 3 ++ (b 2 ++ (b 1 ++ b 0 : BitVec 16) : BitVec 24)] ∧
    s.loadNow (.mem pa 8 .w64) = some [b 3 ++ (b 2 ++ (b 1 ++ b 0 : BitVec 16) : BitVec 24),
      b 7 ++ (b 6 ++ (b 5 ++ b 4 : BitVec 16) : BitVec 24)]) ∧
  (∀ (s : State) (pa n v : Nat), s.ctlAt pa = none →
    (∀ k < n, s.ctlAt (pa + k) = none → (s.writePa pa n v).byteAt (pa + k) = BitVec.ofNat 8 (v / 256 ^ k)) ∧
    ∀ a, (a < pa ∨ pa + n ≤ a) → (s.writePa pa n v).byteAt a = s.byteAt a)

/-- The order has a release side (R194). -/
def Claims.rel (o : Order) : Bool := o == .rel || o == .ar || o == .sc
/-- The order has an acquire side (R194). -/
def Claims.acq (o : Order) : Bool := o == .acq || o == .ar || o == .sc
/-- Every earlier load is performed (a release, R194). -/
def Claims.released (s : State) (x : Ctx) (o : Order) : Ctx := if Claims.rel o then s.captureAll x else x
/-- Later accesses wait for every load still pending, by an acquire of scope `n` (R194, R248); the status of a chain is no load
(R216). -/
def Claims.acquired (x : Ctx) (n : Nat) : Ctx :=
  { x with prods := x.prods.map fun p =>
      if p.src.isChain = true then p else { p with acq := true, scope := some (Nat.max n (p.scope.getD 0)) } }
/-- A release waits for no load of another module, and at sys scope for no posted store (R194, R195): none is outstanding or
was undeliverable. -/
def Claims.settled (x : Ctx) (m : MemSpec) : Prop :=
  Claims.rel m.ord = true → x.remoteOpen = false ∧ (m.scope = .sys → x.undeliv = false ∧ x.posted = [])

/-- Ordered accesses and `FENCE` (R194, R195) complete: a release side performs every earlier access first, an acquire
side makes later accesses wait for this load (for `sc` also for every earlier one); a `sc` load of this module is performed at
once (R255), and an access of another module goes out as a message (R383);
`PREF` (R196) changes no register and no memory whether or not its address can be read.

The memory model (R249, R252, R253): an older value of a location can no longer be returned to an agent that has itself written or
read a newer one; an acquire whose scope and whose release's scope both reach from one position to the other shuts out every older
value whose newer write is carried to the release over edges as wide; where either scope falls short there is no synchronization,
and the acquire carries nothing. What else the memory model keeps beside memory is left out (log entry 45).

The model's readings: when earlier accesses are performed (log entry 130), and what `PREF` leaves (log entry 128). -/
def Obligations.OrderedAccesses : Prop :=
  (∀ (o : Ledger) (l : List Nat) (k : Nat) (byTaint : Bool), k ∈ l → (o.meet l).mayRead k byTaint = false) ∧
  (∀ (o : Ledger) (h : Head) (n : Nat),
    (ncs h.pos o.pos ≤ h.scope → ncs h.pos o.pos ≤ n → ∀ x ∈ h.view,
      ncs x.pos o.pos ≤ x.scope → ncs x.pos o.pos ≤ h.scope → ncs x.pos o.pos ≤ n →
      ∀ byTaint, (o.acquire [h] n).mayRead x.old byTaint = false) ∧
    ((h.scope < ncs h.pos o.pos ∨ n < ncs h.pos o.pos) →
      ∀ k byTaint, (o.acquire [h] n).mayRead k byTaint = o.mayRead k byTaint)) ∧
  (∀ (g : Guard) (b : RBody) (m : MemSpec) (s : State) (c : Cur) (pa : Nat), s.Issues c → guardAt c.regs g 0 = true →
    c.i.ctx.acqOpen = false → Claims.settled c.i.ctx m →
    let n := if m.wide then 8 else 4
    let k := if m.wide then 2 else 1
    let va := c.regs.getPair b.a.toNat
    c.room b.dst.toNat k = true → va.toNat % n = 0 → s.translate c.die c.asid va.toNat .read = .ok pa →
    (m.ord = .sc → isSpan pa = false → s.badAt pa n = false) →
    let tainted := c.regs.taintPair b.a.toNat
    let x := Claims.released s (Claims.ordered s c.i.ctx tainted) m.ord
    let z := if m.ord = .sc then Claims.acquired x (scopeOf m) else x
    let y := if m.ord = .sc ∧ isSpan pa = false then s.captureFor z pa n else z
    let v := BitVec.ofNat 64 (s.readPa pa n)
    let form : LoadForm := if m.wide then .w64 else .w32
    let src : ProdSrc := if isSpan pa then .span s.ports.nextMsg form (c.ownBytes pa n)
      else if m.ord = .sc then .known (if m.wide then [v.extractLsb' 0 32, v.extractLsb' 32 32] else [v.extractLsb' 0 32])
      else .mem pa n form
    ∃ t, exec (.ldOrdered g b m) s = .next t ∧
      Claims.Leaves c (if isSpan pa then s.sendSpan (c.spanMsg va.toNat pa n 2 0) else s) ((c.i.withCtx (y.reserves b.dst.toNat k src false true false (some (scopeOf m)) tainted)).past
        c.pc 8) t) ∧
  (∀ (g : Guard) (b : RBody) (m : MemSpec) (s : State) (c : Cur) (pa : Nat) (v : Nat) (taken : FMap Nat),
    s.Issues c → guardAt c.regs g 0 = true → c.i.ex.unconf = false → c.i.ctx.acqOpen = false → Claims.settled c.i.ctx m →
    (if m.wide then v = (c.regs.getPair b.b.toNat).toNat ∧ taken = .empty
      else ∃ w tw, c.regs.reads [opB b] = .vals [(w, tw)] taken ∧ v = w.toNat) →
    let n := if m.wide then 8 else 4
    let va := c.regs.getPair b.a.toNat
    va.toNat % n = 0 → s.translate c.die c.asid va.toNat .write = .ok pa →
    let x := Claims.released s (Claims.ordered s c.i.ctx (c.regs.taintPair b.a.toNat)) m.ord
    let r := Claims.stores s c (if m.ord = .sc then Claims.acquired x (scopeOf m) else x) va.toNat pa n v
    ∃ t, exec (.stOrdered g b m) s = .next t ∧
      Claims.Leaves c r.1 ((c.i.withCtx { r.2 with regs := c.regs.eat taken }).past c.pc 8).committed t) ∧
  (∀ (g : Guard) (b : RBody) (m : MemSpec) (s : State) (c : Cur), s.Issues c → guardAt c.regs g 0 = true →
    c.i.ctx.acqOpen = false → Claims.settled c.i.ctx m →
    let x := Claims.released s c.i.ctx m.ord
    ∃ t, exec (.fence g b m) s = .next t ∧
      Claims.Leaves c s ((c.i.withCtx (if Claims.acq m.ord then Claims.acquired x (scopeOf m) else x)).past c.pc 8) t) ∧
  ∀ (g : Guard) (b : IBody) (s : State) (c : Cur), s.Issues c → guardAt c.regs g 0 = true →
    let va := c.regs.getPair b.a.toNat + b.imm.signExtend 64
    ∃ t, exec (.pref g b) s = .next t ∧
      match s.translate c.die c.asid va.toNat .read with
      | .ok pa => c.Leaves (s.updDie c.die fun d => { d with prefetch := d.prefetch ++ [(c.asid, pa / 64 * 64)] })
          (c.i.past c.pc 8) t
      | _ => c.Leaves s (c.i.past c.pc 8) t

/-- The value that an atomic writes (R197), on cells of `w` bits; `none` where it writes nothing. -/
def Claims.atomic (w : Nat) (o x y : BitVec w) (k : Nat) (sg : Bool) : Option (BitVec w) :=
  match k with
  | 0 => some (o + x)
  | 1 => some (o &&& x)
  | 2 => some (o ||| x)
  | 3 => some (o ^^^ x)
  | 4 => some (if sg then (if o.toInt < x.toInt then o else x) else if o.toNat < x.toNat then o else x)
  | 5 => some (if sg then (if x.toInt < o.toInt then o else x) else if x.toNat < o.toNat then o else x)
  | 6 => some x
  | _ => if o = y then some x else none
/-- The atomics, in the order of `Claims.atomic`. -/
def Claims.atomics : List ((Guard → RBody → MemSpec → Instr) × Nat) :=
  [(.aadd, 0), (.aand, 1), (.aor, 2), (.axor, 3), (.amin, 4), (.amax, 5), (.axchg, 6), (.acas, 7)]
/-- The state in which an atomic leaves its cell, which is to become `new`, if anything: in this module it is written, in
another one a message asks for it with the operand `v` (R383); a write that firmware's filter drops is counted, and the cell
keeps its value. -/
def Claims.atomicCell (s : State) (c : Cur) (va pa n v : Nat) (new : Option Nat) : State :=
  if isSpan pa then
    if c.mayStore pa then s.sendSpan (c.spanMsg va pa n 1 v) else (Claims.filtered s).sendSpan (c.spanMsg va pa n 2 0)
  else match new with
    | some w => if c.mayStore pa then s.writePa pa n w else Claims.filtered s
    | none => s
/-- The context after an atomic: earlier loads of the cell are performed, the old value is on its way to the queue, and the
operands are consumed; of a cell of another module that it has changed (`own`) the stream no longer knows the value. -/
def Claims.atomicCtx (s : State) (x : Ctx) (pa n dst k : Nat) (old : List Word) (m : MemSpec) (taken : FMap Nat) (own : Bool) : Ctx :=
  let x := if m.ord = .sc then Claims.acquired x (scopeOf m) else x
  let y := if isSpan pa then
      (if own then { x with away := dropBytes x.away pa n } else x).reserves dst k (.span s.ports.nextMsg (if m.wide then .w64 else .w32) []) false (Claims.acq m.ord) false
        (if Claims.acq m.ord then some (scopeOf m) else none)
    else (s.captureFor x pa n).reserves dst k (.known old) false (Claims.acq m.ord) false
  { y with regs := y.regs.eat taken }

/-- Atomics on 32 bits and on 64 bits (R197, R198) complete: the cell is changed once, in the step that issues the word, to
the value of the operation, and the destination queue is to receive the old value; a cell of another module is changed there, by
a message; for `sc` later accesses wait for every earlier load too (R255). What the memory model keeps beside memory is left out (log
entry 45).

The model's choices: an atomic whose write firmware's filter drops still delivers the old value (log entry 109), and earlier accesses of
the same bytes are performed first (log entry 130). -/
def Obligations.Atomics : Prop :=
  (∀ e ∈ Claims.atomics, ∀ (g : Guard) (b : RBody) (m : MemSpec) (s : State) (c : Cur) (pa : Nat) (v w : Word)
      (l : List (Word × Bool)) (taken : FMap Nat), m.wide = false →
    s.Issues c → guardAt c.regs g 0 = true → c.i.ex.unconf = false → c.i.ctx.acqOpen = false → Claims.settled c.i.ctx m →
    c.regs.reads (if e.2 = 7 then [opB b, opC b] else [opB b]) = .vals l taken →
    l.map Prod.fst = (if e.2 = 7 then [v, w] else [v]) → c.room b.dst.toNat 1 = true →
    let va := c.regs.getPair b.a.toNat
    va.toNat % 4 = 0 → s.translate c.die c.asid va.toNat .both = .ok pa → (isSpan pa = false → s.badAt pa 4 = false) →
    let x := Claims.released s (Claims.ordered s c.i.ctx (c.regs.taintPair b.a.toNat)) m.ord
    let old : Word := BitVec.ofNat 32 (s.readPa pa 4)
    ∃ t, exec (e.1 g b m) s = .next t ∧
      Claims.Leaves c (Claims.atomicCell s c va.toNat pa 4 v.toNat ((Claims.atomic 32 old v w e.2 m.sgn).map BitVec.toNat))
        ((c.i.withCtx (Claims.atomicCtx s x pa 4 b.dst.toNat 1 [old] m taken (c.mayStore pa))).past c.pc 8).committed t) ∧
  ∀ e ∈ Claims.atomics, ∀ (g : Guard) (b : RBody) (m : MemSpec) (s : State) (c : Cur) (pa : Nat), m.wide = true →
    s.Issues c → guardAt c.regs g 0 = true → c.i.ex.unconf = false → c.i.ctx.acqOpen = false → Claims.settled c.i.ctx m →
    c.room b.dst.toNat 2 = true →
    let va := c.regs.getPair b.a.toNat
    va.toNat % 8 = 0 → s.translate c.die c.asid va.toNat .both = .ok pa → (isSpan pa = false → s.badAt pa 8 = false) →
    let x := Claims.released s (Claims.ordered s c.i.ctx (c.regs.taintPair b.a.toNat)) m.ord
    let old : Word64 := BitVec.ofNat 64 (s.readPa pa 8)
    ∃ t, exec (e.1 g b m) s = .next t ∧
      Claims.Leaves c (Claims.atomicCell s c va.toNat pa 8 (c.regs.getPair b.b.toNat).toNat
          ((Claims.atomic 64 old (c.regs.getPair b.b.toNat) (c.regs.getPair b.c.toNat) e.2 m.sgn).map BitVec.toNat))
        ((c.i.withCtx (Claims.atomicCtx s x pa 8 b.dst.toNat 2 [old.extractLsb' 0 32, old.extractLsb' 32 32] m .empty
          (c.mayStore pa))).past c.pc 8).committed t

/-! ## Elements through handles (R200 to R202) -/

/-- `LDT` (R200): an element out of bounds is the pad; one of tile memory or of memory is the element at its address (R76), for
which a message asks in another module (R383), extended as its format says (R156); the destination queue is to receive it with the taint of the operands.

`STT` (R200): an element in bounds is stored at its address in tile memory or in memory; one out of bounds is not stored: it is counted in the descriptor, or with a strict descriptor takes the bounds fault.

The model's choices: a store is performed in the step that issues it (log entries 45 and 130), and which stores count as a commit, where
nothing is written and where a store is retractable, is the model's inference (log entry 67). -/
def Obligations.ElementAccesses : Prop :=
  (∀ (g : Guard) (b : RBody) (s : State) (c : Cur) (h x y : Word) (th tx ty : Bool) (taken : FMap Nat) (d : Desc) (dpa : Nat),
    s.Issues c → c.i.who.kind ≠ .prologue → guardAt c.regs g 0 = true → c.i.ctx.acqOpen = false →
    c.regs.reads [opA b, opB b, opC b] = .vals [(h, th), (x, tx), (y, ty)] taken → c.room b.dst.toNat 1 = true →
    c.Names h d dpa →
    let at_ : List Int := [x.toInt, y.toInt, 0, 0]
    let n := fmtBytes d.fmt
    let taint := th || tx || ty
    let give (src : ProdSrc) : Inst :=
      let z := (Claims.ordered s c.i.ctx taint).reserves b.dst.toNat 1 src taint false false none taint
      (c.i.withCtx { z with regs := z.regs.eat taken }).past c.pc 8
    (d.inBounds at_ = false →
      ∃ t, exec (.ldt g b) s = .next t ∧ c.Leaves s (give (.known [putElem d.fmt d.pad])) t) ∧
    (d.inBounds at_ = true → d.space = 1 → (s.tile c.die c.tile).badAt (d.addr at_) n = false →
      ∃ t, exec (.ldt g b) s = .next t ∧
        c.Leaves s (give (.known [putElem d.fmt ((s.tile c.die c.tile).read (d.addr at_) n)])) t) ∧
    ∀ pa, d.inBounds at_ = true → d.space = 0 → (BitVec.ofNat 64 (d.addr at_)).toNat % n = 0 →
      s.translate c.die c.asid (BitVec.ofNat 64 (d.addr at_)).toNat .read = .ok pa → ∃ t, exec (.ldt g b) s = .next t ∧
        if isSpan pa then c.Leaves (s.sendSpan (c.spanMsg (d.addr at_) pa n 2 0))
          (give (.span s.ports.nextMsg (.elem d.fmt) (c.ownBytes pa n))) t
        else c.Leaves s (give (.mem pa n (.elem d.fmt))) t) ∧
  (∀ (g : Guard) (b : RBody) (s : State) (c : Cur) (h x y v : Word) (th tx ty tv : Bool) (taken : FMap Nat) (d : Desc) (dpa : Nat),
    s.Issues c → c.i.who.kind ≠ .prologue → guardAt c.regs g 0 = true → c.i.ctx.acqOpen = false → c.i.ex.unconf = false →
    c.regs.reads [opA b, opB b, opC b, ⟨b.dst.toNat, false⟩] = .vals [(h, th), (x, tx), (y, ty), (v, tv)] taken →
    c.Names h d dpa →
    let at_ : List Int := [x.toInt, y.toInt, 0, 0]
    let a := d.addr at_
    let n := fmtBytes d.fmt
    let z := Claims.ordered s c.i.ctx (c.taintOf [opA b, opB b, opC b])
    let gone (w : Ctx) : Inst := (c.i.withCtx { w with regs := c.regs.eat taken }).past c.pc 8
    (d.inBounds at_ = false → d.strict = true → exec (.stt g b) s = .next (State.takeTrap c 0x0E 0 0 c.pc c.pc)) ∧
    (d.inBounds at_ = false → d.strict = false → ∃ t, exec (.stt g b) s = .next t ∧
      c.Leaves (s.addOobw c.die c.asid dpa 1) (if d.space = 0 && !c.i.ex.pred then (gone z).committed else gone z) t) ∧
    (d.inBounds at_ = true → d.space = 1 → ∃ t, exec (.stt g b) s = .next t ∧
      c.Leaves (s.tileWrite c.die c.tile a n (v.toNat % 256 ^ n)) (gone z) t) ∧
    ∀ pa, d.inBounds at_ = true → d.space = 0 → (BitVec.ofNat 64 a).toNat % n = 0 →
      s.translate c.die c.asid (BitVec.ofNat 64 a).toNat .write = .ok pa → ∃ t, exec (.stt g b) s = .next t ∧
        let r := Claims.stores s c z a pa n (v.toNat % 256 ^ n)
        c.Leaves r.1 (Claims.stored c a n (gone r.2)) t)

/-- The variants of `LDV` and `STV` (R201). -/
def Claims.vecLoads : List ((Guard → VBody → Instr) × Nat) := [(.ldv, 0), (.ldvCol, 1), (.ldvIdx, 2)]
def Claims.vecStores : List ((Guard → VBody → Instr) × Nat) := [(.stv, 0), (.stvCol, 1), (.stvIdx, 2)]
/-- The element of lane `i` (R201): row and column of the two scalars, the lane number added along dimension 0 or 1, or
the lane of the index vector as the row. -/
def Claims.laneAt (var : Nat) (x y : Word) (v : VecReg) (i : Nat) : List Int :=
  match var with
  | 0 => [x.toInt + i, y.toInt, 0, 0]
  | 1 => [x.toInt, y.toInt + i, 0, 0]
  | _ => [(v.extractLsb' (32 * i) 32).toInt, y.toInt, 0, 0]

/-- Stores of `n` bytes in a row: virtual address, address and value. -/
def Claims.storeAll (s : State) (c : Cur) (x : Ctx) (n : Nat) (l : List (Nat × Nat × Nat)) : State × Ctx :=
  l.foldl (fun a e => Claims.stores a.1 { c with s := a.1 } a.2 e.1 e.2.1 n e.2.2) (s, x)
/-- What the lanes of a load are to read, `at_` giving the virtual address and the address of a lane that reads memory, and else
what the lane is; a message asks for an element of another module (R383). -/
def Claims.loadAll (s : State) (c : Cur) (n : Nat) (at_ : Nat → (Nat × Nat) ⊕ LaneSrc) : State × List LaneSrc :=
  (List.range 64).foldl (fun a i => match at_ i with
    | .inr l => (a.1, a.2 ++ [l])
    | .inl e =>
      if isSpan e.2 then (a.1.sendSpan (c.spanMsg e.1 e.2 n 2 0),
        a.2 ++ [.span a.1.ports.nextMsg (Cur.ownBytes { c with s := a.1 } e.2 n)])
      else (a.1, a.2 ++ [.mem e.2])) (s, [])

/-- `LDV` in its three variants (R201, R202). From tile memory the lanes with a true guard get their element, or the pad
out of bounds, 8 cycles after the issue. From memory the destination is a vector queue: it gets a pending entry, whose lanes are
off, the pad, or an element still to be read at its address or asked for in another module. With no lane on, nothing happens.

`STV` in its three variants (R201, R202): the lanes with a true guard and an element in bounds store their low bytes in ascending
lane order, to tile memory or to memory; the others are counted in the descriptor, or with a strict one the word takes the bounds
fault and stores nothing. A store to memory commits the instance, unless all its lanes lie in a predicted block's share (R297).
With no lane on, nothing happens.

The model's choices: a store is performed in the step that issues it (log entries 45 and 130), and that a store all of whose lanes are
suppressed counts as a commit, or not, by where its lanes lie is the model's inference (log entry 67). -/
def Obligations.VectorAccesses : Prop :=
  ((∀ e ∈ Claims.vecLoads, ∀ (g : Guard) (b : VBody) (s : State) (c : Cur), s.Issues c → c.i.who.kind ≠ .prologue →
    guardMask c.regs g = 0 → ∃ t, exec (e.1 g b) s = .next t ∧ c.Leaves s (c.i.past c.pc 8) t) ∧
  ∀ e ∈ Claims.vecLoads, ∀ (g : Guard) (b : VBody) (s : State) (c : Cur) (vs : List (VecReg × Bool)) (taken : FMap Nat)
      (d : Desc) (dpa : Nat), s.Issues c → c.i.who.kind ≠ .prologue → guardMask c.regs g ≠ 0 → c.i.ctx.acqOpen = false →
    c.regs.readsV (if e.2 = 2 then [⟨b.vb.toNat, b.kb⟩] else []) = .vals vs taken → c.roomV b.vd.toNat = true →
    c.Names (c.regs.getS b.va.toNat) d dpa → typeFmt b.ty.toNat = d.fmt →
    let m := guardMask c.regs g
    let at_ (i : Nat) : List Int :=
      Claims.laneAt e.2 (c.regs.getS b.vb.toNat) (c.regs.getS b.vc.toNat) ((vs.map Prod.fst).getD 0 0) i
    let n := fmtBytes d.fmt
    let taint := vs.any Prod.snd || c.regs.taintS b.va.toNat || (e.2 != 2 && c.regs.taintS b.vb.toNat) ||
      c.regs.taintS b.vc.toNat
    (d.space = 1 → (∀ i < 64, m.getLsbD i = true → d.inBounds (at_ i) = true →
        (s.tile c.die c.tile).badAt (d.addr (at_ i)) n = false) →
      ∃ t v, exec (e.1 g b) s = .next t ∧
        (∀ i < 64, m.getLsbD i = true → laneOf v i = if d.inBounds (at_ i) then
          putElem d.fmt ((s.tile c.die c.tile).read (d.addr (at_ i)) n) else putElem d.fmt d.pad) ∧
        let x := Claims.ordered s c.i.ctx taint
        c.Leaves s ((c.i.withCtx { c.vectorResult taken b.vd.toNat 8 v m taint with prods := x.prods, ord := x.ord }).past c.pc 8)
          t) ∧
    ∀ pa : Nat → Nat, d.space = 0 → 28 ≤ b.vd.toNat →
      (∀ i < 64, m.getLsbD i = true → d.inBounds (at_ i) = true → (BitVec.ofNat 64 (d.addr (at_ i))).toNat % n = 0 ∧
        s.translate c.die c.asid (BitVec.ofNat 64 (d.addr (at_ i))).toNat .read = .ok (pa i)) →
      let r := Claims.loadAll s c n fun i =>
        if m.getLsbD i = false then .inr .off
        else if d.inBounds (at_ i) then .inl (d.addr (at_ i), pa i) else .inr (.val (putElem d.fmt d.pad))
      let q := c.regs.getVq (b.vd.toNat - 28)
      let p : Producer := ⟨true, b.vd.toNat - 28, q.tailPos, 1, .lanes d.fmt r.2, taint, false, false, none, taint⟩
      let x := Claims.ordered s c.i.ctx taint
      ∃ t, exec (e.1 g b) s = .next t ∧
        c.Leaves r.1 ((c.i.withCtx { x with
          regs := (c.regs.setVq (b.vd.toNat - 28) (q.reserve 1)).eatV taken
          prods := x.prods ++ [p] }).past c.pc 8) t) ∧
  ((∀ e ∈ Claims.vecStores, ∀ (g : Guard) (b : VBody) (s : State) (c : Cur), s.Issues c → c.i.who.kind ≠ .prologue →
    guardMask c.regs g = 0 → ∃ t, exec (e.1 g b) s = .next t ∧ c.Leaves s (c.i.past c.pc 8) t) ∧
  ∀ e ∈ Claims.vecStores, ∀ (g : Guard) (b : VBody) (s : State) (c : Cur) (vs : List (VecReg × Bool)) (taken : FMap Nat)
      (d : Desc) (dpa : Nat), s.Issues c → c.i.who.kind ≠ .prologue → guardMask c.regs g ≠ 0 → c.i.ctx.acqOpen = false →
    c.i.ex.unconf = false →
    c.regs.readsV ((if e.2 = 2 then [(⟨b.vb.toNat, b.kb⟩ : Opnd)] else []) ++ [⟨b.vd.toNat, false⟩]) = .vals vs taken →
    c.Names (c.regs.getS b.va.toNat) d dpa → typeFmt b.ty.toNat = d.fmt →
    let m := guardMask c.regs g
    let at_ (i : Nat) : List Int :=
      Claims.laneAt e.2 (c.regs.getS b.vb.toNat) (c.regs.getS b.vc.toNat) ((vs.map Prod.fst).getD 0 0) i
    let data := (vs.map Prod.fst).getD (if e.2 = 2 then 1 else 0) 0
    let n := fmtBytes d.fmt
    let on := (List.range 64).filter fun i => m.getLsbD i
    let ins := on.filter fun i => d.inBounds (at_ i)
    let val (i : Nat) : Nat := (laneOf data i).toNat % 256 ^ n
    let taint := c.regs.taintS b.va.toNat || c.regs.taintS b.vc.toNat ||
      (if e.2 = 2 then c.taintOfV [⟨b.vb.toNat, b.kb⟩] else c.regs.taintS b.vb.toNat)
    let x := Claims.ordered s c.i.ctx taint
    (d.strict = true → ins.length ≠ on.length →
      exec (e.1 g b) s = .next (State.takeTrap c 0x0E 0 0 c.pc c.pc)) ∧
    ((d.strict = false ∨ ins.length = on.length) →
      (d.space = 1 → ∃ t, exec (e.1 g b) s = .next t ∧
        c.Leaves ((ins.foldl (fun s i => s.tileWrite c.die c.tile (d.addr (at_ i)) n (val i)) s).addOobw c.die c.asid dpa
            (on.length - ins.length))
          ((c.i.withCtx { x with regs := c.regs.eatV taken }).past c.pc 8) t) ∧
      ∀ pa : Nat → Nat, d.space = 0 →
        (∀ i ∈ ins, (BitVec.ofNat 64 (d.addr (at_ i))).toNat % n = 0 ∧
          s.translate c.die c.asid (BitVec.ofNat 64 (d.addr (at_ i))).toNat .write = .ok (pa i)) →
        let r := Claims.storeAll s c x n (ins.map fun i => (d.addr (at_ i), pa i, val i))
        let j := (c.i.withCtx { r.2 with regs := c.regs.eatV taken }).past c.pc 8
        ∃ t, exec (e.1 g b) s = .next t ∧ c.Leaves (r.1.addOobw c.die c.asid dpa (on.length - ins.length))
          (if c.i.ex.pred && ins.all fun i => c.retracts (d.addr (at_ i)) n then j else j.committed) t))

/-! ## Futures and semaphores (R203 to R210) -/

/-- The words that read a future: constructor, and what is delivered of the cell's value (R204, R304). -/
def Claims.futureReads : List ((Guard → IBody → Instr) × Bool) := [(.rdf, false), (.shape, true)]

/-- The lowering of a bound counter that a filled cell of value `v` asks for (R205): at the die that it names, or an error where
there is none. -/
def Claims.lowered (s : State) (c : Cur) (pa v : Nat) : State :=
  let d := v / 2 ^ 45 % 32
  let n := v / 2 ^ 34 % 2048
  if v / 2 ^ 33 % 2 = 0 then s
  else if d < 20 then s.updSch d fun y => { y with lowerings := y.lowerings ++ [⟨n, c.asid, c.i.who.queue⟩] }
  else s.err c.i.who.queue 2 c.asid (((s.homeOf pa).bind homeDie).getD 31) 31 n 0

/-- `RDF` and `SHAPE` (R204, R304) of a full cell of this module complete: the destination queue is to receive the value
(`SHAPE`: at most 65535), and later accesses wait for it. An empty cell makes a committed instance take the empty-future
fault; an uncommitted one is squashed (R43): it is out of its slot, waiting, at its first instruction. A cell with a nonzero
reserved bit takes the future fault. `SHAPE` is here of a cell that is not its own record's.

`FILL` (R205) of an empty cell of this module completes: the cell holds the value and is full, its other bits kept, the waiters of
the cell go on, and the bound counter of the record that the cell names is to be lowered; an earlier value, or a nonzero reserved
bit, makes the word take the future fault and change nothing. A `FILL` that firmware's filter does not let through is counted
(R368). A cell of another module makes each of the words take the future fault (R203, R204).

The model's choices: a reader that faults on an empty cell is registered as no waiter (log entry 143), a `FILL` that firmware's filter
drops leaves the cell as it was (log entry 109), the die and the ring that are charged where a cell names no die (log entry 76), and the
queue to which the lowering belongs (log entry 77). The model's readings: the permissions that the words need (log entry 49), and `%tval`
of a fault that names no address (log entry 42). What the memory model keeps beside memory is left out (log entry 45). -/
def Obligations.Futures : Prop :=
  (∀ e ∈ Claims.futureReads, ∀ (g : Guard) (b : IBody) (s : State) (c : Cur) (pa : Nat),
    s.Issues c → c.Ordinary → guardAt c.regs g 0 = true → c.room b.dst.toNat 1 = true → c.i.ctx.acqOpen = false →
    let va := if e.2 then c.regs.getPair b.a.toNat else c.regs.getPair b.a.toNat + b.imm.signExtend 64
    va.toNat % 8 = 0 → s.translate c.die c.asid va.toNat .read = .ok pa → s.badAt pa 8 = false →
    (e.2 = true → c.i.ex.pred = false) →
    let v := s.readPa pa 8
    let x := Claims.ordered s c.i.ctx (c.regs.taintPair b.a.toNat)
    let w : Word := if e.2 then BitVec.ofNat 32 (Nat.min (v % 2 ^ 32) 65535) else BitVec.ofNat 32 v
    (isSpan pa = true → exec (e.1 g b) s = .next (State.takeTrap c 0x10 0 0 c.pc va)) ∧
    (isSpan pa = false →
    (2 ^ 50 ≤ v → exec (e.1 g b) s = .next (State.takeTrap c 0x10 0 0 c.pc va)) ∧
    (v < 2 ^ 50 → v / 2 ^ 32 % 2 = 1 → ∃ t, exec (e.1 g b) s = .next t ∧
      Claims.Leaves c s ((c.i.withCtx ((s.captureFor x pa 8).reserves b.dst.toNat 1 (.known [w]) false true false)).past
        c.pc 8) t) ∧
    (v < 2 ^ 50 → v / 2 ^ 32 % 2 = 0 → c.i.sched.committed = true →
      exec (e.1 g b) s = .next (State.takeTrap c 0x11 0 0 c.pc va)) ∧
    (v < 2 ^ 50 → v / 2 ^ 32 % 2 = 0 → c.i.sched.committed = false → ∃ t j, exec (e.1 g b) s = .next t ∧
      t.inst c.uid = some j ∧ j.sched.status = .awaiting ∧ j.sched.seq = none ∧ j.ctx.pc = c.i.ex.entry ∧
      j.ctx.flights = [] ∧ j.ctx.prods = [] ∧ j.coh = none ∧ t.phys = s.phys))) ∧
  (∀ (g : Guard) (b : RBody) (s : State) (c : Cur) (w : Word) (tw : Bool) (taken : FMap Nat) (pa : Nat),
    s.Issues c → c.i.who.kind ≠ .prologue → guardAt c.regs g 0 = true → c.i.ex.unconf = false → c.i.ctx.acqOpen = false →
    c.i.ctx.remoteOpen = false → c.regs.reads [opB b] = .vals [(w, tw)] taken →
    let va := c.regs.getPair b.a.toNat
    va.toNat % 8 = 0 → s.translate c.die c.asid va.toNat .write = .ok pa → s.badAt pa 8 = false →
    let v := s.readPa pa 8
    ((isSpan pa = true ∨ v / 2 ^ 32 % 2 = 1 ∨ 2 ^ 50 ≤ v) → exec (.fill g b) s = .next (State.takeTrap c 0x10 0 0 c.pc va)) ∧
    let y := (c.i.withCtx { (s.captureAll c.i.ctx) with regs := c.regs.eat taken }).past c.pc 8
    (isSpan pa = false → v / 2 ^ 32 % 2 = 0 → v < 2 ^ 50 → c.mayStore pa = false → ∃ t, exec (.fill g b) s = .next t ∧
      c.Leaves (Claims.filtered s) y.committed t) ∧
    (isSpan pa = false → v / 2 ^ 32 % 2 = 0 → v < 2 ^ 50 → c.mayStore pa = true → ∃ t, exec (.fill g b) s = .next t ∧
      let u := (s.writePa pa 8 (w.toNat + 2 ^ 32 + v / 2 ^ 33 * 2 ^ 33)).wakeCell pa fun y => !y.own
      Claims.Leaves c ((Claims.lowered u c pa v).confirmDue pa) y.committed t))

/-- A good semaphore reference (R207): reserved bits zero, a tile of the die, an index in the ASID's window. -/
def Claims.goodRef (s : State) (c : Cur) (r : Word) : Prop :=
  r.toNat / 2 ^ 13 = 0 ∧ r.toNat / 2 ^ 8 % 32 < tilesOf c.die ∧ s.inWindow c.asid (r.toNat % 256) = true
/-- The semaphore that a reference names. -/
def Claims.semAt (s : State) (c : Cur) (r : Word) : Word := s.sem c.die (r.toNat / 2 ^ 8 % 32) (r.toNat % 256)

/-- The semaphore words (R207 to R210). `WAITS` goes on when the value is at least the threshold, and blocks past the word
otherwise. `WAITS.DEC` with no other `.DEC` waiter takes the threshold off the value, and otherwise blocks as the last waiter of that
kind. `SIG` adds to the value and `SEMSET` replaces it, each in one step of the semaphore. `SEMRD` delivers the value. A bad
reference makes each take the semaphore fault. The words that read acquire what the semaphore's writers released, at die scope, and
those that write release (R248).

One step of a semaphore (R209) for which no `.DEC` waiter stands: the value is written, and no other semaphore of any tile
of the die changes.

The model's readings: the order of waiters (log entry 65), and `%tval` of a fault that names no address (log entry 42). -/
def Obligations.Semaphores : Prop :=
  ((∀ (g : Guard) (b : RBody) (s : State) (c : Cur) (r v : Word) (tr tv : Bool) (taken : FMap Nat),
    s.Issues c → c.i.who.kind ≠ .prologue → guardAt c.regs g 0 = true → c.i.ex.unconf = false → c.i.ctx.acqOpen = false →
    c.regs.reads [opA b, opB b] = .vals [(r, tr), (v, tv)] taken →
    let t0 := r.toNat / 2 ^ 8 % 32
    let k := r.toNat % 256
    let x : Ctx := { c.i.ctx with regs := c.regs.eat taken }
    let x' : Ctx := { x with ord := s.semAcquire x.ord c.die t0 k }
    let y : Ctx := { (s.captureAll c.i.ctx) with regs := c.regs.eat taken }
    let rel : State := s.semRelease c.die t0 k (y.ord.release 2)
    let sem := Claims.semAt s c r
    let next := ((c.i.withCtx x).past c.pc 8).ctx.pc
    (¬ Claims.goodRef s c r → ∀ mk ∈ [Instr.waits, .waitsDec, .sig, .semset],
      exec (mk g b) s = .next (State.takeTrap c 0x12 0 0 c.pc c.pc)) ∧
    (Claims.goodRef s c r →
      (v.toNat ≤ sem.toNat → ∃ t, exec (.waits g b) s = .next t ∧ c.Leaves s ((c.i.withCtx x').past c.pc 8) t) ∧
      (sem.toNat < v.toNat → ∃ t, exec (.waits g b) s = .next t ∧ c.Blocks s (.waits r v false) next t) ∧
      (v.toNat ≤ sem.toNat → (∀ w ∈ (s.tile c.die t0).decq, w.1 ≠ k) → ∃ t, exec (.waitsDec g b) s = .next t ∧
        c.Leaves (s.updTile c.die t0 fun y => { y with sems := y.sems.set 0 k (sem - v) })
          ((c.i.withCtx x').past c.pc 8).committed t) ∧
      ((sem.toNat < v.toNat ∨ ∃ w ∈ (s.tile c.die t0).decq, w.1 = k) → ∃ t, exec (.waitsDec g b) s = .next t ∧
        c.Blocks s (.waitsDec r v false) next t ∧
        (t.tile c.die t0).decq = (s.tile c.die t0).decq ++ [(k, c.uid, v)] ∧ (t.tile c.die t0).sems = (s.tile c.die t0).sems) ∧
      (c.i.ctx.remoteOpen = false → ∃ t, exec (.sig g b) s = .next t ∧ c.Leaves (rel.semStep c.die t0 k (sem + v))
        ((c.i.withCtx y).past c.pc 8).committed t) ∧
      (c.i.ctx.remoteOpen = false → ∃ t, exec (.semset g b) s = .next t ∧ c.Leaves (rel.semStep c.die t0 k v)
        ((c.i.withCtx y).past c.pc 8).committed t))) ∧
  ∀ (g : Guard) (b : RBody) (s : State) (c : Cur) (r : Word) (tr : Bool) (taken : FMap Nat),
    s.Issues c → c.i.who.kind ≠ .prologue → guardAt c.regs g 0 = true → c.i.ctx.acqOpen = false →
    c.regs.reads [opA b] = .vals [(r, tr)] taken → c.room b.dst.toNat 1 = true →
    let x : Ctx := { c.i.ctx with ord := s.semAcquire c.i.ctx.ord c.die (r.toNat / 2 ^ 8 % 32) (r.toNat % 256) }
    let z := x.reserves b.dst.toNat 1 (.known [Claims.semAt s c r]) false true false
    (¬ Claims.goodRef s c r → exec (.semrd g b) s = .next (State.takeTrap c 0x12 0 0 c.pc c.pc)) ∧
    (Claims.goodRef s c r → ∃ t, exec (.semrd g b) s = .next t ∧
      c.Leaves s ((c.i.withCtx { z with regs := z.regs.eat taken }).past c.pc 8) t)) ∧
  (∀ (s : State) (d t k : Nat) (v : Word), (∀ w ∈ (s.tile d t).decq, w.1 ≠ k) →
    (s.semStep d t k v).sem d t k = v ∧
    ∀ t' k', (t' ≠ t ∨ k' ≠ k) → t' < 64 → t < 64 → (s.semStep d t k v).sem d t' k' = s.sem d t' k')
/-! ## Queues, leases and chains (R211 to R216) -/

/-- `QCNT` (R211) gives the filled entries of a scalar or vector queue in bits [3:0] and the pending ones from bit 4 up.
`QDRN` removes every entry of a queue that has no pending one, and stays at issue while one is pending.

Leases and chains (R212 to R214). `LEASE` blocks the stream past the word and asks the tile's arbitration for the
commands it names; `UNLEASE` ends the stream's lease. `CHAIN` with a count that is not zero, an aligned address below 2^55 and
a copy engine that holds fewer than 8 chains hands the chain to the engine, and the destination queue is to receive its status
with the taint of the operands (R65); with a count of 0 the status 0 lands one cycle after the issue. What the memory model
keeps is left out (log entry 45). -/
def Obligations.QueueAndLeaseWords : Prop :=
  (∀ (g : Guard) (b : RBody) (s : State) (c : Cur), s.Issues c → guardAt c.regs g 0 = true →
    let r := c.regs
    let n := b.a.toNat - 56
    let k := b.a.toNat % 4
    (c.room b.dst.toNat 1 = true →
      let filled : Nat := if b.m then (r.getVq k).items.countP Option.isSome else (r.getQ n).items.countP Option.isSome
      let pending : Nat := if b.m then (r.getVq k).items.countP Option.isNone else (r.getQ n).items.countP Option.isNone
      ∃ t, exec (.qcnt g b) s = .next t ∧ c.Leaves s ((c.i.withCtx (c.scalarResult .empty b.dst.toNat 1
        (BitVec.ofNat 32 (filled + 16 * pending)) false)).past c.pc 8) t) ∧
    (b.m = false → (∀ e ∈ (r.getQ n).items, e ≠ none) → ∃ t, exec (.qdrn g b) s = .next t ∧
      c.Leaves s ((c.i.withCtx { c.i.ctx with
        regs := r.setQ n ⟨(r.getQ n).head + (r.getQ n).items.length, []⟩ }).past c.pc 8) t) ∧
    (b.m = true → (∀ e ∈ (r.getVq k).items, e ≠ none) → ∃ t, exec (.qdrn g b) s = .next t ∧
      c.Leaves s ((c.i.withCtx { c.i.ctx with
        regs := r.setVq k ⟨(r.getVq k).head + (r.getVq k).items.length, []⟩ }).past c.pc 8) t) ∧
    ((b.m = false ∧ none ∈ (r.getQ n).items ∨ b.m = true ∧ none ∈ (r.getVq k).items) →
      exec (.qdrn g b) s = .next (c.after 1))) ∧
  ((∀ (g : Guard) (b : RBody) (s : State) (c : Cur), s.Issues c → c.Ordinary → guardAt c.regs g 0 = true →
    let n := b.c.toNat + 1
    (∃ t, exec (.lease g b) s = .next t ∧ c.Blocks s (.lease n false) (c.i.past c.pc 8).ctx.pc t ∧
      (c.q % 4, c.uid, n) ∈ (t.tile c.die c.tile).eng.asks) ∧
    ∃ t, exec (.unlease g b) s = .next t ∧ c.Leaves (s.endLease c.die c.tile c.uid) (c.i.past c.pc 8) t) ∧
  ∀ (g : Guard) (b : RBody) (s : State) (c : Cur) (w : Word) (tw : Bool) (taken : FMap Nat),
    s.Issues c → c.i.who.kind ≠ .prologue → guardAt c.regs g 0 = true → c.i.ex.unconf = false → c.i.ctx.acqOpen = false →
    c.regs.reads [opB b] = .vals [(w, tw)] taken → c.room b.dst.toNat 1 = true → 56 ≤ b.dst.toNat →
    let a := c.regs.getPair b.a.toNat
    let e := (s.tile c.die c.tile).eng
    let n := w.toNat % 2 ^ 16
    (a.toNat % 32 ≠ 0 → exec (.chain g b) s = .next (State.takeTrap c 0x0A 0 0 c.pc a)) ∧
    let taint := tw || c.regs.taintPair b.a.toNat
    (a.toNat % 32 = 0 → 2 ^ 55 ≤ a.toNat → exec (.chain g b) s = .next (State.takeTrap c 0x0B 0 0 c.pc a)) ∧
    (a.toNat % 32 = 0 → a.toNat < 2 ^ 55 → n = 0 → c.i.ctx.remoteOpen = false → ∃ t, exec (.chain g b) s = .next t ∧
      let x : Ctx := s.captureAll c.i.ctx
      Claims.Leaves c s ((c.i.withCtx { (c.scalarResult taken b.dst.toNat 1 0 taint) with prods := x.prods }).past
        c.pc 8).committed t) ∧
    (a.toNat % 32 = 0 → a.toNat < 2 ^ 55 → n ≠ 0 → e.chains.cells.length < 8 → c.i.ctx.remoteOpen = false →
      ∃ t view, exec (.chain g b) s = .next t ∧
      let q := c.regs.getQ (b.dst.toNat - 56)
      let ch : Chain :=
        ⟨c.uid, c.asid, c.i.who.queue, a.toNat, n, 0, 0, none, c.regs.s, seqKey c.die c.q, b.dst.toNat - 56, q.tailPos, view⟩
      let x := (s.captureAll (Claims.ordered s c.i.ctx (c.regs.taintPair b.a.toNat))).reserves b.dst.toNat 1
        (.chain e.nextChain) taint false false
      Claims.Leaves c (s.updEng c.die c.tile fun y => { y with chains := y.chains.put y.nextChain ch, nextChain := y.nextChain + 1 })
        ((c.i.withCtx { x with regs := x.regs.eat taken }).past c.pc 8).committed t))

/-! ## Launches, cohorts, ranges and ring words (R150 to R155, R281 to R284, R302) -/

/-- `LAUNCH` and `LAUNCH.P` (R150, R151): the 32 bytes at the address enter the launch queue of the die as the newest
record, with the ASID and the queue of the launching stream; the word is a release and a commit point. With a full launch
queue the word stays at issue with the 32 bytes that it has read, and those enter once an entry is free. What the memory model
keeps is left out (log entry 45).

`RALLOC` (R302) of a share whose pages are mapped, with the arena of the block's own record and a length that fits:
the destination queue is to receive the address of the share, the low half first. Of a block that is not predicted, or with a length
that does not fit, it takes the shape fault.

The model's readings: a `LAUNCH` that stalls on a full queue has reached its commit point (log entry 68), and `%tval` of a
fault that names no address (log entry 42). -/
def Obligations.LaunchesAndArenaShares : Prop :=
  (∀ e ∈ ([(.launch, false), (.launchP, true)] : List ((Guard → IBody → Instr) × Bool)),
    ∀ (g : Guard) (b : IBody) (s : State) (c : Cur) (pa : Nat),
    s.Issues c → c.i.who.kind ≠ .prologue → guardAt c.regs g 0 = true → c.i.ex.unconf = false → c.i.ctx.acqOpen = false →
    let va := c.regs.getPair b.a.toNat
    let sch := (s.die c.die).sch
    let x := s.captureAll (s.captureFor (Claims.ordered s c.i.ctx (c.regs.taintPair b.a.toNat)) pa 32)
    let v := BitVec.ofNat 256 (s.readPa pa 32)
    let img (v : BitVec 256) (rel : Option Head) : Image := ⟨v, c.asid, c.i.who.queue, none, e.2, va.toNat, none, rel⟩
    let enter (v : BitVec 256) (rel : Option Head) : State :=
      s.updSch c.die fun y => { y with launchq := y.launchq ++ [img v rel] }
    c.i.ctx.remoteOpen = false →
    (∀ v, c.i.ctx.image = some v → sch.launchq.length < 256 → sch.tails = [] → ∃ t rel, exec (e.1 g b) s = .next t ∧
      Claims.Leaves c (enter v rel) ((c.i.withCtx { (s.captureAll c.i.ctx) with image := none }).past c.pc 8) t) ∧
    (c.i.ctx.image = none →
    (va.toNat % 32 ≠ 0 → exec (e.1 g b) s = .next (State.takeTrap c 0x0A 0 0 c.pc va)) ∧
    (va.toNat % 32 = 0 → s.translate c.die c.asid va.toNat .read = .ok pa → isSpan pa = false → s.badAt pa 32 = false →
      sch.launchq.length < 256 → sch.tails = [] → ∃ t rel, exec (e.1 g b) s = .next t ∧
      Claims.Leaves c (enter v rel) ((c.i.withCtx { x with image := none }).past c.pc 8).committed t) ∧
    (va.toNat % 32 = 0 → s.translate c.die c.asid va.toNat .read = .ok pa → isSpan pa = false → s.badAt pa 32 = false →
      256 ≤ sch.launchq.length → ∃ t, exec (e.1 g b) s = .next t ∧
      Claims.Leaves c s (c.i.withCtx { x with image := some v }).committed t))) ∧
  (∀ (g : Guard) (b : RBody) (s : State) (c : Cur) (w : Word) (tw : Bool) (taken : FMap Nat),
    s.Issues c → c.Ordinary → guardAt c.regs g 0 = true → c.regs.reads [opB b] = .vals [(w, tw)] taken →
    c.room b.dst.toNat 2 = true →
    let a := c.regs.getPair b.a.toNat
    let lo := c.i.ex.share.1
    let n := if w.toNat = 0 then 0 else (lo + w.toNat - 1) / 65536 + 1 - lo / 65536
    ((c.i.ex.pred = false ∨ c.i.ex.arena ≠ a.toNat ∨ c.i.ex.share.2 - lo < w.toNat ∨ c.i.ex.beyond = true) →
      exec (.ralloc g b) s = .next (State.takeTrap c 0x18 0 0 c.pc c.pc)) ∧
    (c.i.ex.pred = true → c.i.ex.arena ≠ 0 → a.toNat = c.i.ex.arena → w.toNat ≤ c.i.ex.share.2 - lo → c.i.ex.beyond = false →
      (∀ k < n, ∃ epa, s.level3 c.asid (65536 * (lo / 65536 + k)) = some epa ∧ s.readPa epa 8 % 2 = 1) →
      ∃ t, exec (.ralloc g b) s = .next t ∧
        let v := BitVec.ofNat 64 lo
        let x := c.i.ctx.reserves b.dst.toNat 2 (.known [v.extractLsb' 0 32, v.extractLsb' 32 32]) false false false
        c.Leaves s ((c.i.withCtx { x with regs := x.regs.eat taken }).past c.pc 8) t))

/-- The cohort words (R38, R152). `JOIN` of a stream in no cohort, where the cohort is not full, makes it a member if the cohort
has nobody, else a pending joiner; a stream that is in a cohort takes the cohort fault, as it does on `LEAVE` and `CBAR` of a cohort that is
not its own. `LEAVE` of its own cohort leaves it in none. `CBAR` of its own blocks until the barrier, arrived: at the current
one, or while its join is pending at the next.

The range words (R154, R155). `RNG` delivers the lowest number of the range and takes it out, or 0xFFFF_FFFF where the
range is empty. `RNGSET` and `RNGSET.SPLIT` replace the range; the new one is stealable only for `RNGSET.SPLIT`.

The model's reading: `%tval` of a fault that names no address is the PC (log entry 42). -/
def Obligations.CohortAndRangeWords : Prop :=
  (∀ (g : Guard) (b : IBody) (s : State) (c : Cur), s.Issues c → c.Ordinary → guardAt c.regs g 0 = true →
    let id := b.imm.toNat
    let k := s.cohort c.die id
    (c.i.coh ≠ none → exec (.join g b) s = .next (State.takeTrap c 0x0F 0 0 c.pc c.pc)) ∧
    (c.i.coh = none → k.members.length + k.pending.length < 1024 → ∃ t, exec (.join g b) s = .next t ∧
      (∃ j, t.inst c.uid = some j ∧ j.coh = some id ∧ j.ctx = (c.i.past c.pc 8).ctx) ∧
      (t.cohort c.die id).members = (if k.members = [] ∧ k.pending = [] then [c.uid] else k.members) ∧
      (t.cohort c.die id).pending = (if k.members = [] ∧ k.pending = [] then [] else k.pending ++ [c.uid]) ∧
      t.phys = s.phys ∧ t.host = s.host ∧ t.tiles = s.tiles) ∧
    (c.i.coh ≠ some id → ∀ mk ∈ [Instr.leave, .cbar], exec (mk g b) s = .next (State.takeTrap c 0x0F 0 0 c.pc c.pc)) ∧
    (c.i.coh = some id → ∃ t j, exec (.leave g b) s = .next t ∧ t.inst c.uid = some j ∧ j.coh = none ∧
      j.ctx = (c.i.past c.pc 8).ctx ∧ t.phys = s.phys ∧ t.host = s.host ∧ t.tiles = s.tiles) ∧
    (c.i.coh = some id → c.i.ctx.acqOpen = false → c.i.ctx.remoteOpen = false → ∃ t, exec (.cbar g b) s = .next t ∧
      c.Blocks s (.cbar id false) (c.i.past c.pc 8).ctx.pc t ∧
      (c.uid ∉ k.pending → c.uid ∈ (t.cohort c.die id).arrived) ∧
      (c.uid ∈ k.pending → c.uid ∈ (t.cohort c.die id).early))) ∧
  ((∀ (g : Guard) (b : IBody) (s : State) (c : Cur), s.Issues c → c.Ordinary → guardAt c.regs g 0 = true →
    c.room b.dst.toNat 1 = true →
    let r := c.i.range
    let give (w : Word) : Ctx := c.i.ctx.reserves b.dst.toNat 1 (.known [w]) false false false
    (r.lo.toNat < r.hi.toNat → ∃ t, exec (.rng g b) s = .next t ∧
      c.Leaves s { (c.i.withCtx (give r.lo)).past c.pc 8 with range := { r with lo := r.lo + 1 } } t) ∧
    (r.hi.toNat ≤ r.lo.toNat → ∃ t, exec (.rng g b) s = .next t ∧
      c.Leaves s ((c.i.withCtx (give 0xFFFF_FFFF)).past c.pc 8) t)) ∧
  ∀ e ∈ ([(.rngset, false), (.rngsetSplit, true)] : List ((Guard → RBody → Instr) × Bool)),
    ∀ (g : Guard) (b : RBody) (s : State) (c : Cur) (lo hi : Word) (tl th : Bool) (taken : FMap Nat),
    s.Issues c → c.Ordinary → guardAt c.regs g 0 = true → c.regs.reads [opA b, opB b] = .vals [(lo, tl), (hi, th)] taken →
    ∃ t, exec (e.1 g b) s = .next t ∧ c.Leaves s
      { (c.i.withCtx { c.i.ctx with regs := c.regs.eat taken }).past c.pc 8 with
        range := { c.i.range with lo := lo, hi := hi, steal := e.2, set := true } } t)

/-- The ring words (R282 to R284). `RSUB` writes the 64 bits of a pair as the route mask of a context of the stream's own
ASID that is not free, and takes the ring fault for another ASID's or a free one, and on an attention die. `SEGDONE` of a block of
a segment task marks it; of another stream it takes the ring fault. `RTAG` gives the tag of the presentation of this
slot to the stream's ASID.

The model's choices: `RSUB` writes in the step that issues it, where R282 says within 16 cycles (log entry 45), and `%ctxbase` is a
physical address (log entry 8, PRESUMED). The model's readings: `RSUB` on an attention die takes the ring fault (log entry 69), and
`%tval` of a fault that names no address (log entry 42). -/
def Obligations.RingWords : Prop :=
  (∀ (g : Guard) (b : RBody) (s : State) (c : Cur) (w : Word) (tw : Bool) (taken : FMap Nat),
    s.Issues c → c.i.who.kind ≠ .prologue → guardAt c.regs g 0 = true → c.i.ex.unconf = false → c.i.ctx.acqOpen = false →
    c.regs.reads [opA b] = .vals [(w, tw)] taken →
    let x := s.ctxOf c.die w.toNat
    let pa := s.ctxPa c.die w.toNat
    ((1023 < w.toNat ∨ 16 ≤ c.die) → exec (.rsub g b) s = .next (State.takeTrap c 0x17 0 0 c.pc c.pc)) ∧
    (w.toNat ≤ 1023 → c.die < 16 → s.homeOf pa ≠ none → (ctxAsid x ≠ c.asid ∨ ctxState x = 0) →
      exec (.rsub g b) s = .next (State.takeTrap c 0x17 0 0 c.pc c.pc)) ∧
    (w.toNat ≤ 1023 → c.die < 16 → s.homeOf pa ≠ none → ctxAsid x = c.asid → ctxState x ≠ 0 → c.mayStore (pa + 8) = true →
      isSpan (pa + 8) = false → ∃ t, exec (.rsub g b) s = .next t ∧
      let x := Claims.ordered s c.i.ctx (tw || c.regs.taintPair b.b.toNat)
      let y := Claims.meets s x (pa + 8) 8
      c.Leaves (Claims.wrote s (pa + 8) 8 (c.regs.getPair b.b.toNat).toNat x.ord.rels)
        ((c.i.withCtx { y with regs := c.regs.eat taken }).past c.pc 8).committed t)) ∧
  (∀ (g : Guard) (b : IBody) (s : State) (c : Cur), s.Issues c → c.Ordinary → guardAt c.regs g 0 = true →
    c.i.ex.unconf = false →
    (c.i.ex.segTask = none → exec (.segdone g b) s = .next (State.takeTrap c 0x17 0 0 c.pc c.pc)) ∧
    ∀ k, c.i.ex.segTask = some k → c.i.ex.segDone = false → ∃ t, exec (.segdone g b) s = .next t ∧
      c.Leaves (s.segDone c.die k c.uid) { (c.i.past c.pc 8).committed with ex := { c.i.ex with segDone := true } } t) ∧
  ∀ (g : Guard) (b : IBody) (s : State) (c : Cur), s.Issues c → c.i.who.kind ≠ .prologue → guardAt c.regs g 0 = true →
    ∃ t v, exec (.rtag g b) s = .next t ∧
      c.Leaves s ((c.i.withCtx (c.pairResult .empty b.dst.toNat (v.extractLsb' 0 32) (v.extractLsb' 32 32) false)).past
        c.pc 8) t ∧
      ∀ k p, (s.die c.die).ring.pres.cells = [(k, p)] → p.slot = (s.die c.die).regs.sigma → p.asid = c.asid → v = p.tag

/-! ## Vector words (R156 to R186) -/

/-- Lane `i` of operand `k`. -/
def Claims.lane (vs : List (VecReg × Bool)) (k i : Nat) : Word := ((vs.map Prod.fst).getD k 0).extractLsb' (32 * i) 32
/-- Operand b of lane `i`: of the vector in variant 0, else the scalar (R158). -/
def Claims.laneB (r : Regs) (b : VBody) (vs : List (VecReg × Bool)) (i : Nat) : Word :=
  if b.var.toNat = 0 then Claims.lane vs 1 i else r.getS b.vb.toNat
/-- Operands a and b. -/
def Claims.opsAB (b : VBody) : List Opnd :=
  if b.var.toNat = 0 then [⟨b.va.toNat, b.ka⟩, ⟨b.vb.toNat, b.kb⟩] else [⟨b.va.toNat, b.ka⟩]
/-- Taint of the scalar operand b. -/
def Claims.taintB (r : Regs) (b : VBody) : Bool := b.var.toNat != 0 && r.taintS b.vb.toNat

/-- The least and the greatest value of an integer format (R156). -/
def Claims.range (f : Nat) : Int × Int :=
  if f = 5 ∨ f = 7 ∨ f = 9 then (-(2 ^ (fmtBits f - 1)), 2 ^ (fmtBits f - 1) - 1) else (0, 2 ^ fmtBits f - 1)
/-- An exact integer as an element: brought into the range with `.sat`, else its low bits (R156). -/
def Claims.fit (f : Nat) (sat : Bool) (y : Int) : Nat :=
  ((if sat then Max.max (Claims.range f).1 (Min.min (Claims.range f).2 y) else y) % 2 ^ fmtBits f).toNat
/-- The value of an integer element (R156). -/
def Claims.ival (f : Nat) (x : Nat) : Int :=
  if f = 5 ∨ f = 7 ∨ f = 9 then (if x % 2 ^ fmtBits f < 2 ^ (fmtBits f - 1) then (x % 2 ^ fmtBits f : Nat)
    else ((x % 2 ^ fmtBits f : Nat) : Int) - 2 ^ fmtBits f) else (x % 2 ^ fmtBits f : Nat)

/-- The typed words of two operands (R161, R162, R164): the exact integer result; the exact floating-point one, with `none`
for the words that do not round. -/
def Claims.typed2 : List ((Guard → VBody → Instr) × (Int → Int → Int) × Option (RMode → Val → Val → Val)) :=
  [(.vadd, (fun a b => a + b), some Val.add), (.vsub, (fun a b => a - b), some fun m a b => Val.add m a b.negate),
   (.vmul, (fun a b => a * b), some fun _ a b => Val.mul a b), (.vmin, Min.min, none), (.vmax, Max.max, none)]

/-- The vector words whose lanes come from one vector operand with no scalar: constructor, latency, result of lane `i`. -/
def Claims.vec1 : List ((Guard → VBody → Instr) × (VBody → Nat) × (VBody → (Nat → Word) → Nat → Word)) :=
  let tl (b : VBody) : Nat := if 5 ≤ typeFmt b.ty.toNat then 2 else 4
  let transc1 (n : Nat) (b : VBody) (a : Nat → Word) (i : Nat) : Word :=
    BitVec.ofNat 32 (flushBits 0 b.fz (transc n (rmode b.rnd.toNat) (decodeVal 0 (flushBits 0 b.fz (a i).toNat))))
  [(.vabs, tl, fun b a i => putElem (typeFmt b.ty.toNat) (elAbs (typeFmt b.ty.toNat) b.fz b.sat (a i).toNat)),
   (.vneg, tl, fun b a i => putElem (typeFmt b.ty.toNat) (elNeg (typeFmt b.ty.toNat) b.fz b.sat (a i).toNat)),
   (.vcvt, (fun _ => 4), fun b a i => putElem (typeFmt b.ty.toNat) (convert (typeFmt (b.vc.toNat % 16)) (typeFmt b.ty.toNat)
     (if typeFmt b.ty.toNat ≤ 4 then rmode b.rnd.toNat else rmode b.var.toNat) b.sat b.nan b.fz (a i).toNat)),
   (.vrcp, (fun _ => 12), transc1 0), (.vrsq, (fun _ => 12), transc1 1), (.vexp2, (fun _ => 12), transc1 2),
   (.vlog2, (fun _ => 12), transc1 3), (.vsinc, (fun _ => 12), transc1 4),
   (.vshufRev, (fun _ => 2), fun _ a i => a (63 - i)), (.vmov, (fun _ => 2), fun _ a i => a i)]

/-- The typed words with two operands and `VFMA` (R161 to R164): every lane with a true guard gets the exact result, brought to
the element's format once: for integers low bits or saturation, for floating point one rounding in the word's mode of the
exact sum, difference, product or a·b + c, with subnormals flushed on the way in and out where `.fz` says so. The result lands 2
cycles after the issue for integers and 4 for floating point. `VMIN` and `VMAX` give one of the two operands of an
integer format.

`VABS`, `VNEG`, `VCVT`, the five transcendentals, `VSHUF.REV` and `VMOV` (R165, R169 to R171, R176, R178): every lane with a
true guard gets the result of the table at its latency; integer `VABS` and `VNEG` fit the exact magnitude or negation into the
element. -/
def Obligations.VectorArithmetic : Prop :=
  ((∀ e ∈ Claims.typed2, ∀ (g : Guard) (b : VBody) (s : State) (c : Cur) (vs : List (VecReg × Bool)) (taken : FMap Nat),
    s.Issues c → c.i.who.kind ≠ .prologue → guardMask c.regs g ≠ 0 → c.regs.readsV (Claims.opsAB b) = .vals vs taken →
    c.roomV b.vd.toNat = true →
    let f := typeFmt b.ty.toNat
    let taint := vs.any Prod.snd || Claims.taintB c.regs b
    ∃ t v, exec (e.1 g b) s = .next t ∧
      c.Leaves s ((c.i.withCtx (c.vectorResult taken b.vd.toNat (if 5 ≤ f then 2 else 4) v (guardMask c.regs g) taint)).past
        c.pc 8) t ∧
      ∀ i < 64, (guardMask c.regs g).getLsbD i = true →
        let x := (Claims.lane vs 0 i).toNat
        let y := (Claims.laneB c.regs b vs i).toNat
        (5 ≤ f → e.2.2 ≠ none → laneOf v i = putElem f (Claims.fit f b.sat (e.2.1 (Claims.ival f x) (Claims.ival f y)))) ∧
        (5 ≤ f → e.2.2 = none → Claims.ival f (laneOf v i).toNat = e.2.1 (Claims.ival f x) (Claims.ival f y)) ∧
        (f ≤ 4 → ∀ o, e.2.2 = some o → laneOf v i = putElem f (flushBits f b.fz (roundFp f (rmode b.rnd.toNat) false
          (o (rmode b.rnd.toNat) (decodeVal f (flushBits f b.fz (x % 2 ^ fmtBits f)))
            (decodeVal f (flushBits f b.fz (y % 2 ^ fmtBits f)))))))) ∧
  ∀ (g : Guard) (b : VBody) (s : State) (c : Cur) (vs : List (VecReg × Bool)) (taken : FMap Nat),
    s.Issues c → c.i.who.kind ≠ .prologue → guardMask c.regs g ≠ 0 →
    c.regs.readsV (Claims.opsAB b ++ [⟨b.vc.toNat, b.kc⟩]) = .vals vs taken → c.roomV b.vd.toNat = true →
    let f := typeFmt b.ty.toNat
    let taint := vs.any Prod.snd || Claims.taintB c.regs b
    ∃ t v, exec (.vfma g b) s = .next t ∧
      c.Leaves s ((c.i.withCtx (c.vectorResult taken b.vd.toNat (if 5 ≤ f then 2 else 4) v (guardMask c.regs g) taint)).past
        c.pc 8) t ∧
      ∀ i < 64, (guardMask c.regs g).getLsbD i = true →
        let x := (Claims.lane vs 0 i).toNat
        let y := (Claims.laneB c.regs b vs i).toNat
        let z := (Claims.lane vs (if b.var.toNat = 0 then 2 else 1) i).toNat
        let fl (k : Nat) : Val := decodeVal f (flushBits f b.fz (k % 2 ^ fmtBits f))
        let m := rmode b.rnd.toNat
        (5 ≤ f → laneOf v i = putElem f (Claims.fit f b.sat (Claims.ival f x * Claims.ival f y + Claims.ival f z))) ∧
        (f ≤ 4 → laneOf v i = putElem f (flushBits f b.fz (roundFp f m false (Val.add m (Val.mul (fl x) (fl y)) (fl z)))))) ∧
  ((∀ e ∈ Claims.vec1, ∀ (g : Guard) (b : VBody) (s : State) (c : Cur) (a : VecReg) (ta : Bool) (taken : FMap Nat),
    s.Issues c → c.i.who.kind ≠ .prologue → guardMask c.regs g ≠ 0 →
    c.regs.readsV [⟨b.va.toNat, b.ka⟩] = .vals [(a, ta)] taken → c.roomV b.vd.toNat = true →
    ∃ t v, exec (e.1 g b) s = .next t ∧
      c.Leaves s ((c.i.withCtx (c.vectorResult taken b.vd.toNat (e.2.1 b) v (guardMask c.regs g) ta)).past c.pc 8) t ∧
      ∀ i < 64, (guardMask c.regs g).getLsbD i = true → laneOf v i = e.2.2 b (laneOf a) i) ∧
  ∀ (f : Nat) (fz sat : Bool) (x : Nat), 5 ≤ f → f ≤ 10 →
    elAbs f fz sat x = Claims.fit f sat ((Claims.ival f x).natAbs : Int) ∧
    elNeg f fz sat x = Claims.fit f sat (-(Claims.ival f x)))

/-- The logical and shift words (R166, R167): lane by lane. -/
def Claims.vecLogic : List ((Guard → VBody → Instr) × (Word → Word → Word)) :=
  [(.vand, fun a b => a &&& b), (.vor, fun a b => a ||| b), (.vxor, fun a b => a ^^^ b)]
/-- The shifts of an integer element by `n` places below its width: left (fitted), right, right with the sign. -/
def Claims.vecShift : List ((Guard → VBody → Instr) × (Nat → Bool → Nat → Nat → Nat)) :=
  [(.vshl, fun f sat x n => Claims.fit f sat (Claims.ival f x * 2 ^ n)), (.vshr, fun f _ x n => x % 2 ^ fmtBits f / 2 ^ n),
   (.vsra, fun f _ x n =>
     (((if x % 2 ^ fmtBits f < 2 ^ (fmtBits f - 1) then ((x % 2 ^ fmtBits f : Nat) : Int)
       else ((x % 2 ^ fmtBits f : Nat) : Int) - 2 ^ fmtBits f) / 2 ^ n) % 2 ^ fmtBits f).toNat)]

/-- `VAND`, `VOR`, `VXOR` on whole lanes and `VSHL`, `VSHR`, `VSRA` on integer elements (R166, R167): variant 0 takes b from a vector, variant 1
from a scalar (a shift takes it modulo the width), variant 2 of a shift takes the number in the word. The result lands 2
cycles after the issue. -/
def Obligations.VectorLogicAndShifts : Prop :=
  (∀ e ∈ Claims.vecLogic, ∀ (g : Guard) (b : VBody) (s : State) (c : Cur) (vs : List (VecReg × Bool)) (taken : FMap Nat),
    s.Issues c → c.i.who.kind ≠ .prologue → guardMask c.regs g ≠ 0 → c.regs.readsV (Claims.opsAB b) = .vals vs taken →
    c.roomV b.vd.toNat = true →
    ∃ t v, exec (e.1 g b) s = .next t ∧
      c.Leaves s ((c.i.withCtx (c.vectorResult taken b.vd.toNat 2 v (guardMask c.regs g)
        (vs.any Prod.snd || Claims.taintB c.regs b))).past c.pc 8) t ∧
      ∀ i < 64, (guardMask c.regs g).getLsbD i = true →
        laneOf v i = e.2 (Claims.lane vs 0 i) (Claims.laneB c.regs b vs i)) ∧
  ∀ e ∈ Claims.vecShift, ∀ (g : Guard) (b : VBody) (s : State) (c : Cur) (vs : List (VecReg × Bool)) (taken : FMap Nat),
    s.Issues c → c.i.who.kind ≠ .prologue → guardMask c.regs g ≠ 0 →
    c.regs.readsV (if b.var.toNat = 0 then [⟨b.va.toNat, b.ka⟩, ⟨b.vb.toNat, b.kb⟩] else [⟨b.va.toNat, b.ka⟩]) =
      .vals vs taken →
    c.roomV b.vd.toNat = true → 5 ≤ typeFmt b.ty.toNat →
    let f := typeFmt b.ty.toNat
    let n (i : Nat) : Nat :=
      if b.var.toNat = 2 then b.vc.toNat else (Claims.laneB c.regs b vs i).toNat % fmtBits f
    ∃ t v, exec (e.1 g b) s = .next t ∧
      c.Leaves s ((c.i.withCtx (c.vectorResult taken b.vd.toNat 2 v (guardMask c.regs g)
        (vs.any Prod.snd || (b.var.toNat == 1 && c.regs.taintS b.vb.toNat)))).past c.pc 8) t ∧
      ∀ i < 64, (guardMask c.regs g).getLsbD i = true →
        laneOf v i = putElem f (e.2 f b.sat (Claims.lane vs 0 i).toNat (n i))

/-- Lane `j` of the concatenation of two vectors. -/
def Claims.cat (vs : List (VecReg × Bool)) (j : Nat) : Word := if j < 64 then Claims.lane vs 0 j else Claims.lane vs 1 (j - 64)
/-- The words that move lanes (R175 to R177, R180): constructor, vector operands, scalar operands, source of lane `i`. -/
def Claims.vecMoves : List ((Guard → VBody → Instr) × Nat × (VBody → List Nat) × (Regs → VBody → List (VecReg × Bool) → Nat → Word)) :=
  [(.vperm, 2, (fun _ => []), fun _ _ vs i => Claims.lane vs 0 ((Claims.lane vs 1 i).toNat % 64)),
   (.vshufRot, 1, (fun b => [b.vc.toNat]), fun r b vs i => Claims.lane vs 0 ((i + (r.getS b.vc.toNat).toNat) % 64)),
   (.vshufSlide, 2, (fun b => [b.vc.toNat]), fun r b vs i => Claims.cat vs (i + (r.getS b.vc.toNat).toNat % 64)),
   (.vshufZiplo, 2, (fun _ => []), fun _ _ vs i => Claims.lane vs (i % 2) (i / 2)),
   (.vshufZiphi, 2, (fun _ => []), fun _ _ vs i => Claims.lane vs (i % 2) (32 + i / 2)),
   (.vshufUnze, 2, (fun _ => []), fun _ _ vs i => Claims.cat vs (2 * i)),
   (.vshufUnzo, 2, (fun _ => []), fun _ _ vs i => Claims.cat vs (2 * i + 1)),
   (.vbcast, 0, (fun b => [b.va.toNat]), fun r b _ _ => r.getS b.va.toNat),
   (.vbcastL, 1, (fun b => [b.vb.toNat]), fun r b vs _ => Claims.lane vs 0 ((r.getS b.vb.toNat).toNat % 64)),
   (.viota, 0, (fun b => [b.va.toNat, b.vb.toNat]), fun r b _ i =>
     r.getS b.va.toNat + BitVec.ofNat 32 i * r.getS b.vb.toNat)]

/-- `VPERM`, the `VSHUF` forms but `.REV`, `VBCAST`, `VBCAST.L` and `VIOTA` (R175 to R177, R180): every lane with a true guard gets the source of the
table 2 cycles after the issue. `VIOTA.P` counts the lanes of its predicate below the lane; `VSEL` takes a lane of a where
its predicate is 1, else of b (R179).

The words that move one lane (R178): `VMOV.X` gives the lane that the scalar picks to a scalar register, `VMOV.I` puts a
scalar into that lane alone; both land 2 cycles after the issue. -/
def Obligations.VectorMovesAndShuffles : Prop :=
  ((∀ e ∈ Claims.vecMoves, ∀ (g : Guard) (b : VBody) (s : State) (c : Cur) (vs : List (VecReg × Bool)) (taken : FMap Nat),
    s.Issues c → c.i.who.kind ≠ .prologue → guardMask c.regs g ≠ 0 →
    c.regs.readsV ([(⟨b.va.toNat, b.ka⟩ : Opnd), ⟨b.vb.toNat, b.kb⟩].take e.2.1) = .vals vs taken →
    c.roomV b.vd.toNat = true →
    ∃ t v, exec (e.1 g b) s = .next t ∧
      c.Leaves s ((c.i.withCtx (c.vectorResult taken b.vd.toNat 2 v (guardMask c.regs g)
        (vs.any Prod.snd || (e.2.2.1 b).any c.regs.taintS))).past c.pc 8) t ∧
      ∀ i < 64, (guardMask c.regs g).getLsbD i = true → laneOf v i = e.2.2.2 c.regs b vs i) ∧
  (∀ (g : Guard) (b : VBody) (s : State) (c : Cur), s.Issues c → c.i.who.kind ≠ .prologue → guardMask c.regs g ≠ 0 →
    c.roomV b.vd.toNat = true →
    let p := c.regs.getP (b.vc.toNat % 16)
    ∃ t v, exec (.viotaP g b) s = .next t ∧
      c.Leaves s ((c.i.withCtx (c.vectorResult .empty b.vd.toNat 2 v (guardMask c.regs g)
        (c.regs.ptaint.getLsbD (b.vc.toNat % 16)))).past c.pc 8) t ∧
      ∀ i < 64, (guardMask c.regs g).getLsbD i = true →
        laneOf v i = BitVec.ofNat 32 ((List.range i).countP fun j => p.getLsbD j)) ∧
  ∀ (g : Guard) (b : VBody) (s : State) (c : Cur) (x y : VecReg) (tx ty : Bool) (taken : FMap Nat),
    s.Issues c → c.i.who.kind ≠ .prologue → guardMask c.regs g ≠ 0 →
    c.regs.readsV [⟨b.va.toNat, b.ka⟩, ⟨b.vb.toNat, b.kb⟩] = .vals [(x, tx), (y, ty)] taken → c.roomV b.vd.toNat = true →
    let p := c.regs.getP (b.vc.toNat % 16)
    ∃ t v, exec (.vsel g b) s = .next t ∧
      c.Leaves s ((c.i.withCtx (c.vectorResult taken b.vd.toNat 2 v (guardMask c.regs g)
        (tx || ty || c.regs.ptaint.getLsbD (b.vc.toNat % 16)))).past c.pc 8) t ∧
      ∀ i < 64, (guardMask c.regs g).getLsbD i = true → laneOf v i = if p.getLsbD i then laneOf x i else laneOf y i) ∧
  ((∀ (g : Guard) (b : VBody) (s : State) (c : Cur) (a : VecReg) (ta : Bool) (taken : FMap Nat),
    s.Issues c → c.i.who.kind ≠ .prologue → guardAt c.regs g 0 = true →
    c.regs.readsV [⟨b.va.toNat, b.ka⟩] = .vals [(a, ta)] taken →
    let w := laneOf a ((c.regs.getS b.vb.toNat).toNat % 64)
    ∃ t, exec (.vmovX g b) s = .next t ∧
      c.Leaves s ((c.i.withCtx { c.i.ctx with
        regs := c.regs.eatV taken
        flights := insertFlight ⟨c.clk + 2, .s b.vd.toNat w (ta || c.regs.taintS b.vb.toNat)⟩ c.i.ctx.flights }).past c.pc
          8) t) ∧
  ∀ (g : Guard) (b : VBody) (s : State) (c : Cur), s.Issues c → c.i.who.kind ≠ .prologue → guardAt c.regs g 0 = true →
    c.roomV b.vd.toNat = true →
    let k := (c.regs.getS b.vb.toNat).toNat % 64
    ∃ t v, exec (.vmovI g b) s = .next t ∧
      c.Leaves s ((c.i.withCtx (c.vectorResult .empty b.vd.toNat 2 v (1#64 <<< k)
        (c.regs.taintS b.va.toNat || c.regs.taintS b.vb.toNat))).past c.pc 8) t ∧
      laneOf v k = c.regs.getS b.va.toNat)

/-- The condition of a vector compare on an integer format (R168), codes 0 to 9. -/
def Claims.vcond (f cond : Nat) (x y : Nat) : Bool :=
  let a : Int := if x % 2 ^ fmtBits f < 2 ^ (fmtBits f - 1) then (x % 2 ^ fmtBits f : Nat)
    else ((x % 2 ^ fmtBits f : Nat) : Int) - 2 ^ fmtBits f
  let b : Int := if y % 2 ^ fmtBits f < 2 ^ (fmtBits f - 1) then (y % 2 ^ fmtBits f : Nat)
    else ((y % 2 ^ fmtBits f : Nat) : Int) - 2 ^ fmtBits f
  match cond with
  | 0 => decide (a = b) | 1 => decide (a ≠ b) | 2 => decide (a < b) | 3 => decide (a ≤ b) | 4 => decide (b < a)
  | 5 => decide (b ≤ a) | 6 => decide (x % 2 ^ fmtBits f < y % 2 ^ fmtBits f)
  | 7 => decide (x % 2 ^ fmtBits f ≤ y % 2 ^ fmtBits f) | 8 => decide (y % 2 ^ fmtBits f < x % 2 ^ fmtBits f)
  | _ => decide (y % 2 ^ fmtBits f ≤ x % 2 ^ fmtBits f)

/-- The bitwise operations of a reduction (R172), by their number. -/
def Claims.bits (v : Nat) (a b : Nat) : Nat := match v with | 3 => a &&& b | 4 => a ||| b | _ => a ^^^ b

/-- `VCMP` (R168): the pair gets the condition in the lanes with a true guard and its complement in those; with `.z` every
other lane of both becomes 0, without it they keep their values. With every lane off, `.z` writes an untainted zero pair and the
other form does nothing.

`VRED` and `VSCAN` (R172 to R174). `VRED` gives every lane with a true guard one value: on an integer format the
sum of those lanes fitted to the element (operation 0), or for the bitwise operations (3 to 5) their combination; `VSCAN` gives
each such lane the sum of the lanes with a true guard up to and including it. -/
def Obligations.VectorComparesAndReductions : Prop :=
  (∀ (g : Guard) (b : VBody) (s : State) (c : Cur) (vs : List (VecReg × Bool)) (taken : FMap Nat),
    s.Issues c → c.i.who.kind ≠ .prologue → guardMask c.regs g ≠ 0 → c.regs.readsV (Claims.opsAB b) = .vals vs taken →
    let m := guardMask c.regs g
    let f := typeFmt b.ty.toNat
    let taint := vs.any Prod.snd || Claims.taintB c.regs b
    ∃ t p, exec (.vcmp g b) s = .next t ∧
      (let x := c.predResult .empty (b.vd.toNat / 4) p (m &&& ~~~p) m taint
       let y := if b.vd.toNat / 2 % 2 = 0
         then Cur.predResult { c with i := c.i.withCtx x } .empty (b.vd.toNat / 4) 0 0 (~~~m) false else x
       c.Leaves s ((c.i.withCtx { y with regs := c.regs.eatV taken }).past c.pc 8) t) ∧
      (∀ i < 64, m.getLsbD i = false → p.getLsbD i = false) ∧
      ∀ i < 64, m.getLsbD i = true → 5 ≤ f → b.vc.toNat % 16 ≤ 9 →
        p.getLsbD i = Claims.vcond f (b.vc.toNat % 16) (Claims.lane vs 0 i).toNat (Claims.laneB c.regs b vs i).toNat) ∧
  (∀ (g : Guard) (b : VBody) (s : State) (c : Cur), s.Issues c → c.i.who.kind ≠ .prologue → guardMask c.regs g = 0 →
    ∃ t, exec (.vcmp g b) s = .next t ∧ c.Leaves s ((c.i.withCtx (if b.vd.toNat / 2 % 2 = 0
      then c.predResult .empty (b.vd.toNat / 4) 0 0 (BitVec.allOnes 64) false else c.i.ctx)).past c.pc 8) t) ∧
  (∀ (g : Guard) (b : VBody) (s : State) (c : Cur) (a : VecReg) (ta : Bool) (taken : FMap Nat),
    s.Issues c → c.i.who.kind ≠ .prologue → guardMask c.regs g ≠ 0 →
    c.regs.readsV [⟨b.va.toNat, b.ka⟩] = .vals [(a, ta)] taken → c.roomV b.vd.toNat = true →
    let m := guardMask c.regs g
    let f := typeFmt b.ty.toNat
    let on := (List.range 64).filter fun i => m.getLsbD i
    let sum (l : List Nat) : Int := (l.map fun i => Claims.ival f (laneOf a i).toNat).sum
    let res (v : VecReg) : Inst := (c.i.withCtx (c.vectorResult taken b.vd.toNat (if 5 ≤ f then 2 else 4) v m ta)).past c.pc 8
    (∃ t v, exec (.vred g b) s = .next t ∧ c.Leaves s (res v) t ∧
      (∃ w, ∀ i < 64, m.getLsbD i = true → laneOf v i = w) ∧
      (5 ≤ f → b.var.toNat = 0 → ∀ i < 64, m.getLsbD i = true → laneOf v i = putElem f (Claims.fit f b.sat (sum on))) ∧
      (5 ≤ f → b.var.toNat = 3 ∨ b.var.toNat = 4 ∨ b.var.toNat = 5 → ∀ i < 64, m.getLsbD i = true →
        laneOf v i = putElem f ((on.map fun i => (laneOf a i).toNat % 2 ^ fmtBits f).foldl (Claims.bits b.var.toNat)
          (if b.var.toNat = 3 then 2 ^ fmtBits f - 1 else 0)))) ∧
    ∃ t v, exec (.vscan g b) s = .next t ∧ c.Leaves s (res v) t ∧
      (5 ≤ f → b.var.toNat = 0 → ∀ i < 64, m.getLsbD i = true →
        laneOf v i = putElem f (Claims.fit f b.sat (sum (on.filter fun j => decide (j ≤ i))))))

/-- The condensing streams (R181 to R184), for a stream of the tile that no other ASID holds. `PUSHC` appends the lanes with a true guard in lane
order and gives the position of the first; the 129th element takes the stream-full fault. `POPC` takes the 64 oldest elements as a vector and with fewer takes the
stream-empty fault; `POPC.D` takes as many as there are, at most 64, zero in the other lanes, and gives their number;
`POPC.CLR` empties the stream. Of a stream that holds another ASID's elements each takes the stream-owner fault.

The model's reading: `%tval` of a fault that names no address is the PC (log entry 42). -/
def Obligations.CondensingStreams : Prop :=
  (∀ (g : Guard) (b : VBody) (s : State) (c : Cur) (a : VecReg) (ta : Bool) (taken : FMap Nat),
    s.Issues c → c.i.who.kind ≠ .prologue → guardMask c.regs g ≠ 0 →
    c.regs.readsV [⟨b.va.toNat, b.ka⟩] = .vals [(a, ta)] taken →
    let x := c.stream (b.vb.toNat % 8)
    let on := (List.range 64).filter fun i => (guardMask c.regs g).getLsbD i
    let pos : Word := if x.items = [] ∧ x.owner ≠ some c.asid then 0 else x.pos
    (x.items ≠ [] → x.owner ≠ some c.asid → exec (.pushc g b) s = .next (State.takeTrap c 0x15 0 0 c.pc c.pc)) ∧
    ((x.items = [] ∨ x.owner = some c.asid) → 128 < x.items.length + on.length →
      exec (.pushc g b) s = .next (State.takeTrap c 0x13 0 0 c.pc c.pc)) ∧
    ((x.items = [] ∨ x.owner = some c.asid) → x.items.length + on.length ≤ 128 → ∃ t, exec (.pushc g b) s = .next t ∧
      let z : Stream := ⟨x.items ++ on.map (fun i => (laneOf a i, ta)), pos + BitVec.ofNat 32 on.length, some c.asid⟩
      c.Leaves (s.updTile c.die c.tile fun y => { y with streams := y.streams.set Stream.init (b.vb.toNat % 8) z })
        ((c.i.withCtx { c.i.ctx with
          regs := c.regs.eatV taken
          flights := insertFlight ⟨c.clk + 2, .s b.vd.toNat pos false⟩ c.i.ctx.flights }).past c.pc 8) t)) ∧
  ∀ (g : Guard) (b : VBody) (s : State) (c : Cur), s.Issues c → c.i.who.kind ≠ .prologue → guardAt c.regs g 0 = true →
    let k := b.va.toNat % 8
    let x := c.stream k
    let rest := s.updTile c.die c.tile fun y => { y with streams := y.streams.set Stream.init k { x with items := x.items.drop 64 } }
    (c.roomV b.vd.toNat = true → x.items ≠ [] → x.owner ≠ some c.asid → ∀ mk ∈ [Instr.popcV, .popcD, .popcClr],
      exec (mk g b) s = .next (State.takeTrap c 0x15 0 0 c.pc c.pc)) ∧
    ((x.items = [] ∨ x.owner = some c.asid) →
      (c.roomV b.vd.toNat = true → x.items.length < 64 →
        exec (.popcV g b) s = .next (State.takeTrap c 0x14 0 0 c.pc c.pc)) ∧
      (c.roomV b.vd.toNat = true → 64 ≤ x.items.length → ∃ t v, exec (.popcV g b) s = .next t ∧
        (∀ i < 64, x.items[i]?.map Prod.fst = some (laneOf v i)) ∧
        c.Leaves rest ((c.i.withCtx (c.vectorResult .empty b.vd.toNat 2 v (BitVec.allOnes 64)
          ((x.items.take 64).any Prod.snd))).past c.pc 8) t) ∧
      (c.roomV b.vd.toNat = true → ∃ t v, exec (.popcD g b) s = .next t ∧
        (∀ i < 64, laneOf v i = (x.items[i]?.map Prod.fst).getD 0) ∧
        (let y := c.vectorResult .empty b.vd.toNat 2 v (BitVec.allOnes 64) ((x.items.take 64).any Prod.snd)
         c.Leaves rest ((c.i.withCtx { y with flights := insertFlight ⟨c.clk + 2, .s b.vb.toNat
          (BitVec.ofNat 32 (Nat.min x.items.length 64)) false⟩ y.flights }).past c.pc 8) t)) ∧
      ∃ t, exec (.popcClr g b) s = .next t ∧
        c.Leaves (s.updTile c.die c.tile fun y => { y with streams := y.streams.set Stream.init k ⟨[], 0, some c.asid⟩ })
          (c.i.past c.pc 8) t)

/-! ## Special registers and the handler's words (R71 to R73, R334, R343 to R346) -/

/-- Level of the stream (R333): 0 task, 1 supervisor, 2 firmware. -/
def Claims.level (c : Cur) : Nat := c.i.who.level
/-- What `GETS` reads (R71, R334): number, whether 64 bits wide, value. The low half of the numbers is open to every level.
`%rasfa` is not listed: a read raises it first by a free amount (log entry 23). -/
def Claims.sregs : List (Nat × Bool × (State → Cur → Nat)) :=
  [(0x00, false, fun _ c => c.q / 4), (0x01, false, fun _ c => c.die), (0x02, false, fun _ c => c.q),
   (0x03, false, fun _ c => c.i.sched.slot), (0x04, false, fun _ c => c.i.who.task.toNat),
   (0x05, false, fun _ c => c.i.who.blk.toNat), (0x06, false, fun _ c => c.i.who.ext.toNat),
   (0x07, true, fun _ c => c.i.who.tag.toNat), (0x08, false, fun _ c => c.i.who.tag.toNat / 2 ^ 32 % 2 ^ 20),
   (0x09, false, fun _ c => c.i.range.lo.toNat), (0x0A, false, fun _ c => c.i.range.hi.toNat),
   (0x0B, true, fun s c => Nat.max (s.die c.die).cyc c.clk), (0x0C, true, fun _ c => c.i.ctx.st.sp.toNat),
   (0x0D, false, fun _ c => c.regs.plive.toNat), (0x0E, false, fun _ c => c.asid),
   (0x0F, false, fun s c => if 16 ≤ c.die then 0 else (s.die c.die).regs.rcfg.toNat),
   (0x40, false, fun _ c => c.i.who.level), (0x41, true, fun s c => (s.die c.die).regs.tvec.toNat),
   (0x42, false, fun s c => (s.seq c.die c.q).cause.toNat), (0x43, true, fun s c => (s.seq c.die c.q).epc.toNat),
   (0x44, true, fun s c => (s.seq c.die c.q).tval.toNat), (0x45, false, fun s c => (s.seq c.die c.q).eact.toNat),
   (0x46, false, fun s c => (s.seq c.die c.q).eslot.toNat), (0x47, false, fun s c => (s.seq c.die c.q).hdb.toNat),
   (0x48, false, fun s c => (s.die c.die).regs.hasid.toNat), (0x49, true, fun s c => (s.die c.die).regs.fpool.toNat),
   (0x4A, false, fun s c => (s.die c.die).regs.fpn.toNat), (0x4B, true, fun s c => (s.die c.die).regs.fpacc.toNat),
   (0x4D, false, fun s c => if 16 ≤ c.die then 0 else (s.die c.die).regs.rcfg.toNat),
   (0x4E, true, fun s c => (s.die c.die).regs.ctxbase.toNat), (0x4F, true, fun s c => (s.die c.die).regs.rslotc.toNat),
   (0x50, true, fun s c => (s.die c.die).regs.stkpool.toNat), (0x51, false, fun s c => (s.die c.die).regs.stkn.toNat),
   (0x52, false, fun s c => (s.die c.die).regs.stksz.toNat)]

/-- The registers of the die that `SETS` writes (R73, R334): number, wide, level, effect. Reserved bits read as zero. -/
def Claims.dieWrites : List (Nat × Bool × Nat × (DieRegs → Nat → DieRegs)) :=
  [(0x41, true, 2, fun r v => { r with tvec := BitVec.ofNat 64 (v % 2 ^ 55 / 8 * 8) }),
   (0x48, false, 2, fun r v => { r with hasid := BitVec.ofNat 32 (v % 512) }),
   (0x49, true, 2, fun r v => { r with fpool := BitVec.ofNat 64 (v / 2 ^ 14 * 2 ^ 14) }),
   (0x4A, false, 2, fun r v => { r with fpn := BitVec.ofNat 32 v }),
   (0x4B, true, 2, fun r v => { r with fpacc := BitVec.ofNat 64 v }),
   (0x4C, false, 1, fun r _ => { r with rasfa := 0 }),
   (0x4E, true, 2, fun r v => { r with ctxbase := BitVec.ofNat 64 (v / 2 ^ 16 * 2 ^ 16) }),
   (0x50, true, 2, fun r v => { r with stkpool := BitVec.ofNat 64 (v / 2 ^ 6 * 2 ^ 6) }),
   (0x51, false, 2, fun r v => { r with stkn := BitVec.ofNat 32 v }),
   (0x52, false, 2, fun r v => { r with stksz := BitVec.ofNat 32 v })]
/-- The registers of the sequencer that `SETS` writes. -/
def Claims.seqWrites : List (Nat × Bool × (Seq → Nat → Seq)) :=
  [(0x43, true, fun x v => { x with epc := BitVec.ofNat 64 (v / 8 * 8) }),
   (0x45, false, fun x v => { x with eact := BitVec.ofNat 32 (v % 4) }),
   (0x47, false, fun x v => { x with hdb := x.hdb &&& ~~~(BitVec.ofNat 32 v) })]
/-- The value that `SETS` writes: a pair, or a register or queue entry. -/
def Claims.setsValue (c : Cur) (b : IBody) (wide : Bool) (v : Nat) (taken : FMap Nat) : Prop :=
  if wide then v = (c.regs.getPair b.a.toNat).toNat ∧ taken = .empty
  else ∃ w tw, c.regs.reads [⟨b.a.toNat, false⟩] = .vals [(w, tw)] taken ∧ v = w.toNat

/-- `GETS` (R72, R73): the register's value lands one cycle after the issue, in a pair if it is 64 bits wide; a register of
the handler's numbers (64 and above) takes the privilege fault at task level.

`SETS` (R72, R73, R334): a register of the die, of the sequencer, or of the stream's own (`%sp`, `%plive`) takes its value at once, and
nothing else changes; a read-only register takes the special-register fault, and one that firmware alone may write the privilege fault
below that level. `%plive` drops no predicate while the stream runs (R69); `%rcfg` takes its three fields while the die is in no formed ring, and only the depth while it is.

The model's choices: the low bits of a misaligned `%fpool`, `%ctxbase` or `%stkpool` are cleared (log entry 159), and where the
special-register fault stands among the word's faults (log entry 162). The model's readings: what the identity registers read in the
handler (log entry 48), a value outside a register's range (log entry 72), and `%tval` of a fault that names no address (log entry 42). -/
def Obligations.SpecialRegisters : Prop :=
  ((∀ e ∈ Claims.sregs, ∀ (g : Guard) (b : IBody) (s : State) (c : Cur), s.Issues c → c.i.who.kind ≠ .prologue →
    guardAt c.regs g 0 = true → b.imm.toNat = e.1 → (0x40 ≤ e.1 → 1 ≤ Claims.level c) → c.room b.dst.toNat 1 = true →
    let v : Word64 := BitVec.ofNat 64 (e.2.2 s c)
    ∃ t, exec (.gets g b) s = .next t ∧ c.Leaves s ((c.i.withCtx (if e.2.1
      then c.pairResult .empty b.dst.toNat (v.extractLsb' 0 32) (v.extractLsb' 32 32) false
      else c.scalarResult .empty b.dst.toNat 1 (BitVec.ofNat 32 (e.2.2 s c)) false)).past c.pc 8) t) ∧
  (∀ (g : Guard) (b : IBody) (s : State) (c : Cur), s.Issues c → c.i.who.kind ≠ .prologue → guardAt c.regs g 0 = true →
    b.imm.toNat = 0x4C → 1 ≤ Claims.level c → c.room b.dst.toNat 1 = true → ∃ t w, exec (.gets g b) s = .next t ∧
      (s.die c.die).regs.rasfa.toNat ≤ w.toNat ∧
      c.Leaves (s.tick.updDie c.die fun d => { d with regs := { d.regs with rasfa := w } })
        ((c.i.withCtx (c.scalarResult .empty b.dst.toNat 1 w false)).past c.pc 8) t) ∧
  ∀ mk ∈ [Instr.gets, .sets], ∀ (g : Guard) (b : IBody) (s : State) (c : Cur), s.Issues c → c.i.who.kind ≠ .prologue →
    guardAt c.regs g 0 = true → 0x40 ≤ b.imm.toNat → b.imm.toNat ≤ 0x52 → Claims.level c = 0 →
    exec (mk g b) s = .next (State.takeTrap c 2 0 0 c.pc c.pc)) ∧
  ((∀ e ∈ Claims.dieWrites, ∀ (g : Guard) (b : IBody) (s : State) (c : Cur) (v : Nat) (taken : FMap Nat),
    s.Issues c → c.i.who.kind ≠ .prologue → guardAt c.regs g 0 = true → b.imm.toNat = e.1 →
    (Claims.level c = 1 → e.2.2.1 = 2 → exec (.sets g b) s = .next (State.takeTrap c 2 0 0 c.pc c.pc)) ∧
    (e.2.2.1 ≤ Claims.level c → Claims.setsValue c b e.2.1 v taken → ∃ t, exec (.sets g b) s = .next t ∧
      c.Leaves (s.updDie c.die fun d => { d with regs := e.2.2.2 d.regs v })
        ((c.i.withCtx { c.i.ctx with regs := c.regs.eat taken }).past c.pc 8) t)) ∧
  (∀ e ∈ Claims.seqWrites, ∀ (g : Guard) (b : IBody) (s : State) (c : Cur) (v : Nat) (taken : FMap Nat),
    s.Issues c → c.i.who.kind ≠ .prologue → guardAt c.regs g 0 = true → b.imm.toNat = e.1 → 1 ≤ Claims.level c →
    Claims.setsValue c b e.2.1 v taken → ∃ t, exec (.sets g b) s = .next t ∧
      c.Leaves (s.updSeq c.die c.q fun x => e.2.2 x v)
        ((c.i.withCtx { c.i.ctx with regs := c.regs.eat taken }).past c.pc 8) t) ∧
  (∀ (g : Guard) (b : IBody) (s : State) (c : Cur) (v : Nat) (taken : FMap Nat), s.Issues c → c.i.who.kind ≠ .prologue →
    guardAt c.regs g 0 = true → b.imm.toNat = 0x4D → Claims.level c = 2 → Claims.setsValue c b false v taken →
    let old := (s.die c.die).regs.rcfg.toNat
    let w := if s.inRing c.die then old / 8 * 8 + v % 8 else v % 2 ^ 3 + v / 2 ^ 4 % 2 ^ 11 * 2 ^ 4 + v / 2 ^ 16 % 2 ^ 11 * 2 ^ 16
    ∃ t, exec (.sets g b) s = .next t ∧ c.Leaves (if 16 ≤ c.die then s else s.updDie c.die fun d =>
      { d with regs := { d.regs with rcfg := BitVec.ofNat 32 w } })
      ((c.i.withCtx { c.i.ctx with regs := c.regs.eat taken }).past c.pc 8) t) ∧
  (∀ (g : Guard) (b : IBody) (s : State) (c : Cur), s.Issues c → c.i.who.kind ≠ .prologue → guardAt c.regs g 0 = true →
    b.imm.toNat = 0x0C →
    let v := c.regs.getPair b.a.toNat
    (v.toNat % 8 ≠ 0 → exec (.sets g b) s = .next (State.takeTrap c 3 0 0 c.pc c.pc)) ∧
    (v.toNat % 8 = 0 → ∃ t, exec (.sets g b) s = .next t ∧
      c.Leaves s ((c.i.withCtx { c.i.ctx with st := { c.i.ctx.st with sp := v } }).past c.pc 8) t)) ∧
  (∀ (g : Guard) (b : IBody) (s : State) (c : Cur) (v : Nat) (taken : FMap Nat), s.Issues c → c.i.who.kind ≠ .prologue →
    guardAt c.regs g 0 = true → b.imm.toNat = 0x0D → Claims.setsValue c b false v taken →
    ∃ t, exec (.sets g b) s = .next t ∧ c.Leaves s ((c.i.withCtx { c.i.ctx with
      regs := { c.regs with plive := BitVec.ofNat 16 v }.eat taken }).past c.pc 8) t) ∧
  ∀ n ∈ [0x00, 0x01, 0x02, 0x03, 0x04, 0x05, 0x06, 0x07, 0x08, 0x09, 0x0A, 0x0B, 0x0E, 0x0F, 0x40, 0x42, 0x44, 0x46, 0x4F],
    ∀ (g : Guard) (b : IBody) (s : State) (c : Cur), s.Issues c → c.i.who.kind ≠ .prologue → guardAt c.regs g 0 = true →
    b.imm.toNat = n → (0x40 ≤ n → 1 ≤ Claims.level c) → exec (.sets g b) s = .next (State.takeTrap c 3 0 0 c.pc c.pc))

/-- `ERET` (R343) of a handler whose trapped stream `u` is `i`. With `%eact` 0 after a fault or a trap the stream runs on
at `%epc`; with 1 at the word after it; after an abort, or with 2, it is ended; with 3 and a frame saved since trap entry it is
held in that frame. In each case the handler context is gone and the sequencer is free 8 cycles later; the word stays at issue
while a store of the handler in another module is not acknowledged (R374); with 1 the page of the word that is skipped is not out
(R354). Below supervisor level it takes the privilege fault.

The model's choice: with `%eact` 0 or 1 and no `CTXLD` the stream goes on as it stands, without the words that a `CTXSV` has drained (log
entry 145). The model's reading: `%tval` of a fault that names no address is the PC (log entry 42). -/
def Obligations.TrapReturn : Prop :=
  ∀ (g : Guard) (b : IBody) (s : State) (c : Cur), s.Issues c → c.i.who.kind ≠ .prologue → guardAt c.regs g 0 = true →
    (Claims.level c = 0 → exec (.eret g b) s = .next (State.takeTrap c 2 0 0 c.pc c.pc)) ∧
    (∀ u, 1 ≤ Claims.level c → (s.seq c.die c.q).trapped = some u → c.i.ctx.posted ≠ [] →
      exec (.eret g b) s = .next (c.after 1)) ∧
    ∀ (u : Nat) (i : Inst) (n : Nat), 1 ≤ Claims.level c → (s.seq c.die c.q).trapped = some u → s.inst u = some i →
      u ≠ handlerUid c.die c.q → c.i.ctx.posted = [] →
      let x := s.seq c.die c.q
      let skip := x.epc + BitVec.ofNat 64 n
      (x.eact.toNat % 4 = 1 → Cur.instrLen { c with i := i } x.epc = some n) →
      ∃ t, exec (.eret g b) s = .next t ∧ t.inst (handlerUid c.die c.q) = none ∧
        (t.seq c.die c.q).trapped = none ∧ (t.seq c.die c.q).clk = c.clk + 8 ∧
        (i.ex.surplus = false → x.cause.toNat / 2 ^ 8 % 4 ≠ 1 → i.sched.wait = .none →
          ∀ pc, (x.eact.toNat % 4 = 0 ∧ pc = x.epc ∨ x.eact.toNat % 4 = 1 ∧ pc = skip) →
            (t.seq c.die c.q).running = some u ∧
            t.inst u = some { i with ctx := { i.ctx with pc := pc }, sched := { i.sched with status := .running } } ∧
            t.phys = s.phys ∧ t.host = s.host) ∧
        ((i.ex.surplus = true ∨ x.cause.toNat / 2 ^ 8 % 4 = 1 ∧ x.eact.toNat % 4 ≠ 3 ∨ x.eact.toNat % 4 = 2 ∨
            x.eact.toNat % 4 = 3 ∧ x.ctxsv = none) → t.inst u = none) ∧
        (∀ a, i.ex.surplus = false → x.eact.toNat % 4 = 3 → x.ctxsv = some a →
          ∃ j, t.inst u = some j ∧ j.sched.status = .held ∧ j.sched.heldAt = some a.toNat ∧ j.ctx = i.ctx)

/-- `WFI` (R344) has its word; at supervisor level it stays at issue while no doorbell bit of the sequencer is set, and
goes on while one is. -/
def Obligations.HandlerWait : Prop :=
  decodeTableWord 64 0xFF00_0D30_0000_0000 = some (.wfi ⟨0xFF, 0, 0, 0⟩ ⟨0, 0, 0⟩) ∧
  ∀ (g : Guard) (b : IBody) (s : State) (c : Cur), s.Issues c → c.i.who.kind ≠ .prologue → guardAt c.regs g 0 = true →
    (1 ≤ Claims.level c → (s.seq c.die c.q).hdb = 0 → ∃ t, exec (.wfi g b) s = .next t ∧ c.Leaves s c.i t) ∧
    (1 ≤ Claims.level c → (s.seq c.die c.q).hdb ≠ 0 →
      ∃ t, exec (.wfi g b) s = .next t ∧ c.Leaves s (c.i.past c.pc 8) t)

/-- The pages of a frame at a virtual address with `m` saved rows: number of the first and how many (R345, R351). -/
def Claims.framePages (va m : Nat) : Nat × Nat :=
  (va / 65536, (va + 0x2B80 + 3072 * m - 1) / 65536 + 1 - va / 65536)
/-- The rows of the matrix command that a drain of stream `u` suspends (R351). -/
def Claims.drainRows (s : State) (c : Cur) (u : Nat) : Nat :=
  ((s.tile c.die c.tile).eng.suspended u).elim 0 fun x => x.f.getD 3 0

/-- `CTXSV` and `CTXLD` (R345, R346) of a handler whose trapped stream is `u`. With an address that is a multiple of 256 and pages
that can be accessed, `CTXSV` completes, with or without matrix work to drain, once no load of another module and no extent is
pending (R347): it marks the address as the most recent frame and the tile as the one that saved it, and with no matrix work it
writes the frame within its pages and nothing else. `CTXLD` of a frame that it accepts, whose saved words are those that were
drained, completes, with or without rows: `%epc` and the stream's registers are the frame's; of one that it refuses it is a
fault in the handler. With no trapped stream both do nothing (log entry 41). An address that is not a multiple of 256 takes the
alignment fault. Below supervisor level both words, and `WFI`, take the privilege fault (R333).

The model's readings: `CTXSV` takes `%epc` and `CTXLD` sets it (log entry 63), the loads that `CTXSV` waits for (log entry
71), a frame of unknown tile (log entry 64), and `%tval` of a fault that names no address (log entry 42). -/
def Obligations.FrameWords : Prop :=
  (∀ (g : Guard) (b : IBody) (s : State) (c : Cur), s.Issues c → c.i.who.kind ≠ .prologue → guardAt c.regs g 0 = true →
    Claims.level c = 0 → ∀ i ∈ [Instr.ctxsv g b, .ctxld g b, .wfi g b], exec i s = .next (State.takeTrap c 2 0 0 c.pc c.pc)) ∧
  (∀ mk ∈ [Instr.ctxsv, .ctxld], ∀ (g : Guard) (b : IBody) (s : State) (c : Cur), s.Issues c →
    c.i.who.kind ≠ .prologue → guardAt c.regs g 0 = true →
    (1 ≤ Claims.level c → (c.regs.getPair b.a.toNat).toNat % 256 ≠ 0 →
      exec (mk g b) s = .next (State.takeTrap c 0x0A 0 0 c.pc (c.regs.getPair b.a.toNat)))) ∧
  (∀ mk ∈ [Instr.ctxsv, .ctxld], ∀ (g : Guard) (b : IBody) (s : State) (c : Cur), s.Issues c →
    c.i.who.kind ≠ .prologue → guardAt c.regs g 0 = true → 1 ≤ Claims.level c →
    (c.regs.getPair b.a.toNat).toNat % 256 = 0 → (s.seq c.die c.q).trapped = none →
    ∃ t, exec (mk g b) s = .next t ∧ c.Leaves s (c.i.past c.pc 8) t) ∧
  (∀ (g : Guard) (b : IBody) (s : State) (c : Cur) (u : Nat) (i : Inst) (pa : Nat → Nat), s.Issues c →
    c.i.who.kind ≠ .prologue → guardAt c.regs g 0 = true → 1 ≤ Claims.level c →
    (s.seq c.die c.q).trapped = some u → s.inst u = some i → u ≠ c.uid → i.ctx.parkWaits = false →
    let va := (c.regs.getPair b.a.toNat).toNat
    let pg := Claims.framePages va (Claims.drainRows s c u)
    va % 256 = 0 → (∀ k < pg.2, s.translate c.die c.asid (65536 * (pg.1 + k)) .write = .ok (pa k)) →
    ∃ t j, exec (.ctxsv g b) s = .next t ∧ (t.seq c.die c.q).ctxsv = some (BitVec.ofNat 64 (pa 0 + va % 65536)) ∧
      t.phys.frames.find (pa 0 + va % 65536) = some (tileKey c.die c.tile) ∧
      t.inst c.uid = some j ∧ j.ctx.pc = (c.i.past c.pc 8).ctx.pc ∧ j.ctx.regs = c.regs) ∧
  (∀ (g : Guard) (b : IBody) (s : State) (c : Cur) (u : Nat) (i : Inst) (pa : Nat → Nat), s.Issues c →
    c.i.who.kind ≠ .prologue → guardAt c.regs g 0 = true → 1 ≤ Claims.level c →
    (s.seq c.die c.q).trapped = some u → s.inst u = some i → u ≠ c.uid → i.ctx.parkWaits = false →
    (s.tile c.die c.tile).eng.hasMatrix u = false → i.ctx.st.loops.length ≤ 6 → i.ctx.st.rets.length ≤ 4 →
    let va := (c.regs.getPair b.a.toNat).toNat
    let pg := Claims.framePages va 0
    va % 256 = 0 →
    (∀ k < pg.2, s.translate c.die c.asid (65536 * (pg.1 + k)) .write = .ok (pa k) ∧ isSpan (pa k) = false ∧
      ∀ o < 65536, s.ctlAt (pa k + o) = none) →
    ∃ t, exec (.ctxsv g b) s = .next t ∧
      (∀ a, (∀ k < pg.2, a < pa k ∨ pa k + 65536 ≤ a) → t.byteAt a = s.byteAt a) ∧
      (∃ j, t.inst c.uid = some j ∧ j.ctx = (c.i.past c.pc 8).ctx)) ∧
  ∀ (g : Guard) (b : IBody) (s : State) (c : Cur) (u : Nat) (i : Inst) (pa ra : Nat → Nat), s.Issues c →
    c.i.who.kind ≠ .prologue → guardAt c.regs g 0 = true → 1 ≤ Claims.level c →
    (s.seq c.die c.q).trapped = some u → s.inst u = some i → u ≠ c.uid →
    let va := c.regs.getPair b.a.toNat
    let pg := Claims.framePages va.toNat 0
    let l := (List.range pg.2).map fun k => (pg.1 + k, pa k)
    let x := s.deliverLocal i.ctx.prods.length i.ctx.landAll
    let c' := { c with s := x.1 }
    let rd := x.1.virtRd l va.toNat
    let i' := { i with ctx := { x.2 with pc := i.ctx.pc } }
    va.toNat % 256 = 0 →
    (∀ k < pg.2, s.translate c.die c.asid (65536 * (pg.1 + k)) .read = .ok (pa k)) →
    (c'.frameRefused i' (pa 0 + va.toNat % 65536) rd = true →
      exec (.ctxld g b) s = .next (State.takeTrap c' 0x43 0 0 c.pc va)) ∧
    (c'.frameRefused i' (pa 0 + va.toNat % 65536) rd = false →
      (∀ k < Nat.min 16 (rd 0x350 4), (i.sched.saved[k]?).map Cmd.words =
        some ((List.range 4).map fun j => BitVec.ofNat 64 (rd (0x2900 + 32 * k + 8 * j) 8))) →
      (rd 0 4 / 2 ^ 16 % 2 = 1 → rd 0x35C 4 ≠ 0 →
        let a := rd 0x368 8
        let n := 3072 * Nat.min 512 (rd 0x35C 4)
        ∀ k < (a + n - 1) / 65536 + 1 - a / 65536, s.translate c.die c.asid (65536 * (a / 65536 + k)) .read = .ok (ra k)) →
      ∃ t j k, exec (.ctxld g b) s = .next t ∧ (t.seq c.die c.q).epc = BitVec.ofNat 64 (rd 8 8) ∧
        t.inst c.uid = some j ∧ j.ctx = (c.i.past c.pc 8).ctx ∧ t.inst u = some k ∧
        k.ctx.pc = BitVec.ofNat 64 (rd 8 8) ∧ k.ctx.st.sp = BitVec.ofNat 64 (rd 0x10 8) ∧
        (∀ n < 55, k.ctx.regs.getS (n + 1) = BitVec.ofNat 32 (rd (0x44 + 4 * n) 4)) ∧
        ∀ n < 28, k.ctx.regs.getV n = BitVec.ofNat 2048 (rd (0x400 + 256 * n) 256))

/-! ## Translation and tables (R305 to R307, R376, R408, R409) -/

/-- What each `TLBINV` reads and names (R376): of a page the entries that cover the address for the ASID, of an ASID its entries, or
all, with no operand. -/
def Claims.invalidates : List ((Guard → RBody → Bool → Instr) × (RBody → List Opnd) × (Nat → Nat → TlbEntry → Bool)) :=
  [(.tlbinvPage, (fun b => [opB b]), fun a va e => e.asid == a && e.va / 2 ^ e.sz == va / 2 ^ e.sz),
   (.tlbinvAsid, (fun b => [opB b]), fun a _ e => e.asid == a), (.tlbinvAll, (fun _ => []), fun _ _ _ => true)]

/-- The entry of the shape predictor that a stream finds (R306): its ASID's, or a fresh one: owned, everything else zero. -/
def Claims.predEntry (s : State) (c : Cur) (n : Nat) : BitVec 128 :=
  let e := (s.die c.die).sch.predictor.get 0 n
  if e.getLsbD 66 = true ∧ e.toNat / 2 ^ 71 % 512 = c.asid then e else BitVec.ofNat 128 (2 ^ 66 + c.asid % 512 * 2 ^ 71)

/-- `TLBINV` (R376, R377) completes: the named entries are gone from the TLB of this die, or with `.dev` of every die, every
other entry stays, and the stream's own earlier loads are delivered first; no access of another module made under a named entry, and no
remote load of the stream itself, is still unanswered. Below supervisor level it takes the privilege fault.

`RTABW` and `RTABW.WIN` (R409), at firmware level: the entry of an ordinal within the ASID's window takes the 32 bytes at the
address, and the window of an ASID takes the pair, where it meets no other ASID's window (one without entries meets none) and ends in
the table. Below firmware
level each takes the privilege fault.

`SPTW.RD` and `SPTW` (R305 to R307): word 0 to 2 of the entry, or the prediction as word 3, lands 2 cycles after the
issue with the taint of the operands (R65); `SPTW` then writes the word, of which 0 and 1 are the history of four extents, and
word 3 cannot be written. The die notes when its table was last used (the model's own field).

The model's readings: a `TLBINV` takes effect in its own step (log entry 131), `SPTW` works on every die (log entry 73), and
`%tval` of a fault that names no address (log entry 42). -/
def Obligations.SystemTables : Prop :=
  (∀ e ∈ Claims.invalidates, ∀ (g : Guard) (b : RBody) (dev : Bool) (s : State) (c : Cur),
    s.Issues c → c.i.who.kind ≠ .prologue → guardAt c.regs g 0 = true →
    (Claims.level c = 0 → exec (e.1 g b dev) s = .next (State.takeTrap c 2 0 0 c.pc c.pc)) ∧
    ∀ (l : List (Word × Bool)) (taken : FMap Nat), 1 ≤ Claims.level c → c.i.ctx.acqOpen = false → c.i.ctx.remoteOpen = false →
      c.regs.reads (e.2.1 b) = .vals l taken →
      let w : Word := (l.map Prod.fst).getD 0 0
      (∀ m ∈ s.ports.sent.cells, ∀ y ∈ (s.die m.2.die).tlb,
        e.2.2 (w.toNat % 512) (c.regs.getPair b.a.toNat).toNat y = true → y.pa / 2 ^ y.sz ≠ m.2.addr / 2 ^ y.sz) →
      ∃ t o, exec (e.1 g b dev) s = .next t ∧
        (∀ d, (t.die d).tlb = if (if dev then d < 20 else d = c.die) then (s.die d).tlb.filter fun y =>
          !e.2.2 (w.toNat % 512) (c.regs.getPair b.a.toNat).toNat y else (s.die d).tlb) ∧
        t.inst c.uid = some ((c.i.withCtx { (s.deliverLocal c.i.ctx.prods.length { c.i.ctx with regs := c.regs.eat taken }).2
          with ord := o }).past c.pc 8) ∧
        t.phys = s.phys ∧ t.host = s.host ∧ t.tiles = s.tiles) ∧
  ((∀ (g : Guard) (b : RBody) (s : State) (c : Cur), s.Issues c → c.i.who.kind ≠ .prologue → guardAt c.regs g 0 = true →
    (Claims.level c < 2 → ∀ mk ∈ [Instr.rtabw, .rtabwWin], exec (mk g b) s = .next (State.takeTrap c 2 0 0 c.pc c.pc)) ∧
    ∀ (v : Word) (tv : Bool) (taken : FMap Nat), 2 ≤ Claims.level c → c.regs.reads [opB b] = .vals [(v, tv)] taken →
      let a := c.regs.getPair b.a.toNat
      let r := (s.die c.die).ring
      let gone := (c.i.withCtx { c.i.ctx with regs := c.regs.eat taken }).past c.pc 8
      (∀ pa, let asid := v.toNat / 2 ^ 20
        let n := v.toNat % 2 ^ 20
        let img : BitVec 256 := BitVec.ofNat 256 (s.readPa pa 32)
        c.i.ctx.acqOpen = false → asid < 512 → s.asidPart asid = s.partOf c.die → n < r.winLen asid → a.toNat % 32 = 0 →
        s.translate c.die c.asid a.toNat .read = .ok pa → isSpan pa = false → s.badAt pa 32 = false →
        (tagBad img = true → exec (.rtabw g b) s = .next (State.takeTrap c 0x17 0 0 c.pc c.pc)) ∧
        (tagBad img = false → ∃ t, exec (.rtabw g b) s = .next t ∧
          c.Leaves (s.tick.updRing c.die fun r => { r with tagTab := r.tagTab.set 0 (r.winBase asid + n) img }) gone t)) ∧
      let base := a.toNat % 2 ^ 16
      let len := a.toNat / 2 ^ 16 % 2 ^ 17
      ((512 ≤ v.toNat ∨ 65536 < base + len) → exec (.rtabwWin g b) s = .next (State.takeTrap c 0x17 0 0 c.pc c.pc)) ∧
      (v.toNat < 512 → a.toNat < 2 ^ 33 → base + len ≤ 65536 →
        (∀ k ∈ r.tagWin.keys, k ≠ v.toNat → len = 0 ∨ r.winLen k = 0 ∨ base + len ≤ r.winBase k ∨ r.winBase k + r.winLen k ≤ base) →
        s.asidPart v.toNat = s.partOf c.die → ∃ t, exec (.rtabwWin g b) s = .next t ∧
          c.Leaves (s.updRing c.die fun r => { r with tagWin := r.tagWin.set 0 v.toNat a }) gone t)) ∧
  ((∀ (g : Guard) (b : RBody) (s : State) (c : Cur) (x : Word) (tx : Bool) (taken : FMap Nat),
    s.Issues c → c.i.who.kind ≠ .prologue → guardAt c.regs g 0 = true → c.regs.reads [opA b] = .vals [(x, tx)] taken →
    c.room b.dst.toNat 1 = true →
    let n := x.toNat % 64
    let k := x.toNat / 64 % 4
    let e := Claims.predEntry s c n
    ∃ t w, exec (.sptwRd g b) s = .next t ∧ (k < 3 → w = e.extractLsb' (32 * k) 32) ∧
      c.Leaves (s.updSch c.die fun y => { y with predictor := y.predictor.set 0 n e, tableOp := (c.clk, 1, c.q) })
        ((c.i.withCtx (c.scalarResult taken b.dst.toNat 2 w tx)).past c.pc 8) t) ∧
  ∀ (g : Guard) (b : RBody) (s : State) (c : Cur) (x v : Word) (tx tv : Bool) (taken : FMap Nat),
    s.Issues c → c.i.who.kind ≠ .prologue → guardAt c.regs g 0 = true →
    c.regs.reads [opA b, opB b] = .vals [(x, tx), (v, tv)] taken → c.room b.dst.toNat 1 = true →
    let n := x.toNat % 64
    let k := x.toNat / 64 % 4
    let e := Claims.predEntry s c n
    ∃ t w e', exec (.sptw g b) s = .next t ∧ (k < 3 → w = e.extractLsb' (32 * k) 32) ∧
      (k < 2 → e'.extractLsb' (32 * k) 32 = v ∧ (∀ i, i < 128 → i / 32 ≠ k → e'.getLsbD i = e.getLsbD i)) ∧ (k = 3 → e' = e) ∧
      c.Leaves (s.updSch c.die fun y => { y with predictor := y.predictor.set 0 n e', tableOp := (c.clk, 1, c.q) })
        ((c.i.withCtx (c.scalarResult taken b.dst.toNat 2 w (tx || tv))).past c.pc 8) t))

/-! ## Command words (R101, R102, R212 to R221) -/

/-- The command words and their engines. -/
def Claims.commands : List ((Guard → CmdBody → Instr) × EngOp × Nat) :=
  [(.mma, .mma, 0), (.xld, .xld, 0), (.accrd, .accrd, 0), (.accld, .accld, 0), (.tcopy, .tcopy, 1), (.tmcast, .tmcast, 1),
   (.twin, .twin, 1), (.tfill, .tfill, 1), (.scat, .scat, 2), (.attn, .attn, 3), (.kvapp, .kvapp, 3), (.kvrot, .kvrot, 3),
   (.kvevict, .kvevict, 3)]
/-- The stream holds a lease with a command left, not yet 65,536 cycles old (R212, R213). -/
def Claims.leased (s : State) (c : Cur) : Prop :=
  ∃ l, (s.tile c.die c.tile).eng.lease = some l ∧ l.uid = c.uid ∧ l.ended = false ∧ 0 < l.left ∧ c.clk < l.since + 65536
/-- The state with the command at the tail of the pusher's queue of its engine (R218); a matrix command counts against the
lease, which ends with the last one (R213). -/
def Claims.pushedCmd (s : State) (c : Cur) (eng : Nat) (cmd : Cmd) : State :=
  s.updEng c.die c.tile fun e =>
    { e with
      queues := e.queues.upd [] (8 * eng + c.q % 4) fun l => l ++ [cmd]
      lease := if eng = 0 then e.lease.map fun l =>
        { l with left := l.left - 1, pushed := l.pushed + 1, ended := l.ended || decide (l.left ≤ 1) } else e.lease }
/-- The parts of a command that the push fixes: operation, fields, wait and signal, pusher, position and identity. -/
def Claims.isPush (c : Cur) (o : EngOp) (b : CmdBody) (f : List Nat) (cmd : Cmd) : Prop :=
  cmd.op = o ∧ cmd.f = f ∧ cmd.widx = b.widx.toNat ∧ cmd.wthr = b.wthr.toNat ∧ cmd.sidx = b.sidx.toNat ∧
    cmd.sinc = b.sinc.toNat ∧ cmd.uid = c.uid ∧ cmd.pusher = c.q % 4 ∧ cmd.asid = c.asid ∧ cmd.queue = c.i.who.queue ∧
    cmd.pcAt = c.pc.toNat ∧ cmd.chain = none ∧ cmd.restored = false ∧ cmd.suspended = false ∧ cmd.ahead = false ∧
    cmd.pos = seqKey c.die c.q ∧ cmd.firm = (c.i.who.kind == .firmware) ∧ cmd.rows = []

/-- A command word stays out of its engine: one whose fields break a limit or whose semaphores lie outside the ASID's window takes the
command-operand fault (R221), with its queue full it stays at issue (R218), and a matrix command of a stream without a lease
blocks the stream at the word until a lease of one command is granted (R212).

The model's readings: the order of the checks (log entries 52 and 53), and `%tval` of a fault that names no address (log
entry 42). -/
def Obligations.CommandsHeld : Prop :=
  ∀ e ∈ Claims.commands, ∀ (g : Guard) (b : CmdBody) (s : State) (c : Cur) (l : List (Word × Bool)) (taken : FMap Nat),
    s.Issues c → c.i.who.kind ≠ .prologue → guardAt c.regs g 0 = true → c.i.ex.unconf = false → c.i.ctx.acqOpen = false →
    c.regs.reads (cmdOpnds b) = .vals l taken →
    let f := resolveFields e.2.1 b (l.map Prod.fst)
    let full := 16 ≤ ((s.tile c.die c.tile).eng.queues.get [] (8 * e.2.2 + c.q % 4)).length
    (e.2.2 = 0 → ¬ Claims.leased s c → ∃ t, exec (e.1 g b) s = .next t ∧
      c.Blocks s (.lease 1 false) c.pc t ∧ (c.q % 4, c.uid, 1) ∈ (t.tile c.die c.tile).eng.asks) ∧
    ((e.2.2 = 0 → Claims.leased s c) → full → exec (e.1 g b) s = .next (c.after 1)) ∧
    ((e.2.2 = 0 → Claims.leased s c) → ¬ full → (e.2.1.limits (resolvedBody b f) = false ∨ s.cmdWindow c.asid b = false) →
      exec (e.1 g b) s = .next (State.takeTrap c 0x16 0 0 c.pc c.pc))

/-- Every command word but `MMA` (R101, R102, R217 to R221) completes when its fields are legal, its handles name descriptors that
the command accepts, its queue has room, a matrix command holds its lease, no load of another module and at sys scope no posted
store is outstanding:
the command stands at the tail of the queue with its fields resolved, the word is a release and a commit point, and `TWIN`
has written the tag of its panel.

`MMA` (R224 to R226) completes under the same conditions with a panel of the tile that the stream's ASID loaded, or the window of
its own presentation, whose pairing with the A operand the manual lists, and with the scale tensors that the pairing reads.

The model's readings: the order of the checks (log entries 52 and 53), and what a release performs first (log entry 130). -/
def Obligations.CommandPushes : Prop :=
  (∀ e ∈ Claims.commands, e.2.1 ≠ .mma → ∀ (g : Guard) (b : CmdBody) (s : State) (c : Cur) (l : List (Word × Bool))
      (taken : FMap Nat) (ds : List Desc) (pas : List Nat),
    s.Issues c → c.i.who.kind ≠ .prologue → guardAt c.regs g 0 = true → c.i.ex.unconf = false → c.i.ctx.acqOpen = false →
    c.regs.reads (cmdOpnds b) = .vals l taken →
    let f := resolveFields e.2.1 b (l.map Prod.fst)
    (e.2.2 = 0 → Claims.leased s c) → ((s.tile c.die c.tile).eng.queues.get [] (8 * e.2.2 + c.q % 4)).length < 16 →
    e.2.1.limits (resolvedBody b f) = true → s.cmdWindow c.asid b = true →
    ds.length = (cmdHandles e.2.1 c.tile f).length → pas.length = ds.length →
    (∀ (k h tile : Nat) (d : Desc) (pa : Nat), (cmdHandles e.2.1 c.tile f)[k]? = some (h, tile) → ds[k]? = some d → pas[k]? = some pa →
      c.NamesOn tile h d pa) →
    s.descCheck c.die e.2.1 f ds = none → c.i.ctx.remoteOpen = false → (cmdScope e.2.1 f = 4 → c.i.ctx.undeliv = false ∧ c.i.ctx.posted = []) →
    let x := s.captureAll (Claims.ordered s c.i.ctx (l.any Prod.snd))
    ∃ t cmd, exec (e.1 g b) s = .next t ∧ Claims.isPush c e.2.1 b f cmd ∧ cmd.descs = ds ∧
      c.Leaves (if e.2.1 = .twin then (Claims.pushedCmd s c e.2.2 cmd).updTile c.die c.tile fun y =>
          { y with tags := y.tags.put (f.getD 0 0 % 16) ⟨c.asid, (ds.getD 0 noDesc).fmt, (ds.getD 0 noDesc).scaleh,
            (ds.getD 0 noDesc).sbw, 1, sextN 16 (f.getD 2 0), sextN 16 (f.getD 3 0)⟩ }
        else Claims.pushedCmd s c e.2.2 cmd)
        ((c.i.withCtx { x with regs := c.regs.eat taken }).past c.pc 32).committed t) ∧
  (∀ (g : Guard) (b : CmdBody) (s : State) (c : Cur) (l : List (Word × Bool)) (taken : FMap Nat) (a sa sb : Desc)
      (pa psa psb : Nat) (tag : PanelTag) (pres : Option Nat),
    s.Issues c → c.i.who.kind ≠ .prologue → guardAt c.regs g 0 = true → c.i.ex.unconf = false → c.i.ctx.acqOpen = false →
    c.regs.reads (cmdOpnds b) = .vals l taken →
    let f := resolveFields .mma b (l.map Prod.fst)
    Claims.leased s c → ((s.tile c.die c.tile).eng.queues.get [] (c.q % 4)).length < 16 →
    mmaOk (resolvedBody b f) = true → s.cmdWindow c.asid b = true → c.NamesOn c.tile (f.getD 0 0) a pa →
    c.i.ctx.remoteOpen = false → c.panel (f.getD 1 0) = some (tag, pres) → mmaCheck s.host.phase f a tag = none →
    ((scaleHandles a tag).1 = 0 ∧ sa = noDesc ∨ c.NamesOn c.tile (scaleHandles a tag).1 sa psa ∧ scaleOk sa = true) →
    ((scaleHandles a tag).2 = 0 ∧ sb = noDesc ∨ c.NamesOn c.tile (scaleHandles a tag).2 sb psb ∧ scaleOk sb = true) →
    let x := s.captureAll (Claims.ordered s c.i.ctx (l.any Prod.snd))
    ∃ t cmd, exec (.mma g b) s = .next t ∧ Claims.isPush c .mma b f cmd ∧ cmd.descs = [a, sa, sb] ∧
      cmd.tag = some tag ∧ cmd.pres = pres ∧ c.Leaves (Claims.pushedCmd s c 0 cmd)
        ((c.i.withCtx { x with regs := c.regs.eat taken }).past c.pc 32).committed t)
/-! ## Decoding (R79 to R105) and the step -/

/-- Every instruction word that the tables assign is read back from its own bytes with every operand as it was, whatever
bytes follow it (R79 to R103). -/
def Obligations.RoundTrip : Prop :=
  ∀ (i : Instr) (rest : List Byte), i.isCode = true → i.wf = true → decode true (encodeBytes i ++ rest) = .ok (i, rest)

/-- Only the words that the tables assign are accepted (R91): what decodes is a control or command word that satisfies every
rule that depends on the word alone, and it was read from its own encoding, so that no two words have one meaning. A command
word decodes only at an address with bits [4:0] zero (R80). -/
def Obligations.OneMeaning : Prop :=
  ∀ (aligned : Bool) (bs : List Byte) (i : Instr) (rest : List Byte), decode aligned bs = .ok (i, rest) →
    i.isCode = true ∧ i.wf = true ∧ bs = encodeBytes i ++ rest ∧ (i.isCmd = true → aligned = true)

/-- The guard that is true in every lane (R81, R67). -/
def Claims.always : Guard := ⟨0xFF, 0, 0, 0⟩

/-- Words written out from the encoding tables (R81 to R103, R307, R343, R344, R364) read as the instructions they stand for. -/
def Obligations.WordsRead : Prop :=
  decodeTableWord 64 0xFF00_0D83_0A2C_0010 = some (.sptw Claims.always ⟨12, 10, 11, 0, false, false, false, false⟩) ∧
  -- ?p3 ST.16 [s2:s3 + 8], s8 of R364
  decodeTableWord 64 0xF030_0772_0200_0008 = some (.st16 ⟨0xF0, 3, 0, 0⟩ ⟨8, 2, 8⟩) ∧
  decodeTableWord 64 0xFF00_0D20_0000_0000 = some (.eret Claims.always ⟨0, 0, 0⟩) ∧
  decodeTableWord 64 0xFF00_0D30_0000_0000 = some (.wfi Claims.always ⟨0, 0, 0⟩) ∧
  -- ADD s1, q0.k, q0 under a guard on p1, p2, p3: fn 0x01, keep mark of a in bit 3
  decodeTableWord 64 (0x80 * 2 ^ 56 + 1 * 2 ^ 52 + 2 * 2 ^ 48 + 3 * 2 ^ 44 + 0x00 * 2 ^ 36 + 1 * 2 ^ 30 + 56 * 2 ^ 24 + 56 * 2 ^ 18 +
    0x01 * 2 ^ 4 + 8) = some (.add ⟨0x80, 1, 2, 3⟩ ⟨1, 56, 56, 0, true, false, false, false⟩) ∧
  -- LD.32 q2, [s4:s5 - 4]: major 0x74
  decodeTableWord 64 (0xFF * 2 ^ 56 + 0x74 * 2 ^ 36 + 58 * 2 ^ 30 + 4 * 2 ^ 24 + 0xFF_FFFC) =
    some (.ld32 Claims.always ⟨58, 4, 0xFF_FFFC⟩) ∧
  -- BR backwards by one word: kind 0, off32 = -1
  decodeTableWord 64 (0xFF * 2 ^ 56 + 0x50 * 2 ^ 36 + 0xFFFF_FFFF * 2 ^ 4) = some (.br Claims.always 0xFFFF_FFFF) ∧
  -- VADD v1, v2, v3 of type f32 (6), rounding RTZ (1)
  decodeTableWord 64 (0xFF * 2 ^ 56 + 0x90 * 2 ^ 36 + 1 * 2 ^ 31 + 2 * 2 ^ 26 + 3 * 2 ^ 21 + 6 * 2 ^ 12 + 1 * 2 ^ 4) =
    some (.vadd Claims.always ⟨1, 2, 3, 0, 6, 0, false, false, 1, false, false, false, false⟩)

/-- The stream in focus comes to issue its word: nothing of its die comes before it, no join is due, it is not to be parked, and
no prologue has used up its instructions. -/
def Claims.due (s : State) (c : Cur) : Prop :=
  s.agenda = [] ∧ s.cur = some c ∧ s.before [s.focus.1] (s.seq s.focus.1 s.focus.2).clk s.focus.2 = none ∧ c.i.ex.joinDue = false ∧ (c.i.sched.preempt && c.i.sched.point) = false ∧
    (c.i.who.kind = .prologue → c.i.ctx.issued < 4096)

/-- A step at a state whose agenda is empty runs the instruction that the bytes at the PC decode to; a word that no table
assigns runs as an undefined instruction (R79, R80, R91, R340). An event on the agenda that comes in its order runs as that event,
and an issue moves the focus to its sequencer. What comes before either, a word of a sequencer that is behind (R185) or the slot
boundary of a ring, is done first, and an event then stays on the agenda.

The model's choice: the agenda and the sequencer in focus say which agent moves next (log entry 134). -/
def Obligations.StepRuns : Prop :=
  (∀ (s : State) (c : Cur) (pa : Nat), Claims.due s c → s.translate c.die c.asid c.pc.toNat .fetch = .ok pa →
    isSpan pa = false →
    s.badAt pa (if isCmdWord (BitVec.ofNat 64 (s.readPa pa 8)) = true ∧ c.pc.toNat % 32 = 0 then 32 else 8) = false →
    let w (k : Nat) : BitVec 64 := BitVec.ofNat 64 (s.readPa (pa + 8 * k) 8)
    let matrixOnAtt : Prop := isAtt c.die = true ∧ majorOf (w 0) = 0xF8
    (isCmdWord (w 0) = false → ∀ i, decodeWords (w 0) 0 0 0 = .ok i → step s = exec i s) ∧
    (isCmdWord (w 0) = true → c.pc.toNat % 32 = 0 → ¬ matrixOnAtt →
      ∀ i, decodeWords (w 0) (w 1) (w 2) (w 3) = .ok i → step s = exec i s) ∧
    ((isCmdWord (w 0) = false ∧ ∀ i, decodeWords (w 0) 0 0 0 ≠ .ok i) ∨
      (isCmdWord (w 0) = true ∧ (c.pc.toNat % 32 ≠ 0 ∨ matrixOnAtt ∨ ∀ i, decodeWords (w 0) (w 1) (w 2) (w 3) ≠ .ok i)) →
      step s = exec (.undefinedInstruction (w 0)) s)) ∧
  (∀ (s : State) (i : Instr) (l : List Move), s.agenda = .event i :: l →
    (s.beforeEvent i = none → s.inOrder i = true → step s = exec i { s with agenda := l }) ∧
    (∀ d q, s.beforeEvent i = some (.word d q) → step s = State.issueWord { s with focus := (d, q) }) ∧
    (∀ k, s.beforeEvent i = some (.slot k) → step s = exec (.ringSlot k) s) ∧
    ∀ k, s.beforeEvent i = some (.form k) → step s = .next (s.formSlot k)) ∧
  (∀ (s : State), s.agenda = [] →
    (∀ d q, s.before [s.focus.1] (s.seq s.focus.1 s.focus.2).clk s.focus.2 = some (.word d q) →
      step s = State.issueWord { s with focus := (d, q) }) ∧
    (∀ k, s.before [s.focus.1] (s.seq s.focus.1 s.focus.2).clk s.focus.2 = some (.slot k) → step s = exec (.ringSlot k) s) ∧
    ∀ k, s.before [s.focus.1] (s.seq s.focus.1 s.focus.2).clk s.focus.2 = some (.form k) → step s = .next (s.formSlot k)) ∧
  ∀ (s : State) (d q : Nat) (l : List Move), s.agenda = .issue d q :: l →
    step s = State.issueNext { s with agenda := l, focus := (d, q) }

/-! ## The whole machine -/

/-- Every step keeps the memory in canonical form.

The canonical form and the value of a byte that nothing has written are the model's choice (log entry 2). -/
def Obligations.MemoryCanonical : Prop :=
  ∀ (s t : State), s.memWf → step s = .next t → t.memWf

/-- The module right after reset: the memory is in canonical form, no stream exists, every sequencer, die and special
register, semaphore, queue, error ring, ASID record, tag-table entry, landing ring, span peer and key is zero or absent, the
power blocks hold their floors and caps, and the boot ROM has not run (R207, R237, R272, R334, R356, R371, R383, R385, R390,
R408, R413, R416).

The model's choices: the values of the tables and of the bookkeeping for which the manual gives none (log entries 4 and 7). -/
def Obligations.ResetState : Prop :=
  State.reset.memWf ∧ (∀ u, State.reset.inst u = none) ∧
  (∀ d q, let x := State.reset.seq d q
    x.clk = 0 ∧ x.running = none ∧ x.trapped = none ∧ (∀ k, x.slots.find k = none) ∧ x.cause = 0 ∧ x.epc = 0 ∧ x.tval = 0 ∧
      x.eact = 0 ∧ x.eslot = 0 ∧ x.hdb = 0) ∧
  (∀ d, (State.reset.die d).regs = ⟨0, 0, 0, 0, 0, 0, 0, 0, 0, 0, 0, 0⟩ ∧ (State.reset.die d).tlb = [] ∧
    (State.reset.die d).ras = 0 ∧ (State.reset.die d).ready = false) ∧
  (∀ d t k, State.reset.sem d t k = 0 ∧ (State.reset.tile d t).tags.find k = none) ∧
  (∀ d k, (State.reset.die d).ring.tagTab.get 0 k = 0 ∧ (State.reset.die d).ring.tagWin.get 0 k = 0) ∧
  (∀ q, (State.reset.queue q).live = 0 ∧ (State.reset.queue q).shadow = 0 ∧ State.reset.host.rings.get 0 q = 0 ∧
    State.reset.asidRec q = 0) ∧
  (∀ n, State.reset.ports.lrcb.get 0 n = 0 ∧ State.reset.ports.peers.get 0 n = 0 ∧ State.reset.sec.keys.find n = none) ∧
  (∀ i, i < 22 → let b := State.reset.host.power.get (powerInit i) i
    let f := if i < 16 then 80 else if i < 20 then 60 else if i = 20 then 140 else 90
    fieldOf b 15 0 = f ∧ fieldOf b 31 16 = (if i < 16 then 265 else if i < 20 then 180 else if i = 20 then 280 else 150) ∧
      fieldOf b 47 32 = 0 ∧ fieldOf b 63 48 = f ∧ fieldOf b 69 64 = 0) ∧
  State.reset.host.budget = 5600 ∧ State.reset.host.phase = 0

/-- R63: results land in the order of their landing cycles, those of one cycle in the order of issue, so that a register
holds the value of the last write to land in it; a multiply issued at `t` and an add issued at `t + 2` to the same register
leave the add's result. -/
def Obligations.CrossingWrites : Prop :=
  (∀ (x : Ctx) (clk n : Nat) (v : Word) (t : Bool) (land : Nat) (before after : List Flight),
    1 ≤ n → n < 56 → x.flights = before ++ ⟨land, .s n v t⟩ :: after →
    (x.flights.map (·.land)).Pairwise (· ≤ ·) → land ≤ clk →
    (∀ f ∈ after, f.land ≤ clk → ∀ v' t', f.w ≠ .s n v' t') →
    (x.landAt clk).regs.getS n = v ∧ (x.landAt clk).regs.taintS n = t ∧
      (x.landAt clk).flights = x.flights.filter fun f => decide (clk < f.land)) ∧
  (∀ (x : Ctx) (clk l : Nat) (w : Write), (x.flights.map (·.land)).Pairwise (· ≤ ·) →
    ∃ before after, x.flights = before ++ after ∧ (x.fly clk l w).flights = before ++ ⟨clk + l, w⟩ :: after ∧
      (∀ f ∈ before, f.land ≤ clk + l) ∧ ∀ f ∈ after, clk + l < f.land) ∧
  ∀ (x : Ctx) (n t : Nat) (a b : Word) (ta tb : Bool), 1 ≤ n → n < 56 → x.flights = [] →
    (((x.fly t 3 (.s n a ta)).fly (t + 2) 1 (.s n b tb)).landAt (t + 3)).regs.getS n = b

/-- Trap entry (R338, R339): the results in flight land and the instance stays stopped in its slot with the state it held (a
launch record that it has read and not yet written is read again);
`%cause`, `%epc` and `%tval` are written, `%eact` becomes 0, and after the 8 cycles of a switch the sequencer's handler context
stands at `%tvec` with s1 to s5 as the manual lists, every other register and `%sp` zero, and queues and stacks empty. With
`%tvec` 0 the instance is ended, and a trap in the handler context ends the trapped instance and the handler (R341).

The model's choice: the cycle of a sequencer and the instance number of its handler context are bookkeeping (log entries 4
and 134). -/
def Obligations.TrapEntry : Prop :=
  (∀ (c : Cur) (code cls sw : Nat) (epc tval : Word64), c.Ordinary → (c.s.die c.die).regs.tvec ≠ 0 →
    let t := State.takeTrap c code cls sw epc tval
    let h := handlerUid c.die c.q
    let x := t.seq c.die c.q
    c.uid ≠ h →
    t.inst c.uid = some { c.i with
      ctx := { c.i.ctx.landAll with image := none }, sched := { c.i.sched with status := .trapped } } ∧
    (∀ u, u ≠ c.uid → u ≠ h → t.inst u = c.s.inst u) ∧ t.phys = c.s.phys ∧ t.host = c.s.host ∧ t.dies = c.s.dies ∧
    x.cause = BitVec.ofNat 32 (code + 256 * cls + 65536 * (sw % 65536)) ∧ x.epc = epc ∧ x.tval = tval ∧ x.eact = 0 ∧
    x.running = some h ∧ x.trapped = some c.uid ∧ x.clk = c.clk + 8 ∧ x.eslot = BitVec.ofNat 32 c.i.sched.slot ∧
    x.slots = (c.s.seq c.die c.q).slots ∧
    ∃ j, t.inst h = some j ∧ j.who.kind = .handler ∧ j.sched.status = .running ∧ j.ctx.pc = (c.s.die c.die).regs.tvec ∧
      (∀ n, j.ctx.regs.getS n = if n = 1 then x.cause else if n = 2 then epc.extractLsb' 0 32 else if n = 3 then
        epc.extractLsb' 32 32 else if n = 4 then tval.extractLsb' 0 32 else if n = 5 then tval.extractLsb' 32 32 else 0) ∧
      (∀ n, j.ctx.regs.getV n = 0 ∧ j.ctx.regs.getP n = 0 ∧ j.ctx.regs.getQ n = .empty ∧ j.ctx.regs.getVq n = .empty ∧
        j.ctx.regs.taintS n = false) ∧
      j.ctx.regs.plive = 0xFFFF ∧ j.ctx.st.sp = 0 ∧ j.ctx.st.loops = [] ∧ j.ctx.st.rets = []) ∧
  (∀ (c : Cur) (code cls sw : Nat) (epc tval : Word64), c.Ordinary → (c.s.die c.die).regs.tvec = 0 →
    (State.takeTrap c code cls sw epc tval).inst c.uid = none) ∧
  ∀ (c : Cur) (code cls sw : Nat) (epc tval : Word64) (u : Nat), c.i.who.kind = .handler → c.uid = handlerUid c.die c.q →
    (c.s.seq c.die c.q).trapped = some u → u ≠ c.uid →
    let t := State.takeTrap c code cls sw epc tval
    t.inst c.uid = none ∧ t.inst u = none ∧ (t.seq c.die c.q).trapped = none

/-- The control words that are undefined in the handler context (R341). -/
def Claims.taskWords (g : Guard) (b : IBody) (r : RBody) : List Instr :=
  [.yieldI g b, .exit g b, .join g b, .leave g b, .cbar g b, .rng g b, .rngset g r, .rngsetSplit g r, .segdone g b, .ralloc g r,
   .shape g b, .lease g r, .unlease g r]
/-- Control words that a prologue may not use (R364): of each group of majors that is barred to it, the words. -/
def Claims.notPrologue (g : Guard) (b : IBody) (r : RBody) : List Instr :=
  [.join g b, .leave g b, .cbar g b, .rng g b, .rngset g r, .rngsetSplit g r, .rsub g r, .segdone g b, .rtag g b, .launch g b,
   .launchP g b, .shape g b, .ralloc g r, .ldt g r, .stt g r, .rdf g b, .fill g r, .waits g r, .waitsDec g r, .sig g r, .semset g r,
   .semrd g r, .lease g r, .unlease g r, .chain g r, .gets g b, .sets g b, .sptw g r]

/-- The guard (R67): for each lane, the bit of the truth table that the three selected predicates pick; the mask of a
per-lane word has exactly the lanes whose guard is true.

Needs of scalar operands (R51, R57 to R61) of the register forms of R129 and R130: s0 reads as zero untainted; the reads
of one queue take its entries in order, a read with the keep mark leaves its entry, and what was read is consumed when the
word completes; an entry that is pending makes the word stay at issue, a missing one is the queue-empty fault, a destination
queue without room the queue-full fault, and a false guard does nothing.

Barred words: in the handler context a word on a task's own life takes the undefined-instruction fault whatever its guard
(R341); in a prologue a word outside its majors cancels the prologue (R364).

The model's readings: a prologue's barred word is one whatever its guard (log entry 50), and `%tval` of a fault that names
no address (log entry 42). -/
def Obligations.GuardsOperandsAndBarredWords : Prop :=
  ((∀ (r : Regs) (g : Guard) (i : Nat), i < 64 →
    guardAt r g i = g.tt.getLsbD (4 * ((r.getP g.pa.toNat).getLsbD i).toNat + 2 * ((r.getP g.pb.toNat).getLsbD i).toNat +
      ((r.getP g.pc.toNat).getLsbD i).toNat) ∧
    (guardMask r g).getLsbD i = guardAt r g i) ∧
  ((∀ (r : Regs) (k : Bool), r.reads [⟨0, k⟩] = .vals [(0, false)] .empty) ∧
  (∀ (r : Regs) (n : Nat) (k : Bool), 1 ≤ n → n < 56 → r.reads [⟨n, k⟩] = .vals [(r.s.get 0 n, r.staint.getLsbD n)] .empty) ∧
  (∀ (r : Regs) (q h : Nat) (x y : Word × Bool) (rest : List (Option (Word × Bool))), q < 8 →
    r.getQ q = ⟨h, some x :: some y :: rest⟩ →
    (∃ tk, r.reads [⟨56 + q, false⟩, ⟨56 + q, false⟩] = .vals [x, y] tk ∧ (r.eat tk).getQ q = ⟨h + 2, rest⟩) ∧
    (∃ tk, r.reads [⟨56 + q, true⟩, ⟨56 + q, false⟩] = .vals [x, x] tk ∧ (r.eat tk).getQ q = ⟨h + 1, some y :: rest⟩) ∧
    (∃ tk, r.reads [⟨56 + q, false⟩, ⟨56 + q, true⟩] = .vals [x, y] tk ∧ (r.eat tk).getQ q = ⟨h + 1, some y :: rest⟩) ∧
    (∃ tk, r.reads [⟨56 + q, true⟩] = .vals [x] tk ∧ (r.eat tk).getQ q = r.getQ q)) ∧
  (∀ (r : Regs) (q : Nat) (k : Bool) (rest : List (Option (Word × Bool))), q < 8 →
    ((r.getQ q).items = [] → r.reads [⟨56 + q, k⟩] = .empty) ∧ ((r.getQ q).items = none :: rest → r.reads [⟨56 + q, k⟩] = .wait)) ∧
  ∀ e ∈ Claims.scalar2, ∀ (g : Guard) (b : RBody) (s : State) (c : Cur), s.Issues c →
    (guardAt c.regs g 0 = false → ∃ t, exec (e.1 g b) s = .next t ∧ c.Leaves s (c.i.past c.pc 8) t) ∧
    (guardAt c.regs g 0 = true →
      (c.regs.reads [opA b, opB b] = .wait → ∃ t, exec (e.1 g b) s = .next t ∧ c.Leaves s c.i t) ∧
      (c.regs.reads [opA b, opB b] = .empty → exec (e.1 g b) s = .next (State.takeTrap c 4 0 0 c.pc c.pc)) ∧
      (∀ l tk, c.regs.reads [opA b, opB b] = .vals l tk → c.room b.dst.toNat 1 = false →
        exec (e.1 g b) s = .next (State.takeTrap c 5 0 0 c.pc c.pc))))) ∧
  ((∀ (g : Guard) (b : IBody) (r : RBody) (s : State) (c : Cur), s.Issues c → c.i.who.kind = .handler →
    ∀ i ∈ Claims.taskWords g b r, exec i s = .next (State.takeTrap c 1 0 0 c.pc c.pc)) ∧
  ∀ (g : Guard) (b : IBody) (r : RBody) (s : State) (c : Cur), s.Issues c → c.i.who.kind = .prologue →
    ∀ i ∈ Claims.notPrologue g b r, ∃ t, exec i s = .next t ∧ t.inst c.uid = none ∧
      ∀ qn no run, s.host.prologues.find c.die = some (qn, no, run) →
        t.host.prologues.find c.die = none ∧ ∀ p ∈ (t.queue qn).open_, p.key = no → p.ready = true ∧ p.prologue = false)

/-! ## Engines at work (R213 to R222, R227 to R241)

A statement about an event says when it can happen, and that `exec` then answers the next state that it leads to. -/

/-- Commands that an engine runs at once (R219, R318). -/
def Claims.engLimit (eng : Nat) : Nat := if eng = 0 then 1 else if eng = 1 then 4 else if eng = 2 then 1 else 16
/-- The command's wait holds, or it has passed it before a drain (R101, R218, R230). -/
def Claims.headOk (s : State) (die tile : Nat) (c : Cmd) : Prop :=
  c.suspended = true ∨ c.wthr = 0 ∨ c.wthr ≤ (s.sem die tile c.widx).toNat
/-- The commands that count against an engine's limit (R219). -/
def Claims.inEngine (s : State) (die tile eng : Nat) : Nat :=
  ((s.tile die tile).eng.running.filter fun r => decide (r.eng = eng)).length
/-- Round-robin after `last`: pusher `p` is the first one whose head may enter (R218). -/
def Claims.inTurn (s : State) (die tile eng last p : Nat) : Prop :=
  ∃ k, k < 5 ∧ (last + 1 + k) % 5 = p ∧ ∀ j, j < k → ∀ c rest,
    (s.tile die tile).eng.queues.get [] (8 * eng + (last + 1 + j) % 5) = c :: rest → ¬ Claims.headOk s die tile c

/-- ENGINE_COMMAND_START (R213, R218, R219): the head word of a pusher's queue enters its engine when the engine runs fewer
commands than it can, the word's wait holds, its window copy is still there, an attention command's sequence passes R324, and
it is the pusher's turn: under a lease with a pushed command for the matrix engine, in rotation for the copy and scatter
engines. It leaves its queue and runs; with the engine at its limit nothing enters.

The model's choice: the attention engine holds 16 commands at once (log entry 58). -/
def Obligations.EngineStarts : Prop :=
  ∀ (s : State) (die tile eng p : Nat), eng < 4 → p < 5 →
    let e := (s.tile die tile).eng
    let n := Claims.inEngine s die tile eng
    (Claims.engLimit eng ≤ n →
      exec (.engineCommandStart die tile eng p) s = .refused (.notEnabled "ENGINE_COMMAND_START")) ∧
    ∀ (c : Cmd) (rest : List Cmd), n < Claims.engLimit eng → (eng = 0 → e.restored = []) →
      e.queues.get [] (8 * eng + p) = c :: rest → c.op.eng = eng → Claims.headOk s die tile c →
      (∀ k, c.pres = some k → k ∈ (s.tile die tile).held) → (eng = 3 → kvStart c (s.seqRec die c.f) = none) →
      (eng = 0 → ∃ l, e.lease = some l ∧ l.pos = p ∧ 0 < l.pushed) →
      (eng = 1 → Claims.inTurn s die tile 1 e.ceLast p) → (eng = 2 → Claims.inTurn s die tile 2 e.saeLast p) →
      ∃ t, exec (.engineCommandStart die tile eng p) s = .next t ∧
        (let e' := (t.tile die tile).eng
         e'.queues.get [] (8 * eng + p) = rest ∧ (∀ k, k ≠ 8 * eng + p → e'.queues.get [] k = e.queues.get [] k) ∧
         (∃ r, e'.running = e.running ++ [r] ∧ r.cmd = { c with view := r.cmd.view, rows := [] } ∧
           (c.wthr = 0 → r.cmd = { c with rows := [] }) ∧ r.eng = eng ∧ r.done = 0 ∧ r.page = none ∧ r.posted = []) ∧
         (eng = 1 → e'.ceLast = p) ∧ (eng = 2 → e'.saeLast = p)) ∧
        t.insts = s.insts ∧ t.seqs = s.seqs ∧ t.dies = s.dies ∧ t.phys = s.phys ∧ t.host = s.host

/-- Commands whose work is counted in elements, and how many a command has (R233 to R236, R241, R326). -/
def Claims.counted : List (EngOp × (List Nat → Nat)) :=
  [(.xld, fun f => f.getD 6 0 * f.getD 7 0), (.accrd, fun f => f.getD 2 0 * f.getD 4 0), (.accld, fun f => f.getD 2 0 * f.getD 4 0),
   (.tcopy, fun f => f.getD 6 0 * f.getD 7 0), (.tfill, fun f => f.getD 3 0 * f.getD 4 0), (.kvapp, fun f => f.getD 8 0)]
/-- The `idx`-th command that an engine runs. -/
def Claims.runs (s : State) (die tile eng idx : Nat) (r : Running) : Prop :=
  ((s.tile die tile).eng.running.filter fun x => x.eng == eng)[idx]? = some r
/-- Physical memory as before (the memory model notes what the command's part of the step has outdated, log entry 45). -/
def Claims.sameMem (s t : State) : Prop :=
  t.phys = { s.phys with relaxed := { s.phys.relaxed with met := t.phys.relaxed.met } }
/-- A command has completed (R220, R222): it has left its engine, its chain counts it, and its signal semaphore has risen by
the word's increment. -/
def Claims.completed (s t : State) (die tile : Nat) (r : Running) : Prop :=
  (t.tile die tile).eng.running = (s.tile die tile).eng.running.filter (fun x => x.no != r.no) ∧
  (∀ n k x, r.cmd.chain = some (n, k) → (s.tile die tile).eng.chains.find n = some x →
    (t.tile die tile).eng.chains.find n = some { x with done := x.done + 1 }) ∧
  (r.cmd.sinc = 0 → (t.tile die tile).sems = (s.tile die tile).sems) ∧
  (r.cmd.sinc ≠ 0 → (∀ w ∈ (s.tile die tile).decq, w.1 ≠ r.cmd.sidx) →
    t.sem die tile r.cmd.sidx = s.sem die tile r.cmd.sidx + BitVec.ofNat 32 r.cmd.sinc)

/-- ENGINE_COMMAND_COMPLETE and ENGINE_PAGE_RESUME (R219, R220, R222, R236, R241): a command of the list with no element left
completes and changes no memory; the last element of a `TFILL` is the fill value and that of a `TCOPY` between tensors of one
format the source element, written at its address in tile memory with every other byte as it was; a sys-scope command waits
for its posted stores. A command that waited for a page or a walk goes on at the same element once the page is there and the walk can
be made (R374).

The model's choice: a command's effects take place in the step that completes it (log entry 44). -/
def Obligations.EngineCompletions : Prop :=
  (∀ e ∈ Claims.counted, ∀ (s : State) (die tile eng idx : Nat) (r : Running),
    Claims.runs s die tile eng idx r → r.page = none → r.cmd.op = e.1 → e.2 r.cmd.f ≤ r.done →
    (cmdScope r.cmd.op r.cmd.f = 4 → r.posted = []) →
    ∃ t, exec (.engineCommandComplete die tile eng idx) s = .next t ∧ Claims.completed s t die tile r ∧ Claims.sameMem s t ∧
      (t.tile die tile).mem = (s.tile die tile).mem) ∧
  (∀ (s : State) (die tile idx : Nat) (r : Running), Claims.runs s die tile 1 idx r → r.page = none → r.cmd.op = .tfill →
    r.done + 1 = r.cmd.f.getD 3 0 * r.cmd.f.getD 4 0 → r.posted = [] →
    let d := r.cmd.descs.getD 0 noDesc
    let f := r.cmd.f
    let x : List Int := [sextN 16 (f.getD 1 0) + (r.done % f.getD 3 0 : Nat), sextN 16 (f.getD 2 0) + (r.done / f.getD 3 0 : Nat),
      (f.getD 8 0 : Nat), 0]
    d.space = 1 → d.inBounds x = true →
    ∃ t, exec (.engineCommandComplete die tile 1 idx) s = .next t ∧ Claims.completed s t die tile r ∧ Claims.sameMem s t ∧
      (t.tile die tile).read (d.addr x) (fmtBytes d.fmt) = (f.getD 5 0 * 65536 + f.getD 6 0) % 2 ^ fmtBits d.fmt ∧
      ∀ a, (a < d.addr x ∨ d.addr x + fmtBytes d.fmt ≤ a) → (t.tile die tile).mem.get 0 a = (s.tile die tile).mem.get 0 a) ∧
  (∀ (s : State) (die tile idx : Nat) (r : Running), Claims.runs s die tile 1 idx r → r.page = none → r.cmd.op = .tcopy →
    r.done + 1 = r.cmd.f.getD 6 0 * r.cmd.f.getD 7 0 → r.posted = [] →
    let dst := r.cmd.descs.getD 0 noDesc
    let src := r.cmd.descs.getD 1 noDesc
    let f := r.cmd.f
    let i : Int := (r.done % f.getD 6 0 : Nat)
    let j : Int := (r.done / f.getD 6 0 : Nat)
    let x : List Int := [sextN 16 (f.getD 4 0) + i, sextN 16 (f.getD 5 0) + j, (f.getD 10 0 : Nat), 0]
    let y : List Int := [sextN 16 (f.getD 2 0) + i, sextN 16 (f.getD 3 0) + j, (f.getD 9 0 : Nat), 0]
    dst.space = 1 → src.space = 1 → src.fmt = dst.fmt → dst.inBounds x = true → src.inBounds y = true →
    (s.tile die tile).badAt (src.addr y) (fmtBytes src.fmt) = false →
    ∃ t, exec (.engineCommandComplete die tile 1 idx) s = .next t ∧ Claims.completed s t die tile r ∧ Claims.sameMem s t ∧
      (t.tile die tile).read (dst.addr x) (fmtBytes dst.fmt) = (s.tile die tile).read (src.addr y) (fmtBytes dst.fmt) ∧
      ∀ a, (a < dst.addr x ∨ dst.addr x + fmtBytes dst.fmt ≤ a) → (t.tile die tile).mem.get 0 a = (s.tile die tile).mem.get 0 a) ∧
  (∀ e ∈ Claims.counted, ∀ (s : State) (die tile eng idx : Nat) (r : Running),
    Claims.runs s die tile eng idx r → r.page = none → r.cmd.op = e.1 → e.2 r.cmd.f ≤ r.done →
    cmdScope r.cmd.op r.cmd.f = 4 → r.posted ≠ [] →
    ∃ t, exec (.engineCommandComplete die tile eng idx) s = .next t ∧ t.insts = s.insts ∧ Claims.sameMem s t ∧
      (t.tile die tile).eng.running.length = (s.tile die tile).eng.running.length ∧ (t.tile die tile).sems = (s.tile die tile).sems) ∧
  ∀ (s : State) (die tile eng idx : Nat) (r : Running) (va : Nat),
    Claims.runs s die tile eng idx r → r.page = some va → s.walk r.cmd.asid va .read ≠ .paged →
    ¬ (s.translateAny (if eng = 3 then attOf die else die) r.cmd.asid va .read = .miss ∧
      s.walkBusy (if eng = 3 then attOf die else die) r.cmd.asid va = true) →
    ∃ t, exec (.enginePageResume die tile eng idx) s = .next t ∧
      (t.tile die tile).eng.running =
        (s.tile die tile).eng.running.map (fun x => if x.no = r.no then { r with page := none } else x) ∧
      (t.tile die tile).mem = (s.tile die tile).mem ∧ t.insts = s.insts ∧ t.phys = s.phys

/-- MMA_DRAIN (R111, R124, R227, R229): one K-step of an integer `MMA` on a local panel adds, for each row and each of the 256
columns, the exact products of the A and panel elements of its K-group to the accumulator modulo 2^96; the first group of a
word without `.acc` starts from 0. Every other accumulator element stays, and the word stands before its next group.

TMCAST_GRANULE_DELIVERY (R239, R240): a granule of one element is written at the receiver's tile at its place in the
destination, the receiver's count of granules and then its semaphore rise, and no other byte of that tile's memory
changes.

The model's choice: an `MMA` that drains is performed K-step by K-step, a `TMCAST` granule by granule (log entry 44). -/
def Obligations.MatrixStepsAndCasts : Prop :=
  (∀ (s : State) (die tile : Nat) (r : Running) (tag : PanelTag),
    (s.tile die tile).eng.running.find? (fun x => x.cmd.op == .mma) = some r → r.page = none → r.cmd.tag = some tag → r.cmd.pres = none →
    (s.tile die tile).bad = [] →
    let f := r.cmd.f
    let a := r.cmd.descs.getD 0 noDesc
    let kg := if a.fmt = 5 ∨ a.fmt = 6 then 128 else 32
    let g := r.cmd.group
    let lo := Nat.max (f.getD 4 0) (g * kg)
    let hi := Nat.min (f.getD 4 0 + f.getD 5 0) ((g + 1) * kg)
    5 ≤ a.fmt → a.fmt ≤ 8 → (r.cmd.descs.getD 1 noDesc).handle = 0 → (r.cmd.descs.getD 2 noDesc).handle = 0 →
    f.getD 7 0 / 2 % 2 = 0 → g ≤ (f.getD 4 0 + f.getD 5 0 - 1) / kg →
    (∀ i, s.inst r.cmd.uid = some i → i.sched.preempt = false) →
    ∃ t, exec (.mmaDrain die tile 1) s = .next t ∧ t.insts = s.insts ∧ Claims.sameMem s t ∧
      (∀ m n, m < f.getD 3 0 → n < 256 →
        let key := 256 * (f.getD 6 0 + m) + n
        let old : Nat := if f.getD 7 0 % 2 = 0 ∧ g = f.getD 4 0 / kg then 0 else ((s.tile die tile).acc.get 0 key).toNat
        (t.tile die tile).acc.get 0 key = BitVec.ofInt 96 ((old : Int) + ((List.range (hi - lo)).map fun j =>
          ivalOf a.fmt ((s.tile die tile).aElem a (lo + j) (f.getD 2 0 + m)) *
            ivalOf tag.fmt ((s.tile die tile).lp.get 0 ((f.getD 1 0 % 16 * 2048 + (lo + j)) * 256 + n))).sum)) ∧
      (∀ key, (key < 256 * f.getD 6 0 ∨ 256 * (f.getD 6 0 + f.getD 3 0) ≤ key) →
        (t.tile die tile).acc.get 0 key = (s.tile die tile).acc.get 0 key) ∧
      (t.tile die tile).eng.running = (s.tile die tile).eng.running.map (fun x =>
        if x.no = r.no then { r with cmd := { r.cmd with group := g + 1 } } else x) ∧
      (t.tile die tile).mem = (s.tile die tile).mem) ∧
  (∀ (s : State) (die tile idx rcv : Nat) (r : Running), Claims.runs s die tile 1 idx r → r.page = none → r.cmd.op = .tmcast →
    rcv < 16 → (r.cmd.f.getD 8 0).testBit rcv = true →
    let f := r.cmd.f
    let src := r.cmd.descs.getD 0 noDesc
    let g := r.gran.get 0 rcv
    let k := g * (64 / fmtBytes src.fmt)
    let d := r.cmd.descs.getD (((List.range rcv).filter (f.getD 8 0).testBit).length + 1) noDesc
    let x : List Int := [sextN 16 (f.getD 4 0) + (k % f.getD 6 0 : Nat), sextN 16 (f.getD 5 0) + (k / f.getD 6 0 : Nat), 0, 0]
    let rt := 16 * (tile / 16) + rcv
    g < (f.getD 6 0 * f.getD 7 0 * fmtBytes src.fmt + 63) / 64 → r.data.length = k + 1 → f.getD 6 0 * f.getD 7 0 = k + 1 →
    r.part.get 0 rcv = 0 → d.space = 1 → d.inBounds x = true →
    ∃ t, exec (.tmcastGranuleDelivery die tile idx rcv) s = .next t ∧
      (t.tile die rt).read (d.addr x) (fmtBytes d.fmt) = r.data.getD k 0 % 256 ^ fmtBytes d.fmt ∧
      (∀ a, (a < d.addr x ∨ d.addr x + fmtBytes d.fmt ≤ a) → (t.tile die rt).mem.get 0 a = (s.tile die rt).mem.get 0 a) ∧
      (t.tile die tile).eng.running = (s.tile die tile).eng.running.map (fun y =>
        if y.no = r.no then { r with gran := r.gran.set 0 rcv (g + 1), part := r.part.set 0 rcv 0 } else y) ∧
      (r.cmd.sinc ≠ 0 → (∀ w ∈ (s.tile die rt).decq, w.1 ≠ r.cmd.sidx) →
        t.sem die rt r.cmd.sidx = s.sem die rt r.cmd.sidx + BitVec.ofNat 32 r.cmd.sinc) ∧ Claims.sameMem s t)

/-! ## Deliveries, leases, chains (R55, R195, R213, R216, R259) -/

/-- What a load of `n` bytes of another module returns (R192, R259), `ext` being the answer: the home's value, over which stand the
bytes `own` that the stream has itself last stored there, but for those that the answer marks as written later. -/
def Claims.answer (n ext : Nat) (own : List (Nat × Nat)) : Nat :=
  (own.filter fun b => !(ext / 256 ^ n).testBit b.1).foldl
    (fun v b => v - v / 256 ^ b.1 % 256 * 256 ^ b.1 + b.2 % 256 * 256 ^ b.1) (ext % 256 ^ n)

/-- QUEUE_DELIVERY, POSTED_STORE_ACK and CHAIN_COMPLETE (R55, R195, R216, R259): the result of a producer fills its positions
in order with its taint, an answer of another module with what its home gave, over which stand the bytes that the stream has
itself last stored there where no later write has come (R192); what `SHAPE` read of the stream's own record waits for the confirmation
(R304); an acknowledged store is waited for no longer; a chain whose words have all completed delivers the count as its status,
and a stopped one whose started words have completed the count with the cause.

LEASE_GRANT and LEASE_EXPIRY (R212, R213): with no lease held, the next asking position after the last holder gets one of
the commands that it asked for, and its stream goes on; 65,536 cycles after its grant a lease ends, at once if every command
pushed under it has entered.

The model's choices: which producer is delivered when is the event's argument (log entries 22 and 130), and what another
module answers is one too (log entry 21). -/
def Obligations.DeliveriesAndLeases : Prop :=
  ((∀ (s : State) (uid idx ext : Nat) (i : Inst) (p : Producer) (ws : List Word),
    s.inst uid = some i → i.ctx.prods[idx]? = some p → p.vec = false → s.loadNow p.src = some ws →
    (∀ pa n form, p.src = .mem pa n form → s.badAt pa n = false) → (∀ w, p.src = .extent w → i.ex.unconf = false) →
    ∃ t j, exec (.queueDelivery uid idx ext) s = .next t ∧ t.inst uid = some j ∧
      j.ctx.regs = i.ctx.regs.setQ p.q (fillFrom (i.ctx.regs.getQ p.q) p.pos p.taint (ws.take p.cnt)) ∧
      j.ctx.prods.length + 1 = i.ctx.prods.length ∧ j.ctx.flights = i.ctx.flights ∧ j.ctx.pc = i.ctx.pc ∧ j.who = i.who ∧
      j.sched = i.sched ∧ (∀ u, u ≠ uid → t.inst u = s.inst u) ∧ t.phys = s.phys ∧ t.tiles = s.tiles) ∧
  (∀ (s : State) (uid idx ext msg : Nat) (i : Inst) (p : Producer) (form : LoadForm) (own : List (Nat × Nat)) (m : SpanMsg),
    s.inst uid = some i → i.ctx.prods[idx]? = some p → p.vec = false → p.src = .span msg form own →
    s.ports.sent.find msg = some m →
    let v := Claims.answer m.bytes ext own
    ∃ t j, exec (.queueDelivery uid idx ext) s = .next t ∧ t.inst uid = some j ∧ t.ports.sent.find msg = none ∧
      j.ctx.regs = i.ctx.regs.setQ p.q (fillFrom (i.ctx.regs.getQ p.q) p.pos p.taint ((match form with
        | .elem fmt => [putElem fmt v]
        | f => loadEntries f v).take p.cnt)) ∧
      j.ctx.prods = i.ctx.prods.eraseIdx idx ∧ (∀ u, u ≠ uid → t.inst u = s.inst u) ∧ t.phys = s.phys) ∧
  (∀ (s : State) (uid idx ext : Nat) (i : Inst) (p : Producer) (w : Word), s.inst uid = some i → i.ctx.prods[idx]? = some p →
    p.src = .extent w → i.ex.unconf = true → exec (.queueDelivery uid idx ext) s = .refused (.notEnabled "QUEUE_DELIVERY")) ∧
  (∀ (s : State) (msg : Nat) (m : SpanMsg), s.ports.sent.find msg = some m → m.op ≠ 2 → (m.op = 1 → m.uid = none) →
    ∃ t, exec (.postedStoreAck msg) s = .next t ∧ t.ports.sent.find msg = none ∧
      (∀ u i, s.inst u = some i →
        t.inst u = some { i with ctx := { i.ctx with posted := i.ctx.posted.filter fun k => k != msg } }) ∧ t.phys = s.phys) ∧
  ∀ (s : State) (die tile n idx : Nat) (x : Chain) (i : Inst),
    let e := (s.tile die tile).eng
    (e.chains.find n = some x → x.stop.isSome → e.chainRuns n = false → s.inst x.uid = some i → i.sched.status ≠ .parked →
      i.ctx.prods.findIdx? (fun p => p.src == .chain n) = some idx →
      ∃ t, exec (.chainComplete die tile n) s = .next t ∧ (t.tile die tile).eng.chains.find n = none ∧
        t.inst x.uid = some { i with
          ctx := i.ctx.deliver idx [BitVec.ofNat 32 (x.done % 2 ^ 16 + 2 ^ 16 + x.stop.getD 0 % 128 * 2 ^ 17)] 0 }) ∧
    (e.chains.find n = some x → x.stop = none → x.count ≤ x.next → e.chainQueued n = false → e.chainRuns n = false →
    s.inst x.uid = some i → i.sched.status ≠ .parked → i.ctx.prods.findIdx? (fun p => p.src == .chain n) = some idx →
    ∃ t, exec (.chainComplete die tile n) s = .next t ∧ (t.tile die tile).eng.chains.find n = none ∧
      t.inst x.uid = some { i with ctx := i.ctx.deliver idx [BitVec.ofNat 32 (x.done % 2 ^ 16)] 0 } ∧ t.phys = s.phys)) ∧
  ((∀ (s : State) (die tile cyc k : Nat) (a : Nat × Nat × Nat),
    let e := (s.tile die tile).eng
    e.lease = none → (s.die die).cyc ≤ cyc → k < 5 → (e.lastPos + 1 + k) % 5 = a.1 → e.asks.find? (fun x => x.1 == a.1) = some a →
    (∀ j, j < k → ∀ x ∈ e.asks, x.1 ≠ (e.lastPos + 1 + j) % 5) →
    ∃ t, exec (.leaseGrant die tile cyc) s = .next t ∧
      (t.tile die tile).eng.lease = some ⟨a.1, a.2.1, a.2.2, cyc, 0, false⟩ ∧ (t.tile die tile).eng.asks = e.asks.erase a ∧
      (t.tile die tile).eng.lastPos = a.1 ∧ (t.die die).cyc = cyc ∧ (∀ u, u ≠ a.2.1 → t.inst u = s.inst u) ∧
      ∀ i n, s.inst a.2.1 = some i → i.sched.wait = .lease n false → i.sched.status = .blocked →
        t.inst a.2.1 = some { i with sched := { i.sched with status := .resident, wait := .none, noFrame := i.sched.noFrame.filter (· != 0) } }) ∧
  ∀ (s : State) (die tile : Nat) (l : Lease), (s.tile die tile).eng.lease = some l → l.ended = false →
    ∃ t, exec (.leaseExpiry die tile (l.since + 65536)) s = .next t ∧
      (t.tile die tile).eng.lease = (if l.pushed = 0 then none else some { l with ended := true }) ∧
      (t.tile die tile).eng.queues = (s.tile die tile).eng.queues ∧ t.insts = s.insts ∧ t.phys = s.phys)
/-! ## The die scheduler (R31 to R37, R46 to R48, R206, R298, R300, R352) -/

/-- LAUNCH_RECORD_ACCEPT, TAIL_RECORD_ENTRY, COUNTER_LOWERING and SHAPE_CONFIRMATION (R21, R24, R31, R298, R300): the head of
the launch queue leaves it, an image with a zero extent or a misaligned descriptor address with nothing accepted, also while
every record number is in use (the model's choice, log entry 137); a good image
enters its matcher under a free number with one block instance per index at the descriptor's entry, and a tail, whose ASID is valid
and of the die's partition (R407), adds its blocks to its record; a waiting tail enters a launch queue with room; a lowering counts its record's counter down by one; a
confirmation by a larger extent releases the record's blocks and sends the tail.

The model's choice: which free record number is taken (log entry 12). The model's readings: a record of no blocks (log entry
87), and the reserved bit of an image (log entry 78). -/
def Obligations.LaunchRecords : Prop :=
  (∀ (s : State) (die cyc : Nat) (r : Image) (rest : List Image), (s.die die).sch.launchq = r :: rest → r.tail = none →
    (fieldOf r.bits 79 64 = 0 ∨ fieldOf r.bits 95 80 = 0 ∨ fieldOf r.bits 63 0 % 128 ≠ 0) →
    ∃ t, exec (.launchRecordAccept die cyc) s = .next t ∧ (t.die die).sch.launchq = rest ∧
      (t.die die).sch.recs = (s.die die).sch.recs) ∧
  (∀ (s s2 : State) (die cyc n v : Nat) (r : Image) (rest : List Image),
    let s1 := (s.advance die cyc).updSch die fun x => { x with launchq := rest }
    let b := BitVec.ofNat 1024 v
    let count := fieldOf r.bits 79 64 * fieldOf r.bits 95 80
    (s.die die).sch.launchq = r :: rest → r.tail = none → count ≠ 0 → fieldOf r.bits 63 0 % 128 = 0 →
    fieldOf r.bits 63 0 < 2 ^ 55 → fieldOf r.bits 109 109 = 0 → s1.readVa die r.asid (fieldOf r.bits 63 0) 128 = (s2, .ok v) →
    s2.descRejected die r.asid b = false → s2.imageRejected die r = false → s2.freeRec die = some n →
    s2.matcherFull die (fieldOf b 142 139) = false →
    ∃ t x, exec (.launchRecordAccept die cyc) s = .next t ∧ (t.die die).sch.launchq = (s2.die die).sch.launchq ∧
      t.recOf die n = some x ∧ x.img = r.bits ∧ x.desc = b ∧ x.asid = r.asid ∧ x.live.length = count ∧
      ∀ k, k < count → ∃ u i, x.live[k]? = some u ∧ t.inst u = some i ∧ i.who.kind = .block ∧ i.who.recNo = some n ∧
        i.who.blk = BitVec.ofNat 32 k ∧ i.ctx.pc = BitVec.ofNat 64 (fieldOf b 63 0)) ∧
  (∀ (s : State) (die cyc n : Nat) (r : Image) (rest : List Image) (x : Rec), (s.die die).sch.launchq = r :: rest →
    r.tail = some n → s.recOf die n = some x → s.asidValid x.asid = true → s.asidPart x.asid = s.partOf die →
    ∃ t y, exec (.launchRecordAccept die cyc) s = .next t ∧ (t.die die).sch.launchq = rest ∧ t.recOf die n = some y ∧
      y.tailDue = 0 ∧ y.live.length = x.live.length + x.tailDue) ∧
  (∀ (s : State) (die n cyc : Nat) (rest : List Nat) (x : Rec), (s.die die).sch.tails = n :: rest → s.recOf die n = some x →
    (s.die die).sch.launchq.length < 256 →
    ∃ t r, exec (.tailRecordEntry die n cyc) s = .next t ∧ (t.die die).sch.tails = rest ∧
      (t.die die).sch.launchq = (s.die die).sch.launchq ++ [r] ∧ r.tail = some n ∧ t.insts = s.insts) ∧
  (∀ (s : State) (die idx cyc : Nat) (l : Lowering) (x : Rec), (s.die die).sch.lowerings[idx]? = some l →
    s.recOf die l.recNo = some x → x.ended = false → x.retired = false → x.asid = l.asid → x.ctr ≠ 0 →
    ∃ t y, exec (.counterLowering die idx cyc) s = .next t ∧ (t.die die).sch.lowerings = (s.die die).sch.lowerings.eraseIdx idx ∧
      t.recOf die l.recNo = some y ∧ y.ctr = x.ctr - 1 ∧ y.live = x.live) ∧
  ∀ (s : State) (die n cyc : Nat) (x : Rec), s.recOf die n = some x → x.confirmed = false →
    n ∈ (s.die die).sch.confirms → fieldOf x.img 255 192 = 0 →
    let v := (s.advance die cyc).readPa x.shapePa 8 % 2 ^ 32
    v ≤ 65535 → x.ep < v → (∀ u ∈ x.live, ∀ i, s.inst u = some i → i.who.blk.toNat < v ∧ i.sched.status ≠ .parked) →
    ∃ t y, exec (.shapeConfirmation die n cyc) s = .next t ∧ t.recOf die n = some y ∧ y.confirmed = true ∧ y.ep = v ∧
      y.tailDue = v - x.ep ∧ n ∉ (t.die die).sch.confirms ∧
      ∀ u ∈ x.live, ∀ i, s.inst u = some i → ∃ j, t.inst u = some j ∧ j.ex.unconf = false

/-- Cycles that an instance has stood ready and unplaced, counted up to `cyc` (R46). -/
def Claims.readyFor (i : Inst) (cyc : Nat) : Nat :=
  i.sched.waited + (if i.sched.status = .ready then cyc - i.sched.since else 0)
/-- Effective priority (R46). -/
def Claims.rank (i : Inst) (cyc : Nat) : Nat := Nat.min 3 (i.who.prio + Claims.readyFor i cyc / 100000)
/-- An instance that the die scheduler moves. -/
def Claims.task (i : Inst) : Prop := i.who.kind = .block ∨ i.who.kind = .segBlock
/-- The instance that a sequencer runs, if it may be pre-empted (R48). -/
def Claims.runsTask (s : State) (d q u : Nat) (i : Inst) : Prop :=
  (s.seq d q).running = some u ∧ s.inst u = some i ∧ Claims.task i ∧ i.sched.status = .running

/-- TASK_PLACEMENT, PARKED_RESTORE and TIME_SLICE_EXPIRY (R46, R48, R335, R352): a ready instance whose effective priority is
above that of every other ready instance of the die, none being ordered by age alone, takes the lowest free slot of a sequencer
that it may run on, one that has yielded goes on in the slot that it holds; a parked instance that waits for nothing is back in a slot with the registers, `%sp` and PC of its frame,
whose slot is free again; an uncommitted instance is squashed after 200,000 cycles for a ready one of no lower effective
priority. Each happens no earlier than the die's cycle.

The model's choices: a placed instance takes the lowest free slot (log entry 13), a yielding one keeps its slot (log entry 146), and
the image and the frame stand where `%fpool`, taken as a physical address, says (log entry 8, PRESUMED). The model's reading: the unit of pre-emption (log entry 88). -/
def Obligations.Placement : Prop :=
  (∀ (s : State) (die q cyc u k n : Nat) (i : Inst), s.inst u = some i → (u, i) ∈ s.insts.cells → i.who.die = die →
    i.sched.status = .ready → i.sched.seq = none → Claims.task i → i.mayRun q = true → i.sched.stack = some n → k < 4 →
    (s.seq die q).slots.find k = none → (∀ j, j < k → (s.seq die q).slots.find j ≠ none) →
    let now := Nat.max cyc (s.die die).cyc
    (∀ p ∈ s.insts.cells, p.2.who.die = die → p.2.sched.status = .ready → Claims.task p.2 →
      p.2.sched.byAge = false ∧ Claims.readyFor p.2 now < 300000 ∧ (p = (u, i) ∨ Claims.rank p.2 now < Claims.rank i now)) →
    ∃ t, exec (.taskPlacement die q cyc) s = .next t ∧
      t.inst u = some { i with sched := { i.sched with
        status := .resident, seq := some q, slot := k, waited := Claims.readyFor i now, noStack := false } } ∧
      (∀ v, v ≠ u → t.inst v = s.inst v) ∧ (t.seq die q).slots.find k = some u ∧ t.phys = s.phys ∧ t.tiles = s.tiles) ∧
  (∀ (s : State) (die q cyc u n : Nat) (i : Inst), s.inst u = some i → (u, i) ∈ s.insts.cells → i.who.die = die →
    i.sched.status = .ready → i.sched.seq = some q → Claims.task i → i.mayRun q = true → i.sched.stack = some n →
    let now := Nat.max cyc (s.die die).cyc
    (∀ p ∈ s.insts.cells, p.2.who.die = die → p.2.sched.status = .ready → Claims.task p.2 →
      p.2.sched.byAge = false ∧ Claims.readyFor p.2 now < 300000 ∧ (p = (u, i) ∨ Claims.rank p.2 now < Claims.rank i now)) →
    ∃ t, exec (.taskPlacement die q cyc) s = .next t ∧
      t.inst u = some { i with sched := { i.sched with status := .resident, waited := Claims.readyFor i now } } ∧
      (∀ v, v ≠ u → t.inst v = s.inst v) ∧ t.seqs = s.seqs ∧ t.phys = s.phys ∧ t.tiles = s.tiles) ∧
  (∀ (s : State) (u q cyc f k : Nat) (i : Inst), s.inst u = some i → i.sched.status = .parked → i.sched.frame = some f →
    (i.sched.wait = .none ∨ i.sched.wait = .page true) → i.mayRun q = true → k < 4 → (s.seq i.who.die q).slots.find k = none →
    (∀ j, j < k → (s.seq i.who.die q).slots.find j ≠ none) →
    let x := s.advance i.who.die cyc
    let a := (s.die i.who.die).regs.fpool.toNat + 0x4000 * f
    a + 0x2B80 ≤ 2 ^ 51 → (x.readPa (a + 0x1E0) 4 = 0 ∨ x.readPa (a + 0x1E0) 4 = 6) →
    x.readPa (a + 0x350) 4 = 0 → x.readPa a 4 / 2 ^ 16 % 2 = 0 →
    ∃ t j, exec (.parkedRestore u q cyc) s = .next t ∧ t.inst u = some j ∧ j.sched.status = .resident ∧ j.sched.seq = some q ∧
      j.sched.slot = k ∧ j.sched.wait = .none ∧ j.sched.frame = none ∧ j.ctx.pc = BitVec.ofNat 64 (x.readPa (a + 8) 8) ∧
      j.ctx.st.sp = BitVec.ofNat 64 (x.readPa (a + 0x10) 8) ∧
      (∀ m, 1 ≤ m → m < 56 → j.ctx.regs.getS m = BitVec.ofNat 32 (x.readPa (a + (0x40 + 4 * m)) 4)) ∧
      (t.seq i.who.die q).slots.find k = some u ∧ f ∉ (t.die i.who.die).sch.frames ∧ t.phys = s.phys) ∧
  ∀ (s : State) (die q cyc u : Nat) (i : Inst) (p : Nat × Inst), Claims.runsTask s die q u i → i.who.die = die →
    i.sched.seq = some q → i.sched.committed = false → (s.seq die q).slice + 200000 ≤ cyc →
    p ∈ s.insts.cells → p.2.who.die = die → p.2.sched.status = .ready → Claims.task p.2 → p.2.mayRun q = true →
    Claims.rank i cyc ≤ Claims.rank p.2 cyc →
    ∃ t j, exec (.timeSliceExpiry die q cyc) s = .next t ∧ t.inst u = some j ∧ j.sched.status = .ready ∧ j.sched.seq = none ∧
      j.ctx.pc = i.ex.entry ∧ j.ctx.issued = 0 ∧ j.range.lo = i.range.lo0 ∧ j.range.hi = i.range.hi0 ∧
      (t.seq die q).running = none ∧ (t.seq die q).slice = Nat.max cyc (s.die die).cyc + 8

/-- Ageing and waits (R36, R38, R46, R206): a full 100,000 ready cycles raise the effective priority, at 300,000 an instance is
ordered by age alone; a barrier completes 24 cycles after its last arrival for the members that have not left, and the pending
joiners become members; a squashed reader is ready again when its 4096 cycles are over.

STEAL_REQUEST and STEAL_BACKOFF_EXPIRY (R36, R37): a thief with a free slot, a stack and no ready task gets the second half
of the running victim's range as a new instance of its record and block at the entry PC; a victim that runs nothing and has no
unissued instance refuses, and after the eighth refusal in a row the thief stays quiet for 512 cycles.

The model's choices: a thief's task takes the lowest free slot (log entry 13), and a steal names its victim (log entry 132). -/
def Obligations.SchedulerTimersAndSteals : Prop :=
  ((∀ (s : State) (u cyc : Nat) (i : Inst), s.inst u = some i → i.sched.status = .ready → i.sched.since ≤ cyc →
    let n := i.sched.waited + (cyc - i.sched.since)
    (n ≠ 0 → n % 100000 = 0 → i.who.prio + n / 100000 ≤ 3 →
      ∃ t, exec (.priorityAging u cyc) s = .next t ∧
        t.inst u = some { i with sched := { i.sched with waited := n, since := cyc } } ∧ (∀ v, v ≠ u → t.inst v = s.inst v)) ∧
    (i.sched.byAge = false → 300000 ≤ n →
      ∃ t, exec (.starvationOrdering u cyc) s = .next t ∧
        t.inst u = some { i with sched := { i.sched with waited := n, since := cyc, byAge := true } } ∧
        (∀ v, v ≠ u → t.inst v = s.inst v))) ∧
  (∀ (s : State) (die id : Nat), let c := s.cohort die id
    c.members ≠ [] → (∀ u ∈ c.members, u ∈ c.arrived) →
    ∃ t, exec (.cohortBarrierComplete die id (c.lastAt + 24)) s = .next t ∧
      (t.cohort die id).members = c.members.filter (fun u => decide (u ∉ c.leaving)) ++ c.pending ∧
      (∀ u ∈ c.arrived, u ∉ c.leaving → ∀ i, s.inst u = some i → i.sched.status = .blocked → i.sched.wait = .cbar id false →
        t.inst u = some { i with
          ctx := { i.ctx with ord := { i.ctx.ord with view := joinView i.ctx.ord.view c.view } }
          sched := { i.sched with status := .resident, wait := .none, noFrame := i.sched.noFrame.filter (· != 0) } }) ∧
      ∀ u, u ∉ c.arrived → t.inst u = s.inst u) ∧
  ∀ (s : State) (u cyc : Nat) (i : Inst) (r : Nat × Nat), s.inst u = some i →
    (s.die i.who.die).sch.retries.find? (fun x => x.1 == u) = some r → r.2 ≤ cyc →
    ∃ t, exec (.futureRetry u cyc) s = .next t ∧ t.inst u = some { i with sched := { i.sched with status := .ready, since := cyc } } ∧
      (∀ v, v ≠ u → t.inst v = s.inst v) ∧ (t.die i.who.die).sch.retries = (s.die i.who.die).sch.retries.erase r) ∧
  (∀ (s : State) (die q v cyc k : Nat), q ≠ v → q < frontSeq die → v < frontSeq die → k < 4 →
    (s.seq die q).slots.find k = none → (∀ j, j < k → (s.seq die q).slots.find j ≠ none) → (s.seq die q).backoff = none →
    (∀ p ∈ s.insts.cells, p.2.who.die = die → p.2.sched.status = .ready → Claims.task p.2 → p.2.mayRun q = false) →
    (∀ p ∈ (s.seq die v).slots.cells, ∀ i, s.inst p.2 = some i → i.sched.status ≠ .resident) →
    (∀ (u n : Nat) (i : Inst), Claims.runsTask s die v u i → u < s.nextUid → i.range.steal = true →
      i.range.lo.toNat + 2 ≤ i.range.hi.toNat → i.mayRun q = true → i.who.die = die → i.ex.segTask = none →
      freeBelow (s.die die).sch.stackIds (s.die die).regs.stkn.toNat = some n →
      let mid := i.range.lo + BitVec.ofNat 32 ((i.range.hi.toNat - i.range.lo.toNat + 1) / 2)
      ∃ t j w, exec (.stealRequest die q v cyc) s = .next t ∧ t.inst u = some w ∧ w.range.lo = i.range.lo ∧ w.range.hi = mid ∧
        w.ctx = i.ctx ∧ t.inst s.nextUid = some j ∧ j.range.lo = mid ∧ j.range.hi = i.range.hi ∧ j.who = i.who ∧
        j.ctx.pc = i.ex.entry ∧ j.sched.status = .resident ∧ j.sched.seq = some q ∧ j.sched.slot = k ∧
        (t.seq die q).refusals = 0 ∧ (t.seq die q).slots.find k = some s.nextUid) ∧
    ((s.seq die v).running = none → ∃ t, exec (.stealRequest die q v cyc) s = .next t ∧ t.insts = s.insts ∧
      (t.seq die q).refusals = (if 7 ≤ (s.seq die q).refusals then 0 else (s.seq die q).refusals + 1) ∧
      (t.seq die q).backoff = (if 7 ≤ (s.seq die q).refusals then some (Nat.max cyc (s.die die).cyc + 512) else none)) ∧
    ∀ (z : State) (at_ : Nat), (z.seq die q).backoff = some at_ → at_ ≤ cyc →
      ∃ t, exec (.stealBackoffExpiry die q cyc) z = .next t ∧ t.seq die q = { z.seq die q with backoff := none } ∧ t.insts = z.insts)

/-! ## Paging (R373, R374, R378, R380, R381) -/

/-- PAGE_WALK_COMPLETE, PAGE_RESUME, EVICTION_START and EVICTION_SHOOTDOWN_DONE (R373, R374, R378, R380, R381): a walk that finds
a leaf enters it into the die's TLB and ends for every stream that shares it, whatever the kind of its access, one that finds
none makes its stream take the fault, and a walk behind 96 others does not end; a resumed page lets the instances parked on its
request go on, on every die where the register is that of the die which the request names; an eviction unmaps a leaf that was
valid and not pinned when it was read and that still holds what was read, and marks it as out, else it is abandoned and counted;
it is not done while an access of another module made under the page's translation is unanswered; after the shootdown no TLB
holds the page, and all that the leaf maps stands at the backing address with every other byte of memory as it was.

The model's readings: the size of an evicted page (log entry 83), streams share a walk (log entry 84), and no entry
leaves a TLB by itself (log entry 46). -/
def Obligations.Paging : Prop :=
  (∀ (s : State) (die idx epa : Nat) (w : Walk) (e : TlbEntry), (s.die die).walks[idx]? = some w →
    (96 ≤ (s.die die).walksBefore w.page → exec (.pageWalkComplete die idx) s = .refused (.notEnabled "PAGE_WALK_COMPLETE")) ∧
    ((s.die die).walksBefore w.page < 96 →
    (∀ x ∈ (s.die die).walks, x.asid = w.asid → x.va / 65536 = w.va / 65536 →
      s.walk x.asid x.va (Acc.ofCode x.kind) = .leaf e epa false) →
    ∃ t, exec (.pageWalkComplete die idx) s = .next t ∧ e ∈ (t.die die).tlb ∧
      (e ∉ (s.die die).tlb → (t.die die).tlb = e :: (s.die die).tlb) ∧ t.phys = s.phys ∧
      t.insts = s.insts ∧ (t.die die).walks = (s.die die).walks.filter fun y =>
        !(w.asid == y.asid && w.va / 65536 == y.va / 65536))) ∧
  (∀ (s : State) (die idx : Nat) (w : Walk) (c : Cur), (s.die die).walks[idx]? = some w → (s.die die).walksBefore w.page < 96 →
    (s.die die).walks.filter w.shares = [w] →
    (s.updDie die fun x => { x with walks := x.walks.filter fun y => !w.shares y }).walker w.uid = some c →
    (s.walk w.asid w.va (Acc.ofCode w.kind) = .transFault →
      exec (.pageWalkComplete die idx) s = .next (State.takeTrap c 0x0B 0 0 c.pc (BitVec.ofNat 64 w.va))) ∧
    (s.walk w.asid w.va (Acc.ofCode w.kind) = .accFault →
      exec (.pageWalkComplete die idx) s = .next (State.takeTrap c 0x0C 0 0 c.pc (BitVec.ofNat 64 w.va)))) ∧
  (∀ (s : State) (die no : Nat), die < 20 → (∀ c ∈ s.host.queues.cells, c.2.page ≠ some no) →
    ∃ t, exec (.pageResume die no) s = .next t ∧ t.host.resv.get 0 die = no ∧ t.phys = s.phys ∧
      (∀ r ∈ t.host.requests, ¬ (r.1 = no ∧ r.2.2.2.2 = die)) ∧
      ∀ d, d < 20 → (d = die ∨ ∃ r ∈ s.host.requests, r.1 = no ∧ r.2.2.2.2 = die) →
      ∀ u i, (no, u) ∈ (s.die d).sch.parks → s.inst u = some i →
        t.inst u = some { i with sched := { i.sched with wait := .page true } }) ∧
  (∀ (s : State) (asid va leaf backing : Nat), (s.homeOf leaf).isSome → (∀ k, k < 8 → s.ctlAt (leaf + k) = none) →
    let e := s.readPa leaf 8
    let old := (s.host.evReads.find leaf).getD e
    ((old % 2 = 0 ∨ old / 2 ^ 8 % 256 ≠ 0 ∨ old ≠ e) →
      ∃ t, exec (.evictionStart asid va leaf backing) s = .next t ∧ t.host.evictions = s.host.evictions ∧ t.phys = s.phys ∧
        t.host.ras = bumpCounter s.host.ras 0 ∧ t.host.evReads.find leaf = none) ∧
    (e % 2 = 1 → e / 2 ^ 8 % 256 = 0 → old = e →
      ∃ t, exec (.evictionStart asid va leaf backing) s = .next t ∧
        t.host.evictions = s.host.evictions ++ [(asid, va, e / 2 ^ 16 % 2 ^ 36 * 2 ^ 16, backing,
          s.leafSize va leaf 3 (fieldOf (s.asidRec asid) 63 0))] ∧
        (BitVec.ofNat 64 (t.readPa leaf 8)) = (BitVec.ofNat 64 e &&& ~~~1#64) ||| 32#64 ∧
        ∀ a, (a < leaf ∨ leaf + 8 ≤ a) → t.phys.mem.get 0 a = s.phys.mem.get 0 a)) ∧
  ∀ (s : State) (idx asid va frame backing size : Nat), s.memWf →
    s.host.evictions[idx]? = some (asid, va, frame, backing, size) → (s.homeOf frame).isSome → (s.homeOf backing).isSome →
    ((∃ d, d < 20 ∧ s.tlbOpen d (fun e => e.covers asid va) = true) →
      exec (.evictionShootdownDone idx) s = .refused (.notEnabled "EVICTION_SHOOTDOWN_DONE")) ∧
    ((∀ d, d < 20 → s.tlbOpen d (fun e => e.covers asid va) = false) →
    ∃ t, exec (.evictionShootdownDone idx) s = .next t ∧ t.host.evictions = s.host.evictions.eraseIdx idx ∧
      (∀ d, d < 20 → ∀ e ∈ (t.die d).tlb, e.covers asid va = false) ∧
      (∀ k, k < size → t.phys.mem.get 0 (backing + k) = s.phys.mem.get 0 (frame + k)) ∧
      ∀ a, (a < backing ∨ backing + size ≤ a) → t.phys.mem.get 0 a = s.phys.mem.get 0 a)

/-! ## Rings (R13 to R15, R270, R394 to R402) -/

/-- RING_SLOT (R13, R14, R15, R270, R275): at the slot boundary of a ring in which every die is there, every die's slot counter
rises by one and every position moves on by one die, the first die of a spliced ring taking in what its receiver has; a segment that has come to the head of a die's store is presented
there.

Repair events (R394 to R402): a fence order and a failure mark a ring die; a failing idle lane becomes unusable and is
counted; an arriving image is that of the first lost segment still without one; a re-read makes a torn position whole; a
takeover takes the silent die out of its ring with every instance on it, and without a free route the ring halts; a patrol scrub
poisons every line with an uncorrectable error and changes no byte.

The model's choices: how lanes are numbered (log entry 89), the torn marks (log entry 81), which dies fail (log entry 127),
and how many corrected errors a scrub finds (log entry 26). -/
def Obligations.RingSlotsAndRepair : Prop :=
  (∀ (s : State) (k : Nat), let r := s.rings.get Ring.init k
    let taken := r.inFrom.headD ⟨none, false, none⟩
    r.formed = true → r.halted = false → r.bypasses = [] → r.dies.Nodup → taken.torn = false → taken.out = none →
    (∀ d ∈ r.dies, s.silent d (r.start + r.slotCycles) = false ∧ (s.die d).ring.owed = 0 ∧ (s.die d).ring.transit ≠ [] ∧
      ∀ p ∈ (s.die d).ring.transit, p.torn = false ∧ p.out = none) →
    ∃ t, exec (.ringSlot k) s = .next t ∧ (t.rings.get Ring.init k).start = r.start + r.slotCycles ∧
      (t.rings.get Ring.init k).inFrom = r.inFrom.drop 1 ∧
      ∀ j d e, r.dies[j]? = some d → r.dies[(j + r.dies.length - 1) % r.dies.length]? = some e →
        (t.die d).regs.rslotc = (s.die d).regs.rslotc + 1 ∧
        (t.die d).ring.transit = (s.die d).ring.transit.drop 1 ++
          [if r.spliced = true ∧ j = 0 then taken else (s.die e).ring.transit.headD ⟨none, false, none⟩] ∧
        ∀ g, ((t.die d).ring.transit.headD ⟨none, false, none⟩).seg = some g →
          ∃ p, (t.die d).ring.pres.find (s.die d).ring.nextPres = some p ∧ p.seg = g.id ∧ p.asid = g.asid ∧ p.ord = g.ord) ∧
  ((∀ (s : State) (d cyc : Nat), ∃ t, exec (.dieFenceOrder d cyc) s = .next t ∧
    (t.die d).ring.fence = (match (s.die d).ring.fence with
      | some c => some c
      | none => some cyc) ∧ t.insts = s.insts ∧ t.phys = s.phys) ∧
  (∀ (s : State) (d : Nat) (c : DieFault), d < 16 → ∃ t, exec (.dieFailure d c) s = .next t ∧ (t.die d).ring.stopped = true ∧
    (∀ e, e ≠ d → t.die e = s.die e) ∧ t.insts = s.insts ∧ t.phys = s.phys) ∧
  (∀ (s : State) (lane : Nat), lane ∉ s.lanesUsed → exec (.laneTest lane true) s = .next s ∧
    ∃ t, exec (.laneTest lane false) s = .next t ∧ lane ∈ t.host.badLanes ∧ (∀ l ∈ s.host.badLanes, l ∈ t.host.badLanes) ∧
      (t.die (laneDie lane)).ras = bumpCounter (s.die (laneDie lane)).ras 7) ∧
  (∀ (s : State) (k : Nat) (b : Bypass) (pre post : List LostSeg) (l : LostSeg),
    (s.rings.get Ring.init k).bypasses = [b] → b.lost = pre ++ l :: post → (∀ x ∈ pre, x.arrived = true) → l.arrived = false →
    ∃ t, exec (.ringImageArrival k) s = .next t ∧
      (t.rings.get Ring.init k).bypasses = [{ b with lost := pre ++ { l with arrived := true } :: post }] ∧ t.dies = s.dies) ∧
  (∀ (s : State) (k d : Nat) (pre post : List Position) (p : Position), (s.die d).ring.transit = pre ++ p :: post →
    (∀ x ∈ pre, ¬ (x.torn = true ∧ x.seg.isSome ∧ x.out = none)) → p.torn = true → p.seg.isSome → p.out = none →
    ∃ t, exec (.ringImageReread k d true) s = .next t ∧ (t.die d).ring.transit = pre ++ { p with torn := false } :: post ∧
      (t.die d).ras = bumpCounter (s.die d).ras 2) ∧
  (∀ (s : State) (k j d : Nat), let r := s.rings.get Ring.init k
    let x := r.next d
    let y := r.next x
    r.formed = true → r.halted = false → r.spliced = false → x < 16 → r.dies[j]? = some d →
    s.silent d (r.start + r.slotCycles) = false → s.silent x (r.start + r.slotCycles) = true →
    (s.routeFree r d x y (r.start + r.slotCycles) = false → ∃ t, exec (.colBypassTakeover k j) s = .next t ∧
      t.rings.get Ring.init k = { r with halted := true } ∧ t.dies = s.dies ∧ t.insts = s.insts) ∧
    (s.routeFree r d x y (r.start + r.slotCycles) = true → ∃ t, exec (.colBypassTakeover k j) s = .next t ∧
      (t.rings.get Ring.init k).dies = r.dies.filter (fun e => e != x) ∧ (t.die x).ring.stopped = true ∧
      ∀ u i, s.inst u = some i → i.who.die = x → t.inst u = none)) ∧
  ∀ (s : State) (d : Nat), ∃ t, exec (.patrolScrub d) s = .next t ∧ t.phys.mem = s.phys.mem ∧ t.insts = s.insts ∧
    (∀ a ∈ s.phys.bad, a ∈ t.phys.bad) ∧
    ∀ a ∈ s.phys.bad, s.homeOf a = some (if 16 ≤ d then .hbm d else .dieMem d) → ∀ b, b / 64 = a / 64 → b ∈ t.phys.bad)

/-! ## Guldon queues (R356 to R366) -/

/-- The queue may start its head packet `p`, of type `ty` (R359, R361). -/
def Claims.atHead (s : State) (q ty : Nat) (p : Packet) : Prop :=
  let g := s.queue q
  g.head = some p ∧ p.typ = ty ∧ g.on = true ∧ g.st < 4 ∧ s.fw.quiesced = false ∧ g.page = none ∧ g.waiting = false ∧
    g.replays = false ∧ (p.bar = true → g.open_ = [])
/-- The packet with the number of its start. -/
def Claims.keyed (s : State) (q : Nat) (p : Packet) : Packet := { p with key := (s.queue q).starts }
/-- The queue counts the packet among those under way. -/
def Claims.underWay (s : State) (q : Nat) (p : Packet) : State :=
  s.updQueue q fun g => { g with head := none, open_ := g.open_ ++ [p] }.refresh
/-- The state with the examination of the queue begun: no kick is latched. -/
def Claims.examined (s : State) (q : Nat) : State := s.updQueue q fun g => { g with kick := false, page := none }
/-- The slot that the queue examines next does not hold its next packet, so the examination that follows a packet finds
nothing (R360). -/
def Claims.slotWaits (s : State) (q : Nat) : Prop :=
  let x := Claims.examined s q
  let g := s.queue q
  g.on = true ∧ g.st < 4 ∧ s.fw.quiesced = false ∧ g.head = none ∧ g.replays = false ∧
    ∃ pa, x.feResolve g.asid g.slotVa .read = (x, .ok pa) ∧ isSpan pa = false ∧ x.badAt pa 64 = false ∧
      x.readPa pa 64 % 2 ^ 32 ≠ g.seq
/-- The packet has been consumed (R359): it is under way under a new number, and rd has gone on by one. -/
def Claims.taken (s t : State) (q : Nat) (p : Packet) : Prop :=
  (t.queue q).head = none ∧ (t.queue q).rd = ((s.queue q).rd + 1) % 2 ^ 32 ∧ (t.queue q).starts = (s.queue q).starts + 1 ∧
    ∃ x, (t.queue q).open_ = (s.queue q).open_ ++ [x] ∧ x.hdr = p.hdr ∧ x.no = p.no ∧ x.seq = p.seq ∧ x.body = p.body ∧
      x.key = (s.queue q).starts
/-- The head packet of the queue is begun (R356, R359): its packet core has taken this queue last. -/
def Claims.begun (s : State) (q : Nat) : State :=
  State.updQueue { s with fw := { s.fw with turn := s.fw.turn.put (s.coreOf q) q } } q GQueue.begin_
/-- The record image of a packet in the launch queue, with what its write releases (R248). -/
def Claims.image (s : State) (q : Nat) (bits : BitVec 256) (key : Nat) : Image :=
  ⟨bits, (s.queue q).asid, some q, some key, false, 0, none, (headOf hostPos 3 (s.queue q).ledger.view).head?⟩
/-- The state after the front end has read `n` bytes (R248). -/
def Claims.feRead (s : State) (q pa n : Nat) : State := (s.frontLoad q pa n true).1
/-- The front end reads `n` bytes of this module at `va`, at `pa`. -/
def Claims.feReads (s : State) (q va n pa : Nat) : Prop :=
  s.feResolve (s.queue q).asid va .read = (s, .ok pa) ∧ isSpan pa = false ∧ s.badAt pa n = false
/-- Memory with `n` bytes copied one after another. -/
def Claims.copiedMem (m : FMap Byte) (pa pb : Nat) : Nat → FMap Byte
  | 0 => m
  | n + 1 => (Claims.copiedMem m pa pb n).set 0 (pb + n) ((Claims.copiedMem m pa pb n).get 0 (pa + n))
/-- The state with `n` bytes of a `COPY` read and written one after another. -/
def Claims.copied (s : State) (q : Nat) (p : Packet) (pa pb : Nat) : Nat → State
  | 0 => s
  | n + 1 =>
    let x := (Claims.copied s q p pa pb n).frontLoad q (pa + n) 1 false
    (x.1.packetStore q p (p.w 3 + n) (pb + n) 1 0 x.2 none).1

/-- Packets (R359 to R361, R363): a head packet that its queue may start is consumed, and does what its type says. A `NOP` does
nothing; a `LAUNCH` or `ILAUNCH` writes its record image to the launch queue of its die, or starts its prologue; a `COPY`
copies its bytes in ascending order; a `SIGNAL` stores, adds to memory or steps a semaphore, and with a waiter on another module
not before every posted store of the queue's work is acknowledged (R260); a `WAIT` is done if its condition
holds and otherwise leaves the queue in state 3, and a later read that finds it true ends it.

The model's choice: what the front end reads, the words of an `ILAUNCH`, a `WAIT` or a `COPY`, is the newest value in memory (log
entry 45), and a prologue PC that no stream may hold is a packet error (log entry 170).

The model's readings: how a queue goes on after a packet (log entries 94, 95 and 98), the bytes of a `COPY` (log entry 100),
when a prologue starts (log entry 102), and what a `SIGNAL` to another module waits for (log entry 153). -/
def Obligations.QueuePackets : Prop :=
  ∀ (s : State) (q : Nat) (p : Packet),
    let b := Claims.begun s q
    let k := Claims.keyed s q p
    let done := { k with ready := true }
    let asid := (s.queue q).asid
    (Claims.atHead s q 0 p → p.unused 2 = true → Claims.slotWaits (Claims.underWay b q done) q →
      ∃ t, exec (.guldonNop q) s = .next t ∧ Claims.taken s t q p ∧ t.phys = s.phys ∧ t.insts = s.insts ∧ t.dies = s.dies) ∧
    (Claims.atHead s q 1 p → p.w 6 = 0 → s.launchFull p.die = false →
      Claims.slotWaits (Claims.underWay (b.packetLaunch q k p.image) q { done with inq := 1 }) q →
      ∃ t, exec (.guldonLaunch q) s = .next t ∧ Claims.taken s t q p ∧ t.phys = s.phys ∧ t.insts = s.insts ∧
        (t.die p.die).sch.launchq = (s.die p.die).sch.launchq ++ [Claims.image s q p.image (s.queue q).starts]) ∧
    (Claims.atHead s q 1 p → p.w 6 ≠ 0 → addrBad (p.w 6) 8 = true →
      exec (.guldonLaunch q) s = .next (b.packetError q p.die p.no)) ∧
    (∀ n, Claims.atHead s q 1 p → p.w 6 ≠ 0 → addrBad (p.w 6) 8 = false → s.host.prologues.find p.die = none → s.ctlAt (s.scratchAt p.die) = none →
      freeBelow (s.die p.die).sch.stackIds (s.die p.die).regs.stkn.toNat = some n →
      (∀ x y, b.startPrologue q k = .go x y → Claims.slotWaits (Claims.underWay x q y) q) →
      ∃ t i, exec (.guldonLaunch q) s = .next t ∧ Claims.taken s t q p ∧ t.inst s.nextUid = some i ∧ i.who.kind = .prologue ∧
        i.who.die = p.die ∧ i.who.queue = some q ∧ i.ctx.pc = BitVec.ofNat 64 (p.w 6) ∧ i.sched.status = .resident ∧
        i.sched.seq = some (frontSeq p.die) ∧ t.host.prologues.find p.die = some (q, (s.queue q).starts, 0)) ∧
    (∀ pa, Claims.atHead s q 2 p → p.unused 7 = true → addrBad (p.w 6) 4 = false → s.launchFull p.die = false →
      Claims.feReads b q (p.w 6) 4 pa →
      let img := setField p.image 95 64 (b.readPa pa 4)
      let c := Claims.feRead b q pa 4
      Claims.slotWaits (Claims.underWay (c.packetLaunch q k img) q { done with inq := 1 }) q →
      ∃ t, exec (.guldonIlaunch q) s = .next t ∧ Claims.taken s t q p ∧ t.phys = s.phys ∧ t.insts = s.insts ∧
        (t.die p.die).sch.launchq = (s.die p.die).sch.launchq ++ [Claims.image c q img (s.queue q).starts]) ∧
    (∀ n pa pb, Claims.atHead s q 3 p → p.unused 5 = true → p.w 4 = n → 0 < n → n ≤ 2 ^ 32 → p.pos = 0 → s.phys.bad = [] →
      (∀ j, j < n → let x := Claims.copied b q k pa pb j
        x.feResolve asid (p.w 2 + j) .read = (x, .ok (pa + j)) ∧ x.feResolve asid (p.w 3 + j) .write = (x, .ok (pb + j)) ∧
          isSpan (pa + j) = false ∧ isSpan (pb + j) = false ∧ s.ctlAt (pa + j) = none ∧ s.ctlAt (pb + j) = none) →
      Claims.slotWaits (Claims.underWay (Claims.copied b q k pa pb n) q { done with pos := n }) q →
      ∃ t, exec (.guldonCopy q) s = .next t ∧ Claims.taken s t q p ∧ t.insts = s.insts ∧
        t.phys.mem = Claims.copiedMem s.phys.mem pa pb n) ∧
    (Claims.atHead s q 4 p → p.unused 5 = true → p.w 4 < 4 → p.remote = true →
      (∃ c ∈ s.ports.sent.cells, c.2.queue = some q ∧ c.2.op = 0) →
      exec (.guldonSignal q) s = .refused (.notEnabled "GULDON_SIGNAL")) ∧
    (∀ pa, Claims.atHead s q 4 p → p.unused 5 = true → p.w 4 < 2 → addrBad (p.w 2) 8 = false →
      (p.remote = true → ∀ c ∈ s.ports.sent.cells, ¬ (c.2.queue = some q ∧ c.2.op = 0)) →
      b.feResolve asid (p.w 2) (if p.w 4 = 0 then .write else .both) = (b, .ok pa) → isSpan pa = false → s.ctlAt pa = none →
      let v := if p.w 4 = 0 then p.w 3 else b.readPa pa 8 + p.w 3
      Claims.slotWaits (Claims.underWay (b.packetStore q done (p.w 2) pa 8 (p.w 4) (p.w 3) (some p.relScope)).1 q done) q →
      ∃ t, exec (.guldonSignal q) s = .next t ∧ Claims.taken s t q p ∧ t.insts = s.insts ∧
        (∀ j, j < 8 → t.phys.mem.get 0 (pa + j) = BitVec.ofNat 8 (v / 256 ^ j)) ∧
        ∀ a, (a < pa ∨ pa + 8 ≤ a) → t.phys.mem.get 0 a = s.phys.mem.get 0 a) ∧
    (Claims.atHead s q 4 p → p.unused 5 = true → (p.w 4 = 2 ∨ p.w 4 = 3) → b.packetRef q k = true →
      (p.remote = true → ∀ c ∈ s.ports.sent.cells, ¬ (c.2.queue = some q ∧ c.2.op = 0)) →
      let i := p.w 2 % 256
      let tile := p.w 2 / 256 % 32
      let y := b.packetSem q k
      let z := if p.w 4 = 2 then y.semAdd p.die tile i (p.w 3) else y.semStep p.die tile i (BitVec.ofNat 32 (p.w 3))
      Claims.slotWaits (Claims.underWay z q done) q →
      ∃ t, exec (.guldonSignal q) s = .next t ∧ t.tiles = z.tiles ∧ t.insts = z.insts ∧ t.phys = z.phys) ∧
    (∀ pa, p.unused 5 = true → p.w 4 < 2 → addrBad (p.w 2) 8 = false → isSpan pa = false → s.badAt pa 8 = false →
      (Claims.atHead s q 5 p → b.feResolve asid (p.w 2) .read = (b, .ok pa) →
        let v := b.readPa pa 8
        ((if p.w 4 = 0 then p.w 3 ≤ v else v = p.w 3) → Claims.slotWaits (Claims.underWay (Claims.feRead b q pa 8) q done) q →
          ∃ t, exec (.guldonWait q) s = .next t ∧ Claims.taken s t q p ∧ t.phys = s.phys ∧ t.insts = s.insts) ∧
        (¬ (if p.w 4 = 0 then p.w 3 ≤ v else v = p.w 3) →
          ∃ t, exec (.guldonWait q) s = .next t ∧ (t.queue q).head = some k ∧ (t.queue q).waiting = true ∧ (t.queue q).st = 3 ∧
            t.phys = s.phys ∧ t.insts = s.insts)) ∧
      let w := Claims.begun s q
      (s.queue q).head = some p → p.typ = 5 → (s.queue q).on = true → (s.queue q).st < 4 → s.fw.quiesced = false →
      (s.queue q).page = none → (s.queue q).waiting = true → w.feResolve asid (p.w 2) .read = (w, .ok pa) →
      (if p.w 4 = 0 then p.w 3 ≤ w.readPa pa 8 else w.readPa pa 8 = p.w 3) →
      Claims.slotWaits (Claims.underWay (Claims.feRead w q pa 8) q { p with ready := true }) q →
      ∃ t, exec (.guldonWaitSatisfied q) s = .next t ∧ (t.queue q).head = none ∧ (t.queue q).waiting = false ∧
        (t.queue q).open_ = (s.queue q).open_ ++ [{ p with ready := true }] ∧ t.phys = s.phys ∧ t.insts = s.insts) ∧
    (Claims.atHead s q 5 p → p.unused 5 = true → p.w 4 = 2 → b.packetRef q k = true →
      p.w 3 % 2 ^ 32 ≤ (s.sem p.die (p.w 2 / 256 % 32) (p.w 2 % 256)).toNat →
      Claims.slotWaits (Claims.underWay (b.queueOrd q fun o =>
        o.acquire (b.semHeads p.die (p.w 2 / 256 % 32) (p.w 2 % 256)) 4) q done) q →
      ∃ t, exec (.guldonWait q) s = .next t ∧ Claims.taken s t q p ∧ t.phys = s.phys ∧ t.tiles = s.tiles)

/-- Control packets (R344, R346, R352, R361): a `LOOP` takes the next n packets k times; a `COND` whose condition holds goes on, and
one whose condition fails skips the next n packets; a `RESTORE` puts the instance that was parked in the named frame back
into the lowest free slot of its saving tile, with the frame's PC, `%sp` and registers; a `DOORBELL` sets bits of `%hdb`.

The model's choice: what `COND` and the front end's other reads find is the newest value in memory (log entry 45).

The model's readings: the frame of a `RESTORE` (log entries 93 and 104), the bound on the n of `LOOP` and `COND` (log
entries 96 and 97), and the lowest free slot (log entry 13). -/
def Obligations.ControlPackets : Prop :=
  ∀ (s : State) (q : Nat) (p : Packet),
    let b := Claims.begun s q
    let done := { Claims.keyed s q p with ready := true }
    (∀ n k, Claims.atHead s q 6 p → p.unused 4 = true → p.w 2 = n → p.w 3 = k → 0 < n → n ≤ 16 → 0 < k → k < 2 ^ 32 →
      n < (s.queue q).cap →
      Claims.slotWaits (Claims.underWay (b.updQueue q fun g => { g with toRead := n, left := n * k }) q done) q →
      ∃ t, exec (.guldonLoop q) s = .next t ∧ Claims.taken s t q p ∧ (t.queue q).toRead = n ∧ (t.queue q).left = n * k ∧
        t.phys = s.phys ∧ t.insts = s.insts) ∧
    (∀ n pa, Claims.atHead s q 7 p → p.unused 6 = true → p.w 4 ≤ 3 → p.w 5 = n → n < 2 ^ 16 → n < (s.queue q).cap →
      addrBad (p.w 2) 8 = false → Claims.feReads b q (p.w 2) 8 pa →
      let m := b.readPa pa 8
      let c := Claims.feRead b q pa 8
      let holds := (p.w 4 = 0 ∧ m = p.w 3) ∨ (p.w 4 = 1 ∧ m ≠ p.w 3) ∨ (p.w 4 = 2 ∧ m < p.w 3) ∨ (p.w 4 = 3 ∧ p.w 3 ≤ m)
      (holds → Claims.slotWaits (Claims.underWay c q done) q →
        ∃ t, exec (.guldonCond q) s = .next t ∧ Claims.taken s t q p ∧ (t.queue q).skip = (s.queue q).skip ∧ t.phys = s.phys) ∧
      (¬ holds → Claims.slotWaits (Claims.underWay (c.updQueue q fun g => { g with skip := n }) q done) q →
        ∃ t, exec (.guldonCond q) s = .next t ∧ Claims.taken s t q p ∧ (t.queue q).skip = n ∧ t.phys = s.phys)) ∧
    (∀ (l : List (Nat × Nat)) (u x k : Nat) (i : Inst), Claims.atHead s q 8 p → p.unused 3 = true → addrBad (p.w 2) 256 = false →
      b.mapRange p.die (s.queue q).asid .read (pagesOf (p.w 2) frameSize).1 (pagesOf (p.w 2) frameSize).2 = (b, .ok l) →
      ((s.instsOn p.die).find? fun y => y.2.sched.status == .held && y.2.sched.heldAt == some (viaPages l (p.w 2))) =
        some (u, i) →
      s.inst u = some i → i.sched.wait = .none →
      let rd := b.virtRd l (p.w 2)
      frameBad rd = false → framePending rd = false → rd 0 4 / 2 ^ 16 % 2 = 0 → rd 0x350 4 = 0 →
      (rd 0x1E0 4 = 0 ∨ rd 0x1E0 4 = 6) →
      s.tileSlot p.die (i.sched.accTile.getD 0) = some (x, k) →
      (∀ z, b.restoreIn u i x k (s.die p.die).cyc rd (fun _ _ => 0) = .ok z () → Claims.slotWaits (Claims.underWay z q done) q) →
      ∃ t j, exec (.guldonRestore q) s = .next t ∧ Claims.taken s t q p ∧ t.inst u = some j ∧ j.sched.status = .resident ∧
        j.sched.seq = some x ∧ j.sched.slot = k ∧ j.sched.heldAt = none ∧ j.ctx.pc = BitVec.ofNat 64 (rd 8 8) ∧
        j.ctx.st.sp = BitVec.ofNat 64 (rd 0x10 8) ∧
        (∀ m, 1 ≤ m → m < 56 → j.ctx.regs.getS m = BitVec.ofNat 32 (rd (0x40 + 4 * m) 4)) ∧
        (t.seq p.die x).slots.find k = some u ∧ t.phys = s.phys) ∧
    (Claims.atHead s q 9 p → p.unused 4 = true → p.w 2 < frontSeq p.die → p.w 3 < 2 ^ 32 →
      Claims.slotWaits (Claims.underWay (b.updSeq p.die (p.w 2) fun x => { x with hdb := x.hdb ||| BitVec.ofNat 32 (p.w 3) }) q
        done) q →
      ∃ t, exec (.guldonDoorbell q) s = .next t ∧ Claims.taken s t q p ∧ t.phys = s.phys ∧ t.insts = s.insts ∧
        t.seq p.die (p.w 2) =
          { s.seq p.die (p.w 2) with hdb := (s.seq p.die (p.w 2)).hdb ||| BitVec.ofNat 32 (p.w 3) })

/-- Queues (R358, R360, R361, R363, R365, R366): a doorbell has the slot of packet rd examined, while an update holds the queues
back it latches the kick; a good packet becomes the queue's head, and one with a bad header is a packet error; a commit of the
next generation latches the live copy, and of another one counts an error; a reset ends every instance of the queue, has no
further effect while it is under way, and leaves the queue idle with record 0x09; a complete packet posts its seq, for a waiter
on another module not before the posted stores of its ended blocks are acknowledged (R260); a prologue
that leaves 0 in s6 has its image written to the launch queue, and one that leaves 1 is done without.

The model's choice: the slot words read after a doorbell are the newest in memory (log entry 45; R360 promises only the sequence
word).

The model's readings: the tile, die and time of the queue's own records (log entry 76), the bits of a base (log entry 98),
and what a reset ends (log entry 103). -/
def Obligations.QueueControl : Prop :=
  (∀ (s : State) (q : Nat), (s.queue q).page = none →
    ((s.queue q).on = false → ∃ t, exec (.queueDoorbellWrite q) s = .next t ∧ t.queue q = { s.queue q with kick := false } ∧
      t.phys = s.phys) ∧
    ((s.queue q).on = true → (s.queue q).st < 4 → s.fw.quiesced = true →
      ∃ t, exec (.queueDoorbellWrite q) s = .next t ∧ t.queue q = { s.queue q with kick := true } ∧ t.phys = s.phys) ∧
    ∀ pa, let x := Claims.examined s q
      let g := s.queue q
      let p := Packet.ofSlot g.rd (x.readPa pa 64)
      g.on = true → 0 < g.st → g.st < 4 → s.fw.quiesced = false → g.head = none → g.replays = false → g.waiting = false →
      g.skip = 0 → g.toRead = 0 → x.feResolve g.asid g.slotVa .read = (x, .ok pa) → isSpan pa = false → x.badAt pa 64 = false →
      p.seq = g.seq →
      (x.headerBad g p = false → ∃ t, exec (.queueDoorbellWrite q) s = .next t ∧ (t.queue q).head = some p ∧
        (t.queue q).st = 2 ∧ (t.queue q).rd = g.rd ∧ (t.queue q).kick = false ∧ t.phys = s.phys ∧ t.insts = s.insts) ∧
      (x.headerBad g p = true → ∃ y : State, exec (.queueDoorbellWrite q) s = .next (y.err (some q) 8 g.asid p.die 31 q g.rd) ∧
        (y.queue q).st = 5 ∧ (y.queue q).head = none ∧ y.phys = s.phys)) ∧
  (∀ (s : State) (q gen : Nat), let g := s.queue q
    (gen % 2 ^ 32 ≠ (fieldOf g.shadow 159 128 + 1) % 2 ^ 32 → ∃ t, exec (.qcbCommit q gen) s = .next t ∧
      t.host = { s.host with qcErrors := s.host.qcErrors + 1 } ∧ t.phys = s.phys) ∧
    (gen % 2 ^ 32 = (fieldOf g.shadow 159 128 + 1) % 2 ^ 32 → ∃ t, exec (.qcbCommit q gen) s = .next t ∧
      fieldOf (t.queue q).shadow 127 0 = fieldOf g.live 127 0 ∧ fieldOf (t.queue q).shadow 159 128 = gen % 2 ^ 32 ∧
      (t.queue q).live = g.live ∧
      (g.on = false → fieldOf g.live 77 77 = 1 → (t.queue q).seq = 1 ∧ (t.queue q).rd = 0) ∧
      (g.on = true → (t.queue q).seq = g.seq ∧ (t.queue q).rd = g.rd) ∧
      (t.queue q).st = (if g.st = 4 ∨ g.st = 5 then g.st else if fieldOf g.live 77 77 = 0 then 0
        else if g.st = 0 then 1 else g.st) ∧ t.phys = s.phys ∧ t.insts = s.insts)) ∧
  (∀ (s : State) (q : Nat),
    ((s.queue q).st = 4 → exec (.queueReset q) s = .next s) ∧
    ((s.queue q).st ≠ 4 → ∃ t, exec (.queueReset q) s = .next t ∧ ∀ u i, t.inst u = some i → i.who.queue ≠ some q) ∧
    ((s.queue q).st = 4 → s.queueBusy q = false → ∃ x : State,
      exec (.queueResetComplete q) s = .next (x.err (some q) 9 (s.queue q).asid 31 31 q (s.queue q).ended) ∧
      (x.queue q).st = 1 ∧ fieldOf (x.queue q).shadow 232 232 = 0 ∧ (x.queue q).open_ = [] ∧ (x.queue q).head = none ∧
      x.phys = s.phys ∧ x.insts = s.insts)) ∧
  (∀ (s : State) (q k : Nat) (p : Packet), ((s.queue q).open_.find? fun x => x.key == k) = some p → p.complete = true →
    (s.queue q).st ≠ 4 →
    (p.remote = true → p.late ≠ [] → exec (.packetCompletion q k) s = .refused (.notEnabled "PACKET_COMPLETION")) ∧
    ((p.remote = true → p.late = []) →
    let x := s.updQueue q fun g => { g with open_ := g.open_.filter fun y => y.key != k }.refresh
    (p.cmpl = false → exec (.packetCompletion q k) s = .next x) ∧
    ∀ pa, p.cmpl = true → x.feResolve (s.queue q).asid p.caddr.toNat .write = (x, .ok pa) → isSpan pa = false →
      s.ctlAt pa = none →
      ∃ t o, exec (.packetCompletion q k) s = .next t ∧ t.host = (x.updQueue q fun g => { g with ord := o }).host ∧
        t.insts = s.insts ∧
        (∀ j, j < 8 → t.phys.mem.get 0 (pa + j) = BitVec.ofNat 8 (p.seq / 256 ^ j)) ∧
        ∀ a, (a < pa ∨ pa + 8 ≤ a) → t.phys.mem.get 0 a = s.phys.mem.get 0 a)) ∧
  ∀ (s : State) (die q key run u : Nat) (i : Inst) (p : Packet), s.host.prologues.find die = some (q, key, run) →
    ((s.instsOn die).find? fun x => x.2.who.kind == .prologue && x.2.sched.status == .exited) = some (u, i) →
    s.inst u = some i → i.who.recNo = none → i.ex.segTask = none → i.coh = none →
    ((s.queue q).open_.find? fun x => x.key == key) = some p → p.die = die →
    let act := (i.ctx.landAll.regs.getS 6).toNat % 4
    (act = 1 → ∃ t x, exec (.prologueEnd die) s = .next t ∧ t.inst u = none ∧ t.host.prologues.find die = none ∧
      x ∈ (t.queue q).open_ ∧ x.key = key ∧ x.ready = true ∧ x.prologue = false ∧
      (t.die die).sch.launchq = (s.die die).sch.launchq ∧ t.phys = s.phys) ∧
    (act = 0 → s.launchFull die = false → ∃ t x, exec (.prologueEnd die) s = .next t ∧ t.inst u = none ∧
      t.host.prologues.find die = none ∧ x ∈ (t.queue q).open_ ∧ x.key = key ∧ x.ready = true ∧ x.prologue = false ∧
      x.inq = p.inq + 1 ∧ t.phys = s.phys ∧
      (t.die die).sch.launchq = (s.die die).sch.launchq ++
        [Claims.image s q (BitVec.ofNat 256 (s.readPa (s.scratchAt die) 32)) p.key])

/-! ## Firmware, keys and attestation (R358, R367 to R369, R390, R411, R412) -/

/-- No queue has a latched kick, and none has been asked for a reset that has not started. -/
def Claims.quiet (s : State) : Prop :=
  ∀ c ∈ s.host.queues.cells, c.2.kick = false ∧ (fieldOf c.2.shadow 232 232 = 0 ∨ c.2.st = 4)

/-- The firmware complex (R356, R358, R367 to R369, R411, R416): a heartbeat is noted, the policy core's ends phase 1 once LPDDR6 is
trained, and within 100 ms of an update it ends the update, the new image taking every queue up where the handover structure left it
if it knows that structure's version; the watchdog resets a silent core, the policy core starts again from the active slot and a
packet core from the packet-core image, and the live copies become their shadows again; an update waits for packets that have started; then a signed image that is not too old is written to
the other slot and measured, seq, rd and `LOOP` state of every queue are handed over, and the queues stand still, while another
one changes nothing else; 100 ms without a heartbeat bring the old slot back, with record 0x0E to ring 0; in recovery a signed image
that is not too old goes to the active slot; a reset verifies the images, starts the policy core on what the active slot holds (or on
the boot's image, while it is empty) and the packet cores on the packet-core image, or enters recovery.

The model's choice: the packet core of a queue that none has been assigned to (log entry 150). The model's readings: the end of an
update (log entry 106), a watchdog reset (log entry 107), the end of phase 1 (log entry 125), a recovery image (log entry 124), what a reset keeps (log entry 123), and the images of the packet cores (log entry 172).
Signatures, digests and the versions of images are free functions (log entries 29 and 30). -/
def Obligations.FirmwareComplex : Prop :=
  (∀ (s : State) (core cyc : Nat), s.host.phase ≠ 0 → s.host.phase ≠ 5 →
    (s.fw.updating = none → ∃ t, exec (.heartbeatWrite core cyc) s = .next t ∧ t.fw.beat.find core = some cyc ∧
      t.host.phase = (if s.host.phase = 1 ∧ s.host.trained = true ∧ (core = 0 ∨ (s.fw.beat.find 0).isSome) then 2
        else s.host.phase) ∧ t.phys = s.phys ∧ t.insts = s.insts ∧
      t.host.queues = s.host.queues) ∧
    (∀ start, s.fw.updating = some start → start ≤ cyc → cyc ≤ start + 200000000 → Claims.quiet s →
      (s.fw.handover.cells.map (·.1)).Nodup →
      ∃ t, exec (.heartbeatWrite core cyc) s = .next t ∧ t.fw.beat.find core = some cyc ∧ t.fw.updating = none ∧
        t.fw.quiesced = !s.imageKnows ∧ t.phys = s.phys ∧
        (s.imageKnows = false → t.host = s.host ∧ t.fw.handover = s.fw.handover) ∧
        (s.imageKnows = true → t.fw.handover = .empty ∧ ∀ q h, s.fw.handover.find q = some h →
          (t.queue q).seq = h.seq % 2 ^ 32 ∧ (t.queue q).rd = h.rd % 2 ^ 32 ∧ (t.queue q).copies = h.copies ∧
          (t.queue q).toRead = h.toRead ∧ (t.queue q).left = h.left ∧ (t.queue q).skip = h.skip)) ∧
    ((s.fw.beat.find core).getD 0 + 2000000 < cyc → Claims.quiet s →
      (∀ c ∈ s.host.queues.cells, s.coreOf c.1 = core → c.2.head = none) →
      ∃ t, exec (.watchdogReset core cyc) s = .next t ∧ t.fw.beat.find core = some cyc ∧ t.phys = s.phys ∧
        (core = 0 → t.fw.running.get 0 0 = s.fw.images.get 0 (if s.fw.slotB then 1 else 0)) ∧
        (core ≠ 0 → t.fw.running.get 0 core = s.fw.running.get 0 core) ∧
        (∀ k, k < 65536 → t.fw.sramByte core k = Config.sramImage (t.fw.running.get 0 core) k) ∧
        t.insts = s.insts ∧ ∀ q, (s.queue q).shadow ≠ 0 →
          (t.queue q).shadow = (s.queue q).shadow ∧ fieldOf (t.queue q).live 78 0 = fieldOf (s.queue q).shadow 78 0 ∧
          fieldOf (t.queue q).live 127 96 = fieldOf (s.queue q).shadow 127 96) ∧
    (s.fw.updating = none → ∀ image version,
      ((∃ c ∈ s.host.queues.cells, c.2.waiting = true) →
        exec (.firmwareUpdate image version cyc) s = .next { s with fw := { s.fw with quiesced := true } }) ∧
      ((∀ c ∈ s.host.queues.cells, c.2.waiting = false) → Claims.quiet s →
        Config.signatureOk s.sec.fuseRoot image = false ∨ version < s.sec.fuseVersion →
        exec (.firmwareUpdate image version cyc) s =
          .next { s with fw := { s.fw with quiesced := decide (s.fw.handover.cells ≠ []) } }) ∧
      ((∀ c ∈ s.host.queues.cells, c.2.waiting = false) → Config.signatureOk s.sec.fuseRoot image = true →
        s.sec.fuseVersion ≤ version → ∃ t, exec (.firmwareUpdate image version cyc) s = .next t ∧
        t.fw.quiesced = true ∧ t.fw.updating = some cyc ∧ t.fw.slotB = !s.fw.slotB ∧ t.fw.running.get 0 0 = image ∧
        (∀ k, k ≠ 0 → t.fw.running.get 0 k = s.fw.running.get 0 k) ∧
        t.fw.images.get 0 (if s.fw.slotB then 0 else 1) = image ∧ t.fw.versions.get 0 (if s.fw.slotB then 0 else 1) = version ∧
        t.fw.images.get 0 (if s.fw.slotB then 1 else 0) = s.fw.images.get 0 (if s.fw.slotB then 1 else 0) ∧
        t.sec.meas.get 0 2 = Config.sha512 image ∧ t.sec.meas.get 0 5 = s.sec.meas.get 0 2 ∧
        (∀ c ∈ s.host.queues.cells, (c.1, (s.fw.handover.find c.1).getD
          ⟨c.2.seq, c.2.rd, c.2.copies, c.2.toRead, c.2.left, c.2.skip⟩) ∈ t.fw.handover.cells) ∧
        (∀ q, (t.queue q).head = none ∧ (t.queue q).copies = []) ∧
        (∀ q, (s.queue q).shadow ≠ 0 → (t.queue q).shadow = (s.queue q).shadow) ∧ t.phys = s.phys ∧ t.insts = s.insts))) ∧
  (∀ (s : State) (cyc start : Nat), s.fw.updating = some start → start + 200000000 ≤ cyc →
    let old := s.fw.images.get 0 (if s.fw.slotB then 0 else 1)
    let y := State.takeHandover { s with
      fw := { s.fw with
        updating := none, quiesced := false, slotB := !s.fw.slotB, sram := .empty
        running := s.fw.running.set 0 0 old } }
    let back : State := { y with sec := { s.sec with meas := s.sec.meas.set 0 2 (s.sec.meas.get 0 5) } }
    let z := back.errTo 0 0x0E 0 31 31 (if s.fw.slotB then 0 else 1) s.fw.hversion
    Claims.quiet z → exec (.updateRollback cyc) s = .next z) ∧
  (∀ (s : State) (image : Nat), s.host.phase = 5 → ∃ t, exec (.recoveryImage image) s = .next t ∧
    (Config.signatureOk s.sec.fuseRoot image = false ∨ Config.imageVersion image < s.sec.fuseVersion → t = s) ∧
    (Config.signatureOk s.sec.fuseRoot image = true → s.sec.fuseVersion ≤ Config.imageVersion image → t.fw.images.get 0 (if s.fw.slotB then 1 else 0) = image ∧
      t.host = s.host ∧ t.sec = s.sec ∧ t.phys = s.phys)) ∧
  ∀ (s : State) (boot : BootConfig), ∃ t, exec (.moduleReset boot) s = .next t ∧ t.insts = .empty ∧ t.seqs = .empty ∧
    t.dies = .empty ∧ t.tiles = .empty ∧ t.rings = .empty ∧ t.sec.fuseRoot = s.sec.fuseRoot ∧
    t.sec.fuseVersion = s.sec.fuseVersion ∧ t.sec.keys = .empty ∧
    (s.bootOk boot = false → t.host.phase = 5) ∧
    (s.bootOk boot = true → t.host.phase = 1 ∧ t.host.part = BitVec.ofNat 32 (boot.arr % 4 + 4) ∧
      t.ports.moduleNo = boot.moduleNo ∧
      (let slot := if s.fw.slotB then 1 else 0
       let policy := if s.fw.images.get 0 slot = 0 then boot.policyImage else s.fw.images.get 0 slot
       t.fw.images.get 0 slot = policy ∧ t.fw.running.get 0 0 = policy ∧ t.sec.meas.get 0 2 = Config.sha512 policy) ∧
      (∀ c, 1 ≤ c → c ≤ 6 → t.fw.running.get 0 c = boot.packetImage) ∧
      t.sec.meas.get 0 3 = Config.sha512 boot.packetImage)

/-- The security engine (R390, R412): a key written for installing is noted, and installing it replaces the entry with status 1, or
leaves it with status 2 if it does not unwrap; `GET_VERSION`, `GET_CAPABILITIES` and `NEGOTIATE_ALGORITHMS` raise the state of
the negotiation, and the requests after them are answered once it is complete; a request out of order is answered by an error
and joins no transcript; no request changes anything but the security engine.

The model's readings: an install while one is under way (log entry 120), and the order of requests and the bits of the
algorithm masks, which are those of SPDM 1.3 (log entry 121). Cryptography is free (log entry 29). -/
def Obligations.SecurityEngine : Prop :=
  (∀ (s : State) (index wrapped cyc : Nat), s.host.phase ≠ 0 → s.host.phase ≠ 5 →
    ∃ t, exec (.keyInstall index wrapped cyc) s = .next t ∧
      t = { s with sec := { s.sec with install := some (index, wrapped, cyc), status := 0 } }) ∧
  (∀ (s : State) (index wrapped since cyc : Nat), s.sec.install = some (index, wrapped, since) → since ≤ cyc →
    cyc ≤ since + 4000 → ∃ t, exec (.keyInstallDone cyc) s = .next t ∧ t.sec.install = none ∧
      t = { s with sec := t.sec } ∧
      (Config.keyUnwrap wrapped = none → t.sec.status = 2 ∧ t.sec.keys = s.sec.keys) ∧
      ∀ k, Config.keyUnwrap wrapped = some k → t.sec.status = 1 ∧ t.sec.keys.find index = some k ∧
        ∀ j, j ≠ index → t.sec.keys.find j = s.sec.keys.find j) ∧
  (∀ (s : State), ∃ t, exec .getVersion s = .next t ∧ t = { s with sec := t.sec } ∧ t.sec.spdm = 1 ∧
    t.sec.transcript = [0x84]) ∧
  (∀ (s : State) (asym hash slot off len nonce index : Nat),
    ∀ r ∈ [(Instr.getCapabilities, 1), (.negotiateAlgorithms asym hash, 2), (.getDigests, 3), (.getCertificate slot off len, 3),
        (.challenge slot nonce, 3), (.getMeasurements index nonce, 3)],
      ∃ t, exec r.1 s = .next t ∧ t = { s with sec := t.sec } ∧ t.sec.keys = s.sec.keys ∧ t.sec.meas = s.sec.meas ∧
        (s.sec.spdm < r.2 → t.sec.spdm = s.sec.spdm ∧ t.sec.transcript = s.sec.transcript) ∧
        (r.2 ≤ s.sec.spdm → ∃ x l, t.sec.transcript = s.sec.transcript ++ x :: l)) ∧
  ∀ (s : State),
    (1 ≤ s.sec.spdm → ∃ t, exec .getCapabilities s = .next t ∧ t.sec.spdm = 2) ∧
    (2 ≤ s.sec.spdm → ∀ asym hash, ∃ t, exec (.negotiateAlgorithms asym hash) s = .next t ∧
      t.sec.spdm = (if asym / 32 % 2 = 1 ∧ hash / 4 % 2 = 1 then 3 else s.sec.spdm)) ∧
    (3 ≤ s.sec.spdm → ∀ off len, ∃ t, exec (.getCertificate 0 off len) s = .next t ∧
      t.sec.answer = (Config.certificate.drop off).take len) ∧
    (3 ≤ s.sec.spdm → ∀ nonce, ∃ t, exec (.challenge 0 nonce) s = .next t ∧
      t.sec.answer = Config.spdmSign (s.sec.transcript ++ [0x83, 0, nonce])) ∧
    (3 ≤ s.sec.spdm → ∀ index nonce, ∃ t, exec (.getMeasurements index nonce) s = .next t ∧
      (1 ≤ index → index ≤ 6 →
        t.sec.answer = s.sec.meas.get 0 index :: Config.spdmSign (s.sec.transcript ++ [0xE0, index, nonce])) ∧
      (index = 0 → t.sec.answer = 6 :: Config.spdmSign (s.sec.transcript ++ [0xE0, 0, nonce])))

/-! ## Ports (R267, R382 to R389) -/

/-- A message's record lands at the head of its ring and moves the head past it (R386). -/
def Claims.lands (s : State) (m : Message) (t : State) : Prop :=
  ∃ x, s.landBytes m.ring (s.lr m.ring 191 128) (bytesOf (m.len + 2 ^ 32) 8 ++ bytesOf m.num 8 ++ m.payload) = some x ∧
    t.phys = { x.phys with relaxed := t.phys.relaxed } ∧ t.lr m.ring 191 128 = (s.lr m.ring 191 128 + (16 + m.len + 63) / 64 * 64) % 2 ^ 64 ∧ t.insts = x.insts ∧
    t.ports.buffered = x.ports.buffered
/-- The message fits into its ring as it stands, with no gap record due and no pad needed, and its buffer can be written
(R386). -/
def Claims.fitsPlain (s : State) (m : Message) : Prop :=
  m.len ≤ 16368 ∧ s.fits m = true ∧ s.ports.gaps.find m.ring = none ∧
    s.lr m.ring 191 128 % 2 ^ s.lr m.ring 68 64 + (16 + m.len + 63) / 64 * 64 ≤ 2 ^ s.lr m.ring 68 64 ∧
    (s.landBytes m.ring (s.lr m.ring 191 128) (bytesOf (m.len + 2 ^ 32) 8 ++ bytesOf m.num 8 ++ m.payload)).isSome
/-- One message of `len` bytes more is counted as lost on its ring (R388). -/
def Claims.countsLost (s t : State) (n len : Nat) : Prop :=
  s.lr n 447 384 + 1 < 2 ^ 64 → s.lr n 511 448 + len < 2 ^ 64 →
    t.lr n 447 384 = s.lr n 447 384 + 1 ∧ t.lr n 511 448 = s.lr n 511 448 + len

/-- The ports (R267, R382 to R389): a span request with a valid key inside its window is performed, a store or atomic at most once
however often it comes, and any other has no effect; a message is sent again at most 7 times within 2 ms, and one that stays
unanswered ends, its stream told of it; packets are reassembled, a whole message takes the next number of its ring, lands at the
head, waits in the ingest buffer of its port, which notifies the sender, or is lost and counted, by the policy of the ring; a
message that is not whole after 1 ms is lost, also when its next packet comes only then, and later packets of it are dropped; a ring
that is no longer enabled takes nothing; a snapshot copies the loss counters and ovf; a legal ring that is enabled starts empty, its ovf as it was.

The model's choices: an atomic that is sent again is performed at most once and the numbers of messages are never forgotten (log entry
112), `SPAN_UNDELIVERABLE` may happen in any cycle from the sending on (log entry 111), and an atomic that meets an uncorrectable
error writes nothing (log entry 173).

The model's readings: the limit of a window (log entry 110), the numbers of messages (log entry 113), authentication (log
entry 114), the overwrite policy and policy 3 (log entry 115), padding (log entry 117), what a snapshot copies (log entry
118) and the ingest buffer (log entry 119). -/
def Obligations.Ports : Prop :=
  (∀ (s : State) (r : SpanReq), s.host.phase ≠ 0 → s.host.phase ≠ 5 →
    (s.spanRejected r = true → exec (.spanRequestArrival r) s = .next s) ∧
    (s.spanRejected r = false → (s.homeOf r.addr).isSome → s.ctlAt r.addr = none → Claims.quiet s →
      (r.op = .load → ∃ t, exec (.spanRequestArrival r) s = .next t ∧ t.phys = s.phys ∧ t.insts = s.insts) ∧
      (r.op ≠ .load → (r.src, r.no) ∈ s.ports.served → exec (.spanRequestArrival r) s = .next s) ∧
      ((r.src, r.no) ∉ s.ports.served →
        let did (x : State) (o : Ledger) : State := { x with
          ports := { s.ports with views := s.ports.views.put r.src o, served := s.ports.served ++ [(r.src, r.no)] } }
        (r.op = .store → ∃ o heads,
          exec (.spanRequestArrival r) s = .next (did (Claims.wrote s r.addr r.bytes r.data heads) o)) ∧
        ∀ op, r.op = .atomic op →
          (s.badAt r.addr r.bytes = true → ∃ o, exec (.spanRequestArrival r) s = .next ((did s o).uecc r.addr)) ∧
          (s.badAt r.addr r.bytes = false → ∃ o heads,
            exec (.spanRequestArrival r) s = .next
              (match atomNew op (8 * r.bytes) (s.readPa r.addr r.bytes) r.data r.cmp with
                | some v => did (Claims.wrote s r.addr r.bytes v heads) o
                | none => did (s.putHeads r.addr r.bytes heads) o))))) ∧
  (∀ (s : State) (msg cyc : Nat) (m : SpanMsg), s.ports.sent.find msg = some m →
    (m.sends < 8 → cyc ≤ m.sent + 4000000 → ∃ t, exec (.spanResend msg cyc) s = .next t ∧
      t.ports.sent.find msg = some { m with sends := m.sends + 1 } ∧
      (∀ k, k ≠ msg → t.ports.sent.find k = s.ports.sent.find k) ∧ t.phys = s.phys ∧ t.insts = s.insts) ∧
    (m.sent ≤ cyc → (m.op = 2 ∨ (m.op = 1 ∧ m.uid.isSome)) → ∃ t, exec (.spanUndeliverable msg cyc) s = .next t ∧
      t.ports.sent.find msg = none ∧ t.phys = s.phys ∧
      ∀ u i, s.inst u = some i →
        t.inst u = some (if m.uid = some u then { i with ctx := { i.ctx with undeliv := true } } else i)) ∧
    (m.sent ≤ cyc → m.op = 0 → s.waitsFor msg = none → ∃ x : State,
      exec (.spanUndeliverable msg cyc) s = .next (x.err m.queue 5 m.asid m.die 31 m.va (m.addr / 2 ^ 44 % 128)) ∧
      x.ports.sent.find msg = none ∧ x.phys = s.phys ∧
      ∀ u i, m.uid = some u → s.inst u = some i → ∃ j, x.inst u = some j ∧ j.ctx.undeliv = true ∧ msg ∉ j.ctx.posted)) ∧
  (∀ (s : State) (p : UetPacket), s.host.phase ≠ 0 → s.host.phase ≠ 5 →
    (p.mode ≠ .uud ∨ p.otherFeature = true → ∃ t, exec (.uetPacketArrival p) s = .next t ∧
      t.host = { s.host with ras := bumpCounter s.host.ras (1 + p.port) } ∧ t.ports = s.ports ∧ t.phys = s.phys) ∧
    (p.mode = .uud → p.otherFeature = false → s.lr p.ring 71 71 = 0 ∨ (p.ring, p.src, p.msg) ∈ s.ports.givenUp →
      exec (.uetPacketArrival p) s = .next s) ∧
    (p.mode = .uud → p.otherFeature = false → s.lr p.ring 71 71 = 1 → (p.ring, p.src, p.msg) ∉ s.ports.givenUp →
      (∀ m ∈ s.ports.reasm, m.has p = false) →
      let m : Message :=
        ⟨p.ring, p.src, p.msg, p.len, p.frags, FMap.empty.put p.frag p.bytes, p.cyc, s.packetAuth p, 0, p.port⟩
      ∃ t, exec (.uetPacketArrival p) s = .next t ∧ t.phys = s.phys ∧ t.insts = s.insts ∧
        (1 < p.frags → t.ports = { s.ports with reasm := s.ports.reasm ++ [m] }) ∧
        (p.frags ≤ 1 → t.ports.reasm = s.ports.reasm ∧
          (s.packetAuth p = true → t.ports.done = s.ports.done ++ [{ m with num := s.lr p.ring 383 320 }] ∧
            t.lr p.ring 383 320 = (s.lr p.ring 383 320 + 1) % 2 ^ 64) ∧
          (s.packetAuth p = false → t.ports.done = s.ports.done ∧
            (s.lr p.ring 575 512 + 1 < 2 ^ 64 → t.lr p.ring 575 512 = s.lr p.ring 575 512 + 1)))) ∧
    (p.mode = .uud → p.otherFeature = false → s.lr p.ring 71 71 = 1 → (p.ring, p.src, p.msg) ∉ s.ports.givenUp →
      ∀ m, s.ports.reasm.find? (fun m => m.has p) = some m →
      m.first + 2000000 ≤ p.cyc → ∃ t, exec (.uetPacketArrival p) s = .next t ∧ t.phys = s.phys ∧
        t.ports.reasm = s.ports.reasm.filter (fun x => !x.has p) ∧ t.ports.done = s.ports.done ∧
        t.ports.givenUp = s.ports.givenUp ++ [(p.ring, p.src, p.msg)] ∧
        (m.keyOk = true → Claims.countsLost s t m.ring m.len))) ∧
  (∀ (s : State) (idx : Nat) (m : Message), s.ports.done[idx]? = some m →
    (∀ x ∈ s.ports.done.take idx, x.ring ≠ m.ring) →
    let x := (s.updPorts fun p => { p with done := p.done.eraseIdx idx }).releaseHeld m.ring
    (s.lr m.ring 71 71 = 0 → exec (.ingestMessageLanding idx) s =
      .next (s.updPorts fun p => { p with done := p.done.eraseIdx idx })) ∧
    (s.lr m.ring 71 71 = 1 →
    (Claims.fitsPlain x m → (s.lr m.ring 70 69 = 1 ∨ ∀ y ∈ s.ports.buffered, y.ring ≠ m.ring) →
      ∃ t, exec (.ingestMessageLanding idx) s = .next t ∧ Claims.lands x m t) ∧
    (16368 < m.len ∨ (s.lr m.ring 70 69 ≠ 1 ∧ s.lr m.ring 70 69 ≠ 2 ∧ x.fits m = false) →
      ∃ t, exec (.ingestMessageLanding idx) s = .next t ∧ t.phys = s.phys ∧ Claims.countsLost x t m.ring m.len ∧
        t.ports.done = s.ports.done.eraseIdx idx) ∧
    (m.len ≤ 16368 → s.lr m.ring 70 69 = 2 → (x.fits m = false ∨ ∃ y ∈ s.ports.buffered, y.ring = m.ring) →
      ((s.ports.buffered.filter fun y => decide (y.port = m.port)).foldl (fun a y => a + y.len) 0) + m.len ≤ 0x200_0000 →
      ∃ t, exec (.ingestMessageLanding idx) s = .next t ∧ t.ports.buffered = s.ports.buffered ++ [m] ∧
        (m.port, m.ring, m.src) ∈ t.ports.notified ∧ t.phys = s.phys) ∧
    (m.len ≤ 16368 → s.lr m.ring 70 69 = 1 → x.fits m = false →
      let r := x.overwrite m [] ((x.ports.recsHeld.find m.ring).getD [])
      exec (.ingestMessageLanding idx) s = .next ((r.1.overwriteGap m.ring r.2).land m)))) ∧
  (∀ (s : State) (idx cyc : Nat) (m : Message), s.ports.reasm[idx]? = some m → m.first + 2000000 ≤ cyc →
    s.lr m.ring 71 71 = 1 → ∃ t, exec (.ingestReassemblyTimeout idx cyc) s = .next t ∧ t.phys = s.phys ∧
      t.ports.reasm = s.ports.reasm.filter (fun x => !(x.ring == m.ring && x.src == m.src && x.msg == m.msg)) ∧
      (m.ring, m.src, m.msg) ∈ t.ports.givenUp ∧
      (m.keyOk = true → Claims.countsLost s t m.ring m.len ∧ t.lr m.ring 383 320 = (s.lr m.ring 383 320 + 1) % 2 ^ 64) ∧
      (m.keyOk = false → s.lr m.ring 575 512 + 1 < 2 ^ 64 → t.lr m.ring 575 512 = s.lr m.ring 575 512 + 1)) ∧
  (∀ (s : State) (idx : Nat) (m : Message), s.ports.buffered[idx]? = some m →
    (∀ x ∈ s.ports.buffered.take idx, x.ring ≠ m.ring) → s.lr m.ring 71 71 = 1 →
    let x := (s.releaseHeld m.ring).updPorts fun p => p.unhold idx
    Claims.fitsPlain x m → ∃ t, exec (.ingestBufferedLanding idx) s = .next t ∧ Claims.lands x m t) ∧
  ∀ (s : State) (n : Nat),
    (∃ t, exec (.snapshotRequest n) s = .next t ∧ t.lr n 1023 768 = s.lr n 639 384 ∧
      t.lr n 703 672 = (s.lr n 703 672 + 1) % 2 ^ 32 ∧ t.lr n 639 384 = s.lr n 639 384 ∧ n ∉ t.ports.snapReq ∧
      (n ∈ t.ports.snapOvf ↔ s.lr n 640 640 = 1) ∧
      t.phys = { s.phys with relaxed := t.phys.relaxed } ∧ t.insts = s.insts) ∧
    (s.lr n 71 71 = 0 → ∃ t, exec (.landingRingEnable n) s = .next t ∧ t.phys = s.phys ∧ t.insts = s.insts ∧
      (16 ≤ s.lr n 68 64 → s.lr n 68 64 ≤ 30 → t.lr n 71 71 = 1 ∧ t.lr n 70 0 = s.lr n 70 0 ∧ t.lr n 127 72 = s.lr n 127 72 ∧
        t.lr n 639 128 = 0 ∧ t.lr n 1023 641 = 0 ∧ t.lr n 640 640 = s.lr n 640 640 ∧ t.ports.gaps.find n = none ∧ t.ports.recsHeld.find n = none ∧
        ∀ m ∈ t.ports.reasm ++ t.ports.done ++ t.ports.buffered, m.ring ≠ n) ∧
      (¬ (16 ≤ s.lr n 68 64 ∧ s.lr n 68 64 ≤ 30) → t.lr n 71 71 = 0))

/-! ## Power, bring-up and the host side (R4, R245, R248, R413 to R418) -/

/-- The loop of R414 from the grants `g`, with `left` watts left, at consumer `i`, `ptr` being the consumer after the last
one that received a unit: where it ends. -/
inductive Claims.Grants (want : List Nat) : List Nat → Nat → Nat → Nat → List Nat → Nat → Prop where
  | stop (g : List Nat) (left i ptr : Nat) :
      (left = 0 ∨ ∀ j, j < 22 → want.getD j 0 ≤ g.getD j 0) → Claims.Grants want g left i ptr g ptr
  | give (g r : List Nat) (left i ptr e : Nat) : 0 < left → (∃ j, j < 22 ∧ g.getD j 0 < want.getD j 0) →
      g.getD i 0 < want.getD i 0 →
      Claims.Grants want (g.set i (g.getD i 0 + 1)) (left - 1) ((i + 1) % 22) ((i + 1) % 22) r e →
      Claims.Grants want g left i ptr r e
  | skip (g r : List Nat) (left i ptr e : Nat) : 0 < left → (∃ j, j < 22 ∧ g.getD j 0 < want.getD j 0) →
      want.getD i 0 ≤ g.getD i 0 → Claims.Grants want g left ((i + 1) % 22) ptr r e →
      Claims.Grants want g left i ptr r e

/-- The power block of a consumer (R413). -/
def Claims.power (s : State) (i : Nat) : BitVec 128 := s.host.power.get (powerInit i) i

/-- POWER_ARBITRATION (R413, R414): every 10 µs each consumer's grant becomes what the loop of R414 gives it: it starts from the
floors with the rest of the budget, goes round from the consumer after the last one that received a unit, and gives one watt at
a time to consumers below the smaller of demand and cap, until nothing is left or every one has that much. Floors and caps
stay.

The model's readings: 10 microseconds are a multiple of 20,000 cycles, and the place of the round where no consumer got a
unit (log entry 122). The demands of a period are free (log entry 28). -/
def Obligations.PowerArbitration : Prop :=
  ∀ (s : State) (cyc : Nat), cyc % 20000 = 0 →
    ∃ t g, exec (.powerArbitration cyc) s = .next t ∧
      Claims.Grants ((List.range 22).map fun i => Nat.min (fieldOf (Claims.power t i) 47 32) (fieldOf (Claims.power s i) 31 16))
        ((List.range 22).map fun i => fieldOf (Claims.power s i) 15 0)
        (s.host.budget - ((List.range 22).map fun i => fieldOf (Claims.power s i) 15 0).sum) s.host.pointer s.host.pointer
        g t.host.pointer ∧
      (∀ i, i < 22 → fieldOf (Claims.power t i) 63 48 = g.getD i 0 ∧
        fieldOf (Claims.power t i) 31 0 = fieldOf (Claims.power s i) 31 0) ∧
      t.host.budget = s.host.budget ∧ t.host.queues = s.host.queues ∧ t.phys = s.phys ∧ t.insts = s.insts

/-- The control fields of a queue's live copy, an error ring's entry and a disabled landing ring (R358, R362, R385): register, highest
and lowest bit. -/
def Claims.qcbFields : List ((Nat → CtlReg) × Nat × Nat) :=
  [(.qcbBase, 63, 0), (.qcbLsz, 67, 64), (.qcbAsid, 76, 68), (.qcbEn, 77, 77), (.qcbSup, 78, 78), (.qcbEslot, 127, 96)]
def Claims.errorRingFields : List ((Nat → CtlReg) × Nat × Nat) :=
  [(.ringBase, 63, 0), (.ringLsz, 67, 64), (.ringTail, 159, 128), (.ringAsid, 200, 192)]
def Claims.landingFields : List ((Nat → CtlReg) × Nat × Nat) :=
  [(.lrBase, 63, 0), (.lrLsz, 68, 64), (.lrPolicy, 70, 69), (.lrAsid, 80, 72), (.lrKey, 92, 81)]

/-- REGISTER_WRITE (R4, R358, R362, R371, R379, R383, R385, R403, R413): a write sets its own field and no other; the budget
is at least the sum of the floors, and a cap at least its floor; a write to a RAS counter clears it; an enabled landing ring
keeps its fields. BUDGET_WRITE likewise (R413).

The model's reading: reserved fields read as zero (log entry 135). The model's choice: a sum of floors that the budget's 16 bits do
not hold (log entry 156). -/
def Obligations.RegisterWrites : Prop :=
  ∀ (s : State) (v : Nat),
    (∀ r ∈ Claims.qcbFields, ∀ q, ∃ t, exec (.registerWrite (r.1 q) v) s = .next t ∧
      t.queue q = { s.queue q with live := setField (s.queue q).live r.2.1 r.2.2 v } ∧
      fieldOf (t.queue q).live r.2.1 r.2.2 = v % 2 ^ (r.2.1 - r.2.2 + 1) ∧ (∀ p, p ≠ q → t.queue p = s.queue p) ∧
      t.phys = s.phys) ∧
    (∀ r ∈ Claims.errorRingFields, ∀ n, ∃ t, exec (.registerWrite (r.1 n) v) s = .next t ∧
      fieldOf (t.host.rings.get 0 n) r.2.1 r.2.2 = v % 2 ^ (r.2.1 - r.2.2 + 1) ∧
      fieldOf (t.host.rings.get 0 n) 127 96 = fieldOf (s.host.rings.get 0 n) 127 96 ∧ t.host.queues = s.host.queues ∧
      t.phys = s.phys) ∧
    (∀ r ∈ Claims.landingFields, ∀ n, ∃ t, exec (.registerWrite (r.1 n) v) s = .next t ∧ t.phys = s.phys ∧
      (s.lr n 71 71 = 0 → t.lr n r.2.1 r.2.2 = v % 2 ^ (r.2.1 - r.2.2 + 1) ∧ t.lr n 1023 128 = s.lr n 1023 128) ∧
      (s.lr n 71 71 = 1 → t.lr n 1023 0 = s.lr n 1023 0)) ∧
    (∀ n, (∃ t, exec (.registerWrite (.lrEn n) v) s = .next t ∧
        (v % 2 = 0 → t.lr n 71 71 = 0) ∧ (s.lr n 71 71 = 1 → v % 2 = 1 → t.lr n 1023 0 = s.lr n 1023 0)) ∧
      (∃ t, exec (.registerWrite (.lrTail n) v) s = .next t ∧ t.lr n 255 192 = v % 2 ^ 64 ∧
        t.lr n 191 0 = s.lr n 191 0 ∧ t.phys = s.phys) ∧
      (∃ t, exec (.registerWrite (.lrOvf n) v) s = .next t ∧ t.lr n 640 640 = (if v % 2 = 1 then 0 else s.lr n 640 640) ∧
        t.lr n 639 0 = s.lr n 639 0) ∧
      (∃ t, exec (.registerWrite (.spanPeer n) v) s = .next t ∧ fieldOf (t.ports.peers.get 0 n) 12 0 = v % 2 ^ 13 ∧
        fieldOf (t.ports.peers.get 0 n) 63 16 = v / 2 ^ 16 % 2 ^ 48 ∧
        fieldOf (t.ports.peers.get 0 n) 127 80 = v / 2 ^ 80 % 2 ^ 48) ∧
      (∃ t, exec (.registerWrite (.asidRecord n) v) s = .next t ∧ fieldOf (t.asidRec n) 66 0 = v % 2 ^ 67 ∧
        fieldOf (t.asidRec n) 207 128 = v / 2 ^ 128 % 2 ^ 80 ∧ ∀ m, m ≠ n → t.asidRec m = s.asidRec m)) ∧
    (∀ i w, i < 21 → w < 16 → ∃ t, exec (.registerWrite (.rasCounter i w) v) s = .next t ∧
      (∀ j, j < 16 → fieldOf (t.rasAt i) (32 * j + 31) (32 * j) =
        (if j = w then 0 else fieldOf (s.rasAt i) (32 * j + 31) (32 * j))) ∧
      (∀ k, k < 21 → k ≠ i → t.rasAt k = s.rasAt k) ∧ t.phys = s.phys) ∧
    (∀ i, (∃ t, exec (.registerWrite (.powerFloor i) v) s = .next t ∧ fieldOf (Claims.power t i) 15 0 = v % 2 ^ 16) ∧
      (∃ t, exec (.registerWrite (.powerCap i) v) s = .next t ∧
        fieldOf (Claims.power t i) 15 0 = fieldOf (Claims.power s i) 15 0 ∧
        fieldOf (Claims.power t i) 31 16 = Nat.max (fieldOf (Claims.power s i) 15 0) (v % 2 ^ 16))) ∧
    (∀ d a,
      exec (.registerWrite (.poolBase d a) v) s = .next (s.writePa (s.poolPa d a) 8 v) ∧
      exec (.registerWrite (.poolCount d a) v) s = .next (s.writePa (s.poolPa d a + 8) 4 v)) ∧
    ∃ t, exec (.budgetWrite v) s = .next t ∧
      t.host.budget = Nat.max (v % 2 ^ 16) (Nat.min ((List.range 22).map fun i => fieldOf (Claims.power s i) 15 0).sum 65535) ∧
      t.host.power = s.host.power ∧ t.phys = s.phys ∧ t.insts = s.insts

/-- Bring-up and the host side (R245, R248, R416 to R418): a calibrated die is ready, and with dies 0 to 3 and 16 ready reduced
service begins at half their clock as one ring; full service begins when every die is ready, at full clock with the mapped
rings, the module ring of a spliced module with slots of 2048 cycles; an application core or a device loads with no effect on
memory, stores, or performs an atomic at its home, and a release or fence of it waits until its stores to other modules are
acknowledged (R248, R259).

The model's choices: an access of the host side is one step (log entry 133), and an atomic that meets an uncorrectable error writes
nothing (log entry 173). The clause on a spliced ring takes `spliceOf` for the sign that the module is spliced: the model's choice (log entry 151, DEDUCED). The
model's readings: the order of dies in a ring (log entry 82), and the start of full service (log entry 126). -/
def Obligations.BringUpAndHostSide : Prop :=
  (∀ (s : State) (die : Nat), s.host.phase = 2 ∨ s.host.phase = 3 →
    let x := s.updDie die fun y => { y with ready := true }
    ∃ t, exec (.dieCalibrated die) s = .next t ∧ (t.die die).ready = true ∧ (∀ d, d ≠ die → (t.die d).ready = (s.die d).ready) ∧
      t.phys = s.phys ∧ t.insts = s.insts ∧
      ((s.host.phase = 3 ∨ ∃ d ∈ [0, 1, 2, 3, 16], (x.die d).ready = false) → t = x) ∧
      (s.host.phase = 2 → (∀ d ∈ [0, 1, 2, 3, 16], (x.die d).ready = true) → t.host.phase = 3 ∧
        (∀ d ∈ [0, 1, 2, 3, 16], (t.die d).half = true) ∧ (t.rings.get Ring.init 0).formed = true ∧
        (t.rings.get Ring.init 0).dies = ringOrder 2 0)) ∧
  (∀ (s : State) (cyc : Nat), s.host.phase = 3 → (∀ d, d < 20 → (s.die d).ready = true) →
    ∃ t, exec (.fullServiceStart cyc) s = .next t ∧ t.host.phase = 4 ∧ (∀ d, d < 20 → (t.die d).half = false ∧ cyc ≤ (t.die d).cyc) ∧
      (fieldOf s.host.part 1 0 = 2 → ∀ k ∈ [1, 2, 3], (t.rings.get Ring.init k).formed = true ∧
        (t.rings.get Ring.init k).dies = ringOrder 2 k ∧ (t.rings.get Ring.init k).start = cyc) ∧
      (fieldOf s.host.part 1 0 = 1 → ∀ k ∈ [0, 1], (t.rings.get Ring.init k).formed = true ∧
        (t.rings.get Ring.init k).dies = ringOrder 1 k ∧ (t.rings.get Ring.init k).start = cyc) ∧
      (fieldOf s.host.part 1 0 ≠ 1 → fieldOf s.host.part 1 0 ≠ 2 → (t.rings.get Ring.init 0).formed = true ∧
        (t.rings.get Ring.init 0).dies = ringOrder 0 0 ∧ (t.rings.get Ring.init 0).start = cyc ∧
        (t.rings.get Ring.init 0).spliced = s.spliceOf.isSome ∧
        (t.rings.get Ring.init 0).slotCycles = (if s.spliceOf.isSome then 2048 else 1024))) ∧
  ∀ f ∈ [(Instr.applicationCoreAccess, 0), (Instr.deviceMemoryAccess, 1)], ∀ (s : State) (a : HostAccess), s.host.phase ≠ 0 →
    s.host.phase ≠ 5 →
    let key := 2 * a.agent + f.2
    let kept (x : State) (o : Ledger) : State := { x with host := { s.host with agents := s.host.agents.put key o } }
    ((a.rl = true ∨ a.op = .fence) → s.host.agentPosted.get [] key ≠ [] → ∃ n, exec (f.1 a) s = .refused (.notEnabled n)) ∧
    ((a.rl = true ∨ a.op = .fence → s.host.agentPosted.get [] key = []) →
    (a.op = .fence → ∃ o, exec (f.1 a) s = .next (kept s o)) ∧
    (a.op = .load → isSpan a.addr = true → exec (f.1 a) s = .next s) ∧
    (a.op = .load → isSpan a.addr = false → (s.homeOf a.addr).isSome →
      ∃ t, exec (f.1 a) s = .next t ∧ t.phys = s.phys ∧ t.insts = s.insts ∧ ∃ o, t.host = (kept s o).host) ∧
    (a.op = .store → isSpan a.addr = true → ∃ t, exec (f.1 a) s = .next t ∧ t.phys = { s.phys with relaxed := t.phys.relaxed } ∧
      s.ports.nextMsg ∈ t.host.agentPosted.get [] key ∧ t.ports.nextMsg = s.ports.nextMsg + 1 ∧ ∃ m, t.ports.sent.find s.ports.nextMsg = some m ∧ m.addr = a.addr ∧
        m.bytes = a.bytes ∧ m.data = a.data ∧ m.op = 0) ∧
    (isSpan a.addr = false → (s.homeOf a.addr).isSome → s.ctlAt a.addr = none → Claims.quiet s →
      (a.op = .store → ∃ o heads, exec (f.1 a) s = .next (kept (Claims.wrote s a.addr a.bytes a.data heads) o)) ∧
      ∀ op, a.op = .amo op →
        (s.badAt a.addr a.bytes = true → exec (f.1 a) s = .next (s.uecc a.addr)) ∧
        (s.badAt a.addr a.bytes = false → ∃ o heads, exec (f.1 a) s = .next
          (match atomNew op (8 * a.bytes) (s.readPa a.addr a.bytes) (a.data % 2 ^ (8 * a.bytes)) (a.cmp % 2 ^ (8 * a.bytes)) with
            | some v => kept (Claims.wrote s a.addr a.bytes v heads) o
            | none => kept (s.putHeads a.addr a.bytes heads) o))))
end

