-- ==== Sys2Proof/Laws/Map.lean ====
section
/-! SUPPORT. Laws of sparse tables: reading after writing, and the canonical form kept by every write. -/

namespace Sys2Proof

variable {α : Type}

@[simp] theorem lookupCell_nil (k : Nat) : lookupCell k ([] : List (Nat × α)) = none := rfl

theorem lookupCell_cons (k k' : Nat) (v : α) (t : List (Nat × α)) :
    lookupCell k ((k', v) :: t) = if k' = k then some v else lookupCell k t := rfl

theorem lookupCell_erase_same (k : Nat) (l : List (Nat × α)) : lookupCell k (eraseCell k l) = none := by
  induction l with
  | nil => rfl
  | cons c t ih =>
    obtain ⟨k', v⟩ := c
    simp only [eraseCell]
    split
    · exact ih
    · rw [lookupCell_cons, if_neg ‹_›, ih]

theorem lookupCell_erase_ne {k j : Nat} (h : j ≠ k) (l : List (Nat × α)) :
    lookupCell j (eraseCell k l) = lookupCell j l := by
  induction l with
  | nil => rfl
  | cons c t ih =>
    obtain ⟨k', v⟩ := c
    simp only [eraseCell]
    split
    · rename_i e
      subst e
      rw [ih, lookupCell_cons, if_neg (fun e => h e.symm)]
    · rw [lookupCell_cons, lookupCell_cons, ih]

theorem lookupCell_insert_same (k : Nat) (v : α) (l : List (Nat × α)) : lookupCell k (insertCell k v l) = some v := by
  induction l with
  | nil => simp [insertCell, lookupCell]
  | cons c t ih =>
    obtain ⟨k', w⟩ := c
    simp only [insertCell]
    split
    · simp [lookupCell]
    · split
      · simp [lookupCell]
      · rename_i n
        rw [lookupCell_cons, if_neg (fun e => n e.symm), ih]

theorem lookupCell_insert_ne {k j : Nat} (h : j ≠ k) (v : α) (l : List (Nat × α)) :
    lookupCell j (insertCell k v l) = lookupCell j l := by
  induction l with
  | nil => simp [insertCell, lookupCell, h.symm]
  | cons c t ih =>
    obtain ⟨k', w⟩ := c
    simp only [insertCell]
    split
    · simp [lookupCell, h.symm]
    · split
      · rename_i e
        subst e
        simp [lookupCell, h.symm]
      · rw [lookupCell_cons, lookupCell_cons, ih]

/-! ## Reading after writing -/

@[simp] theorem FMap.get_set_same [DecidableEq α] (d : α) (m : FMap α) (k : Nat) (v : α) : (m.set d k v).get d k = v := by
  simp only [FMap.set, FMap.get]
  split
  · simp [lookupCell_erase_same, *]
  · simp [lookupCell_insert_same]

theorem FMap.get_set_ne [DecidableEq α] {k j : Nat} (h : j ≠ k) (d : α) (m : FMap α) (v : α) :
    (m.set d k v).get d j = m.get d j := by
  simp only [FMap.set, FMap.get]
  split
  · rw [lookupCell_erase_ne h]
  · rw [lookupCell_insert_ne h]

theorem FMap.get_set [DecidableEq α] (d : α) (m : FMap α) (k j : Nat) (v : α) :
    (m.set d k v).get d j = if j = k then v else m.get d j := by
  split
  · rename_i e
    subst e
    exact FMap.get_set_same ..
  · exact FMap.get_set_ne ‹_› ..

@[simp] theorem FMap.find_put_same (m : FMap α) (k : Nat) (v : α) : (m.put k v).find k = some v :=
  lookupCell_insert_same ..

theorem FMap.find_put_ne {k j : Nat} (h : j ≠ k) (m : FMap α) (v : α) : (m.put k v).find j = m.find j :=
  lookupCell_insert_ne h ..

@[simp] theorem FMap.find_del_same (m : FMap α) (k : Nat) : (m.del k).find k = none := lookupCell_erase_same ..

theorem FMap.find_del_ne {k j : Nat} (h : j ≠ k) (m : FMap α) : (m.del k).find j = m.find j := lookupCell_erase_ne h ..

@[simp] theorem FMap.get_empty (d : α) (k : Nat) : (FMap.empty : FMap α).get d k = d := rfl
@[simp] theorem FMap.find_empty (k : Nat) : (FMap.empty : FMap α).find k = none := rfl

/-! ## The canonical form -/

/-- Every key of the list is at least `b`. -/
def KeysFrom (b : Nat) (l : List (Nat × α)) : Prop := ∀ c ∈ l, b ≤ c.1

theorem risingKeys_cons (k : Nat) (v : α) (t : List (Nat × α)) :
    risingKeys ((k, v) :: t) = true ↔ KeysFrom (k + 1) t ∧ risingKeys t = true := by
  induction t generalizing k v with
  | nil => simp [risingKeys, KeysFrom]
  | cons c t ih =>
    obtain ⟨k', w⟩ := c
    simp only [risingKeys, Bool.and_eq_true, decide_eq_true_eq]
    constructor
    · rintro ⟨h, r⟩
      refine ⟨fun c hc => ?_, r⟩
      rcases List.mem_cons.1 hc with rfl | hc
      · exact h
      · exact Nat.le_trans (Nat.le_succ_of_le h) (((ih k' w).1 r).1 c hc)
    · rintro ⟨h, r⟩
      exact ⟨h (k', w) List.mem_cons_self, r⟩

theorem keysFrom_insert {b k : Nat} (h : b ≤ k) (v : α) (l : List (Nat × α)) (hl : KeysFrom b l) :
    KeysFrom b (insertCell k v l) := by
  induction l with
  | nil => simpa [insertCell, KeysFrom] using h
  | cons c t ih =>
    obtain ⟨k', w⟩ := c
    have ht : KeysFrom b t := fun c hc => hl c (List.mem_cons_of_mem _ hc)
    have hk : b ≤ k' := hl (k', w) List.mem_cons_self
    simp only [insertCell]
    split
    · intro c hc
      rcases List.mem_cons.1 hc with rfl | hc
      · exact h
      · exact hl c hc
    · split
      · intro c hc
        rcases List.mem_cons.1 hc with rfl | hc
        · exact h
        · exact ht c hc
      · intro c hc
        rcases List.mem_cons.1 hc with rfl | hc
        · exact hk
        · exact ih ht c hc

theorem risingKeys_insert (k : Nat) (v : α) (l : List (Nat × α)) (hl : risingKeys l = true) :
    risingKeys (insertCell k v l) = true := by
  induction l with
  | nil => rfl
  | cons c t ih =>
    obtain ⟨k', w⟩ := c
    have h := (risingKeys_cons k' w t).1 hl
    simp only [insertCell]
    split
    · rename_i lt
      refine (risingKeys_cons ..).2 ⟨fun c hc => ?_, hl⟩
      rcases List.mem_cons.1 hc with rfl | hc
      · exact lt
      · exact Nat.le_trans (Nat.le_succ_of_le lt) (h.1 c hc)
    · split
      · rename_i e
        subst e
        exact (risingKeys_cons ..).2 h
      · rename_i n1 n2
        exact (risingKeys_cons ..).2 ⟨keysFrom_insert (by omega) v t h.1, ih h.2⟩

theorem eraseCell_sub (k : Nat) (l : List (Nat × α)) (c : Nat × α) (hc : c ∈ eraseCell k l) : c ∈ l := by
  induction l with
  | nil => exact hc
  | cons a t ih =>
    obtain ⟨k', w⟩ := a
    simp only [eraseCell] at hc
    split at hc
    · exact List.mem_cons_of_mem _ (ih hc)
    · rcases List.mem_cons.1 hc with rfl | hc
      · exact List.mem_cons_self
      · exact List.mem_cons_of_mem _ (ih hc)

theorem risingKeys_erase (k : Nat) (l : List (Nat × α)) (hl : risingKeys l = true) : risingKeys (eraseCell k l) = true := by
  induction l with
  | nil => rfl
  | cons a t ih =>
    obtain ⟨k', w⟩ := a
    have h := (risingKeys_cons k' w t).1 hl
    simp only [eraseCell]
    split
    · exact ih h.2
    · exact (risingKeys_cons ..).2 ⟨fun c hc => h.1 c (eraseCell_sub k t c hc), ih h.2⟩

theorem risingKeys_filter (f : Nat × α → Bool) (l : List (Nat × α)) (hl : risingKeys l = true) :
    risingKeys (l.filter f) = true := by
  induction l with
  | nil => rfl
  | cons a t ih =>
    obtain ⟨k', w⟩ := a
    have h := (risingKeys_cons k' w t).1 hl
    rw [List.filter_cons]
    split
    · exact (risingKeys_cons ..).2 ⟨fun c hc => h.1 c (List.mem_filter.1 hc).1, ih h.2⟩
    · exact ih h.2

theorem mem_insertCell (k : Nat) (v : α) (l : List (Nat × α)) (c : Nat × α) (hc : c ∈ insertCell k v l) :
    c = (k, v) ∨ c ∈ l := by
  induction l with
  | nil => exact .inl (List.mem_singleton.1 hc)
  | cons a t ih =>
    obtain ⟨k', w⟩ := a
    simp only [insertCell] at hc
    split at hc
    · exact List.mem_cons.1 hc
    · split at hc
      · rcases List.mem_cons.1 hc with rfl | hc
        · exact .inl rfl
        · exact .inr (List.mem_cons_of_mem _ hc)
      · rcases List.mem_cons.1 hc with rfl | hc
        · exact .inr List.mem_cons_self
        · exact (ih hc).imp_right (List.mem_cons_of_mem _)

theorem FMap.wf_iff [DecidableEq α] (d : α) (m : FMap α) :
    m.wf d = true ↔ risingKeys m.cells = true ∧ ∀ c ∈ m.cells, c.2 ≠ d := by
  simp [FMap.wf]

@[simp] theorem FMap.wf_empty [DecidableEq α] (d : α) : (FMap.empty : FMap α).wf d = true := rfl

/-- A write keeps the canonical form. -/
theorem FMap.wf_set [DecidableEq α] (d : α) (m : FMap α) (k : Nat) (v : α) (h : m.wf d = true) : (m.set d k v).wf d = true := by
  rw [FMap.wf_iff] at h ⊢
  simp only [FMap.set]
  split
  · exact ⟨risingKeys_erase _ _ h.1, fun c hc => h.2 c (eraseCell_sub _ _ c hc)⟩
  · refine ⟨risingKeys_insert _ _ _ h.1, fun c hc => ?_⟩
    rcases mem_insertCell _ _ _ _ hc with rfl | hc
    · assumption
    · exact h.2 c hc

/-- Leaving entries out keeps the canonical form. -/
theorem FMap.wf_filter [DecidableEq α] (d : α) (m : FMap α) (f : Nat × α → Bool) (h : m.wf d = true) :
    (FMap.mk (m.cells.filter f)).wf d = true := by
  rw [FMap.wf_iff] at h ⊢
  exact ⟨risingKeys_filter _ _ h.1, fun c hc => h.2 c (List.mem_filter.1 hc).1⟩

/-- A table in canonical form that reads as the default everywhere lists nothing. -/
theorem FMap.ext_empty [DecidableEq α] (d : α) (m : FMap α) (h : m.wf d = true) (hg : ∀ k, m.get d k = d) : m.cells = [] := by
  rw [FMap.wf_iff] at h
  cases hm : m.cells with
  | nil => rfl
  | cons c t =>
    obtain ⟨k, v⟩ := c
    have := hg k
    simp [FMap.get, hm, lookupCell] at this
    exact absurd this (h.2 (k, v) (by simp [hm]))

end Sys2Proof
end

