-- ==== Sys2Proof/Laws/State.lean ====
section
/-! SUPPORT. What each update of the state leaves alone, field by field, and what it makes the field read. -/

namespace Sys2Proof.Machine

@[simp] theorem State.setDie_insts (s : State) (d : Nat) (x : Die) : (s.setDie d x).insts = s.insts := rfl
@[simp] theorem State.setDie_nextUid (s : State) (d : Nat) (x : Die) : (s.setDie d x).nextUid = s.nextUid := rfl
@[simp] theorem State.setDie_seqs (s : State) (d : Nat) (x : Die) : (s.setDie d x).seqs = s.seqs := rfl
@[simp] theorem State.setDie_tiles (s : State) (d : Nat) (x : Die) : (s.setDie d x).tiles = s.tiles := rfl
@[simp] theorem State.setDie_rings (s : State) (d : Nat) (x : Die) : (s.setDie d x).rings = s.rings := rfl
@[simp] theorem State.setDie_segs (s : State) (d : Nat) (x : Die) : (s.setDie d x).segs = s.segs := rfl
@[simp] theorem State.setDie_phys (s : State) (d : Nat) (x : Die) : (s.setDie d x).phys = s.phys := rfl
@[simp] theorem State.setDie_host (s : State) (d : Nat) (x : Die) : (s.setDie d x).host = s.host := rfl
@[simp] theorem State.setDie_fw (s : State) (d : Nat) (x : Die) : (s.setDie d x).fw = s.fw := rfl
@[simp] theorem State.setDie_ports (s : State) (d : Nat) (x : Die) : (s.setDie d x).ports = s.ports := rfl
@[simp] theorem State.setDie_sec (s : State) (d : Nat) (x : Die) : (s.setDie d x).sec = s.sec := rfl
@[simp] theorem State.setDie_agenda (s : State) (d : Nat) (x : Die) : (s.setDie d x).agenda = s.agenda := rfl
@[simp] theorem State.setDie_focus (s : State) (d : Nat) (x : Die) : (s.setDie d x).focus = s.focus := rfl
@[simp] theorem State.setDie_free (s : State) (d : Nat) (x : Die) : (s.setDie d x).free = s.free := rfl

@[simp] theorem State.updDie_insts (s : State) (d : Nat) (f : Die → Die) : (s.updDie d f).insts = s.insts := rfl
@[simp] theorem State.updDie_nextUid (s : State) (d : Nat) (f : Die → Die) : (s.updDie d f).nextUid = s.nextUid := rfl
@[simp] theorem State.updDie_seqs (s : State) (d : Nat) (f : Die → Die) : (s.updDie d f).seqs = s.seqs := rfl
@[simp] theorem State.updDie_tiles (s : State) (d : Nat) (f : Die → Die) : (s.updDie d f).tiles = s.tiles := rfl
@[simp] theorem State.updDie_rings (s : State) (d : Nat) (f : Die → Die) : (s.updDie d f).rings = s.rings := rfl
@[simp] theorem State.updDie_segs (s : State) (d : Nat) (f : Die → Die) : (s.updDie d f).segs = s.segs := rfl
@[simp] theorem State.updDie_phys (s : State) (d : Nat) (f : Die → Die) : (s.updDie d f).phys = s.phys := rfl
@[simp] theorem State.updDie_host (s : State) (d : Nat) (f : Die → Die) : (s.updDie d f).host = s.host := rfl
@[simp] theorem State.updDie_fw (s : State) (d : Nat) (f : Die → Die) : (s.updDie d f).fw = s.fw := rfl
@[simp] theorem State.updDie_ports (s : State) (d : Nat) (f : Die → Die) : (s.updDie d f).ports = s.ports := rfl
@[simp] theorem State.updDie_sec (s : State) (d : Nat) (f : Die → Die) : (s.updDie d f).sec = s.sec := rfl
@[simp] theorem State.updDie_agenda (s : State) (d : Nat) (f : Die → Die) : (s.updDie d f).agenda = s.agenda := rfl
@[simp] theorem State.updDie_focus (s : State) (d : Nat) (f : Die → Die) : (s.updDie d f).focus = s.focus := rfl
@[simp] theorem State.updDie_free (s : State) (d : Nat) (f : Die → Die) : (s.updDie d f).free = s.free := rfl

@[simp] theorem State.setSeq_insts (s : State) (d q : Nat) (x : Seq) : (s.setSeq d q x).insts = s.insts := rfl
@[simp] theorem State.setSeq_nextUid (s : State) (d q : Nat) (x : Seq) : (s.setSeq d q x).nextUid = s.nextUid := rfl
@[simp] theorem State.setSeq_tiles (s : State) (d q : Nat) (x : Seq) : (s.setSeq d q x).tiles = s.tiles := rfl
@[simp] theorem State.setSeq_dies (s : State) (d q : Nat) (x : Seq) : (s.setSeq d q x).dies = s.dies := rfl
@[simp] theorem State.setSeq_rings (s : State) (d q : Nat) (x : Seq) : (s.setSeq d q x).rings = s.rings := rfl
@[simp] theorem State.setSeq_segs (s : State) (d q : Nat) (x : Seq) : (s.setSeq d q x).segs = s.segs := rfl
@[simp] theorem State.setSeq_phys (s : State) (d q : Nat) (x : Seq) : (s.setSeq d q x).phys = s.phys := rfl
@[simp] theorem State.setSeq_host (s : State) (d q : Nat) (x : Seq) : (s.setSeq d q x).host = s.host := rfl
@[simp] theorem State.setSeq_fw (s : State) (d q : Nat) (x : Seq) : (s.setSeq d q x).fw = s.fw := rfl
@[simp] theorem State.setSeq_ports (s : State) (d q : Nat) (x : Seq) : (s.setSeq d q x).ports = s.ports := rfl
@[simp] theorem State.setSeq_sec (s : State) (d q : Nat) (x : Seq) : (s.setSeq d q x).sec = s.sec := rfl
@[simp] theorem State.setSeq_agenda (s : State) (d q : Nat) (x : Seq) : (s.setSeq d q x).agenda = s.agenda := rfl
@[simp] theorem State.setSeq_focus (s : State) (d q : Nat) (x : Seq) : (s.setSeq d q x).focus = s.focus := rfl
@[simp] theorem State.setSeq_free (s : State) (d q : Nat) (x : Seq) : (s.setSeq d q x).free = s.free := rfl

@[simp] theorem State.updSeq_insts (s : State) (d q : Nat) (f : Seq → Seq) : (s.updSeq d q f).insts = s.insts := rfl
@[simp] theorem State.updSeq_nextUid (s : State) (d q : Nat) (f : Seq → Seq) : (s.updSeq d q f).nextUid = s.nextUid := rfl
@[simp] theorem State.updSeq_tiles (s : State) (d q : Nat) (f : Seq → Seq) : (s.updSeq d q f).tiles = s.tiles := rfl
@[simp] theorem State.updSeq_dies (s : State) (d q : Nat) (f : Seq → Seq) : (s.updSeq d q f).dies = s.dies := rfl
@[simp] theorem State.updSeq_rings (s : State) (d q : Nat) (f : Seq → Seq) : (s.updSeq d q f).rings = s.rings := rfl
@[simp] theorem State.updSeq_segs (s : State) (d q : Nat) (f : Seq → Seq) : (s.updSeq d q f).segs = s.segs := rfl
@[simp] theorem State.updSeq_phys (s : State) (d q : Nat) (f : Seq → Seq) : (s.updSeq d q f).phys = s.phys := rfl
@[simp] theorem State.updSeq_host (s : State) (d q : Nat) (f : Seq → Seq) : (s.updSeq d q f).host = s.host := rfl
@[simp] theorem State.updSeq_fw (s : State) (d q : Nat) (f : Seq → Seq) : (s.updSeq d q f).fw = s.fw := rfl
@[simp] theorem State.updSeq_ports (s : State) (d q : Nat) (f : Seq → Seq) : (s.updSeq d q f).ports = s.ports := rfl
@[simp] theorem State.updSeq_sec (s : State) (d q : Nat) (f : Seq → Seq) : (s.updSeq d q f).sec = s.sec := rfl
@[simp] theorem State.updSeq_agenda (s : State) (d q : Nat) (f : Seq → Seq) : (s.updSeq d q f).agenda = s.agenda := rfl
@[simp] theorem State.updSeq_focus (s : State) (d q : Nat) (f : Seq → Seq) : (s.updSeq d q f).focus = s.focus := rfl
@[simp] theorem State.updSeq_free (s : State) (d q : Nat) (f : Seq → Seq) : (s.updSeq d q f).free = s.free := rfl

@[simp] theorem State.setTile_insts (s : State) (d t : Nat) (x : Tile) : (s.setTile d t x).insts = s.insts := rfl
@[simp] theorem State.setTile_nextUid (s : State) (d t : Nat) (x : Tile) : (s.setTile d t x).nextUid = s.nextUid := rfl
@[simp] theorem State.setTile_seqs (s : State) (d t : Nat) (x : Tile) : (s.setTile d t x).seqs = s.seqs := rfl
@[simp] theorem State.setTile_dies (s : State) (d t : Nat) (x : Tile) : (s.setTile d t x).dies = s.dies := rfl
@[simp] theorem State.setTile_rings (s : State) (d t : Nat) (x : Tile) : (s.setTile d t x).rings = s.rings := rfl
@[simp] theorem State.setTile_segs (s : State) (d t : Nat) (x : Tile) : (s.setTile d t x).segs = s.segs := rfl
@[simp] theorem State.setTile_phys (s : State) (d t : Nat) (x : Tile) : (s.setTile d t x).phys = s.phys := rfl
@[simp] theorem State.setTile_host (s : State) (d t : Nat) (x : Tile) : (s.setTile d t x).host = s.host := rfl
@[simp] theorem State.setTile_fw (s : State) (d t : Nat) (x : Tile) : (s.setTile d t x).fw = s.fw := rfl
@[simp] theorem State.setTile_ports (s : State) (d t : Nat) (x : Tile) : (s.setTile d t x).ports = s.ports := rfl
@[simp] theorem State.setTile_sec (s : State) (d t : Nat) (x : Tile) : (s.setTile d t x).sec = s.sec := rfl
@[simp] theorem State.setTile_agenda (s : State) (d t : Nat) (x : Tile) : (s.setTile d t x).agenda = s.agenda := rfl
@[simp] theorem State.setTile_focus (s : State) (d t : Nat) (x : Tile) : (s.setTile d t x).focus = s.focus := rfl
@[simp] theorem State.setTile_free (s : State) (d t : Nat) (x : Tile) : (s.setTile d t x).free = s.free := rfl

@[simp] theorem State.updTile_insts (s : State) (d t : Nat) (f : Tile → Tile) : (s.updTile d t f).insts = s.insts := rfl
@[simp] theorem State.updTile_nextUid (s : State) (d t : Nat) (f : Tile → Tile) : (s.updTile d t f).nextUid = s.nextUid := rfl
@[simp] theorem State.updTile_seqs (s : State) (d t : Nat) (f : Tile → Tile) : (s.updTile d t f).seqs = s.seqs := rfl
@[simp] theorem State.updTile_dies (s : State) (d t : Nat) (f : Tile → Tile) : (s.updTile d t f).dies = s.dies := rfl
@[simp] theorem State.updTile_rings (s : State) (d t : Nat) (f : Tile → Tile) : (s.updTile d t f).rings = s.rings := rfl
@[simp] theorem State.updTile_segs (s : State) (d t : Nat) (f : Tile → Tile) : (s.updTile d t f).segs = s.segs := rfl
@[simp] theorem State.updTile_phys (s : State) (d t : Nat) (f : Tile → Tile) : (s.updTile d t f).phys = s.phys := rfl
@[simp] theorem State.updTile_host (s : State) (d t : Nat) (f : Tile → Tile) : (s.updTile d t f).host = s.host := rfl
@[simp] theorem State.updTile_fw (s : State) (d t : Nat) (f : Tile → Tile) : (s.updTile d t f).fw = s.fw := rfl
@[simp] theorem State.updTile_ports (s : State) (d t : Nat) (f : Tile → Tile) : (s.updTile d t f).ports = s.ports := rfl
@[simp] theorem State.updTile_sec (s : State) (d t : Nat) (f : Tile → Tile) : (s.updTile d t f).sec = s.sec := rfl
@[simp] theorem State.updTile_agenda (s : State) (d t : Nat) (f : Tile → Tile) : (s.updTile d t f).agenda = s.agenda := rfl
@[simp] theorem State.updTile_focus (s : State) (d t : Nat) (f : Tile → Tile) : (s.updTile d t f).focus = s.focus := rfl
@[simp] theorem State.updTile_free (s : State) (d t : Nat) (f : Tile → Tile) : (s.updTile d t f).free = s.free := rfl

@[simp] theorem State.updEng_insts (s : State) (d t : Nat) (f : Engines → Engines) : (s.updEng d t f).insts = s.insts := rfl
@[simp] theorem State.updEng_nextUid (s : State) (d t : Nat) (f : Engines → Engines) : (s.updEng d t f).nextUid = s.nextUid := rfl
@[simp] theorem State.updEng_seqs (s : State) (d t : Nat) (f : Engines → Engines) : (s.updEng d t f).seqs = s.seqs := rfl
@[simp] theorem State.updEng_dies (s : State) (d t : Nat) (f : Engines → Engines) : (s.updEng d t f).dies = s.dies := rfl
@[simp] theorem State.updEng_rings (s : State) (d t : Nat) (f : Engines → Engines) : (s.updEng d t f).rings = s.rings := rfl
@[simp] theorem State.updEng_segs (s : State) (d t : Nat) (f : Engines → Engines) : (s.updEng d t f).segs = s.segs := rfl
@[simp] theorem State.updEng_phys (s : State) (d t : Nat) (f : Engines → Engines) : (s.updEng d t f).phys = s.phys := rfl
@[simp] theorem State.updEng_host (s : State) (d t : Nat) (f : Engines → Engines) : (s.updEng d t f).host = s.host := rfl
@[simp] theorem State.updEng_fw (s : State) (d t : Nat) (f : Engines → Engines) : (s.updEng d t f).fw = s.fw := rfl
@[simp] theorem State.updEng_ports (s : State) (d t : Nat) (f : Engines → Engines) : (s.updEng d t f).ports = s.ports := rfl
@[simp] theorem State.updEng_sec (s : State) (d t : Nat) (f : Engines → Engines) : (s.updEng d t f).sec = s.sec := rfl
@[simp] theorem State.updEng_agenda (s : State) (d t : Nat) (f : Engines → Engines) : (s.updEng d t f).agenda = s.agenda := rfl
@[simp] theorem State.updEng_focus (s : State) (d t : Nat) (f : Engines → Engines) : (s.updEng d t f).focus = s.focus := rfl
@[simp] theorem State.updEng_free (s : State) (d t : Nat) (f : Engines → Engines) : (s.updEng d t f).free = s.free := rfl

@[simp] theorem State.setInst_nextUid (s : State) (u : Nat) (i : Inst) : (s.setInst u i).nextUid = s.nextUid := rfl
@[simp] theorem State.setInst_seqs (s : State) (u : Nat) (i : Inst) : (s.setInst u i).seqs = s.seqs := rfl
@[simp] theorem State.setInst_tiles (s : State) (u : Nat) (i : Inst) : (s.setInst u i).tiles = s.tiles := rfl
@[simp] theorem State.setInst_dies (s : State) (u : Nat) (i : Inst) : (s.setInst u i).dies = s.dies := rfl
@[simp] theorem State.setInst_rings (s : State) (u : Nat) (i : Inst) : (s.setInst u i).rings = s.rings := rfl
@[simp] theorem State.setInst_segs (s : State) (u : Nat) (i : Inst) : (s.setInst u i).segs = s.segs := rfl
@[simp] theorem State.setInst_phys (s : State) (u : Nat) (i : Inst) : (s.setInst u i).phys = s.phys := rfl
@[simp] theorem State.setInst_host (s : State) (u : Nat) (i : Inst) : (s.setInst u i).host = s.host := rfl
@[simp] theorem State.setInst_fw (s : State) (u : Nat) (i : Inst) : (s.setInst u i).fw = s.fw := rfl
@[simp] theorem State.setInst_ports (s : State) (u : Nat) (i : Inst) : (s.setInst u i).ports = s.ports := rfl
@[simp] theorem State.setInst_sec (s : State) (u : Nat) (i : Inst) : (s.setInst u i).sec = s.sec := rfl
@[simp] theorem State.setInst_agenda (s : State) (u : Nat) (i : Inst) : (s.setInst u i).agenda = s.agenda := rfl
@[simp] theorem State.setInst_focus (s : State) (u : Nat) (i : Inst) : (s.setInst u i).focus = s.focus := rfl
@[simp] theorem State.setInst_free (s : State) (u : Nat) (i : Inst) : (s.setInst u i).free = s.free := rfl

@[simp] theorem State.updSch_insts (s : State) (d : Nat) (f : Scheduler → Scheduler) : (s.updSch d f).insts = s.insts := rfl
@[simp] theorem State.updSch_nextUid (s : State) (d : Nat) (f : Scheduler → Scheduler) : (s.updSch d f).nextUid = s.nextUid := rfl
@[simp] theorem State.updSch_seqs (s : State) (d : Nat) (f : Scheduler → Scheduler) : (s.updSch d f).seqs = s.seqs := rfl
@[simp] theorem State.updSch_tiles (s : State) (d : Nat) (f : Scheduler → Scheduler) : (s.updSch d f).tiles = s.tiles := rfl
@[simp] theorem State.updSch_rings (s : State) (d : Nat) (f : Scheduler → Scheduler) : (s.updSch d f).rings = s.rings := rfl
@[simp] theorem State.updSch_segs (s : State) (d : Nat) (f : Scheduler → Scheduler) : (s.updSch d f).segs = s.segs := rfl
@[simp] theorem State.updSch_phys (s : State) (d : Nat) (f : Scheduler → Scheduler) : (s.updSch d f).phys = s.phys := rfl
@[simp] theorem State.updSch_host (s : State) (d : Nat) (f : Scheduler → Scheduler) : (s.updSch d f).host = s.host := rfl
@[simp] theorem State.updSch_fw (s : State) (d : Nat) (f : Scheduler → Scheduler) : (s.updSch d f).fw = s.fw := rfl
@[simp] theorem State.updSch_ports (s : State) (d : Nat) (f : Scheduler → Scheduler) : (s.updSch d f).ports = s.ports := rfl
@[simp] theorem State.updSch_sec (s : State) (d : Nat) (f : Scheduler → Scheduler) : (s.updSch d f).sec = s.sec := rfl
@[simp] theorem State.updSch_agenda (s : State) (d : Nat) (f : Scheduler → Scheduler) : (s.updSch d f).agenda = s.agenda := rfl
@[simp] theorem State.updSch_focus (s : State) (d : Nat) (f : Scheduler → Scheduler) : (s.updSch d f).focus = s.focus := rfl
@[simp] theorem State.updSch_free (s : State) (d : Nat) (f : Scheduler → Scheduler) : (s.updSch d f).free = s.free := rfl

@[simp] theorem State.updRing_insts (s : State) (d : Nat) (f : RingSide → RingSide) : (s.updRing d f).insts = s.insts := rfl
@[simp] theorem State.updRing_nextUid (s : State) (d : Nat) (f : RingSide → RingSide) : (s.updRing d f).nextUid = s.nextUid := rfl
@[simp] theorem State.updRing_seqs (s : State) (d : Nat) (f : RingSide → RingSide) : (s.updRing d f).seqs = s.seqs := rfl
@[simp] theorem State.updRing_tiles (s : State) (d : Nat) (f : RingSide → RingSide) : (s.updRing d f).tiles = s.tiles := rfl
@[simp] theorem State.updRing_rings (s : State) (d : Nat) (f : RingSide → RingSide) : (s.updRing d f).rings = s.rings := rfl
@[simp] theorem State.updRing_segs (s : State) (d : Nat) (f : RingSide → RingSide) : (s.updRing d f).segs = s.segs := rfl
@[simp] theorem State.updRing_phys (s : State) (d : Nat) (f : RingSide → RingSide) : (s.updRing d f).phys = s.phys := rfl
@[simp] theorem State.updRing_host (s : State) (d : Nat) (f : RingSide → RingSide) : (s.updRing d f).host = s.host := rfl
@[simp] theorem State.updRing_fw (s : State) (d : Nat) (f : RingSide → RingSide) : (s.updRing d f).fw = s.fw := rfl
@[simp] theorem State.updRing_ports (s : State) (d : Nat) (f : RingSide → RingSide) : (s.updRing d f).ports = s.ports := rfl
@[simp] theorem State.updRing_sec (s : State) (d : Nat) (f : RingSide → RingSide) : (s.updRing d f).sec = s.sec := rfl
@[simp] theorem State.updRing_agenda (s : State) (d : Nat) (f : RingSide → RingSide) : (s.updRing d f).agenda = s.agenda := rfl
@[simp] theorem State.updRing_focus (s : State) (d : Nat) (f : RingSide → RingSide) : (s.updRing d f).focus = s.focus := rfl
@[simp] theorem State.updRing_free (s : State) (d : Nat) (f : RingSide → RingSide) : (s.updRing d f).free = s.free := rfl

@[simp] theorem State.setRec_insts (s : State) (d n : Nat) (r : Rec) : (s.setRec d n r).insts = s.insts := rfl
@[simp] theorem State.setRec_nextUid (s : State) (d n : Nat) (r : Rec) : (s.setRec d n r).nextUid = s.nextUid := rfl
@[simp] theorem State.setRec_seqs (s : State) (d n : Nat) (r : Rec) : (s.setRec d n r).seqs = s.seqs := rfl
@[simp] theorem State.setRec_tiles (s : State) (d n : Nat) (r : Rec) : (s.setRec d n r).tiles = s.tiles := rfl
@[simp] theorem State.setRec_rings (s : State) (d n : Nat) (r : Rec) : (s.setRec d n r).rings = s.rings := rfl
@[simp] theorem State.setRec_segs (s : State) (d n : Nat) (r : Rec) : (s.setRec d n r).segs = s.segs := rfl
@[simp] theorem State.setRec_phys (s : State) (d n : Nat) (r : Rec) : (s.setRec d n r).phys = s.phys := rfl
@[simp] theorem State.setRec_host (s : State) (d n : Nat) (r : Rec) : (s.setRec d n r).host = s.host := rfl
@[simp] theorem State.setRec_fw (s : State) (d n : Nat) (r : Rec) : (s.setRec d n r).fw = s.fw := rfl
@[simp] theorem State.setRec_ports (s : State) (d n : Nat) (r : Rec) : (s.setRec d n r).ports = s.ports := rfl
@[simp] theorem State.setRec_sec (s : State) (d n : Nat) (r : Rec) : (s.setRec d n r).sec = s.sec := rfl
@[simp] theorem State.setRec_agenda (s : State) (d n : Nat) (r : Rec) : (s.setRec d n r).agenda = s.agenda := rfl
@[simp] theorem State.setRec_focus (s : State) (d n : Nat) (r : Rec) : (s.setRec d n r).focus = s.focus := rfl
@[simp] theorem State.setRec_free (s : State) (d n : Nat) (r : Rec) : (s.setRec d n r).free = s.free := rfl

@[simp] theorem State.updQueue_insts (s : State) (q : Nat) (f : GQueue → GQueue) : (s.updQueue q f).insts = s.insts := rfl
@[simp] theorem State.updQueue_nextUid (s : State) (q : Nat) (f : GQueue → GQueue) : (s.updQueue q f).nextUid = s.nextUid := rfl
@[simp] theorem State.updQueue_seqs (s : State) (q : Nat) (f : GQueue → GQueue) : (s.updQueue q f).seqs = s.seqs := rfl
@[simp] theorem State.updQueue_tiles (s : State) (q : Nat) (f : GQueue → GQueue) : (s.updQueue q f).tiles = s.tiles := rfl
@[simp] theorem State.updQueue_dies (s : State) (q : Nat) (f : GQueue → GQueue) : (s.updQueue q f).dies = s.dies := rfl
@[simp] theorem State.updQueue_rings (s : State) (q : Nat) (f : GQueue → GQueue) : (s.updQueue q f).rings = s.rings := rfl
@[simp] theorem State.updQueue_segs (s : State) (q : Nat) (f : GQueue → GQueue) : (s.updQueue q f).segs = s.segs := rfl
@[simp] theorem State.updQueue_phys (s : State) (q : Nat) (f : GQueue → GQueue) : (s.updQueue q f).phys = s.phys := rfl
@[simp] theorem State.updQueue_fw (s : State) (q : Nat) (f : GQueue → GQueue) : (s.updQueue q f).fw = s.fw := rfl
@[simp] theorem State.updQueue_ports (s : State) (q : Nat) (f : GQueue → GQueue) : (s.updQueue q f).ports = s.ports := rfl
@[simp] theorem State.updQueue_sec (s : State) (q : Nat) (f : GQueue → GQueue) : (s.updQueue q f).sec = s.sec := rfl
@[simp] theorem State.updQueue_agenda (s : State) (q : Nat) (f : GQueue → GQueue) : (s.updQueue q f).agenda = s.agenda := rfl
@[simp] theorem State.updQueue_focus (s : State) (q : Nat) (f : GQueue → GQueue) : (s.updQueue q f).focus = s.focus := rfl
@[simp] theorem State.updQueue_free (s : State) (q : Nat) (f : GQueue → GQueue) : (s.updQueue q f).free = s.free := rfl

@[simp] theorem State.updHost_insts (s : State) (f : HostDie → HostDie) : (s.updHost f).insts = s.insts := rfl
@[simp] theorem State.updHost_nextUid (s : State) (f : HostDie → HostDie) : (s.updHost f).nextUid = s.nextUid := rfl
@[simp] theorem State.updHost_seqs (s : State) (f : HostDie → HostDie) : (s.updHost f).seqs = s.seqs := rfl
@[simp] theorem State.updHost_tiles (s : State) (f : HostDie → HostDie) : (s.updHost f).tiles = s.tiles := rfl
@[simp] theorem State.updHost_dies (s : State) (f : HostDie → HostDie) : (s.updHost f).dies = s.dies := rfl
@[simp] theorem State.updHost_rings (s : State) (f : HostDie → HostDie) : (s.updHost f).rings = s.rings := rfl
@[simp] theorem State.updHost_segs (s : State) (f : HostDie → HostDie) : (s.updHost f).segs = s.segs := rfl
@[simp] theorem State.updHost_phys (s : State) (f : HostDie → HostDie) : (s.updHost f).phys = s.phys := rfl
@[simp] theorem State.updHost_fw (s : State) (f : HostDie → HostDie) : (s.updHost f).fw = s.fw := rfl
@[simp] theorem State.updHost_ports (s : State) (f : HostDie → HostDie) : (s.updHost f).ports = s.ports := rfl
@[simp] theorem State.updHost_sec (s : State) (f : HostDie → HostDie) : (s.updHost f).sec = s.sec := rfl
@[simp] theorem State.updHost_agenda (s : State) (f : HostDie → HostDie) : (s.updHost f).agenda = s.agenda := rfl
@[simp] theorem State.updHost_focus (s : State) (f : HostDie → HostDie) : (s.updHost f).focus = s.focus := rfl
@[simp] theorem State.updHost_free (s : State) (f : HostDie → HostDie) : (s.updHost f).free = s.free := rfl

@[simp] theorem State.tick_insts (s : State) : (s.tick).insts = s.insts := rfl
@[simp] theorem State.tick_nextUid (s : State) : (s.tick).nextUid = s.nextUid := rfl
@[simp] theorem State.tick_seqs (s : State) : (s.tick).seqs = s.seqs := rfl
@[simp] theorem State.tick_tiles (s : State) : (s.tick).tiles = s.tiles := rfl
@[simp] theorem State.tick_dies (s : State) : (s.tick).dies = s.dies := rfl
@[simp] theorem State.tick_rings (s : State) : (s.tick).rings = s.rings := rfl
@[simp] theorem State.tick_segs (s : State) : (s.tick).segs = s.segs := rfl
@[simp] theorem State.tick_phys (s : State) : (s.tick).phys = s.phys := rfl
@[simp] theorem State.tick_host (s : State) : (s.tick).host = s.host := rfl
@[simp] theorem State.tick_fw (s : State) : (s.tick).fw = s.fw := rfl
@[simp] theorem State.tick_ports (s : State) : (s.tick).ports = s.ports := rfl
@[simp] theorem State.tick_sec (s : State) : (s.tick).sec = s.sec := rfl
@[simp] theorem State.tick_agenda (s : State) : (s.tick).agenda = s.agenda := rfl
@[simp] theorem State.tick_focus (s : State) : (s.tick).focus = s.focus := rfl

@[simp] theorem State.advance_insts (s : State) (d c : Nat) : (s.advance d c).insts = s.insts := rfl
@[simp] theorem State.advance_nextUid (s : State) (d c : Nat) : (s.advance d c).nextUid = s.nextUid := rfl
@[simp] theorem State.advance_seqs (s : State) (d c : Nat) : (s.advance d c).seqs = s.seqs := rfl
@[simp] theorem State.advance_tiles (s : State) (d c : Nat) : (s.advance d c).tiles = s.tiles := rfl
@[simp] theorem State.advance_rings (s : State) (d c : Nat) : (s.advance d c).rings = s.rings := rfl
@[simp] theorem State.advance_segs (s : State) (d c : Nat) : (s.advance d c).segs = s.segs := rfl
@[simp] theorem State.advance_phys (s : State) (d c : Nat) : (s.advance d c).phys = s.phys := rfl
@[simp] theorem State.advance_host (s : State) (d c : Nat) : (s.advance d c).host = s.host := rfl
@[simp] theorem State.advance_fw (s : State) (d c : Nat) : (s.advance d c).fw = s.fw := rfl
@[simp] theorem State.advance_ports (s : State) (d c : Nat) : (s.advance d c).ports = s.ports := rfl
@[simp] theorem State.advance_sec (s : State) (d c : Nat) : (s.advance d c).sec = s.sec := rfl
@[simp] theorem State.advance_agenda (s : State) (d c : Nat) : (s.advance d c).agenda = s.agenda := rfl
@[simp] theorem State.advance_focus (s : State) (d c : Nat) : (s.advance d c).focus = s.focus := rfl
@[simp] theorem State.advance_free (s : State) (d c : Nat) : (s.advance d c).free = s.free := rfl

@[simp] theorem State.setByte_insts (s : State) (pa : Nat) (b : Byte) : (s.setByte pa b).insts = s.insts := rfl
@[simp] theorem State.setByte_nextUid (s : State) (pa : Nat) (b : Byte) : (s.setByte pa b).nextUid = s.nextUid := rfl
@[simp] theorem State.setByte_seqs (s : State) (pa : Nat) (b : Byte) : (s.setByte pa b).seqs = s.seqs := rfl
@[simp] theorem State.setByte_tiles (s : State) (pa : Nat) (b : Byte) : (s.setByte pa b).tiles = s.tiles := rfl
@[simp] theorem State.setByte_dies (s : State) (pa : Nat) (b : Byte) : (s.setByte pa b).dies = s.dies := rfl
@[simp] theorem State.setByte_rings (s : State) (pa : Nat) (b : Byte) : (s.setByte pa b).rings = s.rings := rfl
@[simp] theorem State.setByte_segs (s : State) (pa : Nat) (b : Byte) : (s.setByte pa b).segs = s.segs := rfl
@[simp] theorem State.setByte_host (s : State) (pa : Nat) (b : Byte) : (s.setByte pa b).host = s.host := rfl
@[simp] theorem State.setByte_fw (s : State) (pa : Nat) (b : Byte) : (s.setByte pa b).fw = s.fw := rfl
@[simp] theorem State.setByte_ports (s : State) (pa : Nat) (b : Byte) : (s.setByte pa b).ports = s.ports := rfl
@[simp] theorem State.setByte_sec (s : State) (pa : Nat) (b : Byte) : (s.setByte pa b).sec = s.sec := rfl
@[simp] theorem State.setByte_agenda (s : State) (pa : Nat) (b : Byte) : (s.setByte pa b).agenda = s.agenda := rfl
@[simp] theorem State.setByte_focus (s : State) (pa : Nat) (b : Byte) : (s.setByte pa b).focus = s.focus := rfl
@[simp] theorem State.setByte_free (s : State) (pa : Nat) (b : Byte) : (s.setByte pa b).free = s.free := rfl

@[simp] theorem State.sendSpan_insts (s : State) (m : SpanMsg) : (s.sendSpan m).insts = s.insts := rfl
@[simp] theorem State.sendSpan_nextUid (s : State) (m : SpanMsg) : (s.sendSpan m).nextUid = s.nextUid := rfl
@[simp] theorem State.sendSpan_seqs (s : State) (m : SpanMsg) : (s.sendSpan m).seqs = s.seqs := rfl
@[simp] theorem State.sendSpan_tiles (s : State) (m : SpanMsg) : (s.sendSpan m).tiles = s.tiles := rfl
@[simp] theorem State.sendSpan_dies (s : State) (m : SpanMsg) : (s.sendSpan m).dies = s.dies := rfl
@[simp] theorem State.sendSpan_rings (s : State) (m : SpanMsg) : (s.sendSpan m).rings = s.rings := rfl
@[simp] theorem State.sendSpan_segs (s : State) (m : SpanMsg) : (s.sendSpan m).segs = s.segs := rfl
@[simp] theorem State.sendSpan_phys (s : State) (m : SpanMsg) : (s.sendSpan m).phys = s.phys := rfl
@[simp] theorem State.sendSpan_host (s : State) (m : SpanMsg) : (s.sendSpan m).host = s.host := rfl
@[simp] theorem State.sendSpan_fw (s : State) (m : SpanMsg) : (s.sendSpan m).fw = s.fw := rfl
@[simp] theorem State.sendSpan_sec (s : State) (m : SpanMsg) : (s.sendSpan m).sec = s.sec := rfl
@[simp] theorem State.sendSpan_agenda (s : State) (m : SpanMsg) : (s.sendSpan m).agenda = s.agenda := rfl
@[simp] theorem State.sendSpan_focus (s : State) (m : SpanMsg) : (s.sendSpan m).focus = s.focus := rfl
@[simp] theorem State.sendSpan_free (s : State) (m : SpanMsg) : (s.sendSpan m).free = s.free := rfl

@[simp] theorem State.updRelaxed_insts (s : State) (f : Relaxed → Relaxed) : (s.updRelaxed f).insts = s.insts := rfl
@[simp] theorem State.updRelaxed_nextUid (s : State) (f : Relaxed → Relaxed) : (s.updRelaxed f).nextUid = s.nextUid := rfl
@[simp] theorem State.updRelaxed_seqs (s : State) (f : Relaxed → Relaxed) : (s.updRelaxed f).seqs = s.seqs := rfl
@[simp] theorem State.updRelaxed_tiles (s : State) (f : Relaxed → Relaxed) : (s.updRelaxed f).tiles = s.tiles := rfl
@[simp] theorem State.updRelaxed_dies (s : State) (f : Relaxed → Relaxed) : (s.updRelaxed f).dies = s.dies := rfl
@[simp] theorem State.updRelaxed_rings (s : State) (f : Relaxed → Relaxed) : (s.updRelaxed f).rings = s.rings := rfl
@[simp] theorem State.updRelaxed_segs (s : State) (f : Relaxed → Relaxed) : (s.updRelaxed f).segs = s.segs := rfl
@[simp] theorem State.updRelaxed_host (s : State) (f : Relaxed → Relaxed) : (s.updRelaxed f).host = s.host := rfl
@[simp] theorem State.updRelaxed_fw (s : State) (f : Relaxed → Relaxed) : (s.updRelaxed f).fw = s.fw := rfl
@[simp] theorem State.updRelaxed_ports (s : State) (f : Relaxed → Relaxed) : (s.updRelaxed f).ports = s.ports := rfl
@[simp] theorem State.updRelaxed_sec (s : State) (f : Relaxed → Relaxed) : (s.updRelaxed f).sec = s.sec := rfl
@[simp] theorem State.updRelaxed_agenda (s : State) (f : Relaxed → Relaxed) : (s.updRelaxed f).agenda = s.agenda := rfl
@[simp] theorem State.updRelaxed_focus (s : State) (f : Relaxed → Relaxed) : (s.updRelaxed f).focus = s.focus := rfl
@[simp] theorem State.updRelaxed_free (s : State) (f : Relaxed → Relaxed) : (s.updRelaxed f).free = s.free := rfl
@[simp] theorem State.updRelaxed_mem (s : State) (f : Relaxed → Relaxed) : (s.updRelaxed f).phys.mem = s.phys.mem := rfl
@[simp] theorem State.updRelaxed_bad (s : State) (f : Relaxed → Relaxed) : (s.updRelaxed f).phys.bad = s.phys.bad := rfl
@[simp] theorem State.updRelaxed_regions (s : State) (f : Relaxed → Relaxed) : (s.updRelaxed f).phys.regions = s.phys.regions := rfl
@[simp] theorem State.updRelaxed_relaxed (s : State) (f : Relaxed → Relaxed) :
    (s.updRelaxed f).phys.relaxed = f s.phys.relaxed := rfl

@[simp] theorem State.updInst_nextUid (s : State) (u : Nat) (f : Inst → Inst) : (s.updInst u f).nextUid = s.nextUid := by
  unfold State.updInst; split <;> rfl
@[simp] theorem State.updInst_seqs (s : State) (u : Nat) (f : Inst → Inst) : (s.updInst u f).seqs = s.seqs := by
  unfold State.updInst; split <;> rfl
@[simp] theorem State.updInst_tiles (s : State) (u : Nat) (f : Inst → Inst) : (s.updInst u f).tiles = s.tiles := by
  unfold State.updInst; split <;> rfl
@[simp] theorem State.updInst_dies (s : State) (u : Nat) (f : Inst → Inst) : (s.updInst u f).dies = s.dies := by
  unfold State.updInst; split <;> rfl
@[simp] theorem State.updInst_rings (s : State) (u : Nat) (f : Inst → Inst) : (s.updInst u f).rings = s.rings := by
  unfold State.updInst; split <;> rfl
@[simp] theorem State.updInst_segs (s : State) (u : Nat) (f : Inst → Inst) : (s.updInst u f).segs = s.segs := by
  unfold State.updInst; split <;> rfl
@[simp] theorem State.updInst_phys (s : State) (u : Nat) (f : Inst → Inst) : (s.updInst u f).phys = s.phys := by
  unfold State.updInst; split <;> rfl
@[simp] theorem State.updInst_host (s : State) (u : Nat) (f : Inst → Inst) : (s.updInst u f).host = s.host := by
  unfold State.updInst; split <;> rfl
@[simp] theorem State.updInst_fw (s : State) (u : Nat) (f : Inst → Inst) : (s.updInst u f).fw = s.fw := by
  unfold State.updInst; split <;> rfl
@[simp] theorem State.updInst_ports (s : State) (u : Nat) (f : Inst → Inst) : (s.updInst u f).ports = s.ports := by
  unfold State.updInst; split <;> rfl
@[simp] theorem State.updInst_sec (s : State) (u : Nat) (f : Inst → Inst) : (s.updInst u f).sec = s.sec := by
  unfold State.updInst; split <;> rfl
@[simp] theorem State.updInst_agenda (s : State) (u : Nat) (f : Inst → Inst) : (s.updInst u f).agenda = s.agenda := by
  unfold State.updInst; split <;> rfl
@[simp] theorem State.updInst_focus (s : State) (u : Nat) (f : Inst → Inst) : (s.updInst u f).focus = s.focus := by
  unfold State.updInst; split <;> rfl
@[simp] theorem State.updInst_free (s : State) (u : Nat) (f : Inst → Inst) : (s.updInst u f).free = s.free := by
  unfold State.updInst; split <;> rfl

/-! ## Reading after writing -/

@[simp] theorem State.die_setDie (s : State) (d : Nat) (x : Die) : (s.setDie d x).die d = x := FMap.get_set_same ..
theorem State.die_setDie_ne {d e : Nat} (h : e ≠ d) (s : State) (x : Die) : (s.setDie d x).die e = s.die e :=
  FMap.get_set_ne h ..
@[simp] theorem State.die_updDie (s : State) (d : Nat) (f : Die → Die) : (s.updDie d f).die d = f (s.die d) :=
  FMap.get_set_same ..
theorem State.die_updDie_ne {d e : Nat} (h : e ≠ d) (s : State) (f : Die → Die) : (s.updDie d f).die e = s.die e :=
  FMap.get_set_ne h ..
@[simp] theorem State.seq_setSeq (s : State) (d q : Nat) (x : Seq) : (s.setSeq d q x).seq d q = x := FMap.get_set_same ..
@[simp] theorem State.seq_updSeq (s : State) (d q : Nat) (f : Seq → Seq) : (s.updSeq d q f).seq d q = f (s.seq d q) :=
  FMap.get_set_same ..
@[simp] theorem State.tile_setTile (s : State) (d t : Nat) (x : Tile) : (s.setTile d t x).tile d t = x := FMap.get_set_same ..
@[simp] theorem State.tile_updTile (s : State) (d t : Nat) (f : Tile → Tile) : (s.updTile d t f).tile d t = f (s.tile d t) :=
  FMap.get_set_same ..
@[simp] theorem State.inst_setInst (s : State) (u : Nat) (i : Inst) : (s.setInst u i).inst u = some i :=
  FMap.find_put_same ..
theorem State.inst_setInst_ne {u v : Nat} (h : v ≠ u) (s : State) (i : Inst) : (s.setInst u i).inst v = s.inst v :=
  FMap.find_put_ne h ..
@[simp] theorem State.recOf_setRec (s : State) (d n : Nat) (r : Rec) : (s.setRec d n r).recOf d n = some r := by
  simp [State.recOf, State.setRec, State.updSch]

/-! ## Accessors through updates of other fields -/

@[simp] theorem State.seq_setDie (s : State) (d : Nat) (x : Die) (e p : Nat) : (s.setDie d x).seq e p = s.seq e p := rfl
@[simp] theorem State.tile_setDie (s : State) (d : Nat) (x : Die) (e p : Nat) : (s.setDie d x).tile e p = s.tile e p := rfl
@[simp] theorem State.inst_setDie (s : State) (d : Nat) (x : Die) (v : Nat) : (s.setDie d x).inst v = s.inst v := rfl
@[simp] theorem State.seq_updDie (s : State) (d : Nat) (f : Die → Die) (e p : Nat) : (s.updDie d f).seq e p = s.seq e p := rfl
@[simp] theorem State.tile_updDie (s : State) (d : Nat) (f : Die → Die) (e p : Nat) : (s.updDie d f).tile e p = s.tile e p := rfl
@[simp] theorem State.inst_updDie (s : State) (d : Nat) (f : Die → Die) (v : Nat) : (s.updDie d f).inst v = s.inst v := rfl
@[simp] theorem State.die_setSeq (s : State) (d q : Nat) (x : Seq) (e : Nat) : (s.setSeq d q x).die e = s.die e := rfl
@[simp] theorem State.tile_setSeq (s : State) (d q : Nat) (x : Seq) (e p : Nat) : (s.setSeq d q x).tile e p = s.tile e p := rfl
@[simp] theorem State.inst_setSeq (s : State) (d q : Nat) (x : Seq) (v : Nat) : (s.setSeq d q x).inst v = s.inst v := rfl
@[simp] theorem State.recOf_setSeq (s : State) (d q : Nat) (x : Seq) (e p : Nat) : (s.setSeq d q x).recOf e p = s.recOf e p := rfl
@[simp] theorem State.die_updSeq (s : State) (d q : Nat) (f : Seq → Seq) (e : Nat) : (s.updSeq d q f).die e = s.die e := rfl
@[simp] theorem State.tile_updSeq (s : State) (d q : Nat) (f : Seq → Seq) (e p : Nat) : (s.updSeq d q f).tile e p = s.tile e p := rfl
@[simp] theorem State.inst_updSeq (s : State) (d q : Nat) (f : Seq → Seq) (v : Nat) : (s.updSeq d q f).inst v = s.inst v := rfl
@[simp] theorem State.recOf_updSeq (s : State) (d q : Nat) (f : Seq → Seq) (e p : Nat) : (s.updSeq d q f).recOf e p = s.recOf e p := rfl
@[simp] theorem State.die_setTile (s : State) (d t : Nat) (x : Tile) (e : Nat) : (s.setTile d t x).die e = s.die e := rfl
@[simp] theorem State.seq_setTile (s : State) (d t : Nat) (x : Tile) (e p : Nat) : (s.setTile d t x).seq e p = s.seq e p := rfl
@[simp] theorem State.inst_setTile (s : State) (d t : Nat) (x : Tile) (v : Nat) : (s.setTile d t x).inst v = s.inst v := rfl
@[simp] theorem State.recOf_setTile (s : State) (d t : Nat) (x : Tile) (e p : Nat) : (s.setTile d t x).recOf e p = s.recOf e p := rfl
@[simp] theorem State.die_updTile (s : State) (d t : Nat) (f : Tile → Tile) (e : Nat) : (s.updTile d t f).die e = s.die e := rfl
@[simp] theorem State.seq_updTile (s : State) (d t : Nat) (f : Tile → Tile) (e p : Nat) : (s.updTile d t f).seq e p = s.seq e p := rfl
@[simp] theorem State.inst_updTile (s : State) (d t : Nat) (f : Tile → Tile) (v : Nat) : (s.updTile d t f).inst v = s.inst v := rfl
@[simp] theorem State.recOf_updTile (s : State) (d t : Nat) (f : Tile → Tile) (e p : Nat) : (s.updTile d t f).recOf e p = s.recOf e p := rfl
@[simp] theorem State.die_updEng (s : State) (d t : Nat) (f : Engines → Engines) (e : Nat) : (s.updEng d t f).die e = s.die e := rfl
@[simp] theorem State.seq_updEng (s : State) (d t : Nat) (f : Engines → Engines) (e p : Nat) : (s.updEng d t f).seq e p = s.seq e p := rfl
@[simp] theorem State.inst_updEng (s : State) (d t : Nat) (f : Engines → Engines) (v : Nat) : (s.updEng d t f).inst v = s.inst v := rfl
@[simp] theorem State.recOf_updEng (s : State) (d t : Nat) (f : Engines → Engines) (e p : Nat) : (s.updEng d t f).recOf e p = s.recOf e p := rfl
@[simp] theorem State.die_setInst (s : State) (u : Nat) (i : Inst) (e : Nat) : (s.setInst u i).die e = s.die e := rfl
@[simp] theorem State.seq_setInst (s : State) (u : Nat) (i : Inst) (e p : Nat) : (s.setInst u i).seq e p = s.seq e p := rfl
@[simp] theorem State.tile_setInst (s : State) (u : Nat) (i : Inst) (e p : Nat) : (s.setInst u i).tile e p = s.tile e p := rfl
@[simp] theorem State.recOf_setInst (s : State) (u : Nat) (i : Inst) (e p : Nat) : (s.setInst u i).recOf e p = s.recOf e p := rfl
@[simp] theorem State.seq_updSch (s : State) (d : Nat) (f : Scheduler → Scheduler) (e p : Nat) : (s.updSch d f).seq e p = s.seq e p := rfl
@[simp] theorem State.tile_updSch (s : State) (d : Nat) (f : Scheduler → Scheduler) (e p : Nat) : (s.updSch d f).tile e p = s.tile e p := rfl
@[simp] theorem State.inst_updSch (s : State) (d : Nat) (f : Scheduler → Scheduler) (v : Nat) : (s.updSch d f).inst v = s.inst v := rfl
@[simp] theorem State.seq_updRing (s : State) (d : Nat) (f : RingSide → RingSide) (e p : Nat) : (s.updRing d f).seq e p = s.seq e p := rfl
@[simp] theorem State.tile_updRing (s : State) (d : Nat) (f : RingSide → RingSide) (e p : Nat) : (s.updRing d f).tile e p = s.tile e p := rfl
@[simp] theorem State.inst_updRing (s : State) (d : Nat) (f : RingSide → RingSide) (v : Nat) : (s.updRing d f).inst v = s.inst v := rfl
@[simp] theorem State.seq_setRec (s : State) (d n : Nat) (r : Rec) (e p : Nat) : (s.setRec d n r).seq e p = s.seq e p := rfl
@[simp] theorem State.tile_setRec (s : State) (d n : Nat) (r : Rec) (e p : Nat) : (s.setRec d n r).tile e p = s.tile e p := rfl
@[simp] theorem State.inst_setRec (s : State) (d n : Nat) (r : Rec) (v : Nat) : (s.setRec d n r).inst v = s.inst v := rfl
@[simp] theorem State.die_updQueue (s : State) (q : Nat) (f : GQueue → GQueue) (e : Nat) : (s.updQueue q f).die e = s.die e := rfl
@[simp] theorem State.seq_updQueue (s : State) (q : Nat) (f : GQueue → GQueue) (e p : Nat) : (s.updQueue q f).seq e p = s.seq e p := rfl
@[simp] theorem State.tile_updQueue (s : State) (q : Nat) (f : GQueue → GQueue) (e p : Nat) : (s.updQueue q f).tile e p = s.tile e p := rfl
@[simp] theorem State.inst_updQueue (s : State) (q : Nat) (f : GQueue → GQueue) (v : Nat) : (s.updQueue q f).inst v = s.inst v := rfl
@[simp] theorem State.recOf_updQueue (s : State) (q : Nat) (f : GQueue → GQueue) (e p : Nat) : (s.updQueue q f).recOf e p = s.recOf e p := rfl
@[simp] theorem State.die_updHost (s : State) (f : HostDie → HostDie) (e : Nat) : (s.updHost f).die e = s.die e := rfl
@[simp] theorem State.seq_updHost (s : State) (f : HostDie → HostDie) (e p : Nat) : (s.updHost f).seq e p = s.seq e p := rfl
@[simp] theorem State.tile_updHost (s : State) (f : HostDie → HostDie) (e p : Nat) : (s.updHost f).tile e p = s.tile e p := rfl
@[simp] theorem State.inst_updHost (s : State) (f : HostDie → HostDie) (v : Nat) : (s.updHost f).inst v = s.inst v := rfl
@[simp] theorem State.recOf_updHost (s : State) (f : HostDie → HostDie) (e p : Nat) : (s.updHost f).recOf e p = s.recOf e p := rfl
@[simp] theorem State.die_tick (s : State) (e : Nat) : (s.tick).die e = s.die e := rfl
@[simp] theorem State.seq_tick (s : State) (e p : Nat) : (s.tick).seq e p = s.seq e p := rfl
@[simp] theorem State.tile_tick (s : State) (e p : Nat) : (s.tick).tile e p = s.tile e p := rfl
@[simp] theorem State.inst_tick (s : State) (v : Nat) : (s.tick).inst v = s.inst v := rfl
@[simp] theorem State.recOf_tick (s : State) (e p : Nat) : (s.tick).recOf e p = s.recOf e p := rfl
@[simp] theorem State.seq_advance (s : State) (d c : Nat) (e p : Nat) : (s.advance d c).seq e p = s.seq e p := rfl
@[simp] theorem State.tile_advance (s : State) (d c : Nat) (e p : Nat) : (s.advance d c).tile e p = s.tile e p := rfl
@[simp] theorem State.inst_advance (s : State) (d c : Nat) (v : Nat) : (s.advance d c).inst v = s.inst v := rfl
@[simp] theorem State.die_setByte (s : State) (pa : Nat) (b : Byte) (e : Nat) : (s.setByte pa b).die e = s.die e := rfl
@[simp] theorem State.seq_setByte (s : State) (pa : Nat) (b : Byte) (e p : Nat) : (s.setByte pa b).seq e p = s.seq e p := rfl
@[simp] theorem State.tile_setByte (s : State) (pa : Nat) (b : Byte) (e p : Nat) : (s.setByte pa b).tile e p = s.tile e p := rfl
@[simp] theorem State.inst_setByte (s : State) (pa : Nat) (b : Byte) (v : Nat) : (s.setByte pa b).inst v = s.inst v := rfl
@[simp] theorem State.recOf_setByte (s : State) (pa : Nat) (b : Byte) (e p : Nat) : (s.setByte pa b).recOf e p = s.recOf e p := rfl
@[simp] theorem State.die_updRelaxed (s : State) (f : Relaxed → Relaxed) (e : Nat) : (s.updRelaxed f).die e = s.die e := rfl
@[simp] theorem State.seq_updRelaxed (s : State) (f : Relaxed → Relaxed) (e p : Nat) : (s.updRelaxed f).seq e p = s.seq e p := rfl
@[simp] theorem State.tile_updRelaxed (s : State) (f : Relaxed → Relaxed) (e p : Nat) : (s.updRelaxed f).tile e p = s.tile e p := rfl
@[simp] theorem State.inst_updRelaxed (s : State) (f : Relaxed → Relaxed) (v : Nat) : (s.updRelaxed f).inst v = s.inst v := rfl
@[simp] theorem State.recOf_updRelaxed (s : State) (f : Relaxed → Relaxed) (e p : Nat) : (s.updRelaxed f).recOf e p = s.recOf e p := rfl
@[simp] theorem State.homeOf_updRelaxed (s : State) (f : Relaxed → Relaxed) (pa : Nat) : (s.updRelaxed f).homeOf pa = s.homeOf pa := rfl
@[simp] theorem State.ctlAt_updRelaxed (s : State) (f : Relaxed → Relaxed) (pa : Nat) : (s.updRelaxed f).ctlAt pa = s.ctlAt pa := rfl
@[simp] theorem State.die_sendSpan (s : State) (m : SpanMsg) (e : Nat) : (s.sendSpan m).die e = s.die e := rfl
@[simp] theorem State.seq_sendSpan (s : State) (m : SpanMsg) (e p : Nat) : (s.sendSpan m).seq e p = s.seq e p := rfl
@[simp] theorem State.tile_sendSpan (s : State) (m : SpanMsg) (e p : Nat) : (s.sendSpan m).tile e p = s.tile e p := rfl
@[simp] theorem State.inst_sendSpan (s : State) (m : SpanMsg) (v : Nat) : (s.sendSpan m).inst v = s.inst v := rfl
@[simp] theorem State.recOf_sendSpan (s : State) (m : SpanMsg) (e p : Nat) : (s.sendSpan m).recOf e p = s.recOf e p := rfl
@[simp] theorem State.die_updInst (s : State) (u : Nat) (f : Inst → Inst) (e : Nat) : (s.updInst u f).die e = s.die e := by
  unfold State.updInst; split <;> rfl
@[simp] theorem State.seq_updInst (s : State) (u : Nat) (f : Inst → Inst) (e p : Nat) : (s.updInst u f).seq e p = s.seq e p := by
  unfold State.updInst; split <;> rfl
@[simp] theorem State.tile_updInst (s : State) (u : Nat) (f : Inst → Inst) (e p : Nat) : (s.updInst u f).tile e p = s.tile e p := by
  unfold State.updInst; split <;> rfl
@[simp] theorem State.recOf_updInst (s : State) (u : Nat) (f : Inst → Inst) (e p : Nat) : (s.updInst u f).recOf e p = s.recOf e p := by
  unfold State.updInst; split <;> rfl

end Sys2Proof.Machine
end

