-- ==== Sys2Proof/Laws/Memory.lean ====
section
/-! SUPPORT. Memory: what a read after a write gives, what a write leaves alone, and that every operation keeps the
canonical form. -/

namespace Sys2Proof.Machine

/-- A state with the same memory is in canonical form too. -/
theorem State.memWf_of_phys {s t : State} (h : s.memWf) (e : t.phys = s.phys) : t.memWf := by
  unfold State.memWf at *; rw [e]; exact h
theorem State.memWf_of_mem {s t : State} (h : s.memWf) (e : t.phys.mem = s.phys.mem) : t.memWf := by
  unfold State.memWf at *; rw [e]; exact h

theorem State.memWf_reset : State.reset.memWf := FMap.wf_empty _

/-! ## One byte -/

@[simp] theorem State.setByte_get_same (s : State) (a : Nat) (b : Byte) : (s.setByte a b).phys.mem.get 0 a = b :=
  FMap.get_set_same ..
theorem State.setByte_get_ne {a k : Nat} (h : k ≠ a) (s : State) (b : Byte) :
    (s.setByte a b).phys.mem.get 0 k = s.phys.mem.get 0 k := FMap.get_set_ne h ..
@[simp] theorem State.setByte_bad (s : State) (a : Nat) (b : Byte) : (s.setByte a b).phys.bad = s.phys.bad := rfl
@[simp] theorem State.setByte_ctlAt (s : State) (a : Nat) (b : Byte) (k : Nat) : (s.setByte a b).ctlAt k = s.ctlAt k := rfl
theorem State.memWf_setByte {s : State} (h : s.memWf) (a : Nat) (b : Byte) : (s.setByte a b).memWf :=
  FMap.wf_set _ _ _ _ h

/-! ## Several bytes -/

/-- A state that differs from `s` at most in its memory and in what is noted beside it. -/
structure State.MemOnly (s t : State) : Prop where
  eq : t = { s with phys := { s.phys with mem := t.phys.mem, bad := t.phys.bad, relaxed := t.phys.relaxed } }

theorem State.MemOnly.refl (s : State) : s.MemOnly s := ⟨rfl⟩
theorem State.MemOnly.trans {a b c : State} (h : a.MemOnly b) (k : b.MemOnly c) : a.MemOnly c := by
  constructor; rw [k.eq]; rw [h.eq]
theorem State.memOnly_setByte (s : State) (a : Nat) (b : Byte) : s.MemOnly (s.setByte a b) := ⟨rfl⟩
theorem State.MemOnly.host {s t : State} (h : s.MemOnly t) : t.host = s.host := by rw [h.eq]
theorem State.MemOnly.insts {s t : State} (h : s.MemOnly t) : t.insts = s.insts := by rw [h.eq]
theorem State.MemOnly.dies {s t : State} (h : s.MemOnly t) : t.dies = s.dies := by rw [h.eq]
theorem State.MemOnly.tiles {s t : State} (h : s.MemOnly t) : t.tiles = s.tiles := by rw [h.eq]
theorem State.MemOnly.ports {s t : State} (h : s.MemOnly t) : t.ports = s.ports := by rw [h.eq]

theorem State.memOnly_pokePa (s : State) (pa n v : Nat) : s.MemOnly (s.pokePa pa n v) := by
  induction n generalizing s pa v with
  | zero => exact .refl s
  | succ n ih => exact (s.memOnly_setByte ..).trans (ih ..)

theorem State.memWf_pokePa {s : State} (h : s.memWf) (pa n v : Nat) : (s.pokePa pa n v).memWf := by
  induction n generalizing s pa v with
  | zero => exact h
  | succ n ih => exact ih (State.memWf_setByte h ..) ..

/-- The bytes that a write leaves alone. -/
theorem State.pokePa_out (s : State) {pa n a : Nat} (v : Nat) (h : a < pa ∨ pa + n ≤ a) :
    (s.pokePa pa n v).phys.mem.get 0 a = s.phys.mem.get 0 a := by
  induction n generalizing s pa v with
  | zero => rfl
  | succ n ih =>
    simp only [State.pokePa]
    rw [ih _ (v / 256) (by omega), State.setByte_get_ne (by omega)]

/-- The bytes that a write sets, lowest first (R1). -/
theorem State.pokePa_in (s : State) {pa n k : Nat} (v : Nat) (h : k < n) :
    (s.pokePa pa n v).phys.mem.get 0 (pa + k) = BitVec.ofNat 8 (v / 256 ^ k) := by
  induction n generalizing s pa v k with
  | zero => omega
  | succ n ih =>
    simp only [State.pokePa]
    cases k with
    | zero =>
      rw [State.pokePa_out _ _ (by omega), Nat.pow_zero, Nat.div_one]
      exact State.setByte_get_same ..
    | succ k =>
      have e : pa + (k + 1) = pa + 1 + k := by omega
      rw [e, ih _ (v / 256) (by omega), Nat.div_div_eq_div_mul, Nat.pow_succ, Nat.mul_comm 256]

theorem State.memOnly_clearBad (s : State) (pa n : Nat) : s.MemOnly (s.clearBad pa n) := by
  unfold State.clearBad; split <;> exact ⟨rfl⟩
@[simp] theorem State.clearBad_mem (s : State) (pa n : Nat) : (s.clearBad pa n).phys.mem = s.phys.mem := by
  unfold State.clearBad; split <;> rfl

/-- What a write outdates is noted beside memory, not in it. -/
theorem State.memOnly_updRelaxed (s : State) (f : Relaxed → Relaxed) : s.MemOnly (s.updRelaxed f) := ⟨rfl⟩
theorem State.memOnly_outdate (s : State) (pa n : Nat) : s.MemOnly (s.outdate pa n) := ⟨rfl⟩
@[simp] theorem State.outdate_mem (s : State) (pa n : Nat) : (s.outdate pa n).phys.mem = s.phys.mem := rfl

/-! ## Stores -/

/-- A store to an address that no control structure answers writes its bytes and changes nothing else. -/
theorem State.writePa_memOnly {s : State} {pa : Nat} (h : s.ctlAt pa = none) (n v : Nat) : s.MemOnly (s.writePa pa n v) := by
  unfold State.writePa; rw [h]
  exact (s.memOnly_outdate ..).trans ((State.memOnly_clearBad ..).trans (State.memOnly_pokePa ..))
theorem State.writePa_out {s : State} {pa : Nat} (h : s.ctlAt pa = none) (n v : Nat) {a : Nat} (ha : a < pa ∨ pa + n ≤ a) :
    (s.writePa pa n v).phys.mem.get 0 a = s.phys.mem.get 0 a := by
  unfold State.writePa; rw [h]
  simp only
  rw [State.pokePa_out _ _ ha, State.clearBad_mem, State.outdate_mem]
theorem State.writePa_in {s : State} {pa : Nat} (h : s.ctlAt pa = none) (n v : Nat) {k : Nat} (hk : k < n) :
    (s.writePa pa n v).phys.mem.get 0 (pa + k) = BitVec.ofNat 8 (v / 256 ^ k) := by
  unfold State.writePa; rw [h]
  exact State.pokePa_in _ _ hk

theorem State.phys_updInsts (us : List Nat) (f : Inst → Inst) (s : State) :
    (us.foldl (fun s u => s.updInst u f) s).phys = s.phys := by
  induction us generalizing s with
  | nil => rfl
  | cons u t ih =>
    rw [List.foldl_cons, ih]
    unfold State.updInst; split <;> rfl

theorem State.phys_resumeOn (s : State) (no d : Nat) : (s.resumeOn no d).phys = s.phys := by
  unfold State.resumeOn
  rw [State.phys_updInsts, State.updSch_phys]

theorem State.phys_resumePage (s : State) (d no : Nat) : (s.resumePage d no).phys = s.phys := by
  have all (l : List Nat) (t : State) : (l.foldl (fun s k => s.resumeOn no k) t).phys = t.phys := by
    induction l generalizing t with
    | nil => rfl
    | cons k l ih => rw [List.foldl_cons, ih, State.phys_resumeOn]
  unfold State.resumePage
  simp only [State.updHost_phys]
  split
  · exact all ..
  · exact State.phys_resumeOn ..

theorem State.phys_commitQcb (s : State) (q gen : Nat) : (s.commitQcb q gen).phys = s.phys := by
  unfold State.commitQcb; split <;> rfl

theorem State.phys_ite {c : Prop} [Decidable c] {a b : State} {p : Phys} (ha : a.phys = p) (hb : b.phys = p) :
    (if c then a else b).phys = p := by split <;> assumption

theorem State.phys_qcb {c1 c2 c3 : Prop} [Decidable c1] [Decidable c2] [Decidable c3] (s : State) (q g : Nat)
    (f h : GQueue → GQueue) :
    (let s := if c1 then s.updQueue q f else s
     let s := if c2 then s.commitQcb q g else s
     if c3 then s.updQueue q h else s).phys = s.phys := by
  dsimp only
  split <;> split <;> split <;> simp only [State.updQueue_phys, State.phys_commitQcb]

/-- A store to a control structure changes no byte of memory. -/
theorem State.ctlStore_phys (s : State) (c : Ctl) (k n v : Nat) : (s.ctlStore c k n v).phys = s.phys := by
  cases c with
  | qcb q =>
    unfold State.ctlStore
    exact State.phys_qcb ..
  | resume d => unfold State.ctlStore; exact State.phys_resumePage ..
  | ras i => unfold State.ctlStore; exact State.phys_ite (State.updHost_phys ..) (State.updDie_phys ..)
  | lrcb i => unfold State.ctlStore; exact State.phys_ite (State.phys_ite rfl rfl) (State.phys_ite rfl rfl)
  | ring n => unfold State.ctlStore; exact State.updHost_phys ..
  | power i => unfold State.ctlStore; exact State.updHost_phys ..
  | budget => unfold State.ctlStore; exact State.updHost_phys ..
  | zero => unfold State.ctlStore; rfl
  | doorbell q => unfold State.ctlStore; exact State.updQueue_phys ..
  | asid a => unfold State.ctlStore; exact State.updHost_phys ..
  | part => unfold State.ctlStore; rfl
  | phase => unfold State.ctlStore; rfl

theorem State.memWf_writePa {s : State} (h : s.memWf) (pa n v : Nat) : (s.writePa pa n v).memWf := by
  unfold State.writePa
  split
  · refine State.memWf_of_phys h ?_
    split
    · split <;> simp only [State.ctlStore_phys]
    · exact State.ctlStore_phys ..
  · exact State.memWf_pokePa (State.memWf_of_mem h (by rw [State.clearBad_mem, State.outdate_mem])) ..

/-- Putting release sequences at a write changes no byte (R250). -/
@[simp] theorem State.putHeads_mem (s : State) (pa n : Nat) (l : List Head) : (s.putHeads pa n l).phys.mem = s.phys.mem := by
  unfold State.putHeads; split <;> rfl
/-- A write as an agent makes it is the plain write with its release sequences put. -/
theorem State.writeAs_fst (s : State) (o : Ledger) (pa n v : Nat) (heads : List Head) :
    (s.writeAs o pa n v heads).1 = (s.writePa pa n v).putHeads pa n heads := rfl
theorem State.memWf_writeAs {s : State} (h : s.memWf) (o : Ledger) (pa n v : Nat) (heads : List Head) :
    (s.writeAs o pa n v heads).1.memWf :=
  State.memWf_of_mem (State.memWf_writePa h pa n v) (by rw [State.writeAs_fst, State.putHeads_mem])

theorem State.memWf_writeBytes {s : State} (h : s.memWf) (pa : Nat) (l : List Byte) : (s.writeBytes pa l).memWf := by
  induction l generalizing s pa with
  | nil => exact h
  | cons b t ih => exact ih (State.memWf_writePa h ..) _

theorem State.memWf_zeroPa {s : State} (h : s.memWf) (pa n : Nat) : (s.zeroPa pa n).memWf := FMap.wf_filter _ _ _ h

theorem State.memWf_copyPage {s : State} (h : s.memWf) (a b n : Nat) : (s.copyPage a b n).memWf := by
  unfold State.copyPage
  apply State.memWf_of_mem (s := List.foldl (fun s c => State.setByte s (b + (c.1 - a)) c.2) (s.zeroPa b n)
    (s.phys.mem.cells.filter fun c => decide (a ≤ c.1) && decide (c.1 < a + n)))
  · generalize s.phys.mem.cells.filter _ = l
    have hz := State.memWf_zeroPa h b n
    generalize s.zeroPa b n = z at hz
    induction l generalizing z with
    | nil => exact hz
    | cons c t ih => exact ih _ (State.memWf_setByte hz ..)
  · rfl

/-- An operation that folds steps which keep the canonical form keeps it. -/
theorem State.memWf_foldl {α : Type} (f : State → α → State) (hf : ∀ s a, s.memWf → (f s a).memWf) (l : List α) {s : State}
    (h : s.memWf) : (l.foldl f s).memWf := by
  induction l generalizing s with
  | nil => exact h
  | cons a t ih => exact ih (hf s a h)

/-- A read after a write of the same bytes gives the value written (R1). -/
theorem State.readPa_pokePa (s : State) (pa n v : Nat) (h : ∀ k, k < n → s.ctlAt (pa + k) = none) :
    (s.pokePa pa n v).readPa pa n = v % 256 ^ n := by
  have rd : ∀ (m : Nat) (x : State) (p w : Nat), (∀ k, k < m → x.ctlAt (p + k) = none) →
      (∀ k, k < m → x.phys.mem.get 0 (p + k) = BitVec.ofNat 8 (w / 256 ^ k)) → x.readPa p m = w % 256 ^ m := by
    intro m
    induction m with
    | zero => intro x p w _ _; simp [State.readPa, Nat.mod_one]
    | succ m ih =>
      intro x p w hc hb
      have e0 := hb 0 (by omega)
      have h0 := hc 0 (by omega)
      simp only [Nat.add_zero, Nat.pow_zero, Nat.div_one] at e0 h0
      have er := ih x (p + 1) (w / 256) (fun k hk => by have := hc (k + 1) (by omega); rwa [← Nat.add_assoc, Nat.add_right_comm] at this)
        (fun k hk => by
          have := hb (k + 1) (by omega)
          rw [← Nat.add_assoc, Nat.add_right_comm] at this
          rw [this, Nat.div_div_eq_div_mul, Nat.pow_succ, Nat.mul_comm 256])
      simp only [State.readPa, State.byteAt, h0, e0, er, BitVec.toNat_ofNat]
      rw [show 256 ^ (m + 1) = 256 * 256 ^ m from Nat.pow_succ' .., Nat.mod_mul]
  apply rd
  · intro k hk
    have e := (s.memOnly_pokePa pa n v).eq
    have : (s.pokePa pa n v).ctlAt (pa + k) = s.ctlAt (pa + k) := by rw [e]; rfl
    rw [this]; exact h k hk
  · exact fun k hk => State.pokePa_in s v hk

end Sys2Proof.Machine
end

