-- ==== Sys2Proof/Laws/Words.lean ====
section
/-! SUPPORT. What the issue of a word answers, said once for each outcome of its effect, and the frame of a completed
word. -/

namespace Sys2Proof.Machine

/-! ## Streams carried through an effect -/

/-- `c'` is the stream `c` further on: the same stream on the same sequencer at the same cycle and PC. -/
structure Cur.Same (c c' : Cur) : Prop where
  uid : c'.uid = c.uid
  q : c'.q = c.q
  clk : c'.clk = c.clk
  who : c'.i.who = c.i.who
  pc : c'.i.ctx.pc = c.i.ctx.pc

theorem Cur.Same.refl (c : Cur) : c.Same c := ⟨rfl, rfl, rfl, rfl, rfl⟩
theorem Cur.Same.trans {a b c : Cur} (h : a.Same b) (k : b.Same c) : a.Same c :=
  ⟨k.uid.trans h.uid, k.q.trans h.q, k.clk.trans h.clk, k.who.trans h.who, k.pc.trans h.pc⟩
theorem Cur.Same.die {c c' : Cur} (h : c.Same c') : c'.die = c.die := by simp [Cur.die, h.who]

theorem Cur.same_mapRegs (c : Cur) (f : Regs → Regs) : c.Same (c.mapRegs f) := ⟨rfl, rfl, rfl, rfl, rfl⟩
theorem Cur.same_mapS (c : Cur) (f : State → State) : c.Same (c.mapS f) := ⟨rfl, rfl, rfl, rfl, rfl⟩
theorem Cur.same_commit (c : Cur) : c.Same c.commit := ⟨rfl, rfl, rfl, rfl, rfl⟩
theorem Cur.same_putS (c : Cur) (dst l : Nat) (v : Word) (t : Bool) : c.Same (c.putS dst l v t) := by
  unfold Cur.putS; split <;> exact ⟨rfl, rfl, rfl, rfl, rfl⟩
theorem Cur.same_putPair (c : Cur) (dst l : Nat) (v : Word64) (t : Bool) : c.Same (c.putPair dst l v t) :=
  ⟨rfl, rfl, rfl, rfl, rfl⟩
theorem Cur.same_putPredPair (c : Cur) (j : Nat) (p0 p1 mask : Pred) (t : Bool) : c.Same (c.putPredPair j p0 p1 mask t) :=
  ⟨rfl, rfl, rfl, rfl, rfl⟩
theorem Cur.same_putV (c : Cur) (vd l : Nat) (v : VecReg) (mask : Pred) (t : Bool) : c.Same (c.putV vd l v mask t) := by
  unfold Cur.putV; split <;> exact ⟨rfl, rfl, rfl, rfl, rfl⟩
theorem Cur.same_produce (c : Cur) (dst k : Nat) (src : ProdSrc) (t a l : Bool) : c.Same (c.produce dst k src t a l) :=
  ⟨rfl, rfl, rfl, rfl, rfl⟩
theorem Cur.same_orderTaint (c : Cur) (t : Bool) : c.Same (c.orderTaint t) := by
  unfold Cur.orderTaint; split <;> exact ⟨rfl, rfl, rfl, rfl, rfl⟩

/-! ## Issue -/

/-- The stream may issue a word of this kind (R341, R364). -/
def Cur.May (c : Cur) (pro hand : Bool) : Prop :=
  (c.i.who.kind = .prologue → pro = true) ∧ (c.i.who.kind = .handler → hand = true)

@[simp] theorem Cur.may_all (c : Cur) : c.May true true := ⟨fun _ => rfl, fun _ => rfl⟩
theorem Cur.Ordinary.may {c : Cur} (h : c.Ordinary) (pro hand : Bool) : c.May pro hand :=
  ⟨fun e => absurd e h.2, fun e => absurd e h.1⟩
theorem Cur.may_hand {c : Cur} (h : c.i.who.kind ≠ .prologue) : c.May false true := ⟨fun e => absurd e h, fun _ => rfl⟩
theorem Cur.may_pro {c : Cur} (h : c.i.who.kind ≠ .handler) : c.May true false := ⟨fun _ => rfl, fun e => absurd e h⟩

theorem issueLen_eq {s : State} {c : Cur} (hc : s.cur = some c) {pro hand : Bool} (hm : c.May pro hand) (len : Nat)
    (f : Cur → Eff) : issueLen len pro hand s f = c.finish len (f c) := by
  unfold issueLen
  rw [hc]
  obtain ⟨hp, hh⟩ := hm
  cases hk : c.i.who.kind <;> simp_all

/-- An effect that completes: the word's stream moves past it. -/
theorem issueLen_ok {s : State} {c c' : Cur} (h : s.Issues c) {pro hand : Bool} (hm : c.May pro hand) {len : Nat}
    {f : Cur → Eff} (hf : f c = .ok c') : issueLen len pro hand s f = .next ((c'.fallThrough len).after 1) := by
  rw [issueLen_eq h.cur hm, hf]
  simp [Cur.finish, h.cmdErr, h.check]

/-- An effect that transfers control. -/
theorem issueLen_jump {s : State} {c c' : Cur} (h : s.Issues c) {pro hand : Bool} (hm : c.May pro hand) {len : Nat}
    {f : Cur → Eff} {pc : Word64} {point : Bool} (hf : f c = .jump c' pc point) :
    issueLen len pro hand s f = .next (((c'.mapCtx fun x => { x with pc := pc, issued := x.issued + 1 }).mapSched fun x =>
      { x with point := point, noFrame := x.noFrame.filter (· < 3) }).after 1) := by
  rw [issueLen_eq h.cur hm, hf]
  simp [Cur.finish, h.cmdErr, h.check]

/-- An effect that gives the whole state. -/
theorem issueLen_done {s t : State} {c : Cur} (h : s.Issues c) {pro hand : Bool} (hm : c.May pro hand) {len : Nat}
    {f : Cur → Eff} (hf : f c = .done t) : issueLen len pro hand s f = .next t := by
  rw [issueLen_eq h.cur hm, hf]
  simp [Cur.finish, h.cmdErr, h.check]

/-- An effect that takes a fault. -/
theorem issueLen_trap {s : State} {c : Cur} (hc : s.cur = some c) {pro hand : Bool} (hm : c.May pro hand) {len : Nat}
    {f : Cur → Eff} {code : Nat} {tval : Word64} (hf : f c = .trap code tval) :
    issueLen len pro hand s f = .next (State.takeTrap c code 0 0 c.pc tval) := by
  rw [issueLen_eq hc hm, hf]
  rfl

/-- An effect that stays at issue. -/
theorem issueLen_stall {s : State} {c c' : Cur} (hc : s.cur = some c) {pro hand : Bool} (hm : c.May pro hand) {len : Nat}
    {f : Cur → Eff} (hf : f c = .stall c') : issueLen len pro hand s f = .next (c'.after 1) := by
  rw [issueLen_eq hc hm, hf]
  rfl

/-! ## The frame of a completed word -/

theorem Cur.leaves_after {c c' : Cur} (hs : c.Same c') : c.Leaves c'.s c'.i (c'.after 1) := by
  have hd := hs.die
  refine ⟨?_, ?_, ?_, ?_, ?_, ?_, rfl, rfl, rfl, rfl, rfl, rfl, rfl, rfl, rfl, rfl, rfl, rfl⟩
  · simp [Cur.after, Cur.save, ← hs.uid]
  · intro u hu
    simp only [Cur.after, Cur.save, State.inst_advance, State.inst_updSeq]
    exact State.inst_setInst_ne (hs.uid ▸ hu) ..
  · simp [Cur.after, Cur.save, ← hd, ← hs.q, ← hs.clk]
  · intro k hk
    simp only [Cur.after, Cur.save, State.advance_seqs, State.updSeq, State.setSeq]
    rw [FMap.get_set_ne (by rw [hd, hs.q]; exact hk)]
    rfl
  · simp [Cur.after, Cur.save, State.advance, ← hd, ← hs.clk]
  · intro d h
    simp only [Cur.after, Cur.save, State.advance]
    rw [State.die_updDie_ne (hd ▸ h)]
    rfl

/-- The word of `len` bytes whose effect leaves `c'` has completed: the frame. -/
theorem Cur.leaves_ok {c c' : Cur} (hs : c.Same c') (len : Nat) :
    c.Leaves c'.s (c'.i.past c.pc len) ((c'.fallThrough len).after 1) := by
  have e : (c'.fallThrough len).i = c'.i.past c.pc len := by
    have hp : c'.pc = c.pc := hs.pc
    unfold Cur.fallThrough Inst.past Ctx.past
    simp only [hp]
    rfl
  have k := Cur.leaves_after (c := c'.fallThrough len) (c' := c'.fallThrough len) (.refl _)
  rw [e] at k
  have hd : (c'.fallThrough len).die = c.die := hs.die
  have hu : (c'.fallThrough len).uid = c.uid := hs.uid
  have hq : (c'.fallThrough len).q = c.q := hs.q
  have hk : (c'.fallThrough len).clk = c.clk := hs.clk
  have hS : (c'.fallThrough len).s = c'.s := rfl
  obtain ⟨a1, a2, a3, a4, a5, a6, a7, a8, a9, a10, a11, a12, a13, a14, a15, a16, a17, a18⟩ := k
  rw [hd, hq, hS, hk] at a3
  rw [hd, hS, hk] at a5
  exact ⟨hu ▸ a1, hu ▸ a2, a3, by rw [← hd, ← hq]; exact a4, a5, by rw [← hd]; exact a6, a7, a8, a9, a10, a11, a12, a13, a14, a15, a16, a17, a18⟩

/-- A word that transfers control has completed: the frame. -/
theorem Cur.leaves_jump {c c' : Cur} (hs : c.Same c') (pc : Word64) (point : Bool) :
    c.Leaves c'.s (c'.i.jumped pc point) (((c'.mapCtx fun x => { x with pc := pc, issued := x.issued + 1 }).mapSched
      fun x => { x with point := point, noFrame := x.noFrame.filter (· < 3) }).after 1) := by
  have k := Cur.leaves_after (c := ((c'.mapCtx fun x => { x with pc := pc, issued := x.issued + 1 }).mapSched
      fun x => { x with point := point, noFrame := x.noFrame.filter (· < 3) })) (.refl _)
  obtain ⟨a1, a2, a3, a4, a5, a6, a7, a8, a9, a10, a11, a12, a13, a14, a15, a16, a17, a18⟩ := k
  have hd : c'.die = c.die := hs.die
  refine ⟨hs.uid ▸ a1, hs.uid ▸ a2, ?_, ?_, ?_, ?_, a7, a8, a9, a10, a11, a12, a13, a14, a15, a16, a17, a18⟩
  · rw [← hd, ← hs.q, ← hs.clk]; exact a3
  · rw [← hd, ← hs.q]; exact a4
  · rw [← hd, ← hs.clk]; exact a5
  · rw [← hd]; exact a6

/-- The completion of a word, with its frame. -/
theorem issueLen_leaves {s : State} {c c' : Cur} (h : s.Issues c) {pro hand : Bool} (hm : c.May pro hand) {len : Nat}
    {f : Cur → Eff} (hf : f c = .ok c') (hs : c.Same c') :
    ∃ t, issueLen len pro hand s f = .next t ∧ c.Leaves c'.s (c'.i.past c.pc len) t :=
  ⟨_, issueLen_ok h hm hf, Cur.leaves_ok hs len⟩

/-- The completion of a word that transfers control, with its frame. -/
theorem issueLen_leaves_jump {s : State} {c c' : Cur} (h : s.Issues c) {pro hand : Bool} (hm : c.May pro hand) {len : Nat}
    {f : Cur → Eff} {pc : Word64} {point : Bool} (hf : f c = .jump c' pc point) (hs : c.Same c') :
    ∃ t, issueLen len pro hand s f = .next t ∧ c.Leaves c'.s (c'.i.jumped pc point) t :=
  ⟨_, issueLen_jump h hm hf, Cur.leaves_jump hs pc point⟩

/-- The completion of a word, from its effect: `b` is the state around the stream and `i` its instance. -/
theorem word_ok {s b : State} {c c' : Cur} {i : Inst} {pro hand : Bool} {len : Nat} {f : Cur → Eff} (h : s.Issues c)
    (hm : c.May pro hand) (hf : f c = .ok c') (hs : c.Same c') (hb : c'.s = b) (hi : c'.i = i) :
    ∃ t, issueLen len pro hand s f = .next t ∧ c.Leaves b (i.past c.pc len) t := by
  subst hb hi
  exact issueLen_leaves h hm hf hs

/-- The completion of a word that transfers control, from its effect. -/
theorem word_jump {s b : State} {c c' : Cur} {i : Inst} {pro hand : Bool} {len : Nat} {f : Cur → Eff} {pc : Word64}
    {point : Bool} (h : s.Issues c) (hm : c.May pro hand) (hf : f c = .jump c' pc point) (hs : c.Same c') (hb : c'.s = b)
    (hi : c'.i = i) : ∃ t, issueLen len pro hand s f = .next t ∧ c.Leaves b (i.jumped pc point) t := by
  subst hb hi
  exact issueLen_leaves_jump h hm hf hs

/-- The stream in focus stands on the state in which it issues. -/
theorem State.cur_s {s : State} {c : Cur} (h : s.cur = some c) : c.s = s := by
  simp only [State.cur] at h
  split at h
  · cases h
  · split at h
    · cases h
    · cases h; rfl

end Sys2Proof.Machine
end

