-- ==== Sys2Proof/Laws/Scalar.lean ====
section
/-! SUPPORT. What the shared operations of scalar words answer when their operands can be read. -/

namespace Sys2Proof.Machine

theorem guarded_true {c : Cur} {g : Guard} (h : guardAt c.regs g 0 = true) (k : Eff) : guarded c g k = k := if_pos h
theorem guarded_false {c : Cur} {g : Guard} (h : guardAt c.regs g 0 = false) (k : Eff) : guarded c g k = .ok c := by
  simp [guarded, h]
theorem needRoom_true {c : Cur} {dst k : Nat} (h : c.room dst k = true) (e : Eff) : needRoom c dst k e = e := if_pos h
theorem needRoom_false {c : Cur} {dst k : Nat} (h : c.room dst k = false) (e : Eff) : needRoom c dst k e = .trap 5 c.pc := by
  simp [needRoom, h]

theorem withOps_vals {c : Cur} {ops : List Opnd} {l : List (Word × Bool)} {tk : FMap Nat} (h : c.regs.reads ops = .vals l tk)
    (k : List Word → Bool → (Cur → Cur) → Eff) :
    withOps c ops k = k (l.map (·.1)) (l.any (·.2)) fun x => x.mapRegs fun r => r.eat tk := by
  simp [withOps, h]

@[simp] theorem reads_nil (r : Regs) : r.reads [] = .vals [] .empty := rfl
@[simp] theorem Regs.eat_empty (r : Regs) : r.eat .empty = r := rfl
@[simp] theorem Regs.eatV_empty (r : Regs) : r.eatV .empty = r := rfl

/-- A 32-bit result on its way, as the context that `Cur.scalarResult` names. -/
theorem Cur.putS_ctx (c : Cur) (tk : FMap Nat) (dst l : Nat) (v : Word) (t : Bool) :
    ((c.putS dst l v t).mapRegs fun r => r.eat tk).i = c.i.withCtx (c.scalarResult tk dst l v t) := by
  unfold Cur.putS Cur.scalarResult isQ
  by_cases h : dst < 56
  · simp [h, Nat.not_le.2 h, Cur.mapRegs, Cur.mapCtx, Ctx.fly, Inst.withCtx, Cur.regs]
  · simp [h, Nat.le_of_not_lt h, Cur.mapRegs, Cur.mapCtx, Ctx.fly, Inst.withCtx, Cur.regs]

theorem Cur.putS_s (c : Cur) (dst l : Nat) (v : Word) (t : Bool) : (c.putS dst l v t).s = c.s := by
  unfold Cur.putS; split <;> rfl
theorem Cur.putV_s (c : Cur) (vd l : Nat) (v : VecReg) (m : Pred) (t : Bool) : (c.putV vd l v m t).s = c.s := by
  unfold Cur.putV; split <;> rfl

/-- A scalar word that computes one result: it completes, and only its own stream changes. -/
theorem scalarOp_leaves {s : State} {c : Cur} {g : Guard} {ops : List Opnd} {l : List (Word × Bool)} {tk : FMap Nat}
    {dst lat : Nat} (f : List Word → Word) (h : s.Issues c) (hg : guardAt c.regs g 0 = true)
    (ho : c.regs.reads ops = .vals l tk) (hr : c.room dst 1 = true) :
    ∃ t, scalarOp s g ops dst lat f = .next t ∧
      c.Leaves s ((c.i.withCtx (c.scalarResult tk dst lat (f (l.map (·.1))) (l.any (·.2)))).past c.pc 8) t := by
  have k := issueLen_leaves (len := 8) (f := fun c => guarded c g <| withOps c ops fun l t eat =>
    needRoom c dst 1 (.ok (eat (c.putS dst lat (f l) t)))) h (c.may_all)
    (c' := (c.putS dst lat (f (l.map (·.1))) (l.any (·.2))).mapRegs fun r => r.eat tk)
    (by simp [guarded_true hg, withOps_vals ho, needRoom_true hr]) ((c.same_putS ..).trans (Cur.same_mapRegs ..))
  rw [Cur.putS_ctx] at k
  have e : ((c.putS dst lat (f (l.map (·.1))) (l.any (·.2))).mapRegs fun r => r.eat tk).s = s :=
    (Cur.putS_s ..).trans (State.cur_s h.cur)
  rw [e] at k
  exact k

/-- A scalar word whose destination queue has no room takes the queue-full fault (R59). -/
theorem scalarOp_full {s : State} {c : Cur} {g : Guard} {ops : List Opnd} {l : List (Word × Bool)} {tk : FMap Nat}
    {dst lat : Nat} (f : List Word → Word) (hc : s.cur = some c) (hg : guardAt c.regs g 0 = true)
    (ho : c.regs.reads ops = .vals l tk) (hr : c.room dst 1 = false) :
    scalarOp s g ops dst lat f = .next (State.takeTrap c 5 0 0 c.pc c.pc) :=
  issueLen_trap hc c.may_all (by simp [guarded_true hg, withOps_vals ho, needRoom_false hr])

/-- A scalar word with an empty queue operand takes the queue-empty fault (R58). -/
theorem scalarOp_empty {s : State} {c : Cur} {g : Guard} {ops : List Opnd} {dst lat : Nat} (f : List Word → Word)
    (hc : s.cur = some c) (hg : guardAt c.regs g 0 = true) (ho : c.regs.reads ops = .empty) :
    scalarOp s g ops dst lat f = .next (State.takeTrap c 4 0 0 c.pc c.pc) :=
  issueLen_trap hc c.may_all (by simp [guarded_true hg, withOps, ho])

/-- A word with a false guard(0) does nothing but go on (R61, R68). -/
theorem guarded_off {s : State} {c : Cur} {len : Nat} {pro hand : Bool} {f : Cur → Eff} (h : s.Issues c)
    (hm : c.May pro hand) (hf : f c = .ok c) :
    ∃ t, issueLen len pro hand s f = .next t ∧ c.Leaves s (c.i.past c.pc len) t := by
  have k := issueLen_leaves (len := len) h hm hf (Cur.Same.refl c)
  rw [State.cur_s h.cur] at k
  exact k

end Sys2Proof.Machine
end

