-- ==== Sys2Proof/Tests/Slice0.lean ====
section
/-! SUPPORT. Tests of the model: ill-formed words refused, words of the manual decoded, one step of single words with
results worked out from the manual, and for each statement with hypotheses a state and operands that meet them. -/

namespace Sys2Proof.Tests

open Sys2Proof Sys2Proof.Machine

set_option maxRecDepth 100000
set_option Elab.async false

/-! ## States to test on -/

/-- A guard that is true in every lane. -/
def g1 : Guard := ⟨0xFF, 0, 0, 0⟩
/-- A guard that is false in every lane. -/
def g0 : Guard := ⟨0, 0, 0, 0⟩
/-- The state in which a block instance of ASID 0 is about to issue on sequencer 0 of die 0, its page held by the TLB. -/
def base : State := State.reset.withFetchWord 64 0
/-- The instance of a state's stream 0, changed. -/
def State.tweak (s : State) (f : Inst → Inst) : State := s.setInst 0 (f ((s.inst 0).getD fetchInst))
/-- Its registers changed. -/
def State.regs (s : State) (f : Regs → Regs) : State :=
  State.tweak s fun i => i.withCtx { i.ctx with regs := f i.ctx.regs }
/-- The stream that the sequencer in focus runs. -/
def on (s : State) : Cur := s.cur.getD ⟨s, 0, fetchInst, 0, 0⟩
/-- A vector with `f i` in lane `i`. -/
def lanes (f : Nat → Nat) : VecReg := (List.range 64).foldr (fun i v => (v <<< 32) ||| BitVec.ofNat 2048 (f i % 2 ^ 32)) 0
/-- Registers with values: s1 = 7, s2:s3 = 0x10100 in the data page, s4 = 12, s6 = -2, s7 = 3, two entries in q0, a pending
one in q1, v1 and v2 counting up and down, p1 = 0b101. -/
def someRegs : Regs :=
  { Regs.init with
    s := ((((FMap.empty.put 1 7).put 2 0x10100).put 4 12).put 6 0xFFFF_FFFE).put 7 3
    q := (FMap.empty.put 0 ⟨0, [some (11, false), some (12, true)]⟩).put 1 ⟨3, [none]⟩
    v := (FMap.empty.put 1 (lanes id)).put 2 (lanes fun i => 100 - i)
    p := FMap.empty.put 1 5 }
/-- The state with these registers. -/
def rich : State := State.regs base fun _ => someRegs
/-- A register body with operands a and b. -/
def rb (dst a b : BitVec 6) : RBody := ⟨dst, a, b, 0, false, false, false, false⟩
/-- What a step leaves, looked at by `f`. -/
def seen {α : Type} (o : Host.Outcome State Fault Refusal) (f : State → α) : Option α :=
  match o with
  | .next t => some (f t)
  | _ => none
/-- The results in flight of stream 0 after a step. -/
def flown (o : Host.Outcome State Fault Refusal) : Option (List Flight) :=
  seen o fun t => ((t.inst 0).getD fetchInst).ctx.flights
/-- The cause that a trap leaves on sequencer 0, with the handler at 0x2000. -/
def handled (s : State) : State := s.updDie 0 fun d => { d with regs := { d.regs with tvec := 0x2000 } }
/-- The image of a descriptor (R75) of two dimensions: space, strict, format, base, pad, extents and strides. -/
def descImage (space strict fmt tile base pad e0 e1 t0 t1 : Nat) : Nat :=
  space + 4 * strict + 8 + 16 * fmt + 2 ^ 8 + 2 ^ 12 * tile + 2 ^ 64 * base + 2 ^ 128 * pad + 2 ^ 192 * e0 + 2 ^ 224 * e1 +
    2 ^ 320 * t0 + 2 ^ 352 * t1
/-- The rich state with an ASID record (descriptors from 0x11000, every semaphore), and descriptors in the data page: 1 in
memory (format 9 at 0x12000, 8 by 8), 2 in tile memory (format 7), 3 like 1 but strict, 4 as 2 in format 6 and strict. -/
def memory : State :=
  let s := { rich with host := { rich.host with
    asids := FMap.empty.put 0 (BitVec.ofNat 512 (2 ^ 64 + 0x11000 * 2 ^ 128 + 255 * 2 ^ 200)) } }
  let s := s.updTile 0 0 fun t => { t with allocs := [⟨0, 2, 0x400, 0x400, 0, true⟩] }
  let s := s.writePa 0x100_0000_1040 64 (descImage 0 0 9 0 0x12000 77 8 8 4 32)
  let s := s.writePa 0x100_0000_1080 64 (descImage 1 0 7 0 0x400 9 8 8 2 16)
  let s := s.writePa 0x100_0000_10C0 64 (descImage 0 1 9 0 0x12000 77 8 8 4 32)
  let s := s.writePa 0x100_0000_1100 64 (descImage 1 1 6 0 0x400 9 8 8 1 8)
  let s := s.tileWrite 0 0 0x412 2 0xFFF3
  s.writePa 0x100_0000_2000 64 (2 ^ 511 + 0x1122_3344_8586_8788)

/-! ## Ill-formed terms refused (R91), one for each check -/

/-- Every term of the list is refused. -/
def refused (l : List Instr) : Bool := l.all fun i => !i.wf
/-- An I-format body. -/
def ib (dst a : BitVec 6) (imm : BitVec 24) : IBody := ⟨dst, a, imm⟩
/-- A V-format body of two sources. -/
def vb (vd va vb vc : BitVec 5) (ty var : BitVec 4) : VBody := ⟨vd, va, vb, vc, ty, var, false, false, 0, false, false, false, false⟩
/-- A command body with these operand fields and flags, no wait and no signal. -/
def cb (rf : BitVec 11) (f0 f1 f2 f3 f4 f5 f6 f7 f8 f9 f10 : BitVec 16) : CmdBody :=
  ⟨0, 0, rf, 0, 0, f0, f1, f2, f3, f4, f5, f6, f7, f8, f9, f10⟩

/-- Operand fields of R83 and R84: a used-as-zero field, an odd pair, pair 0, pair 56, a destination that must be a queue, a
shift field, a predicate field, keep marks on a register and on a pair, a modifier bit, and each use of the immediate. -/
theorem test_refused_scalar : refused
  [.add g1 { rb 1 2 3 with c := 1 }, .addp g1 (rb 2 5 3), .addp g1 (rb 0 4 3), .addp g1 (rb 56 4 3), .rng g1 (ib 55 0 0),
   .leap g1 { rb 2 4 3 with c := 8 }, .sel g1 { rb 2 4 3 with c := 16 }, .add g1 { rb 1 2 56 with ka := true },
   .addp g1 { rb 2 4 56 with ka := true }, .add g1 { rb 1 2 3 with m := true }, .shlI g1 (ib 1 2 32), .trap g1 (ib 0 0 0x10000),
   .loop g1 (ib 0 2 0), .loop g1 (ib 0 2 0x800000), .lidx g1 (ib 1 0 6), .join g1 (ib 0 0 0), .join g1 (ib 0 0 64),
   .nop g1 (ib 0 0 1), .movi g1 (ib 1 2 0), .gets g1 (ib 2 0 0x10), .gets g1 (ib 2 0 0x53)] = true := by decide +kernel

/-- Special registers by width (R72), compares and predicate logic (R95), queue words (R99). -/
theorem test_refused_system_and_compare : refused
  [.gets g1 (ib 3 0 0x07), .gets g1 (ib 0 0 0x40), .gets g1 (ib 2 1 0x07), .sets g1 (ib 0 3 0x41), .sets g1 (ib 1 4 0x41),
   .cmp g1 ⟨0, false, 1, 2, 10, 0⟩, .cmp g1 ⟨0, false, 1, 2, 9, 1⟩, .cmpi g1 ⟨0, false, 1, 2, 10, 0⟩,
   .plog g1 ⟨0, false, 16, 0, 0, 0⟩, .plog g1 ⟨0, false, 0, 16, 0, 0⟩, .plog g1 ⟨0, false, 0, 0, 0, 1⟩,
   .qcnt g1 (rb 1 55 0), .qcnt g1 { rb 1 4 0 with m := true }, .qdrn g1 (rb 1 56 0), .qdrn g1 { rb 0 4 0 with m := true },
   .qcnt g1 { rb 1 56 0 with ka := true }] = true := by decide +kernel

/-- Orders, sizes and signs of R98. -/
theorem test_refused_ordered : refused
  [.ldOrdered g1 (rb 56 4 0) ⟨false, false, .rel, .die⟩, .ldOrdered g1 (rb 5 4 0) ⟨false, false, .acq, .die⟩,
   .ldOrdered g1 (rb 56 4 0) ⟨false, true, .acq, .die⟩, .stOrdered g1 (rb 0 4 5) ⟨false, false, .acq, .die⟩,
   .stOrdered g1 (rb 0 4 5) ⟨true, false, .rel, .die⟩, .fence g1 (rb 0 0 0) ⟨false, false, .rlx, .die⟩,
   .fence g1 (rb 0 0 0) ⟨true, false, .ar, .die⟩, .fence g1 (rb 0 1 0) ⟨false, false, .ar, .die⟩,
   .aadd g1 (rb 56 4 5) ⟨false, true, .rlx, .die⟩, .aadd g1 (rb 56 4 5) ⟨true, false, .rlx, .die⟩,
   .aadd g1 { rb 56 4 5 with c := 1 } ⟨false, false, .rlx, .die⟩] = true := by decide +kernel

/-- Vector words: types, options, variants, a keep mark on a vector register, shift counts, compare and conversion codes
(R86, R87, R161 to R174). -/
theorem test_refused_vector : refused
  [.vadd g1 (vb 1 2 3 0 9 0), .vadd g1 (vb 1 2 3 1 0 0), .vadd g1 (vb 1 2 3 0 0 2), .vadd g1 { vb 1 2 3 0 0 0 with rnd := 1 },
   .vadd g1 { vb 1 2 3 0 6 0 with sat := true }, .vadd g1 { vb 1 2 3 0 0 0 with fz := true },
   .vadd g1 { vb 1 2 3 0 6 0 with nan := true }, .vadd g1 { vb 1 27 3 0 0 0 with ka := true }, .vmin g1 { vb 1 2 3 0 0 0 with sat := true },
   .vand g1 (vb 1 2 3 0 1 0), .vand g1 { vb 1 2 3 0 0 0 with sat := true }, .vshl g1 (vb 1 2 3 0 6 0), .vshl g1 (vb 1 2 0 16 2 2),
   .vshr g1 { vb 1 2 3 0 0 0 with sat := true }, .vcmp g1 (vb 1 2 3 0 0 0), .vcmp g1 (vb 0 2 3 10 0 0), .vcmp g1 (vb 0 2 3 6 6 0),
   .vcvt g1 (vb 1 2 0 11 0 0), .vcvt g1 (vb 1 2 0 6 0 4), .vcvt g1 { vb 1 2 0 6 7 0 with nan := true }, .vcvt g1 { vb 1 2 0 0 0 0 with rnd := 1 },
   .vrcp g1 (vb 1 2 0 0 7 0), .vred g1 (vb 1 2 0 0 6 3), .vred g1 (vb 1 2 0 0 0 6), .pushc g1 (vb 1 2 8 0 0 0),
   .popcClr g1 (vb 1 2 0 0 0 2), .vsel g1 (vb 1 2 3 16 0 0), .ldv g1 (vb 1 2 3 4 11 0), .ldv g1 (vb 1 2 3 4 0 1),
   .ldvIdx g1 { vb 1 2 27 4 0 2 with kb := true }] = true := by decide +kernel

/-- Command operands: limits, sums, an unused field, a flag that names no register, a flag on the second field of a wide
operand, scope code 3, mode bits (R102, R224, R233 to R242, R322). -/
theorem test_refused_commands : refused
  [.mma g1 (cb 0 1 0xFFF4 3 512 0 32 0 0 0 0 0), .mma g1 (cb 0 1 0xFFF0 3 513 0 32 0 0 0 0 0), .mma g1 (cb 0 1 0xFFF0 3 1 16 32 0 0 0 0 0),
   .mma g1 (cb 0 1 0xFFF0 3 1 2048 32 0 0 0 0 0), .mma g1 (cb 0 1 0xFFF0 3 512 0 32 1 0 0 0 0), .mma g1 (cb 0 1 0xFFF0 3 1 0 32 0 0 1 0 0),
   .mma g1 (cb 1 64 0xFFF0 3 1 0 32 0 0 0 0 0), .xld g1 (cb 0 1 2 3 4 5 6 0 1 0 0 0), .accrd g1 (cb 0 1 511 2 0 1 0 0 0 0 0 0),
   .accrd g1 (cb 0 1 0 1 0 1 128 0 0 0 0 0), .accld g1 (cb 0 1 0 1 0 1 2 0 0 0 0 0), .tcopy g1 (cb 0 1 2 3 4 5 6 7 8 0x60 0 0),
   .tcopy g1 (cb 0 1 2 3 4 5 6 0 8 0 0 0), .tmcast g1 (cb 0 1 2 3 4 5 6 7 8 0 0 0), .twin g1 (cb 0 0 2 3 4 5 0 0 0 0 0 0),
   .tfill g1 (cb 0 1 2 3 4 5 0 0 1 0 0 0), .tfill g1 (cb 0x40 1 2 3 4 5 0 0 0 0 0 0), .scat g1 (cb 0 1 2 3 4 5 3 0 0 0 0 0),
   .scat g1 (cb 0 1 2 3 4 5 5 0 0 0 0 0), .scat g1 (cb 0 1 2 3 4 4097 0 0 0 0 0 0), .attn g1 (cb 0 1 2 3 4 5 6 7 8 9 10 5),
   .kvapp g1 (cb 0 1 2 3 4 5 6 7 8 65 0 0), .kvrot g1 (cb 0 1 0 3 0 5 6 7 8 9 10 0), .kvevict g1 (cb 0 0 0 3 0 5 6 7 8 0 0 2)] = true := by
  decide +kernel

/-- Module events that name a die, tile, sequencer, queue, ring, core, lane, port or register the module does not have. -/
theorem test_refused_events : refused
  [.launchRecordAccept 20 0, .leaseGrant 0 16 0, .taskPlacement 0 65 0, .stealRequest 0 3 3 0, .engineCommandStart 0 0 4 0,
   .engineCommandStart 0 0 0 5, .tmcastGranuleDelivery 0 0 0 16, .cohortBarrierComplete 0 64 0, .shapeConfirmation 0 2048 0,
   .evictionStart 512 0 0 0, .dieFenceOrder 16 0, .laneTest 64 true, .queueReset 1024, .watchdogReset 7 0,
   .spanRequestArrival ⟨128, 0, 0, 0, .load, 4, 0, 0, false, false, []⟩, .spanRequestArrival ⟨0, 0, 0, 0, .atomic .add, 2, 0, 0, false, false, []⟩,
   .uetPacketArrival ⟨8, .rud, false, 0, 0, 0, 0, 0, 0, 1, 0, [], 0⟩, .uetPacketArrival ⟨0, .rud, false, 0, 0, 0, 0, 0, 1, 1, 0, [], 0⟩,
   .applicationCoreAccess ⟨0, 2, 4, .load, 0, 0, false, false⟩, .deviceMemoryAccess ⟨0, 0, 3, .load, 0, 0, false, false⟩,
   .registerWrite (.qcbBase 1024) 0, .registerWrite (.ringBase 513) 0, .registerWrite (.asidRecord 512) 0,
   .registerWrite (.rasCounter 21 0) 0, .registerWrite (.powerFloor 22) 0, .registerWrite (.spanPeer 128) 0,
   .registerWrite (.poolBase 20 0) 0] = true := by decide +kernel

/-! ## Words written out from the tables of the manual -/

/-- Each word, as R90's grid and the field tables give its bits, decodes to its instruction. -/
def readsAs (l : List (Nat × Instr)) : Bool := l.all fun p => decodeTableWord 64 p.1 == some p.2

/-- R93. -/
theorem test_words_register_1 : readsAs
  [(0xFF00_0000_7830_0018, .add g1 ⟨1, 56, 12, 0, true, false, false, false⟩),
   (0xFF00_0000_B830_0028, .sub g1 ⟨2, 56, 12, 0, true, false, false, false⟩),
   (0xFF00_0000_F830_0038, .and g1 ⟨3, 56, 12, 0, true, false, false, false⟩),
   (0xFF00_0001_3830_0048, .or g1 ⟨4, 56, 12, 0, true, false, false, false⟩),
   (0xFF00_0001_7830_0058, .xor g1 ⟨5, 56, 12, 0, true, false, false, false⟩),
   (0xFF00_0001_B830_0068, .andn g1 ⟨6, 56, 12, 0, true, false, false, false⟩),
   (0xFF00_0001_F830_0078, .shl g1 ⟨7, 56, 12, 0, true, false, false, false⟩),
   (0xFF00_0002_3830_0088, .shr g1 ⟨8, 56, 12, 0, true, false, false, false⟩),
   (0xFF00_0002_7830_0098, .sra g1 ⟨9, 56, 12, 0, true, false, false, false⟩),
   (0xFF00_0002_B830_00A8, .rot g1 ⟨10, 56, 12, 0, true, false, false, false⟩)] = true := by decide +kernel

/-- R93. -/
theorem test_words_register_2 : readsAs
  [(0xFF00_0002_F830_00B8, .min g1 ⟨11, 56, 12, 0, true, false, false, false⟩),
   (0xFF00_0003_3830_00C8, .max g1 ⟨12, 56, 12, 0, true, false, false, false⟩),
   (0xFF00_0003_7830_00D8, .minn g1 ⟨13, 56, 12, 0, true, false, false, false⟩),
   (0xFF00_0003_B830_00E8, .maxn g1 ⟨14, 56, 12, 0, true, false, false, false⟩),
   (0xFF00_0003_E100_00F0, .clz g1 ⟨15, 33, 0, 0, false, false, false, false⟩),
   (0xFF00_0004_2100_0100, .popc g1 ⟨16, 33, 0, 0, false, false, false, false⟩),
   (0xFF00_0004_6100_0110, .brev g1 ⟨17, 33, 0, 0, false, false, false, false⟩),
   (0xFF00_0004_B9E8_B124, .sel g1 ⟨18, 57, 58, 11, false, true, false, false⟩),
   (0xFF00_0010_45EC_0014, .mul g1 ⟨1, 5, 59, 0, false, true, false, false⟩),
   (0xFF00_0010_85EC_0024, .mulh g1 ⟨2, 5, 59, 0, false, true, false, false⟩)] = true := by decide +kernel

/-- R93. -/
theorem test_words_register_3 : readsAs
  [(0xFF00_0010_C5EC_0034, .mulhn g1 ⟨3, 5, 59, 0, false, true, false, false⟩),
   (0xFF00_0011_05EC_0044, .div g1 ⟨4, 5, 59, 0, false, true, false, false⟩),
   (0xFF00_0011_45EC_0054, .divn g1 ⟨5, 5, 59, 0, false, true, false, false⟩),
   (0xFF00_0011_85EC_0064, .rem g1 ⟨6, 5, 59, 0, false, true, false, false⟩),
   (0xFF00_0011_C5EC_0074, .remn g1 ⟨7, 5, 59, 0, false, true, false, false⟩)] = true := by decide +kernel

/-- R84 and R93. -/
theorem test_words_immediate_1 : readsAs
  [(0xFF00_0080_7CFF_FFFD, .addI g1 ⟨1, 60, 16777213⟩),
   (0xFF00_0090_BCFF_FFFC, .subI g1 ⟨2, 60, 16777212⟩),
   (0xFF00_00A0_FCFF_FFFB, .andI g1 ⟨3, 60, 16777211⟩),
   (0xFF00_00B1_3CFF_FFFA, .orI g1 ⟨4, 60, 16777210⟩),
   (0xFF00_00C1_7CFF_FFF9, .xorI g1 ⟨5, 60, 16777209⟩),
   (0xFF00_00D1_BCFF_FFF8, .andnI g1 ⟨6, 60, 16777208⟩),
   (0xFF00_00E0_4600_001F, .shlI g1 ⟨1, 6, 31⟩),
   (0xFF00_00F0_8600_001E, .shrI g1 ⟨2, 6, 30⟩),
   (0xFF00_0100_C600_001D, .sraI g1 ⟨3, 6, 29⟩),
   (0xFF00_0111_0600_001C, .rotI g1 ⟨4, 6, 28⟩)] = true := by decide +kernel

/-- R84 and R93. -/
theorem test_words_immediate_2 : readsAs
  [(0xFF00_0120_4680_0000, .minI g1 ⟨1, 6, 8388608⟩),
   (0xFF00_0130_8680_0001, .maxI g1 ⟨2, 6, 8388609⟩),
   (0xFF00_0140_C680_0002, .minnI g1 ⟨3, 6, 8388610⟩),
   (0xFF00_0151_0680_0003, .maxnI g1 ⟨4, 6, 8388611⟩),
   (0xFF00_0161_4680_0004, .mulI g1 ⟨5, 6, 8388612⟩),
   (0xFF00_0171_8680_0005, .divI g1 ⟨6, 6, 8388613⟩),
   (0xFF00_0181_C680_0006, .divnI g1 ⟨7, 6, 8388614⟩),
   (0xFF00_0192_0680_0007, .remI g1 ⟨8, 6, 8388615⟩),
   (0xFF00_01A2_4680_0008, .remnI g1 ⟨9, 6, 8388616⟩),
   (0xFF00_01B1_00FF_FFFD, .movi g1 ⟨4, 0, 16777213⟩)] = true := by decide +kernel

/-- R84 and R93. -/
theorem test_words_immediate_3 : readsAs
  [(0xFF00_01C1_0500_FFFE, .moviH g1 ⟨4, 5, 65534⟩),
   (0xFF00_0020_B6F4_0014, .addp g1 ⟨2, 54, 61, 0, false, true, false, false⟩),
   (0xFF00_0021_0224_7020, .leap g1 ⟨4, 2, 9, 7, false, false, false, false⟩),
   (0xFF00_01D1_887F_FFFF, .addpi g1 ⟨6, 8, 8388607⟩)] = true := by decide +kernel

/-- R95. -/
theorem test_words_predicate : readsAs
  [(0xFF00_040B_24A7_0000, .cmp g1 ⟨5, true, 9, 10, 7, 0⟩),
   (0xFF00_0414_27F9_FFFE, .cmpi g1 ⟨2, false, 9, 63, 9, 65534⟩),
   (0xFF00_042F_34EF_CA00, .plog g1 ⟨7, true, 13, 14, 15, 51712⟩),
   (0xFF00_0430_CC00_0010, .pmovPred g1 ⟨3, 12, 0, 0, false, false, false, false⟩),
   (0xFF00_0430_CC00_0020, .pmovFromPair g1 ⟨3, 12, 0, 0, false, false, false, false⟩),
   (0xFF00_0433_0300_0030, .pmovToPair g1 ⟨12, 3, 0, 0, false, false, false, false⟩),
   (0xFF00_0442_4D00_0010, .pany g1 ⟨9, 13, 0, 0, false, false, false, false⟩),
   (0xFF00_0452_4E00_0010, .pall g1 ⟨9, 14, 0, 0, false, false, false, false⟩),
   (0xFF00_0462_4F00_0010, .pcnt g1 ⟨9, 15, 0, 0, false, false, false, false⟩),
   (0xFF00_0470_0000_FFFF, .plive g1 ⟨0, 0, 65535⟩)] = true := by decide +kernel

/-- R96. -/
theorem test_words_control_1 : readsAs
  [(0xFF00_050F_FFFF_FFD0, .br g1 4294967293),
   (0xFF00_0510_3600_0010, .bri g1 ⟨0, 54, 0, 0, false, false, false, false⟩),
   (0xFF00_0507_FFFF_FFF1, .call g1 2147483647),
   (0xFF00_0520_0200_0010, .calli g1 ⟨0, 2, 0, 0, false, false, false, false⟩),
   (0xFF00_0530_0000_0010, .ret g1 ⟨0, 0, 0, 0, false, false, false, false⟩),
   (0xFF00_0540_0900_0001, .loop g1 ⟨0, 9, 1⟩),
   (0xFF00_0550_0000_0010, .lbrk g1 ⟨0, 0, 0, 0, false, false, false, false⟩),
   (0xFF00_0562_4000_0005, .lidx g1 ⟨9, 0, 5⟩),
   (0xFF00_0570_0000_0000, .nop g1 ⟨0, 0, 0⟩),
   (0xFF00_0580_0000_0000, .yieldI g1 ⟨0, 0, 0⟩)] = true := by decide +kernel

/-- R96. -/
theorem test_words_control_2 : readsAs
  [(0xFF00_0590_0000_0000, .exit g1 ⟨0, 0, 0⟩),
   (0xFF00_05A0_0000_1234, .trap g1 ⟨0, 0, 4660⟩)] = true := by decide +kernel

/-- R97. -/
theorem test_words_task_1 : readsAs
  [(0xFF00_0600_0200_0000, .launch g1 ⟨0, 2, 0⟩),
   (0xFF00_0610_0400_0000, .launchP g1 ⟨0, 4, 0⟩),
   (0xFF00_062F_C600_0000, .shape g1 ⟨63, 6, 0⟩),
   (0xFF00_063E_4824_0010, .ralloc g1 ⟨57, 8, 9, 0, false, false, false, false⟩),
   (0xFF00_0640_0000_0001, .join g1 ⟨0, 0, 1⟩),
   (0xFF00_0650_0000_003F, .leave g1 ⟨0, 0, 63⟩),
   (0xFF00_0660_0000_0020, .cbar g1 ⟨0, 0, 32⟩),
   (0xFF00_067F_0000_0000, .rng g1 ⟨60, 0, 0⟩),
   (0xFF00_0680_0310_0010, .rngset g1 ⟨0, 3, 4, 0, false, false, false, false⟩),
   (0xFF00_0680_0310_0011, .rngsetSplit g1 ⟨0, 3, 4, 0, false, false, false, true⟩)] = true := by decide +kernel

/-- R97. -/
theorem test_words_task_2 : readsAs
  [(0xFF00_0690_0310_0010, .rsub g1 ⟨0, 3, 4, 0, false, false, false, false⟩),
   (0xFF00_06A0_0000_0000, .segdone g1 ⟨0, 0, 0⟩),
   (0xFF00_06BD_8000_0000, .rtag g1 ⟨54, 0, 0⟩)] = true := by decide +kernel

/-- R98. -/
theorem test_words_memory_1 : readsAs
  [(0xFF00_070E_02FF_FFFF, .ldN8 g1 ⟨56, 2, 16777215⟩),
   (0xFF00_071E_44FF_FFFE, .ldI8 g1 ⟨57, 4, 16777214⟩),
   (0xFF00_072E_86FF_FFFD, .ldN16 g1 ⟨58, 6, 16777213⟩),
   (0xFF00_073E_C8FF_FFFC, .ldI16 g1 ⟨59, 8, 16777212⟩),
   (0xFF00_074F_0AFF_FFFB, .ld32 g1 ⟨60, 10, 16777211⟩),
   (0xFF00_075F_4CFF_FFFA, .ld64 g1 ⟨61, 12, 16777210⟩),
   (0xFF00_0761_4400_0007, .st8 g1 ⟨5, 4, 7⟩),
   (0xFF00_0771_8400_0008, .st16 g1 ⟨6, 4, 8⟩),
   (0xFF00_0781_C400_0009, .st32 g1 ⟨7, 4, 9⟩),
   (0xFF00_0791_06FF_FFF8, .st64 g1 ⟨4, 6, 16777208⟩)] = true := by decide +kernel

/-- R98. -/
theorem test_words_memory_2 : readsAs
  [(0xFF00_07AF_8200_0004, .ldc32 g1 ⟨62, 2, 4⟩),
   (0xFF00_07BF_F600_0008, .ldc64 g1 ⟨63, 54, 8⟩),
   (0xFF00_07CE_4800_08A0, .ldOrdered g1 ⟨57, 8, 0, 0, false, false, false, false⟩ ⟨false, false, .acq, .die⟩),
   (0xFF00_07CE_4800_0E40, .ldOrdered g1 ⟨57, 8, 0, 0, false, false, false, false⟩ ⟨true, false, .sc, .sys⟩),
   (0xFF00_07D0_08E0_0904, .stOrdered g1 ⟨0, 8, 56, 0, false, true, false, false⟩ ⟨false, false, .rel, .seq⟩),
   (0xFF00_07D0_0828_0E10, .stOrdered g1 ⟨0, 8, 10, 0, false, false, false, false⟩ ⟨true, false, .sc, .tile⟩),
   (0xFF00_07E0_0000_01B0, .fence g1 ⟨0, 0, 0, 0, false, false, false, false⟩ ⟨false, false, .ar, .dev⟩),
   (0xFF00_07F0_0800_0040, .pref g1 ⟨0, 8, 64⟩)] = true := by decide +kernel

/-- R98. -/
theorem test_words_atomic_1 : readsAs
  [(0xFF00_080E_8428_0000, .aadd g1 ⟨58, 4, 10, 0, false, false, false, false⟩ ⟨false, false, .rlx, .seq⟩),
   (0xFF00_081E_8428_0890, .aand g1 ⟨58, 4, 10, 0, false, false, false, false⟩ ⟨true, false, .acq, .tile⟩),
   (0xFF00_082E_8430_0120, .aor g1 ⟨58, 4, 12, 0, false, false, false, false⟩ ⟨false, false, .rel, .die⟩),
   (0xFF00_083E_8430_09B0, .axor g1 ⟨58, 4, 12, 0, false, false, false, false⟩ ⟨true, false, .ar, .dev⟩),
   (0xFF00_084E_8428_0E40, .amin g1 ⟨58, 4, 10, 0, false, false, false, false⟩ ⟨true, true, .sc, .sys⟩),
   (0xFF00_085E_842C_0000, .amax g1 ⟨58, 4, 11, 0, false, false, false, false⟩ ⟨false, false, .rlx, .seq⟩),
   (0xFF00_086E_842C_00A0, .axchg g1 ⟨58, 4, 11, 0, false, false, false, false⟩ ⟨false, false, .acq, .die⟩),
   (0xFF00_087E_8428_C9C0, .acas g1 ⟨58, 4, 10, 12, false, false, false, false⟩ ⟨true, false, .ar, .sys⟩),
   (0xFF00_088E_C3E7_A014, .ldt g1 ⟨59, 3, 57, 58, false, true, false, false⟩),
   (0xFF00_0892_43E7_A012, .stt g1 ⟨9, 3, 57, 58, false, false, true, false⟩)] = true := by decide +kernel

/-- R98. -/
theorem test_words_atomic_2 : readsAs
  [(0xFF00_08A1_90A6_6000, .ldv g1 ⟨3, 4, 5, 6, 6, 0, false, false, 0, false, false, false, false⟩),
   (0xFF00_08A1_90A6_A100, .ldvCol g1 ⟨3, 4, 5, 6, 10, 1, false, false, 0, false, false, false, false⟩),
   (0xFF00_08A1_9386_2204, .ldvIdx g1 ⟨3, 4, 28, 6, 2, 2, false, false, 0, false, true, false, false⟩),
   (0xFF00_08B1_90A6_6000, .stv g1 ⟨3, 4, 5, 6, 6, 0, false, false, 0, false, false, false, false⟩),
   (0xFF00_08B1_90A6_9100, .stvCol g1 ⟨3, 4, 5, 6, 9, 1, false, false, 0, false, false, false, false⟩),
   (0xFF00_08B1_90A6_2200, .stvIdx g1 ⟨3, 4, 5, 6, 2, 2, false, false, 0, false, false, false, false⟩),
   (0xFF00_08CF_44FF_FFC0, .rdf g1 ⟨61, 4, 16777152⟩),
   (0xFF00_08D0_0424_0010, .fill g1 ⟨0, 4, 9, 0, false, false, false, false⟩)] = true := by decide +kernel

/-- R99. -/
theorem test_words_semaphore_and_queue_1 : readsAs
  [(0xFF00_08E0_0310_0010, .waits g1 ⟨0, 3, 4, 0, false, false, false, false⟩),
   (0xFF00_08E0_0310_0011, .waitsDec g1 ⟨0, 3, 4, 0, false, false, false, true⟩),
   (0xFF00_08E0_0310_0020, .sig g1 ⟨0, 3, 4, 0, false, false, false, false⟩),
   (0xFF00_08E0_0310_0030, .semset g1 ⟨0, 3, 4, 0, false, false, false, false⟩),
   (0xFF00_08EE_0300_0040, .semrd g1 ⟨56, 3, 0, 0, false, false, false, false⟩),
   (0xFF00_08F2_7F00_0010, .qcnt g1 ⟨9, 63, 0, 0, false, false, false, false⟩),
   (0xFF00_08F2_4300_0011, .qcnt g1 ⟨9, 3, 0, 0, false, false, false, true⟩),
   (0xFF00_08F0_3800_0020, .qdrn g1 ⟨0, 56, 0, 0, false, false, false, false⟩),
   (0xFF00_08F0_0000_9030, .lease g1 ⟨0, 0, 0, 9, false, false, false, false⟩),
   (0xFF00_08F0_0000_0040, .unlease g1 ⟨0, 0, 0, 0, false, false, false, false⟩)] = true := by decide +kernel

/-- R99. -/
theorem test_words_semaphore_and_queue_2 : readsAs
  [(0xFF00_08FE_4424_0050, .chain g1 ⟨57, 4, 9, 0, false, false, false, false⟩)] = true := by decide +kernel

/-- R86, R87 and the forms of R161 to R174. -/
theorem test_words_vector_1 : readsAs
  [(0xFF00_0900_FFA0_004C, .vadd g1 ⟨1, 31, 29, 0, 0, 0, false, true, 0, true, true, false, false⟩),
   (0xFF00_0911_7FA0_104C, .vsub g1 ⟨2, 31, 29, 0, 1, 0, false, true, 0, true, true, false, false⟩),
   (0xFF00_0921_FFA0_204C, .vmul g1 ⟨3, 31, 29, 0, 2, 0, false, true, 0, true, true, false, false⟩),
   (0xFF00_0933_A13E_6133, .vfma g1 ⟨7, 8, 9, 30, 6, 1, false, false, 3, false, false, true, true⟩),
   (0xFF00_0942_14C0_8000, .vmin g1 ⟨4, 5, 6, 0, 8, 0, false, false, 0, false, false, false, false⟩),
   (0xFF00_0952_14C0_8100, .vmax g1 ⟨4, 5, 6, 0, 8, 1, false, false, 0, false, false, false, false⟩),
   (0xFF00_0962_1400_7010, .vabs g1 ⟨4, 5, 0, 0, 7, 0, false, false, 1, false, false, false, false⟩),
   (0xFF00_0972_1400_7010, .vneg g1 ⟨4, 5, 0, 0, 7, 0, false, false, 1, false, false, false, false⟩),
   (0xFF00_0982_14C0_0000, .vand g1 ⟨4, 5, 6, 0, 0, 0, false, false, 0, false, false, false, false⟩),
   (0xFF00_0992_14C0_0100, .vor g1 ⟨4, 5, 6, 0, 0, 1, false, false, 0, false, false, false, false⟩)] = true := by decide +kernel

/-- R86, R87 and the forms of R161 to R174. -/
theorem test_words_vector_2 : readsAs
  [(0xFF00_09A2_14C0_0000, .vxor g1 ⟨4, 5, 6, 0, 0, 0, false, false, 0, false, false, false, false⟩),
   (0xFF00_09B2_141F_0240, .vshl g1 ⟨4, 5, 0, 31, 0, 2, false, true, 0, false, false, false, false⟩),
   (0xFF00_09C2_14C0_3100, .vshr g1 ⟨4, 5, 6, 0, 3, 1, false, false, 0, false, false, false, false⟩),
   (0xFF00_09D2_14C0_4000, .vsra g1 ⟨4, 5, 6, 0, 4, 0, false, false, 0, false, false, false, false⟩),
   (0xFF00_09EB_10A9_1000, .vcmp g1 ⟨22, 4, 5, 9, 1, 0, false, false, 0, false, false, false, false⟩),
   (0xFF00_09F2_1406_90A0, .vcvt g1 ⟨4, 5, 0, 6, 9, 0, true, false, 2, false, false, false, false⟩),
   (0xFF00_0A02_1400_6000, .vrcp g1 ⟨4, 5, 0, 0, 6, 0, false, false, 0, false, false, false, false⟩),
   (0xFF00_0A12_1400_6000, .vrsq g1 ⟨4, 5, 0, 0, 6, 0, false, false, 0, false, false, false, false⟩),
   (0xFF00_0A22_1400_6000, .vexp2 g1 ⟨4, 5, 0, 0, 6, 0, false, false, 0, false, false, false, false⟩),
   (0xFF00_0A32_1400_6000, .vlog2 g1 ⟨4, 5, 0, 0, 6, 0, false, false, 0, false, false, false, false⟩)] = true := by decide +kernel

/-- R86, R87 and the forms of R161 to R174. -/
theorem test_words_vector_3 : readsAs
  [(0xFF00_0A42_1400_6000, .vsinc g1 ⟨4, 5, 0, 0, 6, 0, false, false, 0, false, false, false, false⟩),
   (0xFF00_0A52_1400_1300, .vred g1 ⟨4, 5, 0, 0, 1, 3, false, false, 0, false, false, false, false⟩),
   (0xFF00_0A62_1400_6200, .vscan g1 ⟨4, 5, 0, 0, 6, 2, false, false, 0, false, false, false, false⟩)] = true := by decide +kernel

/-- the forms of R171 to R184. -/
theorem test_words_shuffle_and_stream_1 : readsAs
  [(0xFF00_0A72_14C0_0000, .vperm g1 ⟨4, 5, 6, 0, 0, 0, false, false, 0, false, false, false, false⟩),
   (0xFF00_0A82_1407_0000, .vshufRot g1 ⟨4, 5, 0, 7, 0, 0, false, false, 0, false, false, false, false⟩),
   (0xFF00_0A82_14C7_0100, .vshufSlide g1 ⟨4, 5, 6, 7, 0, 1, false, false, 0, false, false, false, false⟩),
   (0xFF00_0A82_14C0_0200, .vshufZiplo g1 ⟨4, 5, 6, 0, 0, 2, false, false, 0, false, false, false, false⟩),
   (0xFF00_0A82_14C0_0300, .vshufZiphi g1 ⟨4, 5, 6, 0, 0, 3, false, false, 0, false, false, false, false⟩),
   (0xFF00_0A82_14C0_0400, .vshufUnze g1 ⟨4, 5, 6, 0, 0, 4, false, false, 0, false, false, false, false⟩),
   (0xFF00_0A82_14C0_0500, .vshufUnzo g1 ⟨4, 5, 6, 0, 0, 5, false, false, 0, false, false, false, false⟩),
   (0xFF00_0A82_1400_0600, .vshufRev g1 ⟨4, 5, 0, 0, 0, 6, false, false, 0, false, false, false, false⟩),
   (0xFF00_0A92_1400_0000, .vbcast g1 ⟨4, 5, 0, 0, 0, 0, false, false, 0, false, false, false, false⟩),
   (0xFF00_0A92_14C0_0100, .vbcastL g1 ⟨4, 5, 6, 0, 0, 1, false, false, 0, false, false, false, false⟩)] = true := by decide +kernel

/-- the forms of R171 to R184. -/
theorem test_words_shuffle_and_stream_2 : readsAs
  [(0xFF00_0AA2_7000_0008, .vmov g1 ⟨4, 28, 0, 0, 0, 0, false, false, 0, true, false, false, false⟩),
   (0xFF00_0AA2_14C0_0100, .vmovX g1 ⟨4, 5, 6, 0, 0, 1, false, false, 0, false, false, false, false⟩),
   (0xFF00_0AA2_14C0_0200, .vmovI g1 ⟨4, 5, 6, 0, 0, 2, false, false, 0, false, false, false, false⟩),
   (0xFF00_0AB2_14CF_0000, .vsel g1 ⟨4, 5, 6, 15, 0, 0, false, false, 0, false, false, false, false⟩),
   (0xFF00_0AC2_14C0_0000, .viota g1 ⟨4, 5, 6, 0, 0, 0, false, false, 0, false, false, false, false⟩),
   (0xFF00_0AC2_000F_0100, .viotaP g1 ⟨4, 0, 0, 15, 0, 1, false, false, 0, false, false, false, false⟩),
   (0xFF00_0AD2_14E0_0000, .pushc g1 ⟨4, 5, 7, 0, 0, 0, false, false, 0, false, false, false, false⟩),
   (0xFF00_0AE2_1C00_0000, .popcV g1 ⟨4, 7, 0, 0, 0, 0, false, false, 0, false, false, false, false⟩),
   (0xFF00_0AE2_1D20_0100, .popcD g1 ⟨4, 7, 9, 0, 0, 1, false, false, 0, false, false, false, false⟩),
   (0xFF00_0AE0_1C00_0200, .popcClr g1 ⟨0, 7, 0, 0, 0, 2, false, false, 0, false, false, false, false⟩)] = true := by decide +kernel

/-- R100, R376 and R416. -/
theorem test_words_system_1 : readsAs
  [(0xFF00_0D00_8000_0007, .gets g1 ⟨2, 0, 7⟩),
   (0xFF00_0D10_0900_0040, .sets g1 ⟨0, 9, 64⟩),
   (0xFF00_0D20_0000_0000, .eret g1 ⟨0, 0, 0⟩),
   (0xFF00_0D30_0000_0000, .wfi g1 ⟨0, 0, 0⟩),
   (0xFF00_0D40_0400_0000, .ctxsv g1 ⟨0, 4, 0⟩),
   (0xFF00_0D50_0600_0000, .ctxld g1 ⟨0, 6, 0⟩),
   (0xFF00_0D60_0424_0010, .tlbinvPage g1 ⟨0, 4, 9, 0, false, false, false, false⟩ false),
   (0xFF00_0D60_0424_0120, .tlbinvAsid g1 ⟨0, 4, 9, 0, false, false, false, false⟩ true),
   (0xFF00_0D60_0424_0030, .tlbinvAll g1 ⟨0, 4, 9, 0, false, false, false, false⟩ false),
   (0xFF00_0D70_0424_0010, .rtabw g1 ⟨0, 4, 9, 0, false, false, false, false⟩)] = true := by decide +kernel

/-- R100, R376 and R416. -/
theorem test_words_system_2 : readsAs
  [(0xFF00_0D70_0424_0020, .rtabwWin g1 ⟨0, 4, 9, 0, false, false, false, false⟩),
   (0xFF00_0D80_0A2C_0010, .sptw g1 ⟨0, 10, 11, 0, false, false, false, false⟩),
   (0xFF00_0D81_CA00_0020, .sptwRd g1 ⟨7, 10, 0, 0, false, false, false, false⟩)] = true := by decide +kernel

/-- The words of each command (R101 to R103) give the command with its operand fields, wait, signal and flags. -/
def readsCmd (l : List ((Nat × Nat × Nat × Nat) × Instr)) : Bool :=
  l.all fun p => (decodeWords (BitVec.ofNat 64 p.1.1) (BitVec.ofNat 64 p.1.2.1) (BitVec.ofNat 64 p.1.2.2.1) (BitVec.ofNat 64 p.1.2.2.2)).toOption == some p.2

/-- R101 to R103. -/
theorem test_words_command_1 : readsCmd
  [((0xFF00_0F80_10C0_1000, 0x0D02_0001_FFF0_0003, 0x0200_0400_0400_0000, 0x0003_0000_0000_0000), .mma g1 ⟨12, 1, 0, 13, 2, 1, 65520, 3, 512, 1024, 1024, 0, 3, 0, 0, 0⟩),
   ((0xFF00_0F80_20C0_1000, 0x0D02_0001_0002_0003, 0x0004_0005_0006_0100, 0x0100_001F_0000_0000), .xld g1 ⟨12, 1, 0, 13, 2, 1, 2, 3, 4, 5, 6, 256, 256, 31, 0, 0⟩),
   ((0xFF00_0F80_30C0_1000, 0x0D02_0001_01FF_0001, 0x00FF_0001_007F_0007, 0x0008_0000_0000_0000), .accrd g1 ⟨12, 1, 0, 13, 2, 1, 511, 1, 255, 1, 127, 7, 8, 0, 0, 0⟩),
   ((0xFF00_0F80_40C0_1000, 0x0D02_0001_0000_0200, 0x0000_0100_0001_0007, 0x0008_0000_0000_0000), .accld g1 ⟨12, 1, 0, 13, 2, 1, 0, 512, 0, 256, 1, 7, 8, 0, 0, 0⟩),
   ((0xFF00_0F90_10C0_1000, 0x0D02_0001_0002_0003, 0x0004_0005_0006_0007, 0x0008_005F_0009_000A), .tcopy g1 ⟨12, 1, 0, 13, 2, 1, 2, 3, 4, 5, 6, 7, 8, 95, 9, 10⟩),
   ((0xFF00_0F90_20C0_1000, 0x0D02_0001_0002_0003, 0x0004_0005_0006_0007, 0x0008_FFFF_0000_0000), .tmcast g1 ⟨12, 1, 0, 13, 2, 1, 2, 3, 4, 5, 6, 7, 8, 65535, 0, 0⟩),
   ((0xFF00_0F90_30C0_1000, 0x0D02_FFF3_0002_0003, 0x0004_0800_0000_0000, 0x0000_0000_0000_0000), .twin g1 ⟨12, 1, 0, 13, 2, 65523, 2, 3, 4, 2048, 0, 0, 0, 0, 0, 0⟩),
   ((0xFF00_0F90_40C0_1000, 0x0D02_0001_0002_0003, 0x0004_0005_1234_5678, 0x0040_0009_0000_0000), .tfill g1 ⟨12, 1, 0, 13, 2, 1, 2, 3, 4, 5, 4660, 22136, 64, 9, 0, 0⟩)] = true := by decide +kernel

/-- R101 to R103. -/
theorem test_words_command_2 : readsCmd
  [((0xFF00_0FA0_10C0_1000, 0x0D02_0001_0002_0003, 0x0004_1000_001C_0000, 0x0000_0000_0000_0000), .scat g1 ⟨12, 1, 0, 13, 2, 1, 2, 3, 4, 4096, 28, 0, 0, 0, 0, 0⟩),
   ((0xFF00_0FB0_10C0_1000, 0x0D02_0001_0002_0003, 0x00FF_0004_0005_0006, 0x0007_0008_0009_0044), .attn g1 ⟨12, 1, 0, 13, 2, 1, 2, 3, 255, 4, 5, 6, 7, 8, 9, 68⟩),
   ((0xFF00_0FB0_20C0_1000, 0x0D02_0001_0002_0003, 0x00FF_0004_0005_0006, 0x0007_0040_0000_0020), .kvapp g1 ⟨12, 1, 0, 13, 2, 1, 2, 3, 255, 4, 5, 6, 7, 64, 0, 32⟩),
   ((0xFF00_0FB0_30C0_1000, 0x0D02_0000_0000_0003, 0x0000_0004_0005_0006, 0x0007_0008_0009_0000), .kvrot g1 ⟨12, 1, 0, 13, 2, 0, 0, 3, 0, 4, 5, 6, 7, 8, 9, 0⟩),
   ((0xFF00_0FB0_40C0_1000, 0x0D02_0000_0000_0003, 0x0000_0004_0005_0006, 0x0007_0000_0000_0001), .kvevict g1 ⟨12, 1, 0, 13, 2, 0, 0, 3, 0, 4, 5, 6, 7, 0, 0, 1⟩),
   ((0xFF00_0F90_10C0_1001, 0x0D02_003F_0002_0003, 0x0004_0005_0006_0007, 0x0008_0000_0009_000A), .tcopy g1 ⟨12, 1, 1, 13, 2, 63, 2, 3, 4, 5, 6, 7, 8, 0, 9, 10⟩),
   ((0xFF00_0F90_40C0_1020, 0x0D02_0001_0002_0003, 0x0004_0005_002A_0000, 0x0040_0009_0000_0000), .tfill g1 ⟨12, 1, 32, 13, 2, 1, 2, 3, 4, 5, 42, 0, 64, 9, 0, 0⟩)] = true := by decide +kernel

/-- The worked encodings of the manual's chapter: `?p3 & !p5 ADD s7, q0.k, s9` from its bytes in memory, `MOVI s4, -3`,
`BR` 24 bytes back. -/
theorem test_worked_encodings :
    (decode true [0x18, 0x00, 0x24, 0xF8, 0x01, 0x00, 0x35, 0x30]).toOption =
      some (.add ⟨0x30, 3, 5, 0⟩ ⟨7, 56, 9, 0, true, false, false, false⟩, []) ∧
    decodeTableWord 64 0xFF00_01B1_00FF_FFFD = some (.movi g1 ⟨4, 0, 0xFFFFFD⟩) ∧
    decodeTableWord 64 0xFF00_050F_FFFF_FFD0 = some (.br g1 0xFFFFFFFD) := by decide +kernel

/-- Words that name no instruction (R91): the zero word, a cell of the map without an instruction, an unassigned fn, a keep
mark on a register, an order that the major does not take, a reserved bit of a command word, a command word at an address that
is no multiple of 32. -/
theorem test_undefined_words :
    decodeWords 0 0 0 0 = .error .noSub ∧
    decodeWords 0xFF00_0030_0000_0000 0 0 0 = .error .noMajor ∧
    decodeWords 0xFF00_0000_0000_0130 0 0 0 = .error .noSub ∧
    decodeWords 0x3035_0001_F824_001C 0 0 0 = .error .badField ∧
    decodeWords 0xFF00_07E0_0000_0280 0 0 0 = .error .badOrder ∧
    decodeWords 0xFF00_0F80_10C0_1800 0 0 0 = .error .reservedBit ∧
    (decode false (natToBytes 32 0xFF00_0F80_10C0_1000)).map Prod.fst = .error .cmdAlign := by decide +kernel

/-! ## Witnesses: for each statement with hypotheses, operands and a state that meet them, clause by clause, at the ends of
their ranges -/

/-- The sequencer in focus runs a stream, and its word issues. -/
def issues (s : State) : Bool := s.cur.isSome && !(on s).i.ctx.cmdErr && !(on s).i.ctx.check
theorem issues_meets (s : State) (h : issues s = true) : s.Issues (on s) := by
  simp only [issues, Bool.and_eq_true, Bool.not_eq_true'] at h
  obtain ⟨⟨h1, h2⟩, h3⟩ := h
  obtain ⟨c, hc⟩ := Option.isSome_iff_exists.mp h1
  exact ⟨by simp [on, hc], h2, h3⟩
/-- That stream sees the state itself. -/
theorem on_s (s : State) : (on s).s = s := by
  unfold on State.cur
  dsimp only
  split
  · rfl
  · split <;> rfl
/-- Operands that read as `l`. -/
def gives {α : Type} [DecidableEq α] (x : Got α) (l : List (α × Bool)) : Bool :=
  match x with
  | .vals v _ => decide (v = l)
  | _ => false
theorem gives_meets {α : Type} [DecidableEq α] (x : Got α) (l : List (α × Bool)) (h : gives x l = true) :
    ∃ taken, x = .vals l taken := by
  cases x with
  | vals v tk => exact ⟨tk, by simp [gives] at h; rw [h]⟩
  | wait => cases h
  | empty => cases h
/-- The descriptor that a handle names at the physical address `pa`. -/
def descAt (s : State) (h pa : Nat) : Desc := parseDesc h (s.descVa 0 h).toNat (s.readPa pa 64)
/-- The handle names it, for tile `tile`, with every check of R77 passed. -/
def names (s : State) (tile h pa : Nat) : Bool :=
  decide (h ≠ 0) && decide (h < 0xFFFF) && decide ((s.descVa 0 h).toNat % 64 = 0) &&
    decide (s.translate 0 0 (s.descVa 0 h).toNat .read = .ok pa) && !isSpan pa && !s.badAt pa 64 &&
    s.descOk 0 tile 0 (s.readPa pa 64) (descAt s h pa)
theorem names_meets (s : State) (tile h pa : Nat) (hd : (on s).die = 0) (ha : (on s).asid = 0) (hn : names s tile h pa = true) :
    (on s).NamesOn tile h (descAt s h pa) pa := by
  simp only [names, Bool.and_eq_true, decide_eq_true_eq, Bool.not_eq_true'] at hn
  obtain ⟨⟨⟨⟨⟨⟨a, b⟩, c⟩, d⟩, e⟩, f⟩, g⟩ := hn
  exact ⟨⟨a, b⟩, by rw [ha, on_s]; exact c, by rw [ha, hd, on_s]; exact d, e, by rw [on_s]; exact f, by rw [ha, on_s]; rfl,
    by rw [ha, hd, on_s]; exact g⟩
/-- The scalar registers of the list changed. -/
def rgs (s : State) (l : List (Nat × Nat)) : State :=
  State.regs s fun r => { r with s := l.foldl (fun m p => m.set 0 p.1 (BitVec.ofNat 32 p.2)) r.s }
/-- The stacks changed. -/
def stks (s : State) (f : Stacks → Stacks) : State :=
  State.tweak s fun i => i.withCtx { i.ctx with st := f i.ctx.st }

/-- The rich and the memory state with a handler. -/
def sr : State := handled rich
def sm : State := handled memory

theorem witness_ScalarRegisterForms : issues sr = true ∧ guardAt (on sr).regs g1 0 = true ∧
    gives ((on sr).regs.reads [opA (rb 0 56 56), opB (rb 0 56 56)]) [(11, false), (12, true)] = true ∧
    gives ((on sr).regs.reads [opA (rb 63 0 6), opB (rb 63 0 6)]) [(0, false), (0xFFFF_FFFE, false)] = true ∧
    (on sr).room 0 1 = true ∧ (on sr).room 63 1 = true := by decide +kernel

theorem witness_ScalarImmediateForms : issues sr = true ∧ guardAt (on sr).regs g1 0 = true ∧
    gives ((on sr).regs.reads [⟨56, false⟩]) [(11, false)] = true ∧ (on sr).room 0 1 = true ∧ (on sr).room 63 1 = true := by
  decide +kernel

theorem witness_ReductionsAndAddressForms : issues sr = true ∧ guardAt (on sr).regs g1 0 = true ∧
    gives ((on sr).regs.reads [opA (rb 9 6 7)]) [(0xFFFF_FFFE, false)] = true ∧
    gives ((on sr).regs.reads [opA (rb 9 6 7), opB (rb 9 6 7)]) [(0xFFFF_FFFE, false), (3, false)] = true ∧
    gives ((on sr).regs.reads [opB (rb 54 2 56)]) [(11, false)] = true ∧ (on sr).room 9 1 = true := by decide +kernel

theorem witness_ComparesAndPredicateMoves : issues sr = true ∧ guardAt (on sr).regs g1 0 = true ∧
    guardAt (on sr).regs g0 0 = false ∧ (9#4).toNat ≤ 9 ∧
    gives ((on sr).regs.reads [⟨6, false⟩, ⟨56, false⟩]) [(0xFFFF_FFFE, false), (11, false)] = true ∧
    gives ((on sr).regs.reads [⟨6, false⟩]) [(0xFFFF_FFFE, false)] = true := by decide +kernel

theorem witness_BranchesAndCalls :
    let s := stks sr fun x => { x with rets := [0x10040, 0x10048, 0x10050] }
    issues s = true ∧ guardAt (on s).regs g1 0 = true ∧ (Claims.target (on s).pc 0xFFFFFFFF).toNat < 2 ^ 55 ∧
    ¬ (Claims.target (on s).pc 0x80000000).toNat < 2 ^ 55 ∧
    ((on s).regs.getPair 2).toNat % 8 = 0 ∧ ((on s).regs.getPair 2).toNat < 2 ^ 55 ∧ ((on s).regs.getPair 6).toNat % 8 ≠ 0 ∧
    (on s).i.ctx.st.rets.length < 4 ∧ (on s).i.ctx.st.rets = 0x10040 :: [0x10048, 0x10050] ∧
    (let u (a : Word64) := stks sr fun x => { x with rets := [a] }
     issues (u 0x10044) = true ∧ (on (u 0x10044)).i.ctx.st.rets = 0x10044 :: [] ∧ ¬ ((0x10044 : Word64).toNat % 8 = 0 ∧ (0x10044 : Word64).toNat < 2 ^ 55) ∧
     issues (u 0x80000000000000) = true ∧ (on (u 0x80000000000000)).i.ctx.st.rets = 0x80000000000000 :: [] ∧
     ¬ ((0x80000000000000 : Word64).toNat % 8 = 0 ∧ (0x80000000000000 : Word64).toNat < 2 ^ 55)) := by decide +kernel

/-- A full return stack, its slot the first of the page; an empty one. -/
def fullStack (rsd : Word) : State := stks sr fun x => { x with rets := [0x10040, 0x10048, 0x10050, 0x10058], sp := 0x10008, rsd := rsd }
def emptyStack (rsd : Word) : State :=
  (stks sr fun x => { x with rets := [], sp := 0x10200, rsd := rsd }).writePa 0x100_0000_0200 8 0x10088

theorem witness_SpillAndRefill :
    (let s := fullStack 0xFFFF_FFFF
     issues s = true ∧ (on s).i.ctx.st.rets = [0x10040, 0x10048, 0x10050, 0x10058] ∧ (on s).i.ctx.st.rsd = 0xFFFF_FFFF) ∧
    (let s := fullStack 0xFFFF_FFFE
     issues s = true ∧ (on s).i.ctx.st.rets = [0x10040, 0x10048, 0x10050, 0x10058] ∧ guardAt (on s).regs g1 0 = true ∧ (Claims.target (on s).pc 3).toNat < 2 ^ 55 ∧ (Claims.target (on s).pc 3).toNat % 8 = 0 ∧
     ((on s).regs.getPair 2).toNat % 8 = 0 ∧ ((on s).regs.getPair 2).toNat < 2 ^ 55 ∧ (on s).i.ctx.st.rsd ≠ 0xFFFF_FFFF ∧
     (on s).i.ctx.acqOpen = false ∧ ((on s).i.ctx.st.sp - 8).toNat % 8 = 0 ∧
     s.translate (on s).die (on s).asid ((on s).i.ctx.st.sp - 8).toNat .write = .ok 0x100_0000_0000 ∧ isSpan 0x100_0000_0000 = false ∧
     (on s).mayStore 0x100_0000_0000 = true) ∧
    (let s := emptyStack 0
     issues s = true ∧ (on s).i.ctx.st.rets = [] ∧ (on s).i.ctx.st.rsd = 0) ∧
    (let s := emptyStack 1
     issues s = true ∧ (on s).i.ctx.st.rets = [] ∧ guardAt (on s).regs g1 0 = true ∧ (on s).i.ctx.st.rsd ≠ 0 ∧ (on s).i.ctx.acqOpen = false ∧ (on s).i.ctx.st.sp.toNat % 8 = 0 ∧
     s.translate (on s).die (on s).asid (on s).i.ctx.st.sp.toNat .read = .ok 0x100_0000_0200 ∧ isSpan 0x100_0000_0200 = false ∧
     s.badAt 0x100_0000_0200 8 = false ∧ s.readPa 0x100_0000_0200 8 % 8 = 0 ∧ s.readPa 0x100_0000_0200 8 < 2 ^ 55) := by
  decide +kernel

theorem witness_Loops :
    let s (n : Nat) := stks sr fun x => { x with loops := List.replicate n ⟨2, 0x10008, 0x10020⟩ }
    (∀ n ∈ [0, 5, 6], issues (s n) = true ∧ (on (s n)).i.ctx.st.loops.length = n) ∧ guardAt (on sr).regs g1 0 = true ∧
    gives ((on sr).regs.reads [⟨0, false⟩]) [(0, false)] = true ∧ gives ((on sr).regs.reads [⟨1, false⟩]) [(7, false)] = true ∧
    (on sr).i.ctx.st.loops = [] ∧ (on (s 1)).i.ctx.st.loops = ⟨2, 0x10008, 0x10020⟩ :: [] ∧ (on sr).room 63 1 = true ∧
    (on (s 1)).instrLen 0x10020 = some 8 ∧ (on sr).instrLen ((on sr).pc + ((3#16).signExtend 64 <<< 3)) = some 8 ∧
    (let e : LoopEntry := ⟨1, 0, 8⟩
     let f : LoopEntry := ⟨0, 0, 8⟩
     e.stop ≠ 16 ∧ e.stop = 8 ∧ e.count = 1 ∧ f.count ≠ 1 ∧ [f].head?.map LoopEntry.stop = some 8 ∧
       ([] : List LoopEntry).head?.map LoopEntry.stop ≠ some 8) := by decide +kernel

theorem witness_NopYieldExitTrap :
    let a := State.tweak sr fun i => i.withCtx { i.ctx with undeliv := true }
    let b := State.tweak sr fun i => i.withCtx { i.ctx with prods := [⟨false, 1, 3, 1, .known [0], false, false, false, none, false⟩] }
    let c := State.tweak sr fun i => i.withCtx { i.ctx with posted := [0] }
    let d := State.tweak sr fun i => i.withCtx { i.ctx with prods := [], posted := [], undeliv := false }
    (∀ s ∈ [a, b, c, d], issues s = true ∧ (on s).i.who.kind = .block ∧ guardAt (on s).regs g1 0 = true) ∧
    (on a).i.ctx.undeliv = true ∧ (on b).i.ctx.undeliv = false ∧ (on b).i.ctx.prods ≠ [] ∧ (on c).i.ctx.posted ≠ [] ∧
    (on d).i.ctx.prods = [] ∧ (on d).i.ctx.posted = [] ∧ (on d).i.ctx.undeliv = false := by decide +kernel

/-- `sm` with a page of another module at 0x20000, and addresses in s20 and up: the last 64 bits of the page held, that page, an
odd one, 2^55, and a page of another partition. -/
def pages : State :=
  (rgs { sm with host := { sm.host with part := 1 } } [(20, 0x1FFF8), (22, 0x20000), (28, 0x10001), (30, 0), (31, 2 ^ 23),
    (32, 0x30000), (33, 0)]).updDie 0 fun d =>
    { d with tlb := ⟨0, 0x30000, 16, sm.dieBase 15, true, true, false⟩ ::
      ⟨0, 0x20000, 16, 2 ^ 51 + 5 * 2 ^ 44, true, true, false⟩ :: d.tlb }
/-- Its stream. -/
def cp : Cur := on pages

theorem witness_Loads :
    issues pages = true ∧ guardAt cp.regs g1 0 = true ∧ cp.room 63 2 = true ∧ cp.i.ctx.acqOpen = false ∧
    (cp.regs.getPair 20 + (0#24).signExtend 64).toNat % 8 = 0 ∧ (cp.regs.getPair 28 + (0#24).signExtend 64).toNat % 2 ≠ 0 ∧
    pages.translate cp.die cp.asid 0x1FFF8 .read = .ok 0x100_0000_FFF8 ∧ isSpan 0x100_0000_FFF8 = false ∧
    pages.translate cp.die cp.asid 0x20000 .read = .ok (2 ^ 51 + 5 * 2 ^ 44) ∧ isSpan (2 ^ 51 + 5 * 2 ^ 44) = true ∧
    (cp.regs.getPair 30).toNat % 8 = 0 ∧
    pages.translate cp.die cp.asid (cp.regs.getPair 30).toNat .read = .transFault := by decide +kernel

theorem witness_Stores :
    issues pages = true ∧ guardAt cp.regs g1 0 = true ∧ cp.i.ex.unconf = false ∧ cp.i.ctx.acqOpen = false ∧
    gives (cp.regs.reads [⟨56, false⟩]) [(11, false)] = true ∧ (cp.regs.getPair 28 + (0#24).signExtend 64).toNat % 2 ≠ 0 ∧
    (cp.regs.getPair 20 + (0#24).signExtend 64).toNat % 8 = 0 ∧ pages.translate cp.die cp.asid 0x1FFF8 .write = .ok 0x100_0000_FFF8 ∧
    isSpan 0x100_0000_FFF8 = false ∧ cp.mayStore 0x100_0000_FFF8 = true ∧ (cp.regs.getPair 32).toNat % 4 = 0 ∧
    pages.translate cp.die cp.asid (cp.regs.getPair 32).toNat .write = .accFault := by decide +kernel

/-- The stream of `pages` as firmware. -/
def pagesFw : State := State.tweak pages fun i => { i with who := { i.who with kind := .firmware } }
/-- An address of another module, and one that firmware's filter does not let through. -/
theorem witness_Stores_elsewhere :
    (cp.regs.getPair 22 + (0#24).signExtend 64).toNat % 8 = 0 ∧ cp.mayStore (2 ^ 51 + 5 * 2 ^ 44) = true ∧
    isSpan (2 ^ 51 + 5 * 2 ^ 44) = true ∧
    (∀ k ∈ [Acc.read, .write, .both], pages.translate cp.die cp.asid (cp.regs.getPair 22).toNat k = .ok (2 ^ 51 + 5 * 2 ^ 44)) ∧
    issues pagesFw = true ∧ guardAt (on pagesFw).regs g1 0 = true ∧ (on pagesFw).mayStore 0x100_0000_FFF8 = false ∧
    ∀ k ∈ [Acc.write, .both], pagesFw.translate (on pagesFw).die (on pagesFw).asid ((on pagesFw).regs.getPair 20).toNat k =
      .ok 0x100_0000_FFF8 := by decide +kernel

theorem witness_BytesOfLoadsAndStores : sm.ctlAt 0x100_0000_2000 = none ∧ ∀ k < 8, sm.ctlAt (0x100_0000_2000 + k) = none := by
  decide +kernel

theorem witness_OrderedAccesses :
    issues pages = true ∧ guardAt cp.regs g1 0 = true ∧ cp.i.ctx.acqOpen = false ∧ cp.i.ctx.undeliv = false ∧ cp.i.ctx.posted = [] ∧
    cp.i.ex.unconf = false ∧ cp.room 63 2 = true ∧ cp.room 56 1 = true ∧ (cp.regs.getPair 20).toNat % 8 = 0 ∧
    gives (cp.regs.reads [opB (rb 0 20 56)]) [(11, false)] = true ∧
    (∀ k ∈ [Acc.read, .write], pages.translate cp.die cp.asid (cp.regs.getPair 20).toNat k = .ok 0x100_0000_FFF8) ∧
    isSpan 0x100_0000_FFF8 = false ∧ cp.mayStore 0x100_0000_FFF8 = true ∧ cp.i.ctx.remoteOpen = false ∧
    pages.badAt 0x100_0000_FFF8 4 = false ∧ pages.badAt 0x100_0000_FFF8 8 = false := by decide +kernel
/-- A releaser on sequencer 5 of die 0, to which old value 9 is known to be outdated, and an acquirer on sequencer 2: die scope
reaches from one to the other, and tile scope on either side does not; sys scope reaches another module. -/
theorem witness_OrderedAccesses_scopes :
    let o : Ledger := { Ledger.init with pos := 2 }
    let h (pos n : Nat) : Head := ⟨pos, n, [⟨9, pos, 5⟩, ⟨4, 2, 5⟩]⟩
    (∀ p ∈ [(2, 0), (3, 1), (5, 2), (261, 3), (modulePos 7, 4)], ncs p.1 o.pos = p.2 ∧ ncs (h p.1 p.2).pos o.pos ≤ (h p.1 p.2).scope ∧
      (⟨9, p.1, 5⟩ : Know) ∈ (h p.1 p.2).view) ∧
    (h 5 1).scope < ncs (h 5 1).pos o.pos ∧ 1 < ncs (h 5 2).pos o.pos := by decide +kernel

theorem witness_Atomics :
    issues pages = true ∧ guardAt cp.regs g1 0 = true ∧ cp.i.ex.unconf = false ∧ cp.i.ctx.acqOpen = false ∧
    cp.i.ctx.remoteOpen = false ∧ cp.i.ctx.undeliv = false ∧ cp.i.ctx.posted = [] ∧ gives (cp.regs.reads [opB (rb 57 20 56)]) [(11, false)] = true ∧
    gives (cp.regs.reads [opB { rb 57 20 56 with c := 56 }, opC { rb 57 20 56 with c := 56 }]) [(11, false), (12, true)] = true ∧
    cp.room 57 1 = true ∧ cp.room 63 2 = true ∧ (cp.regs.getPair 20).toNat % 8 = 0 ∧
    pages.translate cp.die cp.asid (cp.regs.getPair 20).toNat .both = .ok 0x100_0000_FFF8 ∧ isSpan 0x100_0000_FFF8 = false ∧
    cp.mayStore 0x100_0000_FFF8 = true ∧ pages.badAt 0x100_0000_FFF8 4 = false ∧ pages.badAt 0x100_0000_FFF8 8 = false := by
  decide +kernel

/-- `sm` with a handle, a row, a column and a value in s10 to s13, index lanes in v5, p1 all ones but lane 0. -/
def el (h x y : Nat) : State :=
  State.regs (rgs sm [(10, h), (11, x), (12, y), (13, 0x12345687)]) fun r =>
    { r with v := r.v.put 5 (lanes fun i => i * 7 % 10), p := FMap.empty.put 1 0xFFFF_FFFF_FFFF_FFFE }
/-- Its stream. -/
def ce (h x y : Nat) : Cur := on (el h x y)

theorem witness_ElementAccesses :
    (∀ h ∈ [1, 2, 3, 4], issues (el h 7 7) = true ∧ guardAt (ce h 7 7).regs g1 0 = true ∧ (ce h 7 7).i.who.kind = .block ∧
      (ce h 7 7).i.ctx.acqOpen = false ∧ (ce h 7 7).i.ex.unconf = false ∧ (ce h 7 7).room 63 1 = true ∧
      names (el h 7 7) 0 h (0x100_0000_1000 + 64 * h) = true ∧
      gives ((ce h 7 7).regs.reads [⟨10, false⟩, ⟨11, false⟩, ⟨12, false⟩, ⟨56, false⟩])
        [(BitVec.ofNat 32 h, false), (7, false), (7, false), (11, false)] = true ∧
      (descAt (el h 7 7) h (0x100_0000_1000 + 64 * h)).inBounds [7, 7, 0, 0] = true ∧
      (descAt (el h 7 7) h (0x100_0000_1000 + 64 * h)).inBounds [8, 7, 0, 0] = false ∧
      (descAt (el h 7 7) h (0x100_0000_1000 + 64 * h)).inBounds [-1, 7, 0, 0] = false) ∧
    gives ((ce 1 8 7).regs.reads [⟨10, false⟩, ⟨11, false⟩, ⟨12, false⟩]) [(1, false), (8, false), (7, false)] = true ∧
    (let d := descAt (el 1 7 7) 1 0x100_0000_1040
     d.space = 0 ∧ d.strict = false ∧ d.addr [7, 7, 0, 0] % fmtBytes d.fmt = 0 ∧
       (∀ k ∈ [Acc.read, .write], (el 1 7 7).translate 0 0 (d.addr [7, 7, 0, 0]) k = .ok 0x100_0000_20FC) ∧
       isSpan 0x100_0000_20FC = false ∧ (ce 1 7 7).mayStore 0x100_0000_20FC = true) ∧
    (let d := descAt (el 2 7 7) 2 0x100_0000_1080
     d.space = 1 ∧ d.strict = false ∧ ((el 2 7 7).tile 0 0).badAt (d.addr [7, 7, 0, 0]) (fmtBytes d.fmt) = false) ∧
    (descAt (el 3 7 7) 3 0x100_0000_10C0).strict = true ∧ (descAt (el 3 7 7) 3 0x100_0000_10C0).space = 0 := by decide +kernel

theorem witness_VectorAccesses :
    (∀ h ∈ [1, 2, 3, 4], let s := el h 0 7
      issues s = true ∧ (on s).i.who.kind = .block ∧ guardMask (on s).regs g0 = 0 ∧ guardMask (on s).regs g1 ≠ 0 ∧
      (on s).i.ctx.acqOpen = false ∧ (on s).i.ex.pred = false ∧ (on s).i.ex.unconf = false ∧ (on s).roomV 31 = true ∧
      (on s).roomV 0 = true ∧ (on s).i.ctx.prods = [] ∧ gives ((on s).regs.readsV []) [] = true ∧
      gives ((on s).regs.readsV [⟨5, false⟩, ⟨1, false⟩]) [(lanes fun i => i * 7 % 10, false), (lanes id, false)] = true ∧
      names s 0 h (0x100_0000_1000 + 64 * h) = true ∧ ((on s).regs.getS 10).toNat = h) ∧
    typeFmt 0 = (descAt (el 1 0 7) 1 0x100_0000_1040).fmt ∧ typeFmt 2 = (descAt (el 2 0 7) 2 0x100_0000_1080).fmt ∧
    typeFmt 0 = (descAt (el 3 0 7) 3 0x100_0000_10C0).fmt ∧ typeFmt 5 = (descAt (el 4 0 7) 4 0x100_0000_1100).fmt ∧
    (let s := el 1 0 7
     let d := descAt s 1 0x100_0000_1040
     (List.range 64).all (fun i => let at_ := Claims.laneAt 0 0 7 0 i
       decide (d.inBounds at_ = decide (i < 8)) && (decide (8 ≤ i) || decide (d.addr at_ % 4 = 0) &&
         decide (s.translate 0 0 (d.addr at_) .read = .ok (0x100_0000_20E0 + 4 * i)) &&
         decide (s.translate 0 0 (d.addr at_) .write = .ok (0x100_0000_20E0 + 4 * i)) && !isSpan (0x100_0000_20E0 + 4 * i))) = true) ∧
    (let s := el 2 0 7
     let d := descAt s 2 0x100_0000_1080
     (List.range 64).all (fun i => let at_ := Claims.laneAt 1 0 7 0 i
       decide (d.inBounds at_ = decide (i < 1)) && (decide (1 ≤ i) || !(s.tile 0 0).badAt (d.addr at_) 2)) = true) := by
  decide +kernel

/-- `pages` with descriptor 1 over the page of another module, and handle 1 in s10, row 0 and column 7 in s11 and s12; `el` as a
predicted block whose share is the data of descriptor 1. -/
def elAway : State :=
  rgs (pages.writePa 0x100_0000_1040 64 (descImage 0 0 9 0 0x20000 77 8 8 4 32)) [(10, 1), (11, 0), (12, 7)]
def elShare : State := State.tweak (el 1 0 7) fun i => { i with ex := { i.ex with pred := true, share := (0x12000, 0x12100) } }
/-- Elements of another module, those that firmware's filter drops, and lanes in the share of a predicted block. -/
theorem witness_ElementAndVectorAccesses_elsewhere :
    (let s := elAway
     let d := descAt s 1 0x100_0000_1040
     issues s = true ∧ names s 0 1 0x100_0000_1040 = true ∧ d.space = 0 ∧ d.inBounds [0, 7, 0, 0] = true ∧
       gives ((on s).regs.reads [⟨10, false⟩, ⟨11, false⟩, ⟨12, false⟩]) [(1, false), (0, false), (7, false)] = true ∧
       (List.range 8).all (fun i => decide (d.addr (Claims.laneAt 0 0 7 0 i) % 4 = 0) && isSpan (2 ^ 51 + 5 * 2 ^ 44 + 0xE0 + 4 * i) &&
         [Acc.read, .write].all fun k =>
           decide (s.translate 0 0 (d.addr (Claims.laneAt 0 0 7 0 i)) k = .ok (2 ^ 51 + 5 * 2 ^ 44 + 0xE0 + 4 * i))) = true) ∧
    (let s := State.tweak (el 1 0 7) fun i => { i with who := { i.who with kind := .firmware } }
     issues s = true ∧ names s 0 1 0x100_0000_1040 = true ∧ (on s).mayStore 0x100_0000_20E0 = false) ∧
    (let d := descAt elShare 1 0x100_0000_1040
     issues elShare = true ∧ (on elShare).i.ex.unconf = false ∧
       (List.range 8).all (fun i => (on elShare).retracts (d.addr (Claims.laneAt 0 0 7 0 i)) 4) = true) := by decide +kernel

/-- `sm` with a cell of value `v` at 0x14000, its address in s20, the stream committed or not. -/
def cell (v : Nat) (com : Bool) : State :=
  State.tweak ((rgs sm [(20, 0x14000)]).writePa 0x100_0000_4000 8 v) fun i => { i with sched := { i.sched with committed := com } }

theorem witness_Futures :
    (∀ v ∈ [0, 2 ^ 32 - 1, 2 ^ 32, 2 ^ 50 - 2 ^ 33 - 1, 2 ^ 50], ∀ com ∈ [true, false], let s := cell v com
      issues s = true ∧ (on s).i.who.kind = .block ∧ guardAt (on s).regs g1 0 = true ∧ (on s).room 63 1 = true ∧
      (on s).i.ctx.acqOpen = false ∧ (on s).i.ctx.remoteOpen = false ∧ (on s).i.ex.unconf = false ∧ (on s).i.ex.pred = false ∧
      ((on s).regs.getPair 20).toNat % 8 = 0 ∧
      (on s).i.sched.committed = com ∧ isSpan 0x100_0000_4000 = false ∧ s.badAt 0x100_0000_4000 8 = false ∧
      s.readPa 0x100_0000_4000 8 = v ∧
      (∀ k ∈ [Acc.read, .write], s.translate 0 0 ((on s).regs.getPair 20).toNat k = .ok 0x100_0000_4000) ∧
      gives ((on s).regs.reads [opB (rb 0 20 56)]) [(11, false)] = true) ∧
    (2 ^ 50 - 2 ^ 33 - 1) / 2 ^ 32 % 2 = 1 ∧ 2 ^ 32 / 2 ^ 32 % 2 = 1 ∧ (2 ^ 32 - 1) / 2 ^ 33 % 2 = 0 := by decide +kernel

/-- A cell of another module; one that firmware's filter drops; and cells that name a record of die 19, the last, and of none. -/
theorem witness_Futures_elsewhere :
    (let s := rgs pages [(20, 0x20000)]
     issues s = true ∧ s.badAt (2 ^ 51 + 5 * 2 ^ 44) 8 = false ∧
       ∀ k ∈ [Acc.read, .write], s.translate 0 0 ((on s).regs.getPair 20).toNat k = .ok (2 ^ 51 + 5 * 2 ^ 44)) ∧
    (let s := State.tweak (cell 0 true) fun i => { i with who := { i.who with kind := .firmware } }
     issues s = true ∧ (on s).i.who.kind ≠ .prologue ∧ (on s).mayStore 0x100_0000_4000 = false) ∧
    ∀ d ∈ [19, 20], let v := 2 ^ 33 + 2047 * 2 ^ 34 + d * 2 ^ 45
      issues (cell v true) = true ∧ (cell v true).readPa 0x100_0000_4000 8 = v ∧ v < 2 ^ 50 ∧ v / 2 ^ 32 % 2 = 0 ∧
        v / 2 ^ 45 % 32 = d := by decide +kernel

/-- `sm` with a reference and a number in s20 and s21, semaphore 5 of tile 15 at 4, and `.DEC` waiters on tile 15. -/
def smph (r v : Nat) (dq : List (Nat × Nat × Word)) : State :=
  (rgs sm [(20, r), (21, v)]).updTile 0 15 fun y => { y with sems := y.sems.set 0 5 4, decq := dq }

theorem witness_Semaphores :
    (∀ p ∈ [(0xF05, 4), (0xF05, 5), (0x1005, 0), (0x2F05, 0)], ∀ dq ∈ [[], [(5, 77, 2)]], let s := smph p.1 p.2 dq
      issues s = true ∧ (on s).i.who.kind = .block ∧ guardAt (on s).regs g1 0 = true ∧ (on s).i.ex.unconf = false ∧
      (on s).i.ctx.acqOpen = false ∧ (on s).i.ctx.remoteOpen = false ∧ (on s).room 63 1 = true ∧
      gives ((on s).regs.reads [⟨20, false⟩, ⟨21, false⟩]) [(BitVec.ofNat 32 p.1, false), (BitVec.ofNat 32 p.2, false)] = true ∧
      (decide (p.1 / 2 ^ 13 = 0 ∧ p.1 / 2 ^ 8 % 32 < tilesOf (on s).die) && s.inWindow (on s).asid (p.1 % 256)) = decide (p.1 = 0xF05)) ∧
    (Claims.semAt (smph 0xF05 4 []) (on (smph 0xF05 4 [])) 0xF05).toNat = 4 ∧
    ((smph 0xF05 4 []).tile 0 15).decq = [] ∧ ((smph 0xF05 4 [(5, 77, 2)]).tile 0 15).decq = [(5, 77, 2)] := by decide +kernel

theorem witness_QueueAndLeaseWords :
    let s := State.regs sm fun r => { r with vq := (FMap.empty.put 1 ⟨2, [some (lanes id, false), none]⟩).put 2 ⟨7, [some (5, true)]⟩ }
    (issues s = true ∧ (on s).i.who.kind = .block ∧ guardAt (on s).regs g1 0 = true ∧ (on s).room 63 1 = true ∧
      ((on s).regs.getQ 0).items.all Option.isSome = true ∧ ((on s).regs.getQ 1).items = [none] ∧
      ((on s).regs.getVq 2).items.all Option.isSome = true ∧ ((on s).regs.getVq 1).items.any Option.isNone = true) ∧
    (∀ p ∈ [(0x14000, 1), (0x1401F, 1), (0x14020, 0x10000), (0x14020, 0xFFFF), (2 ^ 55, 1), (2 ^ 55 - 32, 1)],
      let s := rgs sm [(20, p.1 % 2 ^ 32), (21, p.1 / 2 ^ 32), (22, p.2)]
      issues s = true ∧ (on s).i.ex.unconf = false ∧ (on s).i.ctx.acqOpen = false ∧ (on s).i.ctx.remoteOpen = false ∧
      gives ((on s).regs.reads [opB (rb 63 20 22)]) [(BitVec.ofNat 32 p.2, false)] = true ∧
      ((on s).regs.getPair 20).toNat = p.1 ∧ (s.tile 0 0).eng.chains.cells.length < 8) := by decide +kernel

/-- `sm` with `n` images in the launch queue and an address in s20. -/
def lq (a n : Nat) : State :=
  (rgs sm [(20, a)]).updSch 0 fun x => { x with launchq := List.replicate n ⟨5, 0, none, none, false, 0, none, none⟩ }
/-- A predicted block with a share of the arena at 0x14000, its pages mapped, and a length in s22. -/
def arena (lo hi n : Nat) (beyond : Bool) : State :=
  let s := rgs (State.tweak sm fun i => { i with ex := { i.ex with pred := true, arena := 0x14000, share := (lo, hi), beyond := beyond } })
    [(20, 0x14000), (22, n)]
  let s := { s with host := { s.host with asids := s.host.asids.put 0 (setField (s.asidRec 0) 63 0 0x100_0100_0000) } }
  let s := ((s.writePa 0x100_0100_0000 8 (0x100_0101_0000 + 1)).writePa 0x100_0101_0000 8 (0x100_0102_0000 + 1))
  (List.range 2).foldl (fun s k => s.writePa (0x100_0102_0000 + 8 * k) 8 (0x100_0000_0000 + k * 65536 + 31)) s

theorem witness_LaunchesAndArenaShares :
    (∀ p ∈ [(0x12000, 255), (0x12000, 256), (0x1201F, 0)], let s := lq p.1 p.2
      issues s = true ∧ (on s).i.who.kind = .block ∧ guardAt (on s).regs g1 0 = true ∧ (on s).i.ex.unconf = false ∧
      (on s).i.ctx.acqOpen = false ∧ (on s).i.ctx.remoteOpen = false ∧ (on s).i.ctx.image = none ∧
      ((on s).regs.getPair 20).toNat = p.1 ∧ (s.die 0).sch.launchq.length = p.2 ∧
      (s.die 0).sch.tails = [] ∧ s.translate 0 0 0x12000 .read = .ok 0x100_0000_2000 ∧ isSpan 0x100_0000_2000 = false ∧
      s.badAt 0x100_0000_2000 32 = false) ∧
    (let s := State.tweak (lq 0x12000 255) fun i => i.withCtx { i.ctx with image := some 7 }
     issues s = true ∧ (on s).i.ctx.image = some 7 ∧ (on s).i.ctx.remoteOpen = false ∧ (s.die 0).sch.launchq.length = 255) ∧
    (∀ p ∈ [(0x1FFF0, 0x20000, 0x10, false), (0x1FFF0, 0x20000, 0x11, false), (0x10, 0x20, 0, true)],
      let s := arena p.1 p.2.1 p.2.2.1 p.2.2.2
      issues s = true ∧ (on s).i.who.kind = .block ∧ guardAt (on s).regs g1 0 = true ∧ (on s).room 63 2 = true ∧
      gives ((on s).regs.reads [opB (rb 63 20 22)]) [(BitVec.ofNat 32 p.2.2.1, false)] = true ∧ (on s).i.ex.pred = true ∧
      (on s).i.ex.arena = 0x14000 ∧ ((on s).regs.getPair 20).toNat = 0x14000 ∧ (on s).i.ex.share = (p.1, p.2.1) ∧
      (on s).i.ex.beyond = p.2.2.2) ∧
    (let s := arena 0x1FFF0 0x20000 0x10 false
     s.level3 0 0x10000 = some 0x100_0102_0008 ∧ s.readPa 0x100_0102_0008 8 % 2 = 1) := by decide +kernel

theorem witness_CohortAndRangeWords :
    let s (mem pend : List Nat) (my : Option Nat) := (State.tweak sm fun i => { i with coh := my }).updSch 0 fun x =>
      { x with cohorts := x.cohorts.put 9 ⟨mem, pend, [], [], [], 0, []⟩ }
    let r (lo hi : Word) := State.tweak sm fun i => { i with range := ⟨lo, hi, true, 0, 0, false⟩ }
    (∀ m ∈ [[], [0], [7]], ∀ p ∈ [[], [8], [0], List.range 1022], ∀ my ∈ [none, some 9, some 4],
      issues (s m p my) = true ∧ (on (s m p my)).i.coh = my ∧ ((s m p my).cohort 0 9).members.length + ((s m p my).cohort 0 9).pending.length < 1024) ∧
    guardAt (on sm).regs g1 0 = true ∧ (on sm).i.who.kind = .block ∧ (on sm).i.ctx.acqOpen = false ∧
    (on sm).i.ctx.remoteOpen = false ∧ (on sm).room 63 1 = true ∧
    (issues (r 0xFFFF_FFFE 0xFFFF_FFFF) = true ∧ (on (r 0xFFFF_FFFE 0xFFFF_FFFF)).i.range.lo.toNat < (on (r 0xFFFF_FFFE 0xFFFF_FFFF)).i.range.hi.toNat) ∧
    (issues (r 9 9) = true ∧ (on (r 9 9)).i.range.hi.toNat ≤ (on (r 9 9)).i.range.lo.toNat) ∧
    gives ((on sm).regs.reads [opA (rb 0 7 56), opB (rb 0 7 56)]) [(3, false), (11, false)] = true := by decide +kernel

/-- `sm` with context 3 of die 0 mapped for ASID `asid`, its state as given, and a context number in s20. -/
def ringCtx (w asid st : Nat) : State :=
  let s := (rgs sm [(20, w), (22, 0x55AA), (23, 9)]).updDie 0 fun d => { d with regs := { d.regs with ctxbase := 0x100_0010_0000 } }
  s.writePa (s.ctxPa 0 3) 8 (st * 2 ^ 20 + asid * 2 ^ 24)

theorem witness_RingWords :
    (∀ p ∈ [(3, 0, 1), (3, 1, 1), (3, 0, 0), (1024, 0, 1), (1023, 0, 1)], let s := ringCtx p.1 p.2.1 p.2.2
      issues s = true ∧ (on s).i.who.kind = .block ∧ guardAt (on s).regs g1 0 = true ∧ (on s).i.ex.unconf = false ∧
      (on s).i.ctx.acqOpen = false ∧ (on s).die < 16 ∧
      gives ((on s).regs.reads [opA (rb 0 20 22)]) [(BitVec.ofNat 32 p.1, false)] = true) ∧
    (let s := ringCtx 3 0 1
     (s.homeOf (s.ctxPa 0 3)).isSome = true ∧ ctxAsid (s.ctxOf 0 3) = 0 ∧ ctxState (s.ctxOf 0 3) = 1 ∧ (on s).mayStore (s.ctxPa 0 3 + 8) = true ∧
       isSpan (s.ctxPa 0 3 + 8) = false) ∧
    ctxAsid ((ringCtx 3 1 1).ctxOf 0 3) = 1 ∧ ctxState ((ringCtx 3 0 0).ctxOf 0 3) = 0 ∧
    ((ringCtx 3 1 1).homeOf ((ringCtx 3 1 1).ctxPa 0 3)).isSome = true ∧
    (on sm).i.ex.segTask = none ∧
    (let s := State.tweak sm fun i => { i with ex := { i.ex with segTask := some 4 } }
     issues s = true ∧ (on s).i.ex.segTask = some 4 ∧ (on s).i.ex.segDone = false ∧ (on s).i.ex.unconf = false) := by decide +kernel

/-- `sr` with an entry in vq0, a vector queue 3 that is full, and floats 1.0 and -2.5 in every lane of v3 and v4. -/
def sv : State :=
  State.regs sr fun r => { r with
    v := (r.v.put 3 (lanes fun _ => 0x3F80_0000)).put 4 (lanes fun _ => 0xC020_0000)
    vq := (FMap.empty.put 0 ⟨0, [some (lanes id, true)]⟩).put 3 ⟨0, List.replicate 4 (some (0, false))⟩ }

theorem witness_VectorArithmetic : issues sv = true ∧ (on sv).i.who.kind = .block ∧ guardMask (on sv).regs g1 ≠ 0 ∧
    guardMask (on sv).regs ⟨0xF0, 1, 0, 0⟩ = 5 ∧ (on sv).roomV 0 = true ∧ (on sv).roomV 28 = true ∧
    gives ((on sv).regs.readsV (Claims.opsAB (vb 28 3 4 0 6 0))) [(lanes fun _ => 0x3F80_0000, false), (lanes fun _ => 0xC020_0000, false)] = true ∧
    gives ((on sv).regs.readsV (Claims.opsAB (vb 0 28 6 0 4 1))) [(lanes id, true)] = true ∧
    gives ((on sv).regs.readsV (Claims.opsAB (vb 0 1 2 28 5 0) ++ [⟨28, false⟩])) [(lanes id, false), (lanes fun i => 100 - i, false), (lanes id, true)] = true ∧
    gives ((on sv).regs.readsV [⟨28, true⟩]) [(lanes id, true)] = true ∧
    typeFmt 6 ≤ 4 ∧ typeFmt 8 ≤ 4 ∧ 5 ≤ typeFmt 0 ∧ 5 ≤ typeFmt 5 := by decide +kernel

theorem witness_VectorLogicAndShifts : issues sv = true ∧ (on sv).i.who.kind = .block ∧ guardMask (on sv).regs g1 ≠ 0 ∧
    (on sv).roomV 27 = true ∧ (on sv).roomV 28 = true ∧
    gives ((on sv).regs.readsV (Claims.opsAB (vb 27 1 28 0 0 0))) [(lanes id, false), (lanes id, true)] = true ∧
    gives ((on sv).regs.readsV (Claims.opsAB (vb 27 1 6 0 0 1))) [(lanes id, false)] = true ∧
    gives ((on sv).regs.readsV [⟨28, false⟩]) [(lanes id, true)] = true ∧ 5 ≤ typeFmt 0 ∧ 5 ≤ typeFmt 5 := by decide +kernel

theorem witness_VectorMovesAndShuffles : issues sv = true ∧ (on sv).i.who.kind = .block ∧ guardMask (on sv).regs g1 ≠ 0 ∧
    guardAt (on sv).regs g1 0 = true ∧ (on sv).roomV 0 = true ∧ (on sv).roomV 28 = true ∧ gives ((on sv).regs.readsV []) [] = true ∧
    gives ((on sv).regs.readsV [⟨1, false⟩]) [(lanes id, false)] = true ∧
    gives ((on sv).regs.readsV [⟨1, false⟩, ⟨28, false⟩]) [(lanes id, false), (lanes id, true)] = true := by decide +kernel

theorem witness_VectorComparesAndReductions : issues sv = true ∧ (on sv).i.who.kind = .block ∧ guardMask (on sv).regs g1 ≠ 0 ∧
    (on sv).roomV 0 = true ∧ (on sv).roomV 28 = true ∧
    gives ((on sv).regs.readsV (Claims.opsAB (vb 0 1 28 9 0 0))) [(lanes id, false), (lanes id, true)] = true ∧
    gives ((on sv).regs.readsV (Claims.opsAB (vb 2 1 6 0 5 1))) [(lanes id, false)] = true ∧
    gives ((on sv).regs.readsV [⟨28, false⟩]) [(lanes id, true)] = true ∧ (9#5).toNat % 16 ≤ 9 ∧ 5 ≤ typeFmt 0 ∧
    guardMask (on sv).regs g0 = 0 := by decide +kernel

theorem witness_CondensingStreams :
    let x (n : Nat) (own : Option Nat) : Stream := ⟨(List.range n).map fun i => (BitVec.ofNat 32 i, false), 50, own⟩
    let s (n : Nat) (own : Option Nat) := sr.updTile 0 0 fun y => { y with streams := y.streams.set Stream.init 2 (x n own) }
    (∀ n ∈ [0, 63, 64, 65, 128], ∀ o ∈ [some 0, some 3], issues (s n o) = true ∧ ((on (s n o)).stream 2).items.length = n ∧
      ((on (s n o)).stream 2).owner = o) ∧
    (on sr).asid = 0 ∧ (on sr).i.who.kind = .block ∧ guardMask (on sr).regs g1 ≠ 0 ∧ guardAt (on sr).regs g1 0 = true ∧
    (on sr).roomV 0 = true ∧ (on sr).roomV 31 = true ∧ gives ((on sr).regs.readsV [⟨1, false⟩]) [(lanes id, false)] = true := by
  decide +kernel

/-- The stream of `memory` as firmware of level `lev` on a die, with a pair and a register of values in s20 and s24. -/
def leveled (lev die : Nat) : State :=
  let s := State.tweak (rgs memory [(20, 0x89ABCDEF), (21, 0xDEADBEEF), (24, 0x1238), (25, 0)]) fun i =>
    { i with who := { i.who with level := lev, die := die, kind := .firmware } }
  { s.setSeq die 0 (memory.seq 0 0) with focus := (die, 0) }

theorem witness_SpecialRegisters :
    (∀ lev ∈ [0, 1, 2], ∀ die ∈ [0, 15, 16, 19], let s := leveled lev die
      issues s = true ∧ (on s).i.who.kind = .firmware ∧ guardAt (on s).regs g1 0 = true ∧ Claims.level (on s) = lev ∧
      (on s).die = die ∧ (on s).room 8 1 = true ∧ (on s).room 63 1 = true ∧
      gives ((on s).regs.reads [⟨24, false⟩]) [(0x1238, false)] = true ∧ ((on s).regs.getPair 24).toNat % 8 = 0 ∧
      ((on s).regs.getPair 20).toNat % 8 ≠ 0) ∧
    (0x4C#24).toNat = 0x4C ∧ (0x52#24).toNat = 0x52 := by decide +kernel

/-- Stream 0 has trapped and its handler runs. -/
def trapped : State := (seen (exec (.trap g1 ⟨0, 0, 7⟩) sm) id).getD sm
/-- `trapped` with the fields of the sequencer that `ERET` reads, and a stream to be ended with it or not. -/
def toReturn (eact cause : Word) (frame : Option Word64) (surplus : Bool) : State :=
  (trapped.updSeq 0 0 fun x => { x with eact := eact, cause := cause, ctxsv := frame, epc := 0x10010 }).updInst 0 fun i =>
    { i with ex := { i.ex with surplus := surplus } }

theorem witness_TrapReturn :
    (∀ e ∈ [0, 1, 2, 3], ∀ cause ∈ [0x20020, 0x141], ∀ f ∈ [0, 1], ∀ sp ∈ [0, 1],
      let s := toReturn (BitVec.ofNat 32 e) (BitVec.ofNat 32 cause) (if f = 1 then some 0x100_0000_8000 else none) (sp == 1)
      issues s = true ∧ (on s).i.who.kind = .handler ∧ guardAt (on s).regs g1 0 = true ∧ Claims.level (on s) = 1 ∧
      (s.seq 0 0).trapped = some 0 ∧ (s.inst 0).isSome = true ∧ 0 ≠ handlerUid 0 0 ∧ (on s).die = 0 ∧ (on s).q = 0 ∧
      (on s).i.ctx.posted = []) ∧
    (let s := trapped.updInst (handlerUid 0 0) fun i => i.withCtx { i.ctx with posted := [4] }
     issues s = true ∧ (on s).i.ctx.posted ≠ [] ∧ Claims.level (on s) = 1 ∧ (s.seq 0 0).trapped = some 0) ∧
    Claims.level (on sm) = 0 ∧ issues sm = true ∧ (0x20020#32).toNat / 2 ^ 8 % 4 ≠ 1 ∧ (0x141#32).toNat / 2 ^ 8 % 4 = 1 ∧
    (trapped.inst 0).all (fun i => i.sched.wait == .none && !i.ex.surplus) = true := by decide +kernel

theorem witness_HandlerWait :
    (∀ b ∈ [0, 1], let s := trapped.updSeq 0 0 fun x => { x with hdb := BitVec.ofNat 32 b }
      issues s = true ∧ (on s).i.who.kind = .handler ∧ guardAt (on s).regs g1 0 = true ∧ Claims.level (on s) = 1 ∧
      ((s.seq 0 0).hdb = 0 ↔ b = 0)) ∧
    issues sm = true ∧ (on sm).i.who.kind = .block ∧ Claims.level (on sm) = 0 := by decide +kernel

/-- `trapped` with a second page in the TLB, and the address of a frame in s10 of the handler. -/
def framed (va : Nat) : State :=
  let s := trapped.updDie 0 fun d => { d with tlb := ⟨0, 0x20000, 16, 0x100_0005_0000, true, true, true⟩ :: d.tlb }
  s.updInst (handlerUid 0 0) fun i => i.withCtx { i.ctx with regs := { i.ctx.regs with s := i.ctx.regs.s.put 10 (BitVec.ofNat 32 va) } }
/-- What `CTXLD` reads of the frame in the first page, and what it compares it with. -/
def frameRd (s : State) : Nat → Nat → Nat := s.virtRd [(1, 0x100_0000_0000)] 0x18000
def framedInst (s : State) : Inst :=
  let i := (s.inst 0).getD fetchInst
  { i with ctx := { (s.deliverLocal i.ctx.prods.length i.ctx.landAll).2 with pc := i.ctx.pc } }
/-- A frame at 0x18000 with nothing but its first word, and one whose first word is no frame's. -/
def saved : State := (framed 0x18000).writePa 0x100_0000_8000 4 1
def spoiled : State := (framed 0x18000).writePa 0x100_0000_8000 4 2
/-- A matrix command of stream 0 as it was pushed. -/
def pushedMma : Cmd :=
  ⟨.mma, [11, 0xFFF1, 1, 3, 32, 64, 2, 1], 3, 0, 4, 2, 0, 0, 0, none, 0x10000, [], none, none, none, 0, false, false, false, 0, [5, 6, 7, 8], [], false, []⟩
/-- A frame with one saved word and a row at 0x1C000, and the stream from which that word was drained. -/
def savedWork : State :=
  let s := ((framed 0x18000).writePa 0x100_0000_8000 4 (1 + 2 ^ 16)).writePa 0x100_0000_8350 4 1
  let s := (s.writePa 0x100_0000_835C 4 1).writePa 0x100_0000_8368 8 0x1C000
  let s := ((s.writePa 0x100_0000_A900 8 5).writePa 0x100_0000_A908 8 6).writePa 0x100_0000_A910 8 7
  (s.writePa 0x100_0000_A918 8 8).updInst 0 fun i => { i with sched := { i.sched with saved := [pushedMma] } }
/-- A frame address with an `MMA` of three rows of the trapped stream in the engine. -/
def inMatrix (va : Nat) : State :=
  (framed va).updEng 0 0 fun e => { e with running := [⟨0, pushedMma, 0, none, .empty, [], [], 17, .empty⟩] }

theorem witness_FrameWords :
    (∀ va ∈ [0x18000, 0x180FF, 0x1FF00], let s := framed va
      issues s = true ∧ (on s).i.who.kind = .handler ∧ guardAt (on s).regs g1 0 = true ∧ Claims.level (on s) = 1 ∧
      ((on s).regs.getPair 10).toNat = va ∧ (s.seq 0 0).trapped = some 0 ∧ (on s).uid ≠ 0 ∧
      (s.tile 0 0).eng.hasMatrix 0 = false ∧
      ((s.inst 0).map fun i => (!i.ctx.parkWaits, decide (i.ctx.st.loops.length ≤ 6), decide (i.ctx.st.rets.length ≤ 4))) =
        some (true, true, true)) ∧
    (∀ s ∈ [rgs (leveled 1 0) [(10, 0x18000)]], issues s = true ∧ Claims.level (on s) = 1 ∧ (s.seq 0 0).trapped = none ∧
      ((on s).regs.getPair 10).toNat % 256 = 0) ∧
    (∀ va ∈ [0x18000, 0x1E000], let s := inMatrix va
      issues s = true ∧ (s.seq 0 0).trapped = some 0 ∧ (s.inst 0).map (fun i => i.ctx.parkWaits) = some false ∧
      Claims.drainRows s (on s) 0 = 3 ∧ Claims.framePages va 3 = (1, if va = 0x18000 then 1 else 2)) ∧
    (Claims.framePages 0x18000 0 = (1, 1) ∧ Claims.framePages 0x1FF00 0 = (1, 2)) ∧
    (∀ p ∈ [(0x10000, 0x100_0000_0000), (0x20000, 0x100_0005_0000)], ∀ k ∈ [Acc.read, .write],
      (framed 0x1FF00).translate 0 (on (framed 0x1FF00)).asid p.1 k = .ok p.2 ∧ isSpan p.2 = false) ∧
    issues saved = true ∧ issues spoiled = true ∧
    (on saved).frameRefused (framedInst saved) 0x100_0000_8000 (frameRd saved) = false ∧ frameRd saved 0 4 / 2 ^ 16 % 2 = 0 ∧
    frameRd saved 0x350 4 = 0 ∧
    (on savedWork).frameRefused (framedInst savedWork) 0x100_0000_8000 (frameRd savedWork) = false ∧
    Nat.min 16 (frameRd savedWork 0x350 4) = 1 ∧ (framedInst savedWork).sched.saved[0]?.map Cmd.words =
      some ((List.range 4).map fun j => BitVec.ofNat 64 (frameRd savedWork (0x2900 + 32 * 0 + 8 * j) 8)) ∧
    frameRd savedWork 0 4 / 2 ^ 16 % 2 = 1 ∧ frameRd savedWork 0x35C 4 = 1 ∧ frameRd savedWork 0x368 8 = 0x1C000 ∧
    (0x1C000 + 3072 - 1) / 65536 + 1 - 0x1C000 / 65536 = 1 ∧
    savedWork.translate 0 (on savedWork).asid 0x10000 .read = .ok 0x100_0000_0000 ∧
    (on spoiled).frameRefused (framedInst spoiled) 0x100_0000_8000 (frameRd spoiled) = true := by decide +kernel

/-- No control structure stands in the two pages of the memory. -/
theorem witness_FrameWords_plain (o : Nat) (h : o < 65536) :
    (framed 0x1FF00).ctlAt (0x100_0000_0000 + o) = none ∧ (framed 0x1FF00).ctlAt (0x100_0005_0000 + o) = none := by
  have e : (framed 0x1FF00).phys.qcBase = State.reset.phys.qcBase ∧ (framed 0x1FF00).phys.doorbell = State.reset.phys.doorbell ∧
      (framed 0x1FF00).phys.asidBase = State.reset.phys.asidBase ∧ (framed 0x1FF00).phys.lrBase = State.reset.phys.lrBase ∧
      (framed 0x1FF00).phys.partAddr = State.reset.phys.partAddr ∧
      (framed 0x1FF00).phys.phaseAddr = State.reset.phys.phaseAddr := by decide +kernel
  obtain ⟨h1, h2, h3, h4, h5, h6⟩ := e
  simp only [State.ctlAt, h1, h2, h3, h4, h5, h6, State.reset, Phys.init]
  refine ⟨?_, ?_⟩ <;> repeat' rw [if_neg (by omega)]

/-- Firmware on die 0 with tag windows of ASIDs 0 and 7, and words in s20 to s26. -/
def tabled (v bits lo hi a : Nat) : State :=
  let s := (leveled 2 0).updRing 0 fun r => { r with tagWin := (r.tagWin.set 0 0 0x0020_0100).set 0 7 0x0020_0200 }
  (rgs s [(20, 0x12000), (21, 0), (22, v), (24, lo + hi * 65536), (25, hi / 65536), (26, a)]).writePa 0x100_0000_2000 32 bits

theorem witness_SystemTables :
    (∀ p ∈ [(0x1F, 8), (0, 2 ^ 255)], let s := tabled p.1 p.2 0xFFF0 0x10 5
      issues s = true ∧ (on s).i.who.kind = .firmware ∧ guardAt (on s).regs g1 0 = true ∧ Claims.level (on s) = 2 ∧
      (on s).i.ctx.acqOpen = false ∧ (on s).i.ctx.remoteOpen = false ∧ gives ((on s).regs.reads []) [] = true ∧ s.ports.sent.cells = [] ∧
      gives ((on s).regs.reads [opB (rb 9 20 22)]) [(BitVec.ofNat 32 p.1, false)] = true ∧
      (on s).room 63 1 = true ∧ p.1 / 2 ^ 20 < 512 ∧ s.asidPart (p.1 / 2 ^ 20) = s.partOf (on s).die ∧
      p.1 % 2 ^ 20 < (s.die 0).ring.winLen (p.1 / 2 ^ 20) ∧ ((on s).regs.getPair 20).toNat % 32 = 0 ∧
      s.translate 0 0 ((on s).regs.getPair 20).toNat .read = .ok 0x100_0000_2000 ∧ isSpan 0x100_0000_2000 = false ∧
      s.badAt 0x100_0000_2000 32 = false ∧ tagBad (BitVec.ofNat 256 (s.readPa 0x100_0000_2000 32)) = decide (p.1 = 0)) ∧
    (∀ p ∈ [(0xFFF0, 0x10, 511), (0x220, 0x20, 5), (0x100, 0x20, 0), (0x110, 0, 6)], let s := tabled 0 0 p.1 p.2.1 p.2.2
      issues s = true ∧ gives ((on s).regs.reads [⟨26, false⟩]) [(BitVec.ofNat 32 p.2.2, false)] = true ∧
      ((on s).regs.getPair 24).toNat = p.1 + p.2.1 * 65536 ∧ p.1 + p.2.1 ≤ 65536 ∧ s.asidPart p.2.2 = s.partOf 0 ∧
      ((s.die 0).ring.tagWin.keys.all fun k => k == p.2.2 || p.2.1 == 0 || (s.die 0).ring.winLen k == 0 || decide (p.1 + p.2.1 ≤ (s.die 0).ring.winBase k) ||
        decide ((s.die 0).ring.winBase k + (s.die 0).ring.winLen k ≤ p.1)) = true) ∧
    65536 < 0xFFF0 + 0x11 ∧ (∀ lev ∈ [0, 1], issues (leveled lev 0) = true ∧ Claims.level (on (leveled lev 0)) = lev ∧
      (on (leveled lev 0)).i.who.kind = .firmware) ∧
    (∀ k ∈ [0, 1, 2, 3], let s := rgs sm [(20, 63 + 64 * k), (22, 0x1234ABCD)]
      issues s = true ∧ gives ((on s).regs.reads [⟨20, false⟩, ⟨22, false⟩]) [(BitVec.ofNat 32 (63 + 64 * k), false), (0x1234ABCD, false)] = true) := by
  decide +kernel

/-! ## One step of single words, with results worked out from the manual's rules -/

/-- Stream 0 after a step of `i` at `s`, with everything in flight landed. -/
def after1 (i : Instr) (s : State) : Option Ctx := seen (exec i s) fun t => ((t.inst 0).getD fetchInst).ctx.landAll
/-- What `i` leaves in scalar register `n`. -/
def scal (i : Instr) (s : State) (n : Nat) : Option Word := (after1 i s).map fun c => c.regs.getS n
/-- What `i` leaves in lane `k` of vector register 6. -/
def lane6 (i : Instr) (s : State) (k : Nat) : Option Nat := (after1 i s).map fun c => (c.regs.getV 6).toNat / 2 ^ (32 * k) % 2 ^ 32

/-- R129: -2 + 3 wraps to 1. -/
theorem test_add_wraps : scal (.add g1 (rb 9 6 7)) sr 9 = some 1 := by decide +kernel
/-- R129: 3 - 7. -/
theorem test_sub_below_zero : scal (.sub g1 (rb 9 7 1)) sr 9 = some 0xFFFF_FFFC := by decide +kernel
/-- R129: 12 & ~7. -/
theorem test_andn_order : scal (.andn g1 (rb 9 4 1)) sr 9 = some 8 := by decide +kernel
/-- R129: the shift amount is b[4:0], here 30 of -2. -/
theorem test_shl_takes_five_bits : scal (.shl g1 (rb 9 7 6)) sr 9 = some 0xC000_0000 := by decide +kernel
/-- R129: -2 shifted right by 3 with zeros, and with the sign. -/
theorem test_shr_zeros : scal (.shr g1 (rb 9 6 7)) sr 9 = some 0x1FFF_FFFF := by decide +kernel
theorem test_sra_sign : scal (.sra g1 (rb 9 6 7)) sr 9 = some 0xFFFF_FFFF := by decide +kernel
/-- R129: rotation to the left by 3 of ...1110. -/
theorem test_rot_left : scal (.rot g1 (rb 9 6 7)) sr 9 = some 0xFFFF_FFF7 := by decide +kernel
/-- R129: the smaller of -2 and 7, as signed and as unsigned. -/
theorem test_min_signed : scal (.min g1 (rb 9 6 1)) sr 9 = some 0xFFFF_FFFE := by decide +kernel
theorem test_minn_unsigned : scal (.minn g1 (rb 9 6 1)) sr 9 = some 7 := by decide +kernel
/-- R130: the high word of -2 · 3, signed and unsigned. -/
theorem test_mulh_signed : scal (.mulh g1 (rb 9 6 7)) sr 9 = some 0xFFFF_FFFF := by decide +kernel
theorem test_mulhn_unsigned : scal (.mulhn g1 (rb 9 6 7)) sr 9 = some 2 := by decide +kernel
/-- R130: a division by zero, and a remainder with the sign of its dividend: -2 by 3. -/
theorem test_div_by_zero : scal (.div g1 (rb 9 7 0)) sr 9 = some 0xFFFF_FFFF := by decide +kernel
theorem test_rem_sign : scal (.rem g1 (rb 9 6 7)) sr 9 = some 0xFFFF_FFFE := by decide +kernel
/-- R62: the result is not there before its latency has passed. -/
theorem test_mul_lands_later : (seen (exec (.mul g1 (rb 9 7 1)) sr) fun t => ((t.inst 0).getD fetchInst).ctx.regs.getS 9) = some 0 := by
  decide +kernel
/-- R131: the example of the constant 0x1234_ABCD. -/
theorem test_movi_h : scal (.moviH g1 (ib 9 9 0x1234)) (rgs sr [(9, 0xABCD)]) 9 = some 0x1234_ABCD := by decide +kernel
/-- R132: 0x1_0100 - 2 over a pair. -/
theorem test_addp_sign : scal (.addp g1 (rb 10 2 6)) sr 10 = some 0x0001_00FE := by decide +kernel
/-- R133: -2 < 7 as signed numbers, in every lane, and its complement. -/
theorem test_cmp_lt : ((after1 (.cmp g1 ⟨2, false, 6, 1, 2, 0⟩) sr).map fun c => (c.regs.getP 4, c.regs.getP 5)) =
    some (BitVec.allOnes 64, 0) := by decide +kernel
/-- R85: a branch target counts words of 8 bytes from the branch. -/
theorem test_branch_back : ((after1 (.br g1 0xFFFF_FFFE) sr).map fun c => c.pc) = some ((on sr).pc - 16) := by decide +kernel
/-- R1: a halfword store writes the low byte first, and nothing beside it. -/
theorem test_st16_bytes : (seen (exec (.st16 g1 ⟨6, 2, 8⟩) sr) fun t =>
    (t.phys.mem.get 0 0x100_0000_0108, t.phys.mem.get 0 0x100_0000_0109, t.phys.mem.get 0 0x100_0000_010A)) = some (0xFE, 0xFF, 0) := by
  decide +kernel
/-- R334: a software trap leaves class 2, code 0x20 and its number in `%cause`, and the stream's next word in `%epc`. -/
theorem test_trap_cause : (seen (exec (.trap g1 ⟨0, 0, 7⟩) sr) fun t => ((t.seq 0 0).cause, (t.seq 0 0).epc)) =
    some (0x0007_0220, (on sr).pc + 8) := by decide +kernel
/-- The vector addition of 1.0 and -2.5 is -1.5, and of lane numbers 100. -/
theorem test_vadd_float : lane6 (.vadd g1 (vb 6 3 4 0 6 0)) sv 63 = some 0xBFC0_0000 := by decide +kernel
theorem test_vadd_int : lane6 (.vadd g1 (vb 6 1 2 0 0 0)) sv 63 = some 100 := by decide +kernel
/-- A lane whose guard is false keeps its value: p1 = 0b101 guards lanes 0 and 2. -/
theorem test_vadd_guard : lane6 (.vadd ⟨0xF0, 1, 0, 0⟩ (vb 6 1 2 0 0 0)) sv 1 = some 0 := by decide +kernel

/-! ## Commands and decoding -/

def putDesc (s : State) (h img : Nat) : State := s.writePa (0x100_0000_1000 + 64 * h) 64 img
/-- `memory` with descriptors in tile memory (8 of format 0, 9 of format 2, 11 of format 6, 32 and 33 of format 7 in tiles 0
and 1) and in memory (10 of format 0), a panel 1 of format 6 that ASID 0 loaded, and s20 = 8. -/
def cs : State :=
  let s := putDesc sm 8 (descImage 1 0 0 0 0x400 9 8 8 4 32)
  let s := putDesc s 9 (descImage 1 0 2 0 0x400 9 8 8 2 16)
  let s := putDesc s 10 (descImage 0 0 0 0 0x12000 77 8 8 4 32)
  let s := putDesc s 11 (descImage 1 0 6 0 0x400 9 8 8 1 8)
  let s := putDesc s 33 (descImage 1 0 7 1 0x400 9 8 8 2 16)
  let s := putDesc s 32 (descImage 1 0 7 0 0x400 9 8 8 2 16)
  let s := s.updTile 0 1 fun t => { t with allocs := [⟨0, 33, 0x400, 0x400, 0, true⟩] }
  let s := s.updTile 0 0 fun t => { t with tags := t.tags.put 1 ⟨0, 6, 0, 0, 1, 0, 0⟩ }
  rgs s [(20, 8)]
/-- `cs` with a lease held by stream 0 for two commands. -/
def leasedS : State := cs.updEng 0 0 fun e => { e with lease := some ⟨0, 0, 2, 0, 0, false⟩ }
/-- A command body that waits for semaphore 3 and raises semaphore 4 by 1. -/
def cbl (l : List Nat) (flag : BitVec 11) : CmdBody :=
  let w (k : Nat) : BitVec 16 := BitVec.ofNat 16 (l.getD k 0)
  ⟨3, 0, flag, 4, 1, w 0, w 1, w 2, w 3, w 4, w 5, w 6, w 7, w 8, w 9, w 10⟩
def paOf (s : State) (h : Nat) : Nat :=
  match s.translate 0 0 (s.descVa 0 h).toNat .read with
  | .ok pa => pa
  | _ => 0
/-- The state and the body meet what `CommandPushes` asks of an operation of engine `eng` whose register fields give `x`. -/
def pushes (s : State) (op : EngOp) (eng : Nat) (b : CmdBody) (x : List (Word × Bool)) : Bool :=
  let c := on s
  let f := resolveFields op b (x.map Prod.fst)
  let hs := cmdHandles op c.tile f
  issues s && c.i.who.kind == .block && guardAt c.regs g1 0 && !c.i.ex.unconf && !c.i.ctx.acqOpen &&
    gives (c.regs.reads (cmdOpnds b)) x && decide (((s.tile 0 0).eng.queues.get [] (8 * eng)).length < 16) &&
    op.limits (resolvedBody b f) && s.cmdWindow c.asid b && (hs.all fun h => names s h.2 h.1 (paOf s h.1)) &&
    (s.descCheck 0 op f (hs.map fun h => descAt s h.1 (paOf s h.1))).isNone && !c.i.ctx.remoteOpen && !c.i.ctx.undeliv &&
    c.i.ctx.posted.isEmpty

theorem witness_CommandPushes_stream : (on cs).die = 0 ∧ (on cs).tile = 0 ∧ (on cs).q = 0 ∧ (on cs).asid = 0 ∧ (on leasedS).die = 0 ∧
    (on leasedS).asid = 0 ∧ (leasedS.tile 0 0).eng.lease = some ⟨0, 0, 2, 0, 0, false⟩ ∧ (on leasedS).clk < 0 + 65536 ∧ (on leasedS).uid = 0 := by decide +kernel
theorem witness_CommandPushes_matrix :
    pushes leasedS .xld 0 (cbl [9, 10, 0, 0, 0, 0, 8, 8, 0] 0) [] = true ∧ pushes leasedS .accrd 0 (cbl [20, 0, 8, 0, 8, 0, 0, 0] 1) [(8, false)] = true ∧
    pushes leasedS .accld 0 (cbl [8, 0, 8, 0, 8, 0, 0, 0] 0) [] = true := by decide +kernel
theorem witness_CommandPushes_copy :
    pushes cs .tcopy 1 (cbl [2, 1, 0, 0, 0, 0, 8, 8, 0, 0, 0] 0) [] = true ∧ pushes cs .tmcast 1 (cbl [32, 2, 0, 0, 0, 0, 8, 8, 3] 0) [] = true ∧
    pushes cs .twin 1 (cbl [0xFFF2, 9, 0, 0, 8] 0) [] = true ∧ pushes cs .tfill 1 (cbl [1, 0, 0, 8, 8, 0, 5, 64, 0] 0) [] = true := by decide +kernel
theorem witness_CommandPushes_others :
    pushes cs .scat 2 (cbl [1, 1, 1, 8, 4, 0] 0) [] = true ∧ pushes cs .kvrot 3 (cbl [0, 0, 7, 0, 0, 3, 0, 4, 0, 5, 0] 0) [] = true ∧
    pushes cs .kvevict 3 (cbl [0, 0, 7, 0, 0, 3, 0, 4, 0, 0, 0] 0) [] = true ∧ pushes cs .attn 3 (cbl [9, 8, 7, 1, 0, 3, 0, 4, 0, 5, 0] 0) [] = true ∧
    pushes cs .kvapp 3 (cbl [9, 9, 7, 1, 0, 3, 0, 4, 8, 0, 0] 0) [] = true := by decide +kernel

theorem witness_CommandPushes_mma :
    let b := cbl [11, 0xFFF1, 0, 8, 0, 32, 0, 1] 0
    let c := on leasedS
    let f := resolveFields .mma b []
    let a := descAt leasedS 11 (paOf leasedS 11)
    issues leasedS = true ∧ c.i.ctx.remoteOpen = false ∧ gives (c.regs.reads (cmdOpnds b)) [] = true ∧ mmaOk (resolvedBody b f) = true ∧ leasedS.cmdWindow c.asid b = true ∧
      f.getD 0 0 = 11 ∧ names leasedS 0 11 (paOf leasedS 11) = true ∧ c.panel (f.getD 1 0) = some (⟨0, 6, 0, 0, 1, 0, 0⟩, none) ∧
      (mmaCheck leasedS.host.phase f a ⟨0, 6, 0, 0, 1, 0, 0⟩).isNone = true ∧ scaleHandles a ⟨0, 6, 0, 0, 1, 0, 0⟩ = (0, 0) := by decide +kernel

/-- A full queue of engine 0 and 3, and a window of no semaphores. -/
def stuffed (eng : Nat) : State :=
  let q : List Cmd := List.replicate 16 ⟨.xld, [], 0, 0, 0, 0, 0, 0, 0, none, 0, [], none, none, none, 0, false, false, false, 0, [], [], false, []⟩
  leasedS.updEng 0 0 fun e => { e with queues := FMap.empty.put (8 * eng) q }
def windowless : State := { leasedS with host := { leasedS.host with asids := leasedS.host.asids.put 0 (setField (leasedS.asidRec 0) 207 200 2) } }

theorem witness_CommandsHeld :
    issues cs = true ∧ (cs.tile 0 0).eng.lease = none ∧
    (∀ e ∈ [0, 3], issues (stuffed e) = true ∧ 16 ≤ (((stuffed e).tile 0 0).eng.queues.get [] (8 * e)).length) ∧
    issues windowless = true ∧ windowless.cmdWindow 0 (cbl [0, 0, 7, 0, 0, 3, 0, 4, 0, 5, 0] 0) = false ∧
    gives ((on windowless).regs.reads (cmdOpnds (cbl [0, 0, 7, 0, 0, 3, 0, 4, 0, 5, 0] 0))) [] = true ∧
    EngOp.tfill.limits (resolvedBody (cbl [1, 0, 0, 8, 8, 0, 5, 9, 0] 0) (resolveFields .tfill (cbl [1, 0, 0, 8, 8, 0, 5, 9, 0] 0) [])) = false := by
  decide +kernel

theorem witness_RoundTrip : (Instr.vadd g1 (vb 31 30 29 0 8 0)).isCode = true ∧ (Instr.vadd g1 (vb 31 30 29 0 8 0)).wf = true ∧
    (Instr.xld g1 (cbl [9, 10, 0, 0, 0, 0, 8, 8, 0] 0)).isCode = true ∧ (Instr.xld g1 (cbl [9, 10, 0, 0, 0, 0, 8, 8, 0] 0)).wf = true := by
  decide +kernel

theorem witness_OneMeaning :
    let w := encodeBytes (Instr.xld g1 (cbl [9, 10, 0, 0, 0, 0, 8, 8, 0] 0))
    (match decode true w with | .ok (i, _) => i.isCmd | .error _ => false) = true ∧
    (match decode false w with | .ok _ => false | .error _ => true) = true ∧
    (match decode false (encodeBytes (Instr.ld32 g1 (ib 58 2 8)) ++ w) with | .ok (_, r) => r == w | .error _ => false) = true := by
  decide +kernel

theorem witness_WordsRead : Obligations.WordsRead := by
  unfold Obligations.WordsRead
  decide +kernel

/-- The first page with a word at 0x10000 and the three words after it. -/
def worded (w : Nat) (pc : Word64) : State :=
  (State.tweak base fun i => i.withCtx { i.ctx with pc := pc }).writePa (0x100_0000_0000 + pc.toNat % 65536) 32 w

theorem witness_StepRuns :
    let due (s : State) : Bool := issues s && s.agenda.isEmpty &&
      s.before [s.focus.1] (s.seq s.focus.1 s.focus.2).clk s.focus.2 == none && !(on s).i.ex.joinDue && !((on s).i.sched.preempt && (on s).i.sched.point) &&
      (on s).i.who.kind == .block
    let at_ (s : State) : Nat := 0x100_0000_0000 + (on s).pc.toNat % 65536
    let w (s : State) (k : Nat) : BitVec 64 := BitVec.ofNat 64 (s.readPa (at_ s + 8 * k) 8)
    let fetched (s : State) : Bool := due s && decide (s.translate 0 0 (on s).pc.toNat .fetch = .ok (at_ s)) && !s.badAt (at_ s) 8 && !s.badAt (at_ s) 32 &&
      !isSpan (at_ s)
    let control := worded 0xF030_0772_0200_0008 0x10008
    let bad := worded 0xF030_FFFF_0200_0008 0x1FFF8
    let cmd (pc : Word64) := worded (encodeBytes (Instr.xld g1 (cbl [9, 10, 0, 0, 0, 0, 8, 8, 0] 0)) |>.foldr (fun x n => x.toNat + 256 * n) 0) pc
    fetched control = true ∧ isCmdWord (w control 0) = false ∧ (decodeWords (w control 0) 0 0 0).toOption.isSome = true ∧
    fetched bad = true ∧ isCmdWord (w bad 0) = false ∧ (decodeWords (w bad 0) 0 0 0).toOption.isSome = false ∧
    fetched (cmd 0x10020) = true ∧ isCmdWord (w (cmd 0x10020) 0) = true ∧ (0x10020#64).toNat % 32 = 0 ∧
    (decodeWords (w (cmd 0x10020) 0) (w (cmd 0x10020) 1) (w (cmd 0x10020) 2) (w (cmd 0x10020) 3)).toOption.isSome = true ∧
    fetched (cmd 0x10028) = true ∧ isCmdWord (w (cmd 0x10028) 0) = true ∧
    (let e := Instr.engineCommandStart 0 0 0 0
     let s : State := { base with agenda := [.event e, .issue 3 2] }
     s.agenda = .event e :: [.issue 3 2] ∧ s.beforeEvent e = none ∧ s.inOrder e = true) ∧
    ({ base with agenda := [.issue 3 2] } : State).agenda = .issue 3 2 :: [] := by decide +kernel
/-- A word of sequencer 0 that comes before an event at cycle 9000 and before the word of sequencer 7 at that cycle; the slot
boundary of a ring that comes before both, and the formation points of its slot. -/
theorem witness_StepRuns_order :
    let e := Instr.leaseGrant 0 0 9000
    let s : State := { base with agenda := [.event e] }
    let late (s : State) : State := { s.updSeq 0 7 fun x => { x with clk := 9000 } with focus := (0, 7) }
    let ring (s : State) : State := { s with rings := s.rings.set Ring.init 0 ⟨2, [0, 1], 1024, 0, true, false, [], false, [], [], false⟩ }
    let up (s : State) : State := (s.updDie 0 fun d => { d with cyc := 5000 }).updDie 1 fun d => { d with cyc := 5000 }
    let idle (s : State) : State := s.updSeq 0 0 fun x => { x with clk := 9000 }
    s.beforeEvent e = some (.word 0 0) ∧ (late base).agenda = [] ∧
    (late base).before [(late base).focus.1] ((late base).seq (late base).focus.1 (late base).focus.2).clk (late base).focus.2 = some (.word 0 0) ∧
    (idle (ring (up s))).beforeEvent e = some (.slot 0) ∧
    (let t := late (idle (ring (up base)))
     t.before [t.focus.1] (t.seq t.focus.1 t.focus.2).clk t.focus.2 = some (.slot 0)) ∧
    (let form (s : State) : State := { s with rings := s.rings.set Ring.init 0 ⟨2, [0, 1], 1024, 0, true, false, [], false, [], [], true⟩ }
     let t := late (idle (form (up base)))
     (idle (form (up s))).beforeEvent e = some (.form 0) ∧
       t.before [t.focus.1] (t.seq t.focus.1 t.focus.2).clk t.focus.2 = some (.form 0)) := by decide +kernel

theorem witness_MemoryCanonical :
    let s := State.reset.withFetchWord 64 0xFF00_0570_0000_0000
    s.phys.mem.wf 0 = true ∧ seen (step s) (fun _ => true) = some true := by decide +kernel

theorem witness_CrossingWrites :
    let x : Ctx := { fetchInst.ctx with flights := [⟨2, .s 9 1 false⟩, ⟨3, .s 9 2 true⟩, ⟨3, .s 8 3 false⟩, ⟨9, .s 9 4 false⟩] }
    (x.flights.map (·.land)).Pairwise (· ≤ ·) ∧
    x.flights = [⟨2, .s 9 1 false⟩] ++ ⟨3, .s 9 2 true⟩ :: [⟨3, .s 8 3 false⟩, ⟨9, .s 9 4 false⟩] ∧
    (∀ f ∈ [(⟨3, .s 8 3 false⟩ : Flight), ⟨9, .s 9 4 false⟩], f.land ≤ 5 → ∀ v' t', f.w ≠ .s 9 v' t') ∧ fetchInst.ctx.flights = [] := by
  refine ⟨by decide +kernel, rfl, ?_, rfl⟩
  simp

theorem witness_TrapEntry : (on sr).Ordinary ∧ ((on sr).s.die (on sr).die).regs.tvec = 0x2000 ∧ (on sr).uid ≠ handlerUid 0 0 ∧
    (on rich).Ordinary ∧ ((on rich).s.die (on rich).die).regs.tvec = 0 ∧
    (on trapped).i.who.kind = .handler ∧ (on trapped).uid = handlerUid 0 0 ∧ ((on trapped).s.seq 0 0).trapped = some 0 := by
  unfold Cur.Ordinary
  decide +kernel

/-- A stream that runs as a prologue of a packet of queue 3. -/
def prologued : State :=
  let s := sr.updQueue 3 fun g => { g with open_ := [⟨4, 8, 9, 0, 0, [], [], 0, false, 0, true, [], 0, [], []⟩] }
  State.tweak { s with host := { s.host with prologues := s.host.prologues.put 0 (3, 4, 0) } } fun i =>
    { i with who := { i.who with kind := .prologue, queue := some 3 } }

theorem witness_GuardsOperandsAndBarredWords :
    guardAt someRegs g1 63 = true ∧ guardAt someRegs ⟨0xF0, 1, 0, 0⟩ 0 = true ∧ guardAt someRegs ⟨0xF0, 1, 0, 0⟩ 63 = false ∧
    (someRegs.getQ 0).items = [some (11, false), some (12, true)] ∧ (someRegs.getQ 1).items = [none] ∧ (someRegs.getQ 7).items = [] ∧
    issues sr = true ∧ guardAt (on sr).regs g0 0 = false ∧ gives ((on sr).regs.reads [opA (rb 63 56 4), opB (rb 63 56 4)]) [(11, false), (12, false)] = true ∧
    (let s := State.regs sr fun r => r.setQ 7 ⟨4, List.replicate 8 (some (1, false))⟩
     issues s = true ∧ (on s).room 63 1 = false ∧ gives ((on s).regs.reads [opA (rb 63 1 4), opB (rb 63 1 4)]) [(7, false), (12, false)] = true) ∧
    issues trapped = true ∧ (on trapped).i.who.kind = .handler ∧ issues prologued = true ∧ (on prologued).i.who.kind = .prologue ∧
    prologued.host.prologues.find (on prologued).die = some (3, 4, 0) := by decide +kernel

/-! ## Engines, scheduler and paging -/

def cmd0 (op : EngOp) (f : List Nat) (ds : List Desc) : Cmd := ⟨op, f, 3, 0, 4, 2, 0, 0, 0, none, 0x10000, ds, none, none, none, 0, false, false, false, 0, [], [], false, []⟩
def dT (fmt tile base : Nat) : Desc := parseDesc 2 0x11080 (descImage 1 0 fmt tile base 9 8 8 (fmtBytes fmt) (8 * fmtBytes fmt))
def run0 (eng : Nat) (cmd : Cmd) (done : Nat) : Running := ⟨eng, cmd, done, none, .empty, [], [], 17, .empty⟩
/-- Engine `eng` of tile 0 running `n` commands, with one more at the head of the queue of pusher `p`. -/
def started (eng p n : Nat) (op : EngOp) : State :=
  let c := { cmd0 op [8, 0, 8, 0, 0, 0, 0, 0] [] with pusher := p }
  let q : FMap (List Cmd) := FMap.empty.put (8 * eng + p) [c, c]
  (memory.updDie (attOf 0) fun d => { d with seqTab := d.seqTab.put 8 (BitVec.ofNat 512 (2 ^ 73 + 255 * 2 ^ 96)) }).updEng 0 0 fun e => { e with
    running := List.replicate n (run0 eng c 0), lease := some ⟨p, 0, 2, 0, 1, false⟩, queues := q, ceLast := (p + 4) % 5, saeLast := (p + 4) % 5 }

theorem witness_EngineStarts :
    (∀ p ∈ [0, 4], let e := ((started 0 p 0 .accrd).tile 0 0).eng
      Claims.inEngine (started 0 p 0 .accrd) 0 0 0 < Claims.engLimit 0 ∧ e.restored = [] ∧ (e.queues.get [] p).length = 2 ∧ EngOp.accrd.eng = 0 ∧
      e.lease = some ⟨p, 0, 2, 0, 1, false⟩) ∧
    (∀ n ∈ [0, 3, 4], Claims.inEngine (started 1 4 n .tcopy) 0 0 1 = n) ∧ Claims.engLimit 1 = 4 ∧
    (let s (l : List Nat) := (started 0 0 1 .accrd).updEng 0 0 fun e => { e with running := e.running.map fun r => { r with data := l } }
     Claims.inEngine (s []) 0 0 0 = 1 ∧ Claims.inEngine (s [7]) 0 0 0 = 1) ∧
    Claims.inEngine (started 3 0 15 .kvrot) 0 0 3 = 15 ∧ Claims.inEngine (started 2 0 0 .scat) 0 0 2 = 0 ∧
    (((started 1 4 3 .tcopy).tile 0 0).eng.queues.get [] 12).length = 2 ∧ (((started 2 0 0 .scat).tile 0 0).eng.queues.get [] 16).length = 2 ∧
    (((started 3 0 15 .kvrot).tile 0 0).eng.queues.get [] 24).length = 2 ∧ Claims.engLimit 3 = 16 ∧
    (match ((started 3 0 15 .kvrot).tile 0 0).eng.queues.get [] 24 with
      | c :: _ => (kvStart c ((started 3 0 15 .kvrot).seqRec 0 c.f)).isNone && c.wthr == 0 && c.pres.isNone
      | [] => false) = true := by decide +kernel
/-- It is pusher 4's turn in the copy engine of that state. -/
theorem witness_EngineStarts_turn : Claims.inTurn (started 1 4 3 .tcopy) 0 0 1 ((started 1 4 3 .tcopy).tile 0 0).eng.ceLast 4 :=
  ⟨0, by decide, by decide +kernel, fun _ h => absurd h (Nat.not_lt_zero _)⟩

/-- The state in which tile 0 runs one command with a chain, an increment and posted stores or not. -/
def running1 (op : EngOp) (f : List Nat) (ds : List Desc) (done : Nat) (posted : List Nat) : State :=
  let r := { run0 op.eng { cmd0 op f ds with chain := some (6, 1) } done with posted := posted }
  memory.updEng 0 0 fun e => { e with
    running := [{ run0 ((op.eng + 1) % 4) (cmd0 .tcopy [] []) 0 with no := 3 }, r]
    chains := e.chains.put 6 ⟨0, 0, none, 0x10000, 5, 2, 1, none, .empty, 0, 2, 0, []⟩ }

theorem witness_EngineCompletions :
    (let t := running1 .tfill [1, 0, 0, 8, 8, 0, 5, 0, 0] [dT 9 0 0x400] 64 []
     let u := running1 .tfill [1, 0, 0, 8, 8, 0, 5, 64, 0] [dT 9 0 0x400] 64 [3]
     ∀ s ∈ [0, 1], (((if s = 0 then t else u).tile 0 0).eng.running.filter fun x => x.eng == 1).map (fun r => (r.done, r.cmd.f.getD 3 0 * r.cmd.f.getD 4 0,
       cmdScope r.cmd.op r.cmd.f, r.posted)) = [(64, 64, if s = 0 then 2 else 4, if s = 0 then [] else [3])]) ∧
    (17 + 1 = 6 * 3 ∧ (dT 9 0 0x400).space = 1 ∧
      (dT 9 0 0x400).inBounds [sextN 16 2 + (17 % 6 : Nat), sextN 16 0xFFFF + (17 / 6 : Nat), 0, 0] = true) ∧
    (7 + 1 = 4 * 2 ∧ (dT 9 0 0x500).inBounds [sextN 16 0 + (7 % 4 : Nat), sextN 16 0 + (7 / 4 : Nat), 0, 0] = true ∧
      (dT 9 0 0x400).inBounds [sextN 16 1 + (7 % 4 : Nat), sextN 16 1 + (7 / 4 : Nat), 0, 0] = true ∧ (memory.tile 0 0).badAt 0x500 64 = false) ∧
    (∀ x ∈ [(EngOp.xld, 64), (.accrd, 64), (.accld, 64), (.tcopy, 64), (.tfill, 64), (.kvapp, 8)], (Claims.counted.map Prod.fst).contains x.1 = true) ∧
    (match memory.walk 0 0x10000 .read with | .paged => false | _ => true) = true ∧ memory.walkBusy 0 0 0x10000 = false := by decide +kernel

/-- The state in which the matrix engine runs a two-group word of integers. -/
def mmaRuns (acc : Nat) : State :=
  let a : Desc := { dT 6 0 0x400 with extent := [64, 8, 0, 0], stride := [1, 64, 0, 0] }
  let c := { cmd0 .mma [11, 0xFFF1, 1, 3, 32, 64, 2, acc] [a, noDesc, noDesc] with tag := some ⟨0, 6, 0, 0, 1, 0, 0⟩ }
  memory.updEng 0 0 fun e => { e with running := [{ run0 1 (cmd0 .tcopy [] []) 0 with no := 4 }, run0 0 c 0] }

theorem witness_MatrixStepsAndCasts :
    (∀ acc ∈ [0, 1], (match ((mmaRuns acc).tile 0 0).eng.running.find? fun x => x.cmd.op == .mma with
      | some r => r.page.isNone && r.cmd.op == .mma && r.cmd.tag == some ⟨0, 6, 0, 0, 1, 0, 0⟩ && r.cmd.pres.isNone && r.cmd.group == 0 &&
          r.cmd.f.getD 7 0 == acc && (r.cmd.descs.getD 0 noDesc).fmt == 6 && (r.cmd.descs.getD 1 noDesc).handle == 0 &&
          (r.cmd.descs.getD 2 noDesc).handle == 0
      | _ => false) = true ∧ ((mmaRuns acc).tile 0 0).bad = [] ∧
      ((mmaRuns acc).inst 0).all (fun i => !i.sched.preempt) = true) ∧ 0 ≤ (32 + 64 - 1) / 128 ∧
    (9 : Nat).testBit 0 = true ∧ (9 : Nat).testBit 3 = true ∧ 2 < (3 * 11 * fmtBytes 9 + 63) / 64 ∧ 2 * (64 / fmtBytes 9) = 32 ∧ 3 * 11 = 32 + 1 ∧
    (run0 1 (cmd0 .tmcast [] []) 0).part.get 0 3 = 0 ∧ ((List.range 33).map (· * 0x01020304)).length = 32 + 1 ∧ (dT 9 3 0x500).space = 1 ∧
    (dT 9 3 0x500).inBounds [sextN 16 1 + (32 % 3 : Nat), sextN 16 0xFFFE + (32 / 3 : Nat), 0, 0] = false ∧
    (dT 9 3 0x500).inBounds [sextN 16 1 + (32 % 3 : Nat), sextN 16 0xFFFD + (32 / 3 : Nat), 0, 0] = true := by decide +kernel

/-- Loads, a span answer and a chain's status on their way to stream 0, and the lease asked for. -/
def delivering : State :=
  let ps : List Producer := [⟨false, 2, 0, 1, .mem 0x100_0000_2000 4 .w32, true, false, true, none, false⟩,
    ⟨false, 4, 0, 1, .span 5 (.sext 1) [(0, 0x8A)], true, false, false, none, false⟩, ⟨false, 3, 0, 1, .chain 6, false, false, false, none, false⟩,
    ⟨false, 5, 0, 1, .extent 77, false, false, false, none, false⟩]
  let s := State.tweak memory fun i => i.withCtx { i.ctx with prods := ps, posted := [5, 6, 5] }
  let s := { s with ports := { s.ports with sent := s.ports.sent.put 5 ⟨some 0, 0, none, 0, 2 ^ 51, 0, 1, 0, 0, 0, 1⟩ } }
  s.updEng 0 0 fun e => { e with chains := e.chains.put 6 ⟨0, 0, none, 0x10000, 5, 5, 5, none, .empty, 0, 2, 0, []⟩ }

theorem witness_DeliveriesAndLeases :
    (match delivering.inst 0 with
      | some i => (i.ctx.prods.map fun p => p.vec) == [false, false, false, false] && (i.ctx.prods.all fun p => p.src == .chain 6 || p.src.isSpan ||
          (delivering.loadNow p.src).isSome) && i.ctx.prods.findIdx? (fun p => p.src == .chain 6) == some 2 && i.sched.status != .parked
      | none => false) = true ∧ delivering.badAt 0x100_0000_2000 4 = false ∧ (delivering.ports.sent.find 5).isSome = true ∧
    (let e := (delivering.tile 0 0).eng
     e.chains.find 6 = some ⟨0, 0, none, 0x10000, 5, 5, 5, none, .empty, 0, 2, 0, []⟩ ∧ e.chainQueued 6 = false ∧ e.chainRuns 6 = false) ∧
    (let s := delivering.updEng 0 0 fun e => { e with chains := e.chains.put 6 ⟨0, 0, none, 0x10000, 5, 3, 2, some 258, .empty, 0, 2, 0, []⟩ }
     (s.tile 0 0).eng.chains.find 6 = some ⟨0, 0, none, 0x10000, 5, 3, 2, some 258, .empty, 0, 2, 0, []⟩ ∧
       (s.tile 0 0).eng.chainRuns 6 = false) ∧
    (∀ u ∈ [false, true], let s := State.tweak delivering fun i => { i with ex := { i.ex with unconf := u } }
     (match s.inst 0 with
      | some i => i.ctx.prods[3]?.map (fun p => p.src) == some (.extent 77) && i.ex.unconf == u && s.loadNow (.extent 77) == some [77]
      | none => false) = true) ∧
    (∀ p ∈ [0, 1, 2, 4], let s := (State.tweak memory fun i => { i with sched := { i.sched with wait := .lease 3 false, status := .blocked } }).updEng 0 0 fun e =>
        { e with asks := [(p, 0, 3)], lastPos := (p + 4) % 5 }
      let e := (s.tile 0 0).eng
      e.lease = none ∧ (s.die 0).cyc ≤ 77 ∧ (e.lastPos + 1 + 0) % 5 = p ∧ e.asks.find? (fun x => x.1 == p) = some (p, 0, 3)) ∧
    (∀ n ∈ [0, 2], ((memory.updEng 0 0 fun e => { e with lease := some ⟨1, 0, 4, 100, n, false⟩ }).tile 0 0).eng.lease =
      some ⟨1, 0, 4, 100, n, false⟩) := by decide +kernel

/-- A launch queue with the image `img` at its head and a descriptor at 0x13000. -/
def launchS (img v : Nat) : State :=
  (memory.writePa 0x100_0000_3000 128 v).updDie 0 fun d => { d with
    cyc := 10, regs := { d.regs with stkn := 8, stksz := 0x1000, stkpool := 0x8000 }
    sch := { d.sch with launchq := [⟨BitVec.ofNat 256 img, 0, none, none, false, 0, none, none⟩, ⟨5, 0, none, none, false, 0, none, none⟩] } }
def recz (ep : Nat) : Rec := ⟨0, 0, 0, none, none, 0, 3, true, true, [0], ep, false, (0, 0, 0), 0x100_0000_5000, 5, false, false, 0, [], []⟩
/-- A record 4 with counter 3, whose shape was predicted as 4 and is `v`, with a tail waiting and a lowering. -/
def recorded (v : Nat) : State :=
  let s := State.tweak memory fun i => { i with who := { i.who with blk := 3, recNo := some 4 }, ex := { i.ex with pred := true, unconf := true } }
  ((s.setRec 0 4 (recz 4)).updSch 0 fun x => { x with
    confirms := [4], tails := [4], lowerings := [⟨4, 0, none⟩], launchq := [⟨0, 0, none, none, false, 0, some 4, none⟩] }).writePa 0x100_0000_5000 8 (v + 2 ^ 32)

theorem witness_LaunchRecords_accept :
    (∀ p ∈ [(2, 3), (1, 1)], let s := launchS (0x13000 + p.1 * 2 ^ 64 + p.2 * 2 ^ 80 + 0xFFFF * 2 ^ 112) 0x10040
      let r : Image := ⟨BitVec.ofNat 256 (0x13000 + p.1 * 2 ^ 64 + p.2 * 2 ^ 80 + 0xFFFF * 2 ^ 112), 0, none, none, false, 0, none, none⟩
      let s1 := (s.advance 0 50).updSch 0 fun x => { x with launchq := (s.die 0).sch.launchq.tail }
      (s.die 0).sch.launchq.head? = some r ∧ fieldOf r.bits 79 64 * fieldOf r.bits 95 80 = p.1 * p.2 ∧ fieldOf r.bits 63 0 = 0x13000 ∧
      fieldOf r.bits 109 109 = 0 ∧ (match s1.readVa 0 0 0x13000 128 with
        | (s2, .ok v) => v == 0x10040 && !s2.descRejected 0 0 (BitVec.ofNat 1024 v) && !s2.imageRejected 0 r && (s2.freeRec 0).isSome &&
            !s2.matcherFull 0 (fieldOf (BitVec.ofNat 1024 v) 142 139)
        | _ => false) = true) := by decide +kernel
theorem witness_LaunchRecords :
    (∀ img ∈ [0x13000, 0x13000 + 2 ^ 64, 0x13000 + 2 ^ 80, 0x13040 + 2 ^ 64 + 2 ^ 80],
      fieldOf (BitVec.ofNat 256 img) 79 64 = 0 ∨ fieldOf (BitVec.ofNat 256 img) 95 80 = 0 ∨ fieldOf (BitVec.ofNat 256 img) 63 0 % 128 ≠ 0) ∧
    (∀ v ∈ [5, 65535], let s := recorded v
      s.recOf 0 4 = some (recz 4) ∧ (s.die 0).sch.confirms = [4] ∧ fieldOf (recz 4).img 255 192 = 0 ∧ (recz 4).ep < v ∧
      (s.advance 0 50).readPa 0x100_0000_5000 8 % 2 ^ 32 = v ∧
      ((s.inst 0).map fun i => i.who.blk.toNat) = some 3 ∧ ((s.inst 0).map fun i => decide (i.sched.status = .parked)) = some false) ∧
    (let s := recorded 5
     (s.die 0).sch.tails = [4] ∧ (s.die 0).sch.launchq.length < 256 ∧ ((s.die 0).sch.launchq.map fun r => r.tail) = [some 4] ∧
     ((s.die 0).sch.lowerings.map fun l => (l.recNo, l.asid)) = [(4, 0)] ∧ (recz 4).asid = 0 ∧ (recz 4).ctr ≠ 0) := by decide +kernel

/-- Die 0 with stacks and a frame pool. -/
def pooled : State :=
  { (memory.updDie 0 fun d => { d with regs := { d.regs with stkn := 8, stksz := 0x1000, stkpool := 0x8000, fpool := 0x100_0040_0000, fpn := 4 } }) with
    nextUid := 50 }
/-- An instance that is ready since cycle 90 with `w` cycles counted. -/
def readyI (prio w : Nat) (n : Option Nat) : Inst :=
  { fetchInst with
    who := { fetchInst.who with prio := prio }
    sched := { fetchInst.sched with status := .ready, seq := none, slot := 9, waited := w, since := 90, stack := n } }

theorem witness_Placement :
    (∀ p ∈ [(3, 0, 0, 199999), (2, 100000, 1, 7)], let i := readyI p.1 p.2.1 (some 3)
      let s := (pooled.setInst 7 i).setInst 8 (readyI p.2.2.1 p.2.2.2 (some 4))
      s.inst 7 = some i ∧ i.sched.seq = none ∧ i.mayRun 0 = true ∧ (s.seq 0 0).slots.find 0 = some 0 ∧ (s.seq 0 0).slots.find 1 = none ∧
      (s.insts.cells.all fun p => p.1 == 0 || p.1 == 7 || Claims.rank p.2 95 < Claims.rank i 95 && Claims.readyFor p.2 95 < 300000 && !p.2.sched.byAge) = true ∧
      ((s.inst 0).map fun j => decide (j.sched.status = .ready)) = some false ∧ Claims.readyFor i 95 < 300000 ∧ i.sched.byAge = false) ∧
    (let y := readyI 3 0 (some 3)
     let i := { y with sched := { y.sched with seq := some 0, slot := 2 } }
     let s := pooled.setInst 7 i
     s.inst 7 = some i ∧ i.sched.seq = some 0 ∧ i.sched.status = .ready ∧ i.mayRun 0 = true ∧ i.sched.stack = some 3 ∧
      Claims.readyFor i 95 < 300000) ∧
    (∀ w ∈ [0, 1], let i := { readyI 0 0 (some 2) with
        sched := { (readyI 0 0 (some 2)).sched with status := .parked, frame := some 1, wait := if w = 0 then .none else .page true } }
      let s := ((pooled.setInst 7 i).updSch 0 fun x => { x with frames := [1, 3] }).writePa 0x100_0040_4008 8 0x10088
      s.inst 7 = some i ∧ (i.sched.wait = .none ∨ i.sched.wait = .page true) ∧ i.mayRun 0 = true ∧ (s.seq 0 0).slots.find 1 = none ∧
      (s.die 0).regs.fpool.toNat + 0x4000 * 1 = 0x100_0040_4000 ∧ 0x100_0040_4000 + 0x2B80 ≤ 2 ^ 51 ∧
      (s.advance 0 300).readPa (0x100_0040_4000 + 0x1E0) 4 = 0 ∧ (s.advance 0 300).readPa (0x100_0040_4000 + 0x350) 4 = 0 ∧
      (s.advance 0 300).readPa 0x100_0040_4000 4 / 2 ^ 16 % 2 = 0) ∧
    (let s := pooled.setInst 8 (readyI 0 0 (some 4))
     (s.seq 0 0).running = some 0 ∧ (match s.inst 0 with
       | some i => i.sched.status == .running && i.who.kind == .block && i.who.die == 0 && i.sched.seq == some 0 && !i.sched.committed &&
           decide (Claims.rank i 200000 ≤ Claims.rank (readyI 0 0 (some 4)) 200000)
       | none => false) = true ∧ (s.seq 0 0).slice + 200000 ≤ 200000 ∧ (readyI 0 0 (some 4)).mayRun 0 = true) := by decide +kernel

theorem witness_SchedulerTimersAndSteals :
    (∀ p ∈ [(0, 0, 100090), (2, 99999, 91), (1, 100000, 100090)], p.2.1 + (p.2.2 - 90) ≠ 0 ∧ (p.2.1 + (p.2.2 - 90)) % 100000 = 0 ∧
      p.1 + (p.2.1 + (p.2.2 - 90)) / 100000 ≤ 3) ∧
    (let s := pooled.setInst 8 (readyI 0 200000 none)
     s.inst 8 = some (readyI 0 200000 none) ∧ (readyI 0 200000 none).sched.byAge = false ∧ 300000 ≤ 200000 + (100090 - 90)) ∧
    (let s := pooled.updSch 0 fun x => { x with cohorts := x.cohorts.put 9 ⟨[7, 8], [9], [8, 7], [8], [], 200, []⟩, retries := [(5, 3), (7, 400)] }
     (s.cohort 0 9).members = [7, 8] ∧ (s.cohort 0 9).arrived = [8, 7] ∧ (s.die 0).sch.retries.find? (fun x => x.1 == 7) = some (7, 400)) ∧
    (∀ h ∈ [6, 0xFFFF_FFFF], let s := State.tweak pooled fun i => { i with range := ⟨4, BitVec.ofNat 32 h, true, 2, 20, false⟩ }
      (s.seq 0 6).slots.find 0 = none ∧ (s.seq 0 6).backoff = none ∧ 6 < frontSeq 0 ∧ (s.seq 0 0).running = some 0 ∧
      (s.insts.cells.all fun p => p.2.sched.status != .ready) = true ∧
      ((s.seq 0 0).slots.cells.all fun p => (s.inst p.2).all fun i => i.sched.status != .resident) = true ∧ 0 < s.nextUid ∧
      (match s.inst 0 with
        | some i => i.range.steal && decide (i.range.lo.toNat + 2 ≤ i.range.hi.toNat) && i.mayRun 6 && i.ex.segTask.isNone && i.sched.status == .running
        | none => false) = true ∧ (freeBelow (s.die 0).sch.stackIds (s.die 0).regs.stkn.toNat).isSome = true) ∧
    (pooled.seq 0 9).running = none ∧ ((pooled.updSeq 0 6 fun x => { x with backoff := some 500 }).seq 0 6).backoff = some 500 := by decide +kernel

/-- ASID 0 with a page table whose leaf for 0x30000 is `leaf`, and a walk for stream 0 pending. -/
def tabled3 (leaf : Nat) : State :=
  let s := { memory with host := { memory.host with asids := memory.host.asids.put 0 (setField (memory.asidRec 0) 63 0 0x100_0100_0000) } }
  let s := ((s.writePa 0x100_0100_0000 8 0x100_0101_0001).writePa 0x100_0101_0000 8 0x100_0102_0001).writePa 0x100_0102_0018 8 leaf
  s.updDie 0 fun d => { d with walks := [⟨0, 0x30010, 0, 0⟩] }

theorem witness_Paging :
    (let w : Walk := ⟨0, 0x30010, 0, 0⟩
     ((tabled3 0).die 0).walksBefore w.page = 0 ∧
     (let s := (tabled3 0).updDie 0 fun d => { d with walks := ((List.range 96).map fun k => (⟨0, k * 65536 + 2 ^ 30, 0, 5⟩ : Walk)) ++ d.walks }
      (s.die 0).walksBefore w.page = 96 ∧ (s.die 0).walks[96]? = some w) ∧
     (match (tabled3 0x100_0005_005F).walk 0 0x30010 .read with | .leaf _ _ false => true | _ => false) = true ∧
     (match (tabled3 0).walk 0 0x30010 .read with | .transFault => true | _ => false) = true ∧
     (match (tabled3 0x100_0005_0043).walk 0 0x30010 .read with | .accFault => true | _ => false) = true ∧
     ((tabled3 0).die 0).walks.filter w.shares = [w] ∧
     (((tabled3 0).updDie 0 fun x => { x with walks := x.walks.filter fun y => !w.shares y }).walker 0).isSome = true) ∧
    (memory.host.queues.cells.all fun c => c.2.page != some 3) = true ∧
    (∀ p ∈ [(0x100_0005_005F, 1, 0), (0x100_0005_015F, 1, 1), (0x100_0005_005E, 0, 0)], let s := tabled3 p.1
      (s.homeOf 0x100_0102_0018).isSome = true ∧ (∀ k ∈ [0, 1, 2, 3, 4, 5, 6, 7], s.ctlAt (0x100_0102_0018 + k) = none) ∧
      s.readPa 0x100_0102_0018 8 % 2 = p.2.1 ∧ s.readPa 0x100_0102_0018 8 / 2 ^ 8 % 256 = p.2.2 ∧
      s.host.evReads.find 0x100_0102_0018 = none ∧
      ({ s with host := { s.host with evReads := s.host.evReads.put 0x100_0102_0018 3 } } : State).host.evReads.find 0x100_0102_0018 = some 3) ∧
    (let s : State := { memory with host := { memory.host with evictions := [(0, 0x10000, 0x100_0000_0000, 0x100_0200_0000, 65536)], requests := [(3, 0, 5, 0, 2)] } }
     let far := s.updPorts fun p => { p with sent := FMap.empty.put 9 ⟨none, 0, none, 0, 0x100_0000_0040, 0x10040, 8, 0, 5, 100, 7⟩ }
     s.host.evictions[0]? = some (0, 0x10000, 0x100_0000_0000, 0x100_0200_0000, 65536) ∧ s.host.requests = [(3, 0, 5, 0, 2)] ∧
     s.tlbOpen 0 (fun e => e.covers 0 0x10000) = false ∧ s.ports.sent.cells = [] ∧
     far.tlbOpen 0 (fun e => e.covers 0 0x10000) = true) ∧
    memory.phys.mem.wf 0 = true ∧ (memory.homeOf 0x100_0000_0000).isSome = true ∧ (memory.homeOf 0x100_0200_0000).isSome = true := by decide +kernel

/-! ## Rings and queues -/

/-- A formed ring of dies 0, 1, 3, 2 with two positions at each. -/
def rs : State :=
  let s := { memory with rings := memory.rings.set Ring.init 0 ⟨2, [0, 1, 3, 2], 1024, 4096, true, false, [], false, [], [], false⟩ }
  (List.range 4).foldl (fun s d => s.updDie d fun x => { x with
    ready := true, cyc := 5000, regs := { x.regs with rslotc := BitVec.ofNat 64 (7 + d) }
    ring := { x.ring with nextPres := 3 + d, transit := [⟨some ⟨0, d, 10 + d⟩, false, none⟩, ⟨if d = 1 then none else some ⟨0, 20 + d, 20 + d⟩, false, none⟩] } }) s
def lostS (i : Nat) (a : Bool) : LostSeg := ⟨⟨0, i, i⟩, i, a⟩

theorem witness_RingSlotsAndRepair :
    (let r := rs.rings.get Ring.init 0
     r.formed = true ∧ r.halted = false ∧ r.bypasses = [] ∧ r.spliced = false ∧ r.dies.Nodup ∧
     (∀ d ∈ [0, 1, 3, 2], rs.silent d (r.start + r.slotCycles) = false ∧ (rs.die d).ring.owed = 0 ∧ (rs.die d).ring.transit.length = 2 ∧
       ((rs.die d).ring.transit.all fun p => !p.torn && p.out.isNone) = true)) ∧
    (let p : Position := ⟨some ⟨0, 77, 99⟩, false, none⟩
     let s : State := { rs with rings := rs.rings.set Ring.init 0 { rs.rings.get Ring.init 0 with spliced := true, inFrom := [p] } }
     let r := s.rings.get Ring.init 0
     r.spliced = true ∧ r.inFrom = [p] ∧ p.torn = false ∧ p.out = none ∧ r.formed = true ∧ r.bypasses = []) ∧
    1 ∉ rs.lanesUsed ∧ (lostS 0 true).arrived = true ∧ (lostS 1 false).arrived = false ∧
    (let s := rs.updRing 3 fun r => { r with stopped := true }
     let r := s.rings.get Ring.init 0
     r.spliced = false ∧ r.dies[1]? = some 1 ∧ r.next 1 = 3 ∧ 3 < 16 ∧ r.next 3 = 2 ∧ s.silent 1 (r.start + r.slotCycles) = false ∧ s.silent 3 (r.start + r.slotCycles) = true) := by
  decide +kernel
/-- The routes past a silent die 3: free, and with every lane bad. -/
theorem witness_RingSlotsAndRepair_routes :
    (let s := rs.updRing 3 fun r => { r with stopped := true }
     let r := s.rings.get Ring.init 0
     s.routeFree r 1 3 2 (r.start + r.slotCycles) = true ∧
     State.routeFree { s with host := { s.host with badLanes := List.range 400 } } r 1 3 2 (r.start + r.slotCycles) = false) := by decide +kernel

/-- Queue 3 of ASID 0 with four slots at 0x18000, two read, on die pages that a page table maps. -/
def qs : State :=
  let live : BitVec 1024 := BitVec.ofNat 1024 (0x18000 + 4 * 2 ^ 64 + 2 ^ 77 + 2 ^ 78)
  let shadow := live + BitVec.ofNat 1024 (5 * 2 ^ 128 + 9 * 2 ^ 160 + 8 * 2 ^ 192 + 2 * 2 ^ 224)
  let s := { memory with host := { memory.host with
    phase := 4, queues := memory.host.queues.put 3 { GQueue.init with live := live, shadow := shadow },
    asids := memory.host.asids.put 0 (setField (memory.asidRec 0) 63 0 0x100_0100_0000) } }
  let s := (s.writePa 0x100_0100_0000 8 0x100_0101_0001).writePa 0x100_0101_0000 8 0x100_0102_0001
  let s := (s.writePa 0x100_0102_0008 8 0x100_0000_005F).writePa 0x100_0102_0010 8 0x100_0001_005F
  s.updDie 0 fun d => { d with regs := { d.regs with stkn := 8, stksz := 0x1000, stkpool := 0x8000 } }
/-- A packet of type `typ` with words 2 to 7. -/
def pk (typ : Nat) (w : List Nat) : Packet :=
  ⟨0, 8, 9, BitVec.ofNat 64 (9 + typ * 2 ^ 32), 0, (List.range 6).map fun k => BitVec.ofNat 64 (w.getD k 0), [], 0, false, 0, false, [], 0, [], []⟩
/-- The slot page has been read once, so that the front end finds it. -/
def warmed : State := (qs.feResolve 0 0x18000 .read).1
def headed (p : Packet) : State := warmed.updQueue 3 fun g => { g with head := some p }
def begun (p : Packet) : State := Claims.begun (headed p) 3
def doneP (p : Packet) : Packet := { Claims.keyed (headed p) 3 p with ready := true }
/-- `Claims.atHead`, decided. -/
def atHeadB (s : State) (ty : Nat) (p : Packet) : Bool :=
  let g := s.queue 3
  g.head == some p && p.typ == ty && g.on && decide (g.st < 4) && !s.fw.quiesced && g.page == none && !g.waiting && !g.replays &&
    (!p.bar || g.open_ == [])
theorem atHeadB_meets (s : State) (ty : Nat) (p : Packet) (h : atHeadB s ty p = true) : Claims.atHead s 3 ty p := by
  simp only [atHeadB, Bool.and_eq_true, beq_iff_eq, decide_eq_true_eq, Bool.not_eq_true', Bool.or_eq_true] at h
  obtain ⟨⟨⟨⟨⟨⟨⟨⟨a, b⟩, c⟩, d⟩, e⟩, f⟩, g⟩, i⟩, j⟩ := h
  exact ⟨a, b, c, d, e, f, g, i, fun hb => by simpa [hb] using j⟩
/-- The address resolves to `pa` in the state as it stands. -/
def feHit (s : State) (asid va : Nat) (k : Acc) (pa : Nat) : Bool :=
  decide (va / 2 ^ 55 = 0) && !s.inSequence asid va && match s.walk asid va k with
    | .leaf e _ false => decide (s.checkPa (e.addr va) = .ok pa)
    | _ => false
theorem feHit_eq {s : State} {asid va pa : Nat} {k : Acc} (h : feHit s asid va k pa = true) : s.feResolve asid va k = (s, .ok pa) := by
  unfold feHit at h
  unfold State.feResolve
  simp only [Bool.and_eq_true, decide_eq_true_eq, Bool.not_eq_true'] at h
  obtain ⟨⟨a, b⟩, c⟩ := h
  rw [if_neg (not_not.2 a), if_neg (by simp [b])]
  split at c
  · rename_i e epa he
    rw [he]
    simp only [decide_eq_true_eq] at c
    simp [State.setAccessed, c]
  · exact absurd c (by simp)
/-- `Claims.slotWaits`, decided at the physical address of the slot. -/
def slotWaitsB (s : State) (pa : Nat) : Bool :=
  let x := Claims.examined s 3
  let g := s.queue 3
  g.on && decide (g.st < 4) && !s.fw.quiesced && decide (g.head = none) && !g.replays &&
    feHit x g.asid g.slotVa .read pa && !isSpan pa && !x.badAt pa 64 && decide (x.readPa pa 64 % 2 ^ 32 ≠ g.seq)
theorem slotWaitsB_meets (s : State) (pa : Nat) (h : slotWaitsB s pa = true) : Claims.slotWaits s 3 := by
  simp only [slotWaitsB, Bool.and_eq_true, decide_eq_true_eq, Bool.not_eq_true'] at h
  obtain ⟨⟨⟨⟨⟨⟨⟨⟨a, b⟩, c⟩, d⟩, e⟩, f⟩, g⟩, i⟩, j⟩ := h
  exact ⟨a, b, c, d, e, pa, feHit_eq f, g, i, j⟩
def resolves (s : State) (va pa : Nat) (k : Acc) : Bool := feHit s 0 va k pa && !isSpan pa && !s.badAt pa 8
theorem resolves_meets {s : State} {va pa : Nat} {k : Acc} (h : resolves s va pa k = true) :
    s.feResolve 0 va k = (s, .ok pa) ∧ isSpan pa = false ∧ s.badAt pa 8 = false := by
  simp only [resolves, Bool.and_eq_true, Bool.not_eq_true'] at h
  exact ⟨feHit_eq h.1.1, h.1.2, h.2⟩
/-- Where the slot that is examined next stands. -/
def slotAt : Nat := 0x100_0000_8240

theorem witness_QueuePackets_nop : atHeadB (headed (pk 0 [])) 0 (pk 0 []) = true ∧ (pk 0 []).unused 2 = true ∧
    slotWaitsB (Claims.underWay (begun (pk 0 [])) 3 (doneP (pk 0 []))) slotAt = true := by decide +kernel
theorem witness_QueuePackets_launch :
    let p := pk 1 [0x13000, 0x1_0001, 0, 0xFFFF_0000_0000_0000, 0, 0]
    atHeadB (headed p) 1 p = true ∧ p.w 6 = 0 ∧ p.unused 7 = true ∧ (headed p).launchFull p.die = false ∧
    slotWaitsB (Claims.underWay ((begun p).packetLaunch 3 (Claims.keyed (headed p) 3 p) p.image) 3 { doneP p with inq := 1 }) slotAt = true := by
  decide +kernel
theorem witness_QueuePackets_prologue :
    let p := pk 1 [0x13000, 0x1_0001, 0, 0xFFFF_0000_0000_0000, 0x10080, 0]
    atHeadB (headed p) 1 p = true ∧ p.w 6 ≠ 0 ∧ addrBad (p.w 6) 8 = false ∧
    (let odd := pk 1 [0x13000, 0x1_0001, 0, 0xFFFF_0000_0000_0000, 0x10084, 0]
     atHeadB (headed odd) 1 odd = true ∧ odd.w 6 ≠ 0 ∧ addrBad (odd.w 6) 8 = true) ∧ (headed p).host.prologues.find p.die = none ∧
    (headed p).ctlAt ((headed p).scratchAt p.die) = none ∧
    (freeBelow ((headed p).die p.die).sch.stackIds ((headed p).die p.die).regs.stkn.toNat).isSome = true ∧
    (match (begun p).startPrologue 3 (Claims.keyed (headed p) 3 p) with
      | .go x y => slotWaitsB (Claims.underWay x 3 y) slotAt
      | _ => false) = true := by decide +kernel
theorem witness_QueuePackets_ilaunch :
    let p := pk 2 [0x13000, 0x1_0001, 0, 0xFFFF_0000_0000_0000, 0x12000, 0]
    atHeadB (headed p) 2 p = true ∧ p.unused 7 = true ∧ addrBad (p.w 6) 4 = false ∧ (headed p).launchFull p.die = false ∧
    resolves (begun p) (p.w 6) 0x100_0000_2000 .read = true ∧
    slotWaitsB (Claims.underWay ((Claims.feRead (begun p) 3 0x100_0000_2000 4).packetLaunch 3 (Claims.keyed (headed p) 3 p)
      (setField p.image 95 64 ((begun p).readPa 0x100_0000_2000 4))) 3 { doneP p with inq := 1 }) slotAt = true := by decide +kernel
theorem witness_QueuePackets_copy :
    let p := pk 3 [0x12000, 0x12001, 3]
    let x (j : Nat) := Claims.copied (begun p) 3 (Claims.keyed (headed p) 3 p) 0x100_0000_2000 0x100_0000_2001 j
    atHeadB (headed p) 3 p = true ∧ p.unused 5 = true ∧ p.w 4 = 3 ∧ p.pos = 0 ∧ (headed p).phys.bad = [] ∧
    (∀ j ∈ [0, 1, 2], resolves (x j) (p.w 2 + j) (0x100_0000_2000 + j) .read = true ∧
      resolves (x j) (p.w 3 + j) (0x100_0000_2001 + j) .write = true ∧ (headed p).ctlAt (0x100_0000_2000 + j) = none ∧
      (headed p).ctlAt (0x100_0000_2001 + j) = none) ∧
    slotWaitsB (Claims.underWay (x 3) 3 { doneP p with pos := 3 }) slotAt = true := by decide +kernel
theorem witness_QueuePackets_signal :
    (∀ w ∈ [0, 1], let p := pk 4 [0x12000, 2 ^ 63 + 77, w]
      atHeadB (headed p) 4 p = true ∧ p.unused 5 = true ∧ addrBad (p.w 2) 8 = false ∧
      resolves (begun p) (p.w 2) 0x100_0000_2000 (if w = 0 then .write else .both) = true ∧ (headed p).ctlAt 0x100_0000_2000 = none ∧
      p.remote = false ∧ slotWaitsB (Claims.underWay
        ((begun p).packetStore 3 (doneP p) (p.w 2) 0x100_0000_2000 8 (p.w 4) (p.w 3) (some p.relScope)).1 3 (doneP p)) slotAt = true) ∧
    (let p : Packet := { pk 4 [0x12000, 77, 0] with hdr := BitVec.ofNat 64 (9 + 4 * 2 ^ 32 + 2 ^ 42) }
     let far := (headed p).updPorts fun y => { y with sent := FMap.empty.put 9 ⟨some 0, 0, some 3, 0, 2 ^ 51, 0x30000, 8, 0, 5, 100, 1⟩ }
     p.remote = true ∧ atHeadB (headed p) 4 p = true ∧ atHeadB far 4 p = true ∧ (headed p).ports.sent.cells = [] ∧
       far.ports.sent.cells = [(9, ⟨some 0, 0, some 3, 0, 2 ^ 51, 0x30000, 8, 0, 5, 100, 1⟩)]) ∧
    (∀ w ∈ [2, 3], let p := pk 4 [0x305, 2 ^ 32 + 77, w]
      atHeadB (headed p) 4 p = true ∧ p.unused 5 = true ∧ (begun p).packetRef 3 (Claims.keyed (headed p) 3 p) = true ∧
      p.remote = false ∧ (let y := (begun p).packetSem 3 (Claims.keyed (headed p) 3 p)
       slotWaitsB (Claims.underWay (if w = 2 then y.semAdd 0 3 5 (p.w 3) else y.semStep 0 3 5 (BitVec.ofNat 32 (p.w 3))) 3 (doneP p))
        slotAt) = true) := by decide +kernel
theorem witness_QueuePackets_wait :
    (∀ v ∈ [5, 2 ^ 64 - 1], let p := pk 5 [0x12000, v, 0]
      atHeadB (headed p) 5 p = true ∧ p.unused 5 = true ∧ resolves (begun p) (p.w 2) 0x100_0000_2000 .read = true ∧
      (p.w 3 ≤ (begun p).readPa 0x100_0000_2000 8 ↔ v = 5) ∧
      slotWaitsB (Claims.underWay (Claims.feRead (begun p) 3 0x100_0000_2000 8) 3 (doneP p)) slotAt = true) ∧
    (let p := pk 5 [0x305, 5, 2]
     let s := (headed p).updTile 0 3 fun y => { y with sems := y.sems.set 0 5 5 }
     let b := Claims.begun s 3
     atHeadB s 5 p = true ∧ b.packetRef 3 (Claims.keyed s 3 p) = true ∧ 5 ≤ (s.sem 0 3 5).toNat ∧
     slotWaitsB (Claims.underWay (b.queueOrd 3 fun o => o.acquire (b.semHeads 0 3 5) 4) 3 (doneP p)) slotAt = true) := by decide +kernel
/-- A packet that waits, when its condition holds. -/
def waiting5 : State := (headed (pk 5 [0x12000, 5, 0])).updQueue 3 fun g => { g with waiting := true }
theorem witness_QueuePackets_satisfied :
    let p := pk 5 [0x12000, 5, 0]
    let w := Claims.begun waiting5 3
    (waiting5.queue 3).head = some p ∧ p.typ = 5 ∧ (waiting5.queue 3).on = true ∧ (waiting5.queue 3).st < 4 ∧ waiting5.fw.quiesced = false ∧
    (waiting5.queue 3).page = none ∧ (waiting5.queue 3).waiting = true ∧ resolves w (p.w 2) 0x100_0000_2000 .read = true ∧
    p.w 3 ≤ w.readPa 0x100_0000_2000 8 ∧ slotWaitsB (Claims.underWay (Claims.feRead w 3 0x100_0000_2000 8) 3 { p with ready := true }) 0x100_0000_8200 = true := by decide +kernel

theorem witness_ControlPackets_loop :
    (∀ n ∈ [1, 16], let p := pk 6 [n, 2 ^ 32 - 1]
      atHeadB (headed p) 6 p = true ∧ p.unused 4 = true ∧ p.w 2 = n ∧ p.w 3 = 2 ^ 32 - 1 ∧ n < ((headed p).queue 3).cap ∧
      slotWaitsB (Claims.underWay ((begun p).updQueue 3 fun g => { g with toRead := n, left := n * (2 ^ 32 - 1) }) 3 (doneP p)) slotAt = true) := by
  decide +kernel
theorem witness_ControlPackets_cond :
    (∀ c ∈ [0, 1, 2, 3], let p := pk 7 [0x12000, 5, c, 255]
      atHeadB (headed p) 7 p = true ∧ p.unused 6 = true ∧ p.w 4 = c ∧ p.w 5 = 255 ∧ 255 < ((headed p).queue 3).cap ∧
      resolves (begun p) (p.w 2) 0x100_0000_2000 .read = true) ∧
    (let p := pk 7 [0x12000, 5, 1, 255]
     (begun p).readPa 0x100_0000_2000 8 ≠ p.w 3 ∧ p.w 3 ≤ (begun p).readPa 0x100_0000_2000 8 ∧
     let c := Claims.feRead (begun p) 3 0x100_0000_2000 8
     slotWaitsB (Claims.underWay c 3 (doneP p)) slotAt = true ∧
     slotWaitsB (Claims.underWay (c.updQueue 3 fun g => { g with skip := 255 }) 3 (doneP p)) slotAt = true) := by decide +kernel
theorem witness_ControlPackets_doorbell :
    (∀ n ∈ [0, 63], let p := pk 9 [n, 2 ^ 32 - 1]
      atHeadB (headed p) 9 p = true ∧ p.unused 4 = true ∧ p.w 2 < frontSeq p.die ∧ p.w 3 < 2 ^ 32 ∧
      slotWaitsB (Claims.underWay ((begun p).updSeq 0 n fun x => { x with hdb := x.hdb ||| BitVec.ofNat 32 (p.w 3) }) 3 (doneP p)) slotAt = true) := by
  decide +kernel

/-- An instance held for a frame at 0x18000, and a queue on the second page whose head asks for its return. -/
def heldI : Inst :=
  { fetchInst with sched := { fetchInst.sched with status := .held, seq := none, heldAt := some 0x100_0000_8000, accTile := some 2 } }
def returning : State :=
  let s := ((qs.writePa 0x100_0000_8008 8 0x10088).writePa 0x100_0000_8000 4 1).setInst 7 heldI
  let s := s.updQueue 3 fun g => { g with live := setField g.live 63 0 0x20000, shadow := setField g.shadow 63 0 0x20000 }
  let s := (s.feResolve 0 0x20000 .read).1
  ((s.mapRange 0 0 .read (pagesOf 0x18000 frameSize).1 (pagesOf 0x18000 frameSize).2).1).updQueue 3 fun g => { g with head := some (pk 8 [0x18000]) }
/-- Its return succeeds, and the next packet is not there yet. -/
def returns : Bool :=
  let p := pk 8 [0x18000]
  let b := Claims.begun returning 3
  match returning.tileSlot 0 2 with
  | some (x, k) => (match b.restoreIn 7 heldI x k (returning.die 0).cyc (b.virtRd [(1, 0x100_0000_0000)] 0x18000) (fun _ _ => 0) with
    | .ok z () => slotWaitsB (Claims.underWay z 3 { Claims.keyed returning 3 p with ready := true }) 0x100_0001_0240
    | _ => false)
  | none => false
/-- The frame it returns from. -/
def itsFrame : Bool :=
  let rd := (Claims.begun returning 3).virtRd [(1, 0x100_0000_0000)] 0x18000
  !frameBad rd && !framePending rd && rd 0 4 / 2 ^ 16 % 2 == 0 && rd 0x350 4 == 0 && rd 0x1E0 4 == 0
theorem witness_ControlPackets_restore :
    atHeadB returning 8 (pk 8 [0x18000]) = true ∧ (pk 8 [0x18000]).unused 3 = true ∧ addrBad ((pk 8 [0x18000]).w 2) 256 = false ∧
    (Claims.begun returning 3).mapRange 0 0 .read (pagesOf 0x18000 frameSize).1 (pagesOf 0x18000 frameSize).2 =
      (Claims.begun returning 3, .ok [(1, 0x100_0000_0000)]) ∧
    viaPages [(1, 0x100_0000_0000)] ((pk 8 [0x18000]).w 2) = 0x100_0000_8000 ∧
    ((returning.instsOn 0).find? fun y => y.2.sched.status == .held && y.2.sched.heldAt == some 0x100_0000_8000) = some (7, heldI) ∧
    returning.inst 7 = some heldI ∧ heldI.sched.wait = .none ∧ itsFrame = true ∧ returns = true := by decide +kernel

/-! ## Queue control, firmware, ports and bring-up -/

/-- Queue 3 in state `st` with the header `hdr` in its next slot. -/
def slotted (st hdr : Nat) : State := ((warmed.updQueue 3 fun g => g.put st).writePa 0x100_0000_8200 64 hdr)

theorem witness_QueueControl_doorbell :
    (∀ st ∈ [1, 2], ∀ h ∈ [9, 9 + 2 ^ 43], let s := slotted st h
      let x := Claims.examined s 3
      let g := s.queue 3
      g.page = none ∧ g.on = true ∧ g.st = st ∧ s.fw.quiesced = false ∧ g.head = none ∧ g.replays = false ∧ g.waiting = false ∧ g.skip = 0 ∧
      g.toRead = 0 ∧ resolves x g.slotVa 0x100_0000_8200 .read = true ∧ x.badAt 0x100_0000_8200 64 = false ∧
      (Packet.ofSlot g.rd (x.readPa 0x100_0000_8200 64)).seq = g.seq ∧
      (x.headerBad g (Packet.ofSlot g.rd (x.readPa 0x100_0000_8200 64)) = true ↔ h ≠ 9)) ∧
    (warmed.queue 4).on = false ∧ ({ warmed with fw := { warmed.fw with quiesced := true } } : State).fw.quiesced = true := by decide +kernel

/-- The prologue of a packet of queue 3 has ended with `act` in s6. -/
def prologueDone (act : Nat) : State :=
  let p : Packet := ⟨4, 8, 9, BitVec.ofNat 64 (9 + 2 ^ 32), 0, [1, 2, 3, 4, 5, 0], [], 0, false, 0, true, [], 0, [], []⟩
  let i : Inst := { fetchInst with
    who := { fetchInst.who with kind := .prologue, queue := some 3 }
    sched := { fetchInst.sched with status := .exited, seq := some 64, stack := some 2 } }
  let s := (warmed.updQueue 3 fun g => { g with open_ := [p] }).setInst 9
    (i.withCtx { i.ctx with regs := { i.ctx.regs with s := FMap.empty.put 6 (BitVec.ofNat 32 act) } })
  { s with host := { s.host with prologues := s.host.prologues.put 0 (3, 4, 0) } }

theorem witness_QueueControl :
    (let g := warmed.queue 3
     (∀ n ∈ [6, 6 + 2 ^ 32], n % 2 ^ 32 = (fieldOf g.shadow 159 128 + 1) % 2 ^ 32) ∧ 7 % 2 ^ 32 ≠ (fieldOf g.shadow 159 128 + 1) % 2 ^ 32 ∧
     g.on = true ∧ g.st ≠ 4 ∧ (g.put 4).st = 4) ∧
    ((warmed.queue 4).on = false ∧ fieldOf (setField (warmed.queue 4).live 77 77 1) 77 77 = 1) ∧
    (warmed.updQueue 3 fun g => g.put 4).queueBusy 3 = false ∧
    (let p : Packet := ⟨4, 8, 9, BitVec.ofNat 64 (9 + 2 ^ 41), 0x14008, [], [], 0, true, 0, false, [], 0, [], []⟩
     let s := warmed.updQueue 3 fun g => { g with open_ := [p] }
     let x := s.updQueue 3 fun g => { g with open_ := g.open_.filter fun y => y.key != 4 }.refresh
     ((s.queue 3).open_.find? fun x => x.key == 4) = some p ∧ p.complete = true ∧ p.cmpl = true ∧ p.remote = false ∧
     (∀ l ∈ [[], [5]], let far : Packet := { p with hdr := BitVec.ofNat 64 (9 + 2 ^ 41 + 2 ^ 42), late := l }
       far.remote = true ∧ far.late = l ∧ far.complete = true ∧
         (((warmed.updQueue 3 fun g => { g with open_ := [far] }).queue 3).open_.find? fun x => x.key == 4) = some far) ∧
     (s.queue 3).st ≠ 4 ∧
     resolves x p.caddr.toNat 0x100_0000_4008 .write = true ∧ s.ctlAt 0x100_0000_4008 = none) ∧
    (∀ act ∈ [0, 1], let s := prologueDone act
      s.host.prologues.find 0 = some (3, 4, 0) ∧ (s.inst 9).isSome = true ∧
      (((s.instsOn 0).find? fun x => x.2.who.kind == .prologue && x.2.sched.status == .exited).map fun x => x.1) = some 9 ∧
      ((s.inst 9).all fun i => i.who.recNo.isNone && i.ex.segTask.isNone && i.coh.isNone &&
        (i.ctx.landAll.regs.getS 6).toNat % 4 == act) = true ∧
      (((s.queue 3).open_.find? fun x => x.key == 4).map fun p => p.die) = some 0 ∧ s.launchFull 0 = false) := by decide +kernel

/-- `Claims.quiet`, decided. -/
def quietB (s : State) : Bool := s.host.queues.cells.all fun c => !c.2.kick && (fieldOf c.2.shadow 232 232 == 0 || c.2.st == 4)
theorem quietB_meets (s : State) (h : quietB s = true) : Claims.quiet s := by
  intro c hc
  have := List.all_eq_true.mp h c hc
  simpa using this

/-- The clauses on a signature, a key and a boot image follow from either answer of the opaque functions of `Config`, so no
value of those is fixed here. -/
theorem witness_FirmwareComplex :
    warmed.host.phase = 4 ∧ warmed.fw.updating = none ∧ quietB warmed = true ∧ (warmed.fw.beat.find 3).getD 0 + 2000000 < 2000001 ∧
    (warmed.host.queues.cells.all fun c => c.2.head.isNone && !c.2.waiting) = true ∧ (warmed.queue 3).shadow ≠ 0 ∧
    (waiting5.host.queues.cells.any fun c => c.2.waiting) = true ∧
    (∀ c ∈ [300, 200000300], let s := { warmed with fw := { warmed.fw with
        updating := some 300, handover := (FMap.empty.put 3 (⟨9, 2, [], 0, 0, 0⟩ : HandQueue)).put 5 ⟨1, 0, [pk 0 []], 2, 7, 1⟩ } }
      s.fw.updating = some 300 ∧ 300 ≤ c ∧ c ≤ 300 + 200000000 ∧ (s.fw.handover.cells.map (·.1)).Nodup ∧
        s.fw.handover.find 5 = some ⟨1, 0, [pk 0 []], 2, 7, 1⟩) ∧
    (let s := { warmed with fw := { warmed.fw with updating := some 300, quiesced := true } }
     let y := State.takeHandover { s with
       fw := { s.fw with
         updating := none, quiesced := false, slotB := !s.fw.slotB, sram := .empty
         running := s.fw.running.set 0 0 (s.fw.images.get 0 (if s.fw.slotB then 0 else 1)) } }
     let back : State := { y with sec := { s.sec with meas := s.sec.meas.set 0 2 (s.sec.meas.get 0 5) } }
     quietB (back.errTo 0 0x0E 0 31 31 (if s.fw.slotB then 0 else 1) s.fw.hversion) = true) ∧
    ({ warmed with host := { warmed.host with phase := 5 } } : State).host.phase = 5 := by decide +kernel

theorem witness_SecurityEngine :
    warmed.host.phase ≠ 0 ∧ warmed.host.phase ≠ 5 ∧
    ({ warmed with sec := { warmed.sec with install := some (3, 5, 100), spdm := 3 } } : State).sec.install = some (3, 5, 100) ∧
    100 ≤ 4100 ∧ 4100 ≤ 100 + 4000 ∧ warmed.sec.spdm < 1 ∧ 3 ≤ ({ warmed with sec := { warmed.sec with spdm := 3 } } : State).sec.spdm ∧
    32 / 32 % 2 = 1 ∧ 4 / 4 % 2 = 1 := by decide +kernel

/-- Landing ring 5 at 0x18000 of ASID 0, of policy `pol`, with its head and tail. -/
def ps (pol head tail en : Nat) : State :=
  let r := BitVec.ofNat 1024 (0x18000 + 16 * 2 ^ 64 + pol * 2 ^ 69 + en * 2 ^ 71 + 4 * 2 ^ 81 + head * 2 ^ 128 + tail * 2 ^ 192)
  { qs with
    ports := { qs.ports with lrcb := qs.ports.lrcb.set 0 5 r, peers := FMap.empty.put 3 (BitVec.ofNat 128 (9 + 2 ^ 80 * (2 ^ 48 - 1))) }
    sec := { qs.sec with keys := qs.sec.keys.put 4 0x1234 } }
def msgOf (len : Nat) : Message := ⟨5, 2, 77, len, 1, FMap.empty.put 0 ((List.range len).map fun k => BitVec.ofNat 8 k), 100, true, 12, 3⟩
/-- `Claims.fitsPlain`, decided. -/
def fitsPlainB (s : State) (m : Message) : Bool :=
  decide (m.len ≤ 16368) && s.fits m && decide (s.ports.gaps.find m.ring = none) &&
    decide (s.lr m.ring 191 128 % 2 ^ s.lr m.ring 68 64 + (16 + m.len + 63) / 64 * 64 ≤ 2 ^ s.lr m.ring 68 64) &&
    (s.landBytes m.ring (s.lr m.ring 191 128) (bytesOf (m.len + 2 ^ 32) 8 ++ bytesOf m.num 8 ++ m.payload)).isSome
theorem fitsPlainB_meets (s : State) (m : Message) (h : fitsPlainB s m = true) : Claims.fitsPlain s m := by
  simp only [fitsPlainB, Bool.and_eq_true, decide_eq_true_eq] at h
  obtain ⟨⟨⟨⟨a, b⟩, c⟩, d⟩, e⟩ := h
  exact ⟨a, b, c, d, e⟩

theorem witness_Ports_landing :
    let s := State.updPorts (ps 0 0 0 1) fun p => { p with done := [msgOf 5], buffered := [msgOf 5] }
    (s.ports.done.length = 1 ∧ s.ports.buffered.length = 1 ∧ s.lr 5 71 71 = 1 ∧ (ps 0 0 0 0).lr 5 71 71 = 0 ∧
      fitsPlainB ((s.updPorts fun p => { p with done := p.done.eraseIdx 0, buffered := [] }).releaseHeld 5) (msgOf 5) = true ∧
      fitsPlainB ((s.releaseHeld 5).updPorts fun p => p.unhold 0) (msgOf 5) = true) := by decide +kernel

theorem witness_Ports_full :
    (∀ pol ∈ [0, 1, 2], let s := State.updPorts (ps pol 65536 0 1) fun p => { p with done := [msgOf 5], recsHeld := p.recsHeld.put 5 [⟨0, 65536, true, 3, 30, 9⟩] }
      let x := (s.updPorts fun p => { p with done := p.done.eraseIdx 0 }).releaseHeld 5
      s.lr 5 70 69 = pol ∧ x.fits (msgOf 5) = false ∧ (msgOf 5).len ≤ 16368 ∧ s.lr 5 447 384 + 1 < 2 ^ 64 ∧ s.lr 5 511 448 + 5 < 2 ^ 64 ∧
      s.lr 5 71 71 = 1 ∧ ((s.ports.buffered.filter fun y => decide (y.port = (msgOf 5).port)).foldl (fun a y => a + y.len) 0) + 5 ≤ 0x200_0000) ∧ 16368 < 16369 := by decide +kernel

theorem witness_Ports :
    (let s := ps 0 0 0 1
     let r (a : Nat) : SpanReq := ⟨3, 4, 4, a, .store, 8, 7, 0, false, true, []⟩
     s.host.phase = 4 ∧ s.spanRejected (r 0x100_0000_3000) = false ∧ s.spanRejected { r 0x100_0000_3000 with key := 5 } = true ∧
     (s.homeOf 0x100_0000_3000).isSome = true ∧ s.ctlAt 0x100_0000_3000 = none ∧ quietB s = true ∧
     s.badAt 0x100_0000_3000 8 = false ∧ { s with phys := { s.phys with bad := [0x100_0000_3007] } }.badAt 0x100_0000_3000 8 = true ∧
     (3, 4) ∉ s.ports.served ∧ (3, 4) ∈ (s.updPorts fun p => { p with served := [(3, 4)] }).ports.served) ∧
    (let m (op : Nat) (u : Option Nat) : SpanMsg := ⟨u, 0, none, 0, 2 ^ 51, 0x30000, 8, op, 5, 100, 7⟩
     (m 0 (some 0)).sends < 8 ∧ 100 + 4000000 ≤ (m 0 none).sent + 4000000 ∧ (m 0 none).sent ≤ 100 ∧ (m 1 (some 0)).uid.isSome = true ∧
     (let s := (ps 0 0 0 1).updPorts fun p => { p with sent := FMap.empty.put 9 (m 0 none) }
      s.ports.sent.find 9 = some (m 0 none) ∧ s.waitsFor 9 = none)) ∧
    (let p : UetPacket := ⟨2, .uud, false, 3, 4, 0x1234, 5, 77, 0, 1, 4, [1, 2, 3, 4], 500⟩
     (ps 0 0 0 1).lr p.ring 71 71 = 1 ∧ (ps 0 0 0 0).lr p.ring 71 71 = 0 ∧ (ps 0 0 0 1).ports.reasm = [] ∧
     (p.ring, p.src, p.msg) ∉ (ps 0 0 0 1).ports.givenUp ∧
     (p.ring, p.src, p.msg) ∈ ((ps 0 0 0 1).updPorts fun x => { x with givenUp := [(5, 3, 77), (5, 4, 78)] ++ [(p.ring, p.src, p.msg)] }).ports.givenUp ∧
     (ps 0 0 0 1).lr p.ring 575 512 + 1 < 2 ^ 64) ∧
    (let s := State.updPorts (ps 0 0 0 1) fun p => { p with reasm := [msgOf 5] }
     let p : UetPacket := ⟨2, .uud, false, 2, 2, 0x1234, 5, 77, 0, 1, 5, [1, 2, 3, 4, 5], 2000100⟩
     s.ports.reasm.length = 1 ∧ s.lr 5 71 71 = 1 ∧ (msgOf 5).first + 2000000 ≤ 2000100 ∧
       s.ports.reasm.find? (fun m => m.has p) = some (msgOf 5) ∧ (msgOf 5).first + 2000000 ≤ p.cyc) ∧
    (∀ n ∈ [16, 30], fieldOf (setField ((ps 0 0 0 0).ports.lrcb.get 0 5) 68 64 n) 68 64 = n) := by decide +kernel

theorem witness_PowerArbitration : 40000 % 20000 = 0 := by decide

theorem witness_RegisterWrites : (ps 0 0 0 1).lr 5 71 71 = 1 ∧ (ps 0 0 0 0).lr 5 71 71 = 0 ∧ 20 < 21 ∧ 15 < 16 := by decide +kernel

/-- The module in phase `ph` with some dies calibrated. -/
def calibrated (ph part : Nat) (l : List Nat) : State :=
  l.foldl (fun s d => s.updDie d fun y => { y with ready := true, half := true, cyc := 30 })
    { memory with host := { memory.host with phase := ph, part := BitVec.ofNat 32 part } }
theorem witness_BringUpAndHostSide :
    (let x := (calibrated 2 4 [0, 1, 2, 3]).updDie 16 fun y => { y with ready := true }
     ∀ d ∈ [0, 1, 2, 3, 16], (x.die d).ready = true) ∧
    (let x := (calibrated 2 4 [0, 1]).updDie 16 fun y => { y with ready := true }
     (x.die 2).ready = false) ∧
    (∀ part ∈ [4, 5, 6], let s := calibrated 3 part (List.range 20)
      s.host.phase = 3 ∧ ((List.range 20).all fun d => (s.die d).ready) = true ∧ fieldOf s.host.part 1 0 = part - 4) ∧
    (let s := ((calibrated 3 4 (List.range 20)).updDie 15 fun y => { y with regs := { y.regs with rcfg := BitVec.ofNat 32 (64 * 16 + 47 * 65536) } })
     s.spliceOf = some (64, 2) ∧ (calibrated 3 4 (List.range 20)).spliceOf = none) ∧
    qs.host.agentPosted.get [] (2 * 5 + 1) = [] ∧
    (let s : State := { qs with host := { qs.host with agentPosted := FMap.empty.put (2 * 5 + 1) [9] } }
     s.host.agentPosted.get [] (2 * 5 + 1) ≠ []) ∧
    (isSpan (2 ^ 51 + 5 * 2 ^ 44) = true ∧ isSpan 0x100_0000_3000 = false ∧ (qs.homeOf 0x100_0000_3000).isSome = true ∧
      qs.badAt 0x100_0000_3000 8 = false ∧ { qs with phys := { qs.phys with bad := [0x100_0000_3007] } }.badAt 0x100_0000_3000 8 = true ∧
      qs.ctlAt 0x100_0000_3000 = none ∧ quietB qs = true ∧ qs.host.phase = 4) := by decide +kernel

end Sys2Proof.Tests
end

section
/-! # Every step keeps the memory in canonical form (O38)

An operation of the model that leaves the bytes of memory alone has a lemma `(…).memWf ↔ s.memWf`, with which `simp` passes
it; one that writes bytes has a lemma that keeps the canonical form, from those of Laws/Memory. What an operation answers
beside a state (an effect, an outcome, a part of a command's work) has a predicate of its own for the states it carries. The
lemmas stand in the order of the model's files. -/

namespace Sys2Proof.Machine

/-- A step that answers a state answers one whose memory is in canonical form. -/
def AnswersMemWf : Host.Outcome State Fault Refusal → Prop
  | .next t => t.memWf
  | .fault _ => True
  | .refused _ => True

/-- The states that the effect of a word carries have their memory in canonical form. -/
def Eff.MemWf : Eff → Prop
  | .ok c => c.s.memWf
  | .jump c _ _ => c.s.memWf
  | .done s => s.memWf
  | .stall c => c.s.memWf
  | .trap _ _ => True
  | .abort c _ => c.s.memWf
  | .soft _ => True
  | .noMem _ => True

@[simp] theorem answersMemWf_next (t : State) : AnswersMemWf (.next t) ↔ t.memWf := Iff.rfl
@[simp] theorem answersMemWf_fault (r : Fault) : AnswersMemWf (.fault r) := trivial
@[simp] theorem answersMemWf_refused (r : Refusal) : AnswersMemWf (.refused r) := trivial
@[simp] theorem Eff.memWf_ok (c : Cur) : (Eff.ok c).MemWf ↔ c.s.memWf := Iff.rfl
@[simp] theorem Eff.memWf_jump (c : Cur) (pc : Word64) (p : Bool) : (Eff.jump c pc p).MemWf ↔ c.s.memWf := Iff.rfl
@[simp] theorem Eff.memWf_done (s : State) : (Eff.done s).MemWf ↔ s.memWf := Iff.rfl
@[simp] theorem Eff.memWf_stall (c : Cur) : (Eff.stall c).MemWf ↔ c.s.memWf := Iff.rfl
@[simp] theorem Eff.memWf_trap (k : Nat) (v : Word64) : (Eff.trap k v).MemWf := trivial
@[simp] theorem Eff.memWf_abort (c : Cur) (k : Nat) : (Eff.abort c k).MemWf ↔ c.s.memWf := Iff.rfl
@[simp] theorem Eff.memWf_soft (k : Nat) : (Eff.soft k).MemWf := trivial
@[simp] theorem Eff.memWf_noMem (pa : Nat) : (Eff.noMem pa).MemWf := trivial

theorem State.memWf_iff_of_phys {s t : State} (e : t.phys = s.phys) : t.memWf ↔ s.memWf := by
  rw [State.memWf, State.memWf, e]

theorem State.memWf_iff_of_mem {s t : State} (e : t.phys.mem = s.phys.mem) : t.memWf ↔ s.memWf := by
  rw [State.memWf, State.memWf, e]

@[simp] theorem memWf_ite (p : Prop) [Decidable p] (a b : State) :
    (if p then a else b).memWf ↔ if p then a.memWf else b.memWf := by split <;> rfl

@[simp] theorem memWf_ite_cur (p : Prop) [Decidable p] (a b : Cur) :
    (if p then a else b).s.memWf ↔ if p then a.s.memWf else b.s.memWf := by split <;> rfl

@[simp] theorem memWf_ite_cur_fst {α : Type} (p : Prop) [Decidable p] (a b : Cur × α) :
    (if p then a else b).1.s.memWf ↔ if p then a.1.s.memWf else b.1.s.memWf := by split <;> rfl

@[simp] theorem memWf_ite_fst {α : Type} (p : Prop) [Decidable p] (a b : State × α) :
    (if p then a else b).1.memWf ↔ if p then a.1.memWf else b.1.memWf := by split <;> rfl

@[simp] theorem Eff.memWf_ite (p : Prop) [Decidable p] (a b : Eff) :
    (if p then a else b).MemWf ↔ if p then a.MemWf else b.MemWf := by split <;> rfl

@[simp] theorem answersMemWf_ite (p : Prop) [Decidable p] (a b : Host.Outcome State Fault Refusal) :
    AnswersMemWf (if p then a else b) ↔ if p then AnswersMemWf a else AnswersMemWf b := by split <;> rfl

/-- Both branches of a test decide what the word does. -/
theorem Eff.memWf_of_ite {p : Prop} [Decidable p] {a b : Eff} (ha : a.MemWf) (hb : b.MemWf) : (if p then a else b).MemWf := by
  split <;> assumption

theorem answersMemWf_of_ite {p : Prop} [Decidable p] {a b : Host.Outcome State Fault Refusal} (ha : AnswersMemWf a)
    (hb : AnswersMemWf b) : AnswersMemWf (if p then a else b) := by
  split <;> assumption

theorem answersMemWf_foldl {α : Type} {f : Host.Outcome State Fault Refusal → α → Host.Outcome State Fault Refusal}
    (hf : ∀ o a, AnswersMemWf o → AnswersMemWf (f o a)) (l : List α) {o : Host.Outcome State Fault Refusal}
    (ho : AnswersMemWf o) : AnswersMemWf (l.foldl f o) := by
  induction l generalizing o with
  | nil => exact ho
  | cons a t ih => exact ih (hf o a ho)

/-- An update of any field but the physical side. -/
@[simp] theorem State.memWf_mk (s : State) (i : FMap Inst) (u : Nat) (q : FMap Seq) (t : FMap Tile) (d : FMap Die)
    (r : FMap Ring) (g : FMap Nat) (h : HostDie) (f : Firmware) (p : Ports) (x : Security) (a : List Move)
    (o : Nat × Nat) (n : Nat) : State.memWf ⟨i, u, q, t, d, r, g, s.phys, h, f, p, x, a, o, n⟩ ↔ s.memWf :=
  State.memWf_iff_of_phys rfl

/-- An update of the physical side beside the bytes of memory. -/
@[simp] theorem State.memWf_mk_phys (s : State) (i : FMap Inst) (u : Nat) (q : FMap Seq) (t : FMap Tile) (d : FMap Die)
    (r : FMap Ring) (g : FMap Nat) (h : HostDie) (f : Firmware) (p : Ports) (x : Security) (a : List Move)
    (o : Nat × Nat) (n : Nat) (l : List Region) (b : List Nat) (b1 b2 b3 b4 b5 b6 b7 b8 b9 b10 : Nat) (m : FMap Nat)
    (y : Relaxed) :
    State.memWf ⟨i, u, q, t, d, r, g, ⟨l, s.phys.mem, b, b1, b2, b3, b4, b5, b6, b7, b8, b9, b10, m, y⟩,
      h, f, p, x, a, o, n⟩ ↔ s.memWf := State.memWf_iff_of_mem rfl

@[simp] theorem memWf_foldl_iff {α : Type} {f : State → α → State} (hf : ∀ s a, (f s a).memWf ↔ s.memWf) (l : List α)
    (s : State) : (l.foldl f s).memWf ↔ s.memWf := by
  induction l generalizing s with
  | nil => rfl
  | cons a t ih => rw [List.foldl_cons, ih, hf]

theorem Cur.memWf_foldl {α : Type} (f : Cur → α → Cur) (hf : ∀ c a, c.s.memWf → (f c a).s.memWf) (l : List α) {c : Cur}
    (h : c.s.memWf) : (l.foldl f c).s.memWf := by
  induction l generalizing c with
  | nil => exact h
  | cons a t ih => exact ih (hf c a h)

theorem memWf_of_fst {α : Type} {p : State × α} {t : State} {x : α} (h : p.1.memWf) (e : p = (t, x)) : t.memWf := by
  subst e; exact h

/-! ## Base -/

@[simp] theorem State.memWf_updDie (s : State) (d : Nat) (f : Die → Die) : (s.updDie d f).memWf ↔ s.memWf :=
  State.memWf_iff_of_phys (State.updDie_phys ..)

@[simp] theorem State.memWf_setSeq (s : State) (d q : Nat) (x : Seq) : (s.setSeq d q x).memWf ↔ s.memWf :=
  State.memWf_iff_of_phys (State.setSeq_phys ..)

@[simp] theorem State.memWf_updSeq (s : State) (d q : Nat) (f : Seq → Seq) : (s.updSeq d q f).memWf ↔ s.memWf :=
  State.memWf_iff_of_phys (State.updSeq_phys ..)

@[simp] theorem State.memWf_setTile (s : State) (d t : Nat) (x : Tile) : (s.setTile d t x).memWf ↔ s.memWf :=
  State.memWf_iff_of_phys (State.setTile_phys ..)

@[simp] theorem State.memWf_updTile (s : State) (d t : Nat) (f : Tile → Tile) : (s.updTile d t f).memWf ↔ s.memWf :=
  State.memWf_iff_of_phys (State.updTile_phys ..)

@[simp] theorem State.memWf_updEng (s : State) (d t : Nat) (f : Engines → Engines) : (s.updEng d t f).memWf ↔ s.memWf :=
  State.memWf_iff_of_phys (State.updEng_phys ..)

@[simp] theorem State.memWf_setInst (s : State) (u : Nat) (i : Inst) : (s.setInst u i).memWf ↔ s.memWf :=
  State.memWf_iff_of_phys (State.setInst_phys ..)

@[simp] theorem State.memWf_updInst (s : State) (u : Nat) (f : Inst → Inst) : (s.updInst u f).memWf ↔ s.memWf :=
  State.memWf_iff_of_phys (State.updInst_phys ..)

@[simp] theorem State.memWf_updSch (s : State) (d : Nat) (f : Scheduler → Scheduler) : (s.updSch d f).memWf ↔ s.memWf :=
  State.memWf_iff_of_phys (State.updSch_phys ..)

@[simp] theorem State.memWf_updRing (s : State) (d : Nat) (f : RingSide → RingSide) : (s.updRing d f).memWf ↔ s.memWf :=
  State.memWf_iff_of_phys (State.updRing_phys ..)

@[simp] theorem State.memWf_setRec (s : State) (d n : Nat) (r : Rec) : (s.setRec d n r).memWf ↔ s.memWf :=
  State.memWf_iff_of_phys (State.setRec_phys ..)

@[simp] theorem State.memWf_updQueue (s : State) (q : Nat) (f : GQueue → GQueue) : (s.updQueue q f).memWf ↔ s.memWf :=
  State.memWf_iff_of_phys (State.updQueue_phys ..)

@[simp] theorem State.memWf_updHost (s : State) (f : HostDie → HostDie) : (s.updHost f).memWf ↔ s.memWf :=
  State.memWf_iff_of_phys (State.updHost_phys ..)

@[simp] theorem State.memWf_tick (s : State)  : (s.tick).memWf ↔ s.memWf :=
  State.memWf_iff_of_phys (State.tick_phys ..)

@[simp] theorem State.memWf_advance (s : State) (d c : Nat) : (s.advance d c).memWf ↔ s.memWf :=
  State.memWf_iff_of_phys (State.advance_phys ..)

@[simp] theorem State.memWf_sendSpan (s : State) (m : SpanMsg) : (s.sendSpan m).memWf ↔ s.memWf :=
  State.memWf_iff_of_phys (State.sendSpan_phys ..)

@[simp] theorem State.memWf_ctlStore (s : State) (c : Ctl) (k n v : Nat) : (s.ctlStore c k n v).memWf ↔ s.memWf :=
  State.memWf_iff_of_phys (State.ctlStore_phys ..)

@[simp] theorem State.memWf_resumePage (s : State) (d no : Nat) : (s.resumePage d no).memWf ↔ s.memWf :=
  State.memWf_iff_of_phys (State.phys_resumePage ..)

@[simp] theorem State.memWf_updRelaxed (s : State) (f : Relaxed → Relaxed) : (s.updRelaxed f).memWf ↔ s.memWf :=
  State.memWf_iff_of_mem rfl

@[simp] theorem State.memWf_putHeads (s : State) (pa n : Nat) (l : List Head) : (s.putHeads pa n l).memWf ↔ s.memWf :=
  State.memWf_iff_of_mem (State.putHeads_mem ..)

@[simp] theorem State.memWf_updRec (s : State) (d n : Nat) (f : Rec → Rec) : (s.updRec d n f).memWf ↔ s.memWf := by
  unfold State.updRec; split <;> simp

@[simp] theorem State.memWf_rasBump (s : State) (d k : Nat) : (s.rasBump d k).memWf ↔ s.memWf := by simp [State.rasBump]

@[simp] theorem State.memWf_uecc (s : State) (pa : Nat) : (s.uecc pa).memWf ↔ s.memWf := by
  unfold State.uecc; split <;> simp

@[simp] theorem State.memWf_queueOrd (s : State) (q : Nat) (f : Ledger → Ledger) : (s.queueOrd q f).memWf ↔ s.memWf := by
  simp [State.queueOrd]

@[simp] theorem State.memWf_setReportOrd (s : State) (queue : Option Nat) (o : Ledger) :
    (s.setReportOrd queue o).memWf ↔ s.memWf := by
  cases queue <;> simp [State.setReportOrd]

@[simp] theorem State.memWf_awayWrite (s : State) (pa n : Nat) (l : List Head) : (s.awayWrite pa n l).memWf ↔ s.memWf := by
  simp [State.awayWrite]

@[simp] theorem State.memWf_awayRmw (s : State) (pa n : Nat) (l : List Head) : (s.awayRmw pa n l).memWf ↔ s.memWf := by
  simp [State.awayRmw]

@[simp] theorem State.memWf_note (s : State) (pa n : Nat) : (s.note pa n).memWf ↔ s.memWf := by simp [State.note]

@[simp] theorem State.memWf_scFence (s : State) (o : Ledger) (n : Nat) : (s.scFence o n).1.memWf ↔ s.memWf := by
  simp [State.scFence]

@[simp] theorem State.memWf_semRelease (s : State) (d t i : Nat) (l : List Head) : (s.semRelease d t i l).memWf ↔ s.memWf := by
  simp [State.semRelease]

@[simp] theorem State.memWf_writePa' {s : State} (h : s.memWf) (pa n v : Nat) : (s.writePa pa n v).memWf :=
  State.memWf_writePa h ..

@[simp] theorem State.memWf_writeAs' {s : State} (h : s.memWf) (o : Ledger) (pa n v : Nat) (heads : List Head) :
    (s.writeAs o pa n v heads).1.memWf := State.memWf_writeAs h ..

@[simp] theorem State.memWf_rmwAs {s : State} (h : s.memWf) (o : Ledger) (pa n v : Nat) (heads : List Head) :
    (s.rmwAs o pa n v heads).1.memWf := State.memWf_writeAs h ..

@[simp] theorem State.memWf_rmwPa {s : State} (h : s.memWf) (pa n v : Nat) : (s.rmwPa pa n v).memWf := by
  simp [State.rmwPa, h]

@[simp] theorem State.memWf_giveNow (s : State) (c : Ctx) (k : Nat) (p : Producer) : (s.giveNow c k p).1.memWf ↔ s.memWf := by
  unfold State.giveNow; extract_lets; split <;> simp

@[simp] theorem State.memWf_deliverSome (s : State) (sel : Producer → Bool) (n : Nat) (c : Ctx) :
    (s.deliverSome sel n c).1.memWf ↔ s.memWf := by
  induction n generalizing s c with
  | zero => rfl
  | succ n ih =>
    unfold State.deliverSome
    split
    · rfl
    · split
      · rfl
      · simp [ih]

@[simp] theorem State.memWf_deliverLocal (s : State) (n : Nat) (c : Ctx) : (s.deliverLocal n c).1.memWf ↔ s.memWf :=
  State.memWf_deliverSome ..

/-! ## Machine/Translate -/

@[simp] theorem State.memWf_setAccessed {s : State} (h : s.memWf) (epa : Nat) (setA : Bool) :
    (s.setAccessed epa setA).memWf := by
  simp [State.setAccessed, h]

@[simp] theorem State.memWf_resolveAny {s : State} (h : s.memWf) (d asid va : Nat) (k : Acc) :
    (s.resolveAny d asid va k).1.memWf := by
  unfold State.resolveAny
  repeat' split
  all_goals simp [h]

@[simp] theorem State.memWf_resolve {s : State} (h : s.memWf) (d asid va : Nat) (k : Acc) :
    (s.resolve d asid va k).1.memWf := by
  simp [State.resolve, h]

@[simp] theorem State.memWf_resolveKv {s : State} (h : s.memWf) (d asid va : Nat) (k : Acc) :
    (s.resolveKv d asid va k).1.memWf := by
  simp [State.resolveKv, h]

@[simp] theorem State.memWf_resolveEng {s : State} (h : s.memWf) (d asid va : Nat) (k : Acc) :
    (s.resolveEng d asid va k).1.memWf := by
  simp [State.resolveEng, h]

@[simp] theorem State.memWf_readVa {s : State} (h : s.memWf) (d asid va n : Nat) : (s.readVa d asid va n).1.memWf := by
  unfold State.readVa
  split <;> rename_i e <;> have ht := memWf_of_fst (State.memWf_resolve h ..) e
  · split <;> exact ht
  · exact ht

/-! ## Machine/Report -/

@[simp] theorem State.memWf_feResolve {s : State} (h : s.memWf) (asid va : Nat) (k : Acc) :
    (s.feResolve asid va k).1.memWf := by
  unfold State.feResolve
  repeat' split
  all_goals simp [h]

@[simp] theorem State.memWf_feRead {s : State} (h : s.memWf) (asid va n : Nat) : (s.feRead asid va n).1.memWf := by
  unfold State.feRead
  split <;> rename_i e <;> have ht := memWf_of_fst (State.memWf_feResolve h ..) e
  · split <;> exact ht
  · exact ht

@[simp] theorem State.memWf_feWrite {s : State} (h : s.memWf) (asid va n v : Nat) :
    (s.feWrite asid va n v).1.memWf := by
  unfold State.feWrite
  split <;> rename_i e <;> have ht := memWf_of_fst (State.memWf_feResolve h ..) e
  · split <;> simp [ht]
  · exact ht

@[simp] theorem State.memWf_ringDrop (s : State) (n : Nat) : (s.ringDrop n).memWf ↔ s.memWf := by simp [State.ringDrop]

@[simp] theorem State.memWf_recordWrite {s : State} (h : s.memWf) (queue : Option Nat) (asid va v : Nat) :
    (s.recordWrite queue asid va v).1.memWf := by
  unfold State.recordWrite
  split <;> rename_i e <;> have ht := memWf_of_fst (State.memWf_feResolve h ..) e
  · dsimp only
    split <;> simp [ht]
  · exact ht

@[simp] theorem State.memWf_ringPut {s : State} (h : s.memWf) (queue : Option Nat) (n : Nat) (r : BitVec 256) :
    (s.ringPut queue n r).memWf := by
  unfold State.ringPut
  dsimp only
  split
  · split <;> rename_i e <;> simp [memWf_of_fst (State.memWf_recordWrite h ..) e]
  · simp [h]

@[simp] theorem State.memWf_errTo {s : State} (h : s.memWf) (ring code asid die tile info0 info1 : Nat) :
    (s.errTo ring code asid die tile info0 info1).memWf := by
  simp [State.errTo, h]

@[simp] theorem State.memWf_err {s : State} (h : s.memWf) (queue : Option Nat) (code asid die tile info0 info1 : Nat) :
    (s.err queue code asid die tile info0 info1).memWf := by
  simp [State.err, h]

@[simp] theorem State.memWf_pageRequest {s : State} (h : s.memWf) (va asid kind die : Nat) :
    (s.pageRequest va asid kind die).1.memWf := by
  unfold State.pageRequest
  extract_lets page no s1 w1
  split
  · exact h
  · exact State.memWf_ringPut ((State.memWf_updHost ..).2 h) ..

/-! ## Machine/Contexts -/

@[simp] theorem State.memWf_setCtx {s : State} (h : s.memWf) (d n : Nat) (b : BitVec 512) : (s.setCtx d n b).memWf := by
  simp [State.setCtx, h]

@[simp] theorem State.memWf_ctxMiss {s : State} (h : s.memWf) (d n rot : Nat) : (s.ctxMiss d n rot).memWf := by
  simp [State.ctxMiss, h]

@[simp] theorem State.memWf_ctxReturn {s : State} (h : s.memWf) (d n : Nat) (b : BitVec 512) (due : Option
    (Nat × Pres)) (dueRot : Option Nat) :
    (s.ctxReturn d n b due dueRot).memWf := by
  unfold State.ctxReturn
  split <;> simp [h]

@[simp] theorem State.memWf_ctxLeave {s : State} (h : s.memWf) (d : Nat) (p : Pres) (t : SegTask) (n : Nat)
    (byNext wasSkip : Bool) :
    (s.ctxLeave d p t n byNext wasSkip).memWf := by
  simp [State.ctxLeave, h]

@[simp] theorem State.memWf_segTaskRetire {s : State} (h : s.memWf) (d k : Nat) : (s.segTaskRetire d k).memWf := by
  unfold State.segTaskRetire
  split
  · exact h
  · split
    · simp [h]
    · simp [State.memWf_foldl _ (fun s c hs => State.memWf_ctxLeave hs ..) _ h]

@[simp] theorem State.memWf_freeBuffers (s : State) (d t : Nat) : (s.freeBuffers d t).memWf ↔ s.memWf := by
  simp [State.freeBuffers]

@[simp] theorem State.memWf_saddleEnd {s : State} (h : s.memWf) (d k : Nat) : (s.saddleEnd d k).memWf := by
  unfold State.saddleEnd
  split
  · exact h
  · split
    · exact h
    · extract_lets s1 missed s2
      have h2 : s2.memWf := State.memWf_foldl _ (fun s c hs => State.memWf_ctxMiss hs ..) _ (by simpa [s1] using h)
      simp [h2]

@[simp] theorem State.memWf_checkSaddle {s : State} (h : s.memWf) (d k : Nat) : (s.checkSaddle d k).memWf := by
  unfold State.checkSaddle
  split <;> simp [h]

@[simp] theorem State.memWf_segBlockGone {s : State} (h : s.memWf) (d k uid : Nat) :
    (s.segBlockGone d k uid).memWf := by
  unfold State.segBlockGone
  split <;> simp [h]

/-! ## Machine/Life -/

@[simp] theorem State.memWf_checkRec (s : State) (d n : Nat) : (s.checkRec d n).memWf ↔ s.memWf := by
  unfold State.checkRec
  split <;> simp

@[simp] theorem State.memWf_checkReady (s : State) (d : Nat) : (s.checkReady d).memWf ↔ s.memWf := by
  simp [State.checkReady]

@[simp] theorem State.memWf_grantDec (s : State) (d t idx n : Nat) : (s.grantDec d t idx n).memWf ↔ s.memWf := by
  induction n generalizing s with
  | zero => rfl
  | succ n ih =>
    unfold State.grantDec
    extract_lets
    split
    · rfl
    · split <;> simp [ih]

@[simp] theorem State.memWf_semStep (s : State) (d t idx : Nat) (v : Word) : (s.semStep d t idx v).memWf ↔ s.memWf := by
  simp [State.semStep]

@[simp] theorem State.memWf_semAdd (s : State) (d t idx n : Nat) : (s.semAdd d t idx n).memWf ↔ s.memWf := by
  simp [State.semAdd]

@[simp] theorem State.memWf_setCohort (s : State) (d id : Nat) (c : Cohort) : (s.setCohort d id c).memWf ↔ s.memWf := by
  simp [State.setCohort]

@[simp] theorem State.memWf_cohortJoin (s : State) (d id u : Nat) : (s.cohortJoin d id u).memWf ↔ s.memWf := by
  simp [State.cohortJoin]

@[simp] theorem State.memWf_cohortLeave (s : State) (d u : Nat) : (s.cohortLeave d u).memWf ↔ s.memWf := by
  unfold State.cohortLeave
  split <;> simp

@[simp] theorem State.memWf_cohortArrive (s : State) (d id u : Nat) (view : List Know) :
    (s.cohortArrive d id u view).memWf ↔ s.memWf := by
  simp [State.cohortArrive]

@[simp] theorem State.memWf_tellCohort {s : State} (h : s.memWf) (u : Nat) : (s.tellCohort u).memWf := by
  unfold State.tellCohort
  repeat' split
  all_goals simp [h]

@[simp] theorem State.memWf_cohortComplete {s : State} (h : s.memWf) (d id : Nat) : (s.cohortComplete d id).memWf := by
  unfold State.cohortComplete
  extract_lets c next c' s1 s2
  have h2 : s2.memWf := State.memWf_foldl _ (fun s u hs => State.memWf_tellCohort hs u) _ (by simp [s1, h])
  simp [h2]

@[simp] theorem State.memWf_endLease (s : State) (d t u : Nat) : (s.endLease d t u).memWf ↔ s.memWf := by
  simp [State.endLease]

@[simp] theorem State.memWf_leaveSlot (s : State) (u : Nat) (i : Inst) : (s.leaveSlot u i).memWf ↔ s.memWf := by
  unfold State.leaveSlot
  split <;> simp

@[simp] theorem State.memWf_freeStack (s : State) (i : Inst) : (s.freeStack i).memWf ↔ s.memWf := by
  unfold State.freeStack
  split <;> simp

@[simp] theorem State.memWf_freeFrame (s : State) (i : Inst) : (s.freeFrame i).memWf ↔ s.memWf := by
  simp [State.freeFrame]

@[simp] theorem State.memWf_dropWaiter (s : State) (u : Nat) : (s.dropWaiter u).memWf ↔ s.memWf := by
  simp [State.dropWaiter]

@[simp] theorem State.memWf_forget (s : State) (u : Nat) (i : Inst) : (s.forget u i).memWf ↔ s.memWf := by
  simp [State.forget]

@[simp] theorem State.memWf_arenaRelease {s : State} (h : s.memWf) (d : Nat) (r : Rec) :
    (s.arenaRelease d r).memWf := by
  unfold State.arenaRelease
  split
  · split <;> rename_i e <;> simp [memWf_of_fst (State.memWf_resolve h ..) e]
  · exact h

@[simp] theorem State.memWf_packetRec (s : State) (r : Rec) (d n : Nat) : (s.packetRec r d n).memWf ↔ s.memWf := by
  unfold State.packetRec
  split <;> simp

@[simp] theorem State.memWf_lower {s : State} (h : s.memWf) (d n asid : Nat) (queue : Option Nat) :
    (s.lower d n asid queue).memWf := by
  unfold State.lower
  split <;> simp [h]

@[simp] theorem State.memWf_contRelease {s : State} (h : s.memWf) (d n asid : Nat) (queue : Option Nat) :
    (s.contRelease d n asid queue).memWf := by
  unfold State.contRelease
  extract_lets s1
  have h1 : s1.memWf := by simp [s1, h]
  split
  · exact h1
  · simp [h1]

@[simp] theorem State.memWf_carryOn (s : State) (d n : Nat) (r : Rec) : (s.carryOn d n r).memWf ↔ s.memWf := by
  simp [State.carryOn]

@[simp] theorem State.memWf_retireOne {s : State} (h : s.memWf) (d n : Nat) (r : Rec) : (s.retireOne d n r).memWf := by
  simp [State.retireOne, h]

@[simp] theorem State.memWf_retireChain {s : State} (h : s.memWf) (d k n : Nat) : (s.retireChain d k n).memWf := by
  induction k generalizing s n with
  | zero => exact h
  | succ k ih =>
    unfold State.retireChain
    split
    · exact h
    · rename_i r _
      extract_lets s1
      have h1 : s1.memWf := State.memWf_retireOne h d n r
      split
      · exact h
      · simp [h1, ih]

@[simp] theorem State.memWf_recRetire {s : State} (h : s.memWf) (d n : Nat) : (s.recRetire d n).memWf := by
  simp [State.recRetire, h]

@[simp] theorem State.memWf_gone {s : State} (h : s.memWf) (u : Nat) : (s.gone u).memWf := by
  unfold State.gone
  repeat' split
  all_goals simp [h]

@[simp] theorem State.memWf_postedLate (s : State) (i : Inst) : (s.postedLate i).memWf ↔ s.memWf := by
  unfold State.postedLate
  repeat' split
  all_goals simp

@[simp] theorem State.memWf_endInst {s : State} (h : s.memWf) (u : Nat) (cause : Word) (withRecord : Bool) :
    (s.endInst u cause withRecord).memWf := by
  unfold State.endInst
  split <;> simp [h]

@[simp] theorem State.memWf_squash (s : State) (u : Nat) (fut : Bool) : (s.squash u fut).memWf ↔ s.memWf := by
  unfold State.squash
  split <;> simp

/-! ## Machine/Ops -/

@[simp] theorem Cur.memWf_mapCtx (c : Cur) (f : Ctx → Ctx) : (c.mapCtx f).s.memWf ↔ c.s.memWf := by simp [Cur.mapCtx]

@[simp] theorem Cur.memWf_mapRegs (c : Cur) (f : Regs → Regs) : (c.mapRegs f).s.memWf ↔ c.s.memWf := by
  simp [Cur.mapRegs]

@[simp] theorem Cur.memWf_mapSched (c : Cur) (f : Sched → Sched) : (c.mapSched f).s.memWf ↔ c.s.memWf := by
  simp [Cur.mapSched]

@[simp] theorem Cur.memWf_mapS (c : Cur) (f : State → State) : (c.mapS f).s.memWf ↔ (f c.s).memWf := by
  unfold Cur.mapS; simp

@[simp] theorem Cur.memWf_save (c : Cur) : (c.save).memWf ↔ c.s.memWf := by simp [Cur.save]

theorem State.memWf_cur {s : State} {c : Cur} (h : s.memWf) (e : s.cur = some c) : c.s.memWf :=
  (State.cur_s e).symm ▸ h

@[simp] theorem State.memWf_prologueCancel {s : State} (h : s.memWf) (d u reason : Nat) :
    (s.prologueCancel d u reason).memWf := by
  unfold State.prologueCancel
  split <;> simp [h]

@[simp] theorem State.memWf_doubleFault {s : State} (h : s.memWf) (d q : Nat) : (s.doubleFault d q).memWf := by
  unfold State.doubleFault
  extract_lets x s1 s2
  have h2 : s2.memWf := by simp [s2, s1, h]
  split
  · exact State.memWf_endInst h2 ..
  · exact h2

@[simp] theorem State.memWf_takeTrap {c : Cur} (h : c.s.memWf) (code cls code16 : Nat) (epc tval : Word64) :
    (State.takeTrap c code cls code16 epc tval).memWf := by
  unfold State.takeTrap
  extract_lets c1 s1 d cause hd s2 s3 s4
  have h1 : s1.memWf := by simp [s1, c1, h]
  have h4 : s4.memWf := by simp [s4, s3, s2, h1]
  split
  · exact State.memWf_doubleFault ((State.memWf_updSeq ..).2 h1) ..
  · exact State.memWf_prologueCancel ((State.memWf_updSeq ..).2 h1) ..
  · split
    · exact State.memWf_endInst ((State.memWf_updSeq ..).2 h1) ..
    · exact (State.memWf_updSeq ..).2 h4

@[simp] theorem Cur.memWf_fallThrough (c : Cur) (len : Nat) : (c.fallThrough len).s.memWf ↔ c.s.memWf := by
  simp [Cur.fallThrough]

@[simp] theorem Cur.memWf_after (c : Cur) (n : Nat) : (c.after n).memWf ↔ c.s.memWf := by simp [Cur.after]

theorem Cur.memWf_finish {c : Cur} (h : c.s.memWf) (len : Nat) {e : Eff} (he : e.MemWf) :
    AnswersMemWf (c.finish len e) := by
  cases e <;> simp_all [Cur.finish, Eff.MemWf]

theorem memWf_issueLen {s : State} (h : s.memWf) (len : Nat) (pro hand : Bool) {f : Cur → Eff}
    (hf : ∀ c, c.s.memWf → (f c).MemWf) : AnswersMemWf (issueLen len pro hand s f) := by
  unfold issueLen
  split
  · trivial
  · rename_i c e
    have hc := State.memWf_cur h e
    split
    · simp [Cur.memWf_finish hc len (hf c hc), h]
    · simp [Cur.memWf_finish hc len (hf c hc), Cur.memWf_finish hc len (e := .trap 1 c.pc)]
    · exact Cur.memWf_finish hc len (hf c hc)

theorem memWf_issue {s : State} (h : s.memWf) (pro hand : Bool) {f : Cur → Eff} (hf : ∀ c, c.s.memWf → (f c).MemWf) :
    AnswersMemWf (issue pro hand s f) := memWf_issueLen h 8 pro hand hf

@[simp] theorem Cur.memWf_deliverAll (c : Cur) : (c.deliverAll).s.memWf ↔ c.s.memWf := by simp [Cur.deliverAll]
@[simp] theorem Cur.memWf_block (c : Cur) (w : Wait) : (c.block w).memWf ↔ c.s.memWf := by simp [Cur.block]

@[simp] theorem memWf_commitStall {c : Cur} (h : c.s.memWf) (e : Eff) :
    (commitStall c e).MemWf ↔ (c.i.ex.unconf = false → e.MemWf) := by
  cases u : c.i.ex.unconf <;> simp [commitStall, u, h]

@[simp] theorem Cur.memWf_commit (c : Cur) : (c.commit).s.memWf ↔ c.s.memWf := by simp [Cur.commit]
@[simp] theorem memWf_eccAbort (c : Cur) (pa : Nat) : (eccAbort c pa).MemWf ↔ c.s.memWf := by simp [eccAbort]

@[simp] theorem memWf_afterAcquire {c : Cur} (h : c.s.memWf) (k : Eff) :
    (afterAcquire c k).MemWf ↔ (c.i.ctx.acqOpen = false → k.MemWf) := by
  cases u : c.i.ctx.acqOpen <;> simp [afterAcquire, u, h]

@[simp] theorem memWf_access {c : Cur} (h : c.s.memWf) (va : Word64) (n : Nat) (k : Acc) (f : Nat → Eff) :
    (access c va n k f).MemWf ↔
      (va.toNat % n = 0 → ∀ pa, c.s.translate c.die c.asid va.toNat k = .ok pa → (f pa).MemWf) := by
  unfold access
  split
  · simp_all
  · split <;> simp_all

@[simp] theorem Cur.memWf_orderTaint (c : Cur) (t : Bool) : (c.orderTaint t).s.memWf ↔ c.s.memWf := by
  simp [Cur.orderTaint]

@[simp] theorem Cur.memWf_post (c : Cur) (va pa n v : Nat) (heads : List Head) :
    (c.post va pa n v heads).s.memWf ↔ c.s.memWf := by
  simp [Cur.post]

@[simp] theorem Cur.memWf_filtered (c : Cur) : (c.filtered).s.memWf ↔ c.s.memWf := by simp [Cur.filtered]

@[simp] theorem Cur.memWf_write {c : Cur} (h : c.s.memWf) (pa n v : Nat) (heads : List Head) :
    (c.write pa n v heads).s.memWf := by
  simp [Cur.write, h]

@[simp] theorem Cur.memWf_storeAs {c : Cur} (h : c.s.memWf) (va pa n v : Nat) (heads : List Head) :
    (c.storeAs va pa n v heads).s.memWf := by
  simp [Cur.storeAs, h]

@[simp] theorem Cur.memWf_rmw {c : Cur} (h : c.s.memWf) (pa n v : Nat) (heads : List Head) :
    (c.rmw pa n v heads).s.memWf := by
  simp [Cur.rmw, h]

@[simp] theorem Cur.memWf_mapOrd (c : Cur) (f : Ledger → Ledger) : (c.mapOrd f).s.memWf ↔ c.s.memWf := by
  simp [Cur.mapOrd]

@[simp] theorem Cur.memWf_reads (c : Cur) (pa n : Nat) (acq : Option Nat) : (c.reads pa n acq).s.memWf ↔ c.s.memWf := by
  simp [Cur.reads]

@[simp] theorem Cur.memWf_store {c : Cur} (h : c.s.memWf) (va pa n v : Nat) : (c.store va pa n v).s.memWf := by
  simp [Cur.store, h]

@[simp] theorem memWf_release {c : Cur} (h : c.s.memWf) (sys : Bool) {k : Cur → Eff} (hk : ∀ c, c.s.memWf → (k c).MemWf) :
    (release c sys k).MemWf := by
  simp [release, h, hk]

/-! ## Machine/Flags -/

@[simp] theorem memWf_guarded {c : Cur} (h : c.s.memWf) (g : Guard) (k : Eff) :
    (guarded c g k).MemWf ↔ (guardAt c.regs g 0 = true → k.MemWf) := by
  simp [guarded, h]

@[simp] theorem Cur.memWf_putPredPair (c : Cur) (j : Nat) (p0 p1 mask : Pred) (t : Bool) :
    (c.putPredPair j p0 p1 mask t).s.memWf ↔ c.s.memWf := by
  simp [Cur.putPredPair]

/-! ## Machine/Operands -/

@[simp] theorem memWf_withOps {c : Cur} (h : c.s.memWf) (ops : List Opnd) (k : List Word → Bool → (Cur → Cur) → Eff) :
    (withOps c ops k).MemWf ↔ ∀ l tk, c.regs.reads ops = .vals l tk →
      (k (l.map (·.1)) (l.any (·.2)) fun x => x.mapRegs fun r => r.eat tk).MemWf := by
  unfold withOps
  split <;> simp_all

@[simp] theorem memWf_withVecs {c : Cur} (h : c.s.memWf) (ops : List Opnd)
    (k : List VecReg → Bool → (Cur → Cur) → Eff) :
    (withVecs c ops k).MemWf ↔ ∀ l tk, c.regs.readsV ops = .vals l tk →
      (k (l.map (·.1)) (l.any (·.2)) fun x => x.mapRegs fun r => r.eatV tk).MemWf := by
  unfold withVecs
  split <;> simp_all

@[simp] theorem memWf_needRoom (c : Cur) (dst k : Nat) (e : Eff) :
    (needRoom c dst k e).MemWf ↔ (c.room dst k = true → e.MemWf) := by
  simp [needRoom]

@[simp] theorem memWf_needRoomV (c : Cur) (vd : Nat) (e : Eff) :
    (needRoomV c vd e).MemWf ↔ (c.roomV vd = true → e.MemWf) := by
  simp [needRoomV]

@[simp] theorem Cur.memWf_putS (c : Cur) (dst l : Nat) (v : Word) (t : Bool) :
    (c.putS dst l v t).s.memWf ↔ c.s.memWf := by
  simp [Cur.putS]

@[simp] theorem Cur.memWf_putPair (c : Cur) (dst l : Nat) (v : Word64) (t : Bool) :
    (c.putPair dst l v t).s.memWf ↔ c.s.memWf := by
  simp [Cur.putPair]

@[simp] theorem Cur.memWf_putV (c : Cur) (vd l : Nat) (v : VecReg) (mask : Pred) (t : Bool) :
    (c.putV vd l v mask t).s.memWf ↔ c.s.memWf := by
  simp [Cur.putV]

@[simp] theorem Cur.memWf_produceAs (c : Cur) (dst k : Nat) (src : ProdSrc) (taint acq ldc : Bool)
    (scope : Option Nat) (byTaint : Bool) :
    (c.produceAs dst k src taint acq ldc scope byTaint).s.memWf ↔ c.s.memWf := by
  simp [Cur.produceAs]

@[simp] theorem Cur.memWf_produce (c : Cur) (dst k : Nat) (src : ProdSrc) (taint acq ldc : Bool) :
    (c.produce dst k src taint acq ldc).s.memWf ↔ c.s.memWf := by
  simp [Cur.produce]

@[simp] theorem Cur.memWf_produceV (c : Cur) (vd : Nat) (src : ProdSrc) (taint byTaint : Bool) :
    (c.produceV vd src taint byTaint).s.memWf ↔ c.s.memWf := by
  simp [Cur.produceV]

theorem memWf_scalarOp {s : State} (h : s.memWf) (g : Guard) (ops : List Opnd) (dst lat : Nat) (f : List Word → Word) :
    AnswersMemWf (scalarOp s g ops dst lat f) :=
  memWf_issue h _ _ fun _ hc => by simp [hc]

theorem memWf_scalarR2 {s : State} (h : s.memWf) (g : Guard) (b : RBody) (lat : Nat) (f : Word → Word → Word) :
    AnswersMemWf (scalarR2 s g b lat f) := memWf_scalarOp h ..

theorem memWf_scalarR1 {s : State} (h : s.memWf) (g : Guard) (b : RBody) (lat : Nat) (f : Word → Word) :
    AnswersMemWf (scalarR1 s g b lat f) := memWf_scalarOp h ..

theorem memWf_scalarI {s : State} (h : s.memWf) (g : Guard) (b : IBody) (lat : Nat) (f : Word → Word → Word) :
    AnswersMemWf (scalarI s g b lat f) := memWf_scalarOp h ..

/-! ## Machine/Desc -/

@[simp] theorem State.memWf_tileWrite (s : State) (d t a n v : Nat) : (s.tileWrite d t a n v).memWf ↔ s.memWf := by
  simp [State.tileWrite]

@[simp] theorem State.memWf_addOobw {s : State} (h : s.memWf) (die asid pa n : Nat) :
    (s.addOobw die asid pa n).memWf := by
  simp [State.addOobw, h]

@[simp] theorem memWf_withDesc {c : Cur} (h : c.s.memWf) (hreg : Word) {k : Desc → Nat → Eff} (hk : ∀ d pa, (k d pa).MemWf) :
    (withDesc c hreg k).MemWf := by
  simp [withDesc, h, hk]

/-! ## Machine/Frames -/

@[simp] theorem State.memWf_drain (s : State) (d t u addr : Nat) : (s.drain d t u addr).1.memWf ↔ s.memWf := by
  simp [State.drain]

@[simp] theorem State.memWf_writeFields {s : State} (h : s.memWf) (pa : Nat) (l : List FrameField) :
    (s.writeFields pa l).memWf := State.memWf_foldl _ (fun _ _ hs => State.memWf_writePa hs ..) _ h

@[simp] theorem State.memWf_restoreRows (s : State) (d t acc0 : Nat) (rows : List Nat) :
    (s.restoreRows d t acc0 rows).memWf ↔ s.memWf := by
  simp [State.restoreRows]

@[simp] theorem State.memWf_noFrame (s : State) (u : Nat) (i : Inst) (cause : Nat) :
    (s.noFrame u i cause).memWf ↔ s.memWf := by
  simp [State.noFrame]

@[simp] theorem State.memWf_park {s : State} (h : s.memWf) (u : Nat) (dr : Bool) (cause : Nat) :
    (s.park u dr cause).memWf := by
  unfold State.park
  split
  · exact h
  · extract_lets d t sch need a x i1 s1 r s2
    have h2 : s2.memWf := by simp [s2, r, s1, x, h]
    split
    · simp [h]
    · simp [h, h2]

@[simp] theorem State.memWf_pagePark {s : State} (h : s.memWf) (u va asid kind : Nat) :
    (s.pagePark u va asid kind).memWf := by
  unfold State.pagePark
  split
  · exact h
  · extract_lets d r _ s1 s2
    have h2 : s2.memWf := State.memWf_park (by simp [s1, r, h]) ..
    split
    · exact h2
    · simp [h2]

@[simp] theorem Cur.memWf_pageWait {c : Cur} (h : c.s.memWf) (va asid kind : Nat) :
    (c.pageWait va asid kind).memWf := by
  simp [Cur.pageWait, h]

/-! ## Machine/Fetch -/

@[simp] theorem State.memWf_switchTo (s : State) (d q u : Nat) : (s.switchTo d q u).memWf ↔ s.memWf := by
  simp [State.switchTo]

@[simp] theorem Cur.memWf_joinStart {c : Cur} (h : c.s.memWf) : (c.joinStart).memWf := by simp [Cur.joinStart, h]

/-! ## Machine/Mem -/

@[simp] theorem Cur.memWf_ask (c : Cur) (va pa n op v : Nat) : (c.ask va pa n op v).s.memWf ↔ c.s.memWf := by
  simp [Cur.ask]

@[simp] theorem Cur.memWf_rmwAway (c : Cur) (pa n : Nat) (heads : List Head) :
    (c.rmwAway pa n heads).s.memWf ↔ c.s.memWf := by
  simp [Cur.rmwAway]

@[simp] theorem Cur.memWf_acquire (c : Cur) (n : Nat) : (c.acquire n).s.memWf ↔ c.s.memWf := by simp [Cur.acquire]
@[simp] theorem Cur.memWf_fenceSc (c : Cur) (n : Nat) : (c.fenceSc n).s.memWf ↔ c.s.memWf := by simp [Cur.fenceSc]
@[simp] theorem Cur.memWf_fenceIf (c : Cur) (m : MemSpec) : (c.fenceIf m).s.memWf ↔ c.s.memWf := by simp [Cur.fenceIf]

@[simp] theorem memWf_releaseIf {c : Cur} (h : c.s.memWf) (m : MemSpec) {k : Cur → Eff} (hk : ∀ c, c.s.memWf → (k c).MemWf) :
    (releaseIf c m k).MemWf := by
  simp [releaseIf, h, hk, memWf_release h _ hk]

@[simp] theorem memWf_storeStall {c : Cur} (h : c.s.memWf) (va n : Nat) {e : Eff} (he : e.MemWf) :
    (storeStall c va n e).MemWf := by
  simp [storeStall, h, he]

@[simp] theorem Cur.memWf_storeCommit (c : Cur) (va n : Nat) : (c.storeCommit va n).s.memWf ↔ c.s.memWf := by
  simp [Cur.storeCommit]

@[simp] theorem Cur.memWf_load (c : Cur) (va pa n : Nat) (form : LoadForm) :
    (c.load va pa n form).1.s.memWf ↔ c.s.memWf := by
  simp [Cur.load]

theorem memWf_plainLoad {s : State} (h : s.memWf) (g : Guard) (b : IBody) (n k : Nat) (form : LoadForm) (ldc : Bool) :
    AnswersMemWf (plainLoad g b n k form ldc s) :=
  memWf_issue h _ _ fun c hc => by simp [hc]

theorem memWf_plainStore {s : State} (h : s.memWf) (g : Guard) (b : IBody) (n : Nat) :
    AnswersMemWf (plainStore g b n s) :=
  memWf_issue h _ _ fun c hc => by simp [hc]

theorem memWf_execSt64 {s : State} (h : s.memWf) (g : Guard) (b : IBody) :
    AnswersMemWf (execSt64 g b s) :=
  memWf_issue h _ _ fun c hc => by simp [hc]

@[simp] theorem Cur.memWf_scLoad (c : Cur) (pa n n8 : Nat) (form : LoadForm) :
    (c.scLoad pa n n8 form).1.s.memWf ↔ c.s.memWf := by
  simp [Cur.scLoad]

theorem memWf_execLdOrdered {s : State} (h : s.memWf) (g : Guard) (b : RBody) (m : MemSpec) :
    AnswersMemWf (execLdOrdered g b m s) :=
  memWf_issue h _ _ fun c hc => by
    simp only [memWf_guarded hc, memWf_needRoom, memWf_afterAcquire hc, memWf_access hc]
    intros
    exact memWf_releaseIf (by simp [hc]) m fun c hc => by simp [hc]

theorem memWf_execStOrdered {s : State} (h : s.memWf) (g : Guard) (b : RBody) (m : MemSpec) :
    AnswersMemWf (execStOrdered g b m s) :=
  memWf_issue h _ _ fun c hc => by
    simp only [memWf_guarded hc, memWf_commitStall hc, memWf_withOps hc, memWf_afterAcquire hc, memWf_access hc]
    intros
    exact memWf_releaseIf (by simp [hc]) m fun c hc => by simp [hc]

theorem memWf_execFence {s : State} (h : s.memWf) (g : Guard) (_b : RBody) (m : MemSpec) :
    AnswersMemWf (execFence g _b m s) :=
  memWf_issue h _ _ fun c hc => by simp [hc]

theorem memWf_execPref {s : State} (h : s.memWf) (g : Guard) (b : IBody) : AnswersMemWf (execPref g b s) :=
  memWf_issue h _ _ fun c hc => by
    rw [memWf_guarded hc]
    intro
    split <;> simp [hc]

theorem memWf_atomicOp {s : State} (h : s.memWf) (g : Guard) (b : RBody) (m : MemSpec) (op : AtomOp) :
    AnswersMemWf (atomicOp g b m op s) :=
  memWf_issue h _ _ fun c hc => by
    simp only [memWf_guarded hc, memWf_commitStall hc, memWf_withOps hc, memWf_needRoom, memWf_afterAcquire hc,
      memWf_access hc]
    intros
    refine memWf_releaseIf (by simp [hc]) m fun c hc => Eff.memWf_of_ite ?_ (Eff.memWf_of_ite ?_ ?_)
    · simp [hc]
    · simp [hc]
    · generalize atomNew _ _ _ _ _ = r
      cases r <;> simp [hc]

theorem memWf_execLdt {s : State} (h : s.memWf) (g : Guard) (b : RBody) :
    AnswersMemWf (execLdt g b s) :=
  memWf_issue h _ _ fun c hc => by simp [hc]

@[simp] theorem memWf_sttStall {c : Cur} (h : c.s.memWf) (b : RBody) {e : Eff} (he : e.MemWf) :
    (sttStall c b e).MemWf := by
  simp [sttStall, h, he]

theorem memWf_execStt {s : State} (h : s.memWf) (g : Guard) (b : RBody) : AnswersMemWf (execStt g b s) :=
  memWf_issue h _ _ fun c hc => by
    rw [memWf_guarded hc]
    intro
    refine memWf_sttStall hc b ?_
    simp [hc]

@[simp] theorem memWf_laneAccess {c : Cur} (h : c.s.memWf) (k : Acc) (n : Nat) (l : List (Nat × Nat))
    {f : List (Nat × Nat × Nat) → Eff} (hf : ∀ r, (f r).MemWf) : (laneAccess c k n l f).MemWf := by
  induction l generalizing f with
  | nil => exact hf []
  | cons x t ih => simp [laneAccess, h, ih, hf]

@[simp] theorem memWf_askLanes (n : Nat) (l : List LaneSrc) (va : Nat → Nat) (c : Cur) :
    (askLanes n l va c).1.s.memWf ↔ c.s.memWf := by
  unfold askLanes
  refine List.foldlRecOn (motive := fun a : Cur × List LaneSrc => a.1.s.memWf ↔ c.s.memWf) _ _ Iff.rfl ?_
  intro a ha x _
  split
  · split <;> simp [ha]
  · exact ha

theorem memWf_vectorLoad {s : State} (h : s.memWf) (g : Guard) (b : VBody) (var : Nat) :
    AnswersMemWf (vectorLoad g b var s) :=
  memWf_issue h _ _ fun c hc => by simp [hc]

@[simp] theorem memWf_stvStall {c : Cur} (h : c.s.memWf) (b : VBody) (var : Nat) (mask : Pred) {e : Eff} (he : e.MemWf) :
    (stvStall c b var mask e).MemWf := by
  simp [stvStall, h, he]

theorem memWf_vectorStore {s : State} (h : s.memWf) (g : Guard) (b : VBody) (var : Nat) :
    AnswersMemWf (vectorStore g b var s) :=
  memWf_issue h _ _ fun c hc => by
    refine Eff.memWf_of_ite hc (memWf_stvStall hc _ _ _ ?_)
    simp only [memWf_withVecs hc, memWf_afterAcquire hc]
    intros
    refine memWf_withDesc hc _ fun d pd => Eff.memWf_of_ite trivial (Eff.memWf_of_ite ?_ (Eff.memWf_of_ite trivial ?_))
    · simp [hc]
    · refine memWf_laneAccess (by simp [hc]) _ _ _ fun l => ?_
      simp only [Eff.memWf_ok, Cur.memWf_mapRegs, Cur.memWf_mapS]
      exact State.memWf_addOobw (Cur.memWf_foldl _ (fun c e hc => Cur.memWf_store hc ..) _ (by simp [hc])) ..

@[simp] theorem State.memWf_setWaiters (s : State) (pa : Nat) (l : List Waiter) :
    (s.setWaiters pa l).memWf ↔ s.memWf := by
  unfold State.setWaiters
  split <;> simp

@[simp] theorem Cur.memWf_emptyFuture (c : Cur) (pa : Nat) (own : Bool) : (c.emptyFuture pa own).memWf ↔ c.s.memWf := by
  simp [Cur.emptyFuture]

theorem memWf_execRdf {s : State} (h : s.memWf) (g : Guard) (b : IBody) :
    AnswersMemWf (execRdf g b s) :=
  memWf_issue h _ _ fun c hc => by simp [hc]

@[simp] theorem State.memWf_wakeCell (s : State) (pa : Nat) (sel : Waiter → Bool) :
    (s.wakeCell pa sel).memWf ↔ s.memWf := by
  simp [State.wakeCell]

@[simp] theorem State.memWf_confirmDue (s : State) (pa : Nat) : (s.confirmDue pa).memWf ↔ s.memWf := by
  simp [State.confirmDue]

@[simp] theorem State.memWf_boundLower {s : State} (h : s.memWf) (pa v asid : Nat) (queue : Option Nat) :
    (s.boundLower pa v asid queue).memWf := by
  simp [State.boundLower, h]

theorem memWf_execFill {s : State} (h : s.memWf) (g : Guard) (b : RBody) : AnswersMemWf (execFill g b s) :=
  memWf_issue h _ _ fun c hc => by
    simp only [memWf_guarded hc, memWf_commitStall hc, memWf_withOps hc, memWf_afterAcquire hc, memWf_access hc]
    intros
    refine Eff.memWf_of_ite trivial (Eff.memWf_of_ite (by simp [hc]) (Eff.memWf_of_ite trivial ?_))
    exact memWf_release hc _ fun c hc => by simp [hc]

@[simp] theorem memWf_withRef (c : Cur) (r : Word) (e : Eff) :
    (withRef c r e).MemWf ↔ (c.s.refOk c.die c.asid r = true → e.MemWf) := by
  simp [withRef]

@[simp] theorem Cur.memWf_semAcquire (c : Cur) (r : Word) : (c.semAcquire r).s.memWf ↔ c.s.memWf := by
  simp [Cur.semAcquire]

@[simp] theorem Cur.memWf_semRelease (c : Cur) (r : Word) : (c.semRelease r).s.memWf ↔ c.s.memWf := by
  simp [Cur.semRelease]

theorem memWf_execWaits {s : State} (h : s.memWf) (g : Guard) (b : RBody) :
    AnswersMemWf (execWaits g b s) :=
  memWf_issue h _ _ fun c hc => by simp [hc]

theorem memWf_execWaitsDec {s : State} (h : s.memWf) (g : Guard) (b : RBody) :
    AnswersMemWf (execWaitsDec g b s) :=
  memWf_issue h _ _ fun c hc => by simp [hc]

theorem memWf_execSig {s : State} (h : s.memWf) (g : Guard) (b : RBody) :
    AnswersMemWf (execSig g b s) :=
  memWf_issue h _ _ fun c hc => by simp [hc]

theorem memWf_execSemset {s : State} (h : s.memWf) (g : Guard) (b : RBody) :
    AnswersMemWf (execSemset g b s) :=
  memWf_issue h _ _ fun c hc => by simp [hc]

theorem memWf_execSemrd {s : State} (h : s.memWf) (g : Guard) (b : RBody) :
    AnswersMemWf (execSemrd g b s) :=
  memWf_issue h _ _ fun c hc => by simp [hc]

theorem memWf_execQcnt {s : State} (h : s.memWf) (g : Guard) (b : RBody) :
    AnswersMemWf (execQcnt g b s) :=
  memWf_issue h _ _ fun c hc => by simp [hc]

theorem memWf_execQdrn {s : State} (h : s.memWf) (g : Guard) (b : RBody) :
    AnswersMemWf (execQdrn g b s) :=
  memWf_issue h _ _ fun c hc => by simp [hc]

@[simp] theorem State.memWf_askLease (s : State) (d t pos uid n : Nat) :
    (s.askLease d t pos uid n).memWf ↔ s.memWf := by
  simp [State.askLease]

theorem memWf_execLease {s : State} (h : s.memWf) (g : Guard) (b : RBody) :
    AnswersMemWf (execLease g b s) :=
  memWf_issue h _ _ fun c hc => by simp [hc]

theorem memWf_execUnlease {s : State} (h : s.memWf) (g : Guard) (_b : RBody) :
    AnswersMemWf (execUnlease g _b s) :=
  memWf_issue h _ _ fun c hc => by simp [hc]

theorem memWf_execChain {s : State} (h : s.memWf) (g : Guard) (b : RBody) :
    AnswersMemWf (execChain g b s) :=
  memWf_issue h _ _ fun c hc => by simp [hc]

/-! ## Machine/Commands -/

@[simp] theorem State.memWf_twinTagWrite (s : State) (die tile : Nat) (o : EngOp) (asid : Nat) (f : List Nat)
    (d : Desc) :
    (s.twinTagWrite die tile o asid f d).memWf ↔ s.memWf := by
  simp [State.twinTagWrite]

@[simp] theorem memWf_withDescs {c : Cur} (h : c.s.memWf) (l : List (Nat × Nat)) {k : List Desc → Eff}
    (hk : ∀ ds, (k ds).MemWf) : (withDescs c l k).MemWf := by
  induction l generalizing k with
  | nil => exact hk []
  | cons x t ih => simp [withDescs, h, ih, hk]

@[simp] theorem memWf_withScale {c : Cur} (h : c.s.memWf) (n : Nat) {k : Desc → Eff} (hk : ∀ d, (k d).MemWf) :
    (withScale c n k).MemWf := by
  unfold withScale
  split
  · exact hk _
  · exact memWf_withDescs h _ fun l => by simp [hk]

@[simp] theorem memWf_withPanel {c : Cur} (h : c.s.memWf) (o : EngOp) (f : List Nat) (ds : List Desc)
    {k : List Desc → Option PanelTag → Option Nat → Eff} (hk : ∀ ds tag p, (k ds tag p).MemWf) :
    (withPanel c o f ds k).MemWf := by
  unfold withPanel
  split
  · split
    · trivial
    · extract_lets a
      split
      · trivial
      · exact memWf_withScale h _ fun _ => memWf_withScale h _ fun _ => hk ..
  · exact hk ..

@[simp] theorem Cur.memWf_implicitLease (c : Cur) : (c.implicitLease).memWf ↔ c.s.memWf := by simp [Cur.implicitLease]

@[simp] theorem Cur.memWf_push (c : Cur) (o : EngOp) (cmd : Cmd) (d : Desc) : (c.push o cmd d).s.memWf ↔ c.s.memWf := by
  simp [Cur.push]

theorem memWf_pushOp {s : State} (h : s.memWf) (o : EngOp) (g : Guard) (b : CmdBody) : AnswersMemWf (pushOp o g b s) :=
  memWf_issueLen h _ _ _ fun c hc => by
    simp only [memWf_guarded hc, memWf_commitStall hc, memWf_withOps hc, memWf_afterAcquire hc]
    intros
    generalize (decide (o.eng = 0) && !c.leased) = p
    refine Eff.memWf_of_ite (by simp [hc]) (Eff.memWf_of_ite hc (Eff.memWf_of_ite trivial ?_))
    refine memWf_withDescs hc _ fun ds => ?_
    split
    · trivial
    · exact memWf_withPanel hc _ _ _ fun _ _ _ => memWf_release (by simp [hc]) _ fun c hc => by simp [hc]

/-! ## Machine/Tasks -/

@[simp] theorem State.memWf_enqueue (s : State) (d : Nat) (r : Image) : (s.enqueue d r).memWf ↔ s.memWf := by
  simp [State.enqueue]

@[simp] theorem memWf_launchRecord {c : Cur} (h : c.s.memWf) (va : Word64) (byP : Bool) (bits : BitVec 256) :
    (launchRecord va byP bits c).MemWf := by
  simp [launchRecord, h]

theorem memWf_launchOp {s : State} (h : s.memWf) (g : Guard) (b : IBody) (byP : Bool) :
    AnswersMemWf (launchOp g b byP s) :=
  memWf_issue h _ _ fun c hc => by
    rw [memWf_guarded hc]
    intro
    extract_lets va
    split <;> simp +zetaDelta [hc]

theorem memWf_execShape {s : State} (h : s.memWf) (g : Guard) (b : IBody) :
    AnswersMemWf (execShape g b s) :=
  memWf_issue h _ _ fun c hc => by simp [hc]

theorem State.memWf_poolTake {s t : State} {d asid page : Nat} (h : s.memWf) (e : s.poolTake d asid = some (t, page)) :
    t.memWf := by
  unfold State.poolTake at e
  simp only [Option.ite_none_left_eq_some, Option.some.injEq, Prod.mk.injEq] at e
  obtain ⟨_, rfl, _⟩ := e
  exact State.memWf_rmwPa h ..

@[simp] theorem State.memWf_poolGive {s : State} (h : s.memWf) (d asid page : Nat) :
    (s.poolGive d asid page).memWf := by
  simp [State.poolGive, h]

/-- The states that mapping pages gives have their memory in canonical form. -/
inductive Mapped.MemWf : Mapped → Prop where
  | ok {s : State} (h : s.memWf) : Mapped.MemWf (.ok s)
  | fault : Mapped.MemWf .fault
  | paged (va : Nat) : Mapped.MemWf (.paged va)
  | empty {s : State} (h : s.memWf) (va : Nat) : Mapped.MemWf (.empty s va)

theorem Mapped.memWf_of_ite {p : Prop} [Decidable p] {a b : Mapped} (ha : a.MemWf) (hb : b.MemWf) :
    (if p then a else b).MemWf := by
  split
  · exact ha
  · exact hb

theorem State.memWf_mapPages {s : State} (h : s.memWf) (d asid p n : Nat) : (s.mapPages d asid p n).MemWf := by
  induction n generalizing s p with
  | zero => exact .ok h
  | succ n ih =>
    rw [State.mapPages]
    cases s.level3 asid (65536 * p) with
    | none => exact .fault
    | some epa =>
      refine Mapped.memWf_of_ite (ih h _) (Mapped.memWf_of_ite (.paged _) ?_)
      cases taken : s.poolTake d asid with
      | none => exact .empty h _
      | some r => exact ih (by simp [State.memWf_zeroPa (State.memWf_poolTake h taken)]) _

theorem memWf_execRalloc {s : State} (h : s.memWf) (g : Guard) (b : RBody) : AnswersMemWf (execRalloc g b s) :=
  memWf_issue h _ _ fun c hc => by
    simp only [memWf_guarded hc, memWf_withOps hc, memWf_needRoom]
    intros
    refine Eff.memWf_of_ite trivial ?_
    generalize hr : c.s.mapPages _ _ _ _ = r
    have hm : r.MemWf := hr ▸ State.memWf_mapPages hc ..
    cases hm with
    | ok ht => simp [ht]
    | fault => trivial
    | paged va => simp [hc]
    | empty ht va => simp [ht]

theorem memWf_execJoin {s : State} (h : s.memWf) (g : Guard) (b : IBody) :
    AnswersMemWf (execJoin g b s) :=
  memWf_issue h _ _ fun c hc => by simp [hc]

theorem memWf_execLeave {s : State} (h : s.memWf) (g : Guard) (b : IBody) :
    AnswersMemWf (execLeave g b s) :=
  memWf_issue h _ _ fun c hc => by simp [hc]

theorem memWf_execCbar {s : State} (h : s.memWf) (g : Guard) (b : IBody) :
    AnswersMemWf (execCbar g b s) :=
  memWf_issue h _ _ fun c hc => by simp [hc]

theorem memWf_execRng {s : State} (h : s.memWf) (g : Guard) (b : IBody) :
    AnswersMemWf (execRng g b s) :=
  memWf_issue h _ _ fun c hc => by simp [hc]

theorem memWf_rngsetOp {s : State} (h : s.memWf) (g : Guard) (b : RBody) (split : Bool) :
    AnswersMemWf (rngsetOp g b split s) :=
  memWf_issue h _ _ fun c hc => by simp [hc]

theorem memWf_execRsub {s : State} (h : s.memWf) (g : Guard) (b : RBody) :
    AnswersMemWf (execRsub g b s) :=
  memWf_issue h _ _ fun c hc => by simp [hc]

@[simp] theorem State.memWf_segDone {s : State} (h : s.memWf) (d k uid : Nat) : (s.segDone d k uid).memWf := by
  unfold State.segDone
  split <;> simp [h]

theorem memWf_execSegdone {s : State} (h : s.memWf) (g : Guard) (b : IBody) : AnswersMemWf (execSegdone g b s) :=
  memWf_issue h _ _ fun c hc => by
    rw [memWf_guarded hc, memWf_commitStall hc]
    intro _ _
    split
    · trivial
    · simp [hc]

theorem memWf_execRtag {s : State} (h : s.memWf) (g : Guard) (b : IBody) :
    AnswersMemWf (execRtag g b s) :=
  memWf_issue h _ _ fun c hc => by simp [hc]

/-! ## Machine/Build -/

@[simp] theorem State.memWf_engSees (s : State) (pa n : Nat) : (s.engSees pa n).memWf ↔ s.memWf := by
  simp [State.engSees]

@[simp] theorem State.memWf_pageAsk {s : State} (h : s.memWf) (va asid die : Nat) : (s.pageAsk va asid die).memWf := by
  simp [State.pageAsk, h]

@[simp] theorem State.memWf_engDrop (s : State) : (s.engDrop).memWf ↔ s.memWf := by simp [State.engDrop]

@[simp] theorem State.memWf_engSend (s : State) (die : Nat) (c : Cmd) (pa va n op v : Nat) :
    (s.engSend die c pa va n op v).memWf ↔ s.memWf := by
  simp [State.engSend]

/-! ## Machine/Vector -/

theorem memWf_laneOp {s : State} (h : s.memWf) (g : Guard) (b : VBody) (ops : List Opnd) (sc : List Nat) (lat : Nat) (f : Cur → List VecReg → Nat → Word) :
    AnswersMemWf (laneOp s g b ops sc lat f) :=
  memWf_issue h _ _ fun c hc => by simp [hc]

theorem memWf_typed2 {s : State} (h : s.memWf) (g : Guard) (b : VBody) (f : Nat → Nat → Nat) :
    AnswersMemWf (typed2 s g b f) := memWf_laneOp h ..

theorem memWf_typed1 {s : State} (h : s.memWf) (g : Guard) (b : VBody) (f : Nat → Nat) :
    AnswersMemWf (typed1 s g b f) := memWf_laneOp h ..

theorem memWf_lane2 {s : State} (h : s.memWf) (g : Guard) (b : VBody) (f : Nat → Nat → Nat) :
    AnswersMemWf (lane2 s g b f) := memWf_laneOp h ..

theorem memWf_shiftOp {s : State} (h : s.memWf) (g : Guard) (b : VBody) (f : Nat → Nat → Nat) :
    AnswersMemWf (shiftOp s g b f) := memWf_laneOp h ..

theorem memWf_execVshl {s : State} (h : s.memWf) (g : Guard) (b : VBody) :
    AnswersMemWf (execVshl g b s) := memWf_shiftOp h ..

theorem memWf_execVshr {s : State} (h : s.memWf) (g : Guard) (b : VBody) :
    AnswersMemWf (execVshr g b s) := memWf_shiftOp h ..

theorem memWf_execVsra {s : State} (h : s.memWf) (g : Guard) (b : VBody) :
    AnswersMemWf (execVsra g b s) := memWf_shiftOp h ..

theorem memWf_execVcmp {s : State} (h : s.memWf) (g : Guard) (b : VBody) :
    AnswersMemWf (execVcmp g b s) :=
  memWf_issue h _ _ fun c hc => by simp [hc]

theorem memWf_transcOp {s : State} (h : s.memWf) (g : Guard) (b : VBody) (fn : Nat) :
    AnswersMemWf (transcOp s g b fn) := memWf_laneOp h ..

theorem memWf_execVred {s : State} (h : s.memWf) (g : Guard) (b : VBody) :
    AnswersMemWf (execVred g b s) :=
  memWf_issue h _ _ fun c hc => by simp [hc]

theorem memWf_execVscan {s : State} (h : s.memWf) (g : Guard) (b : VBody) :
    AnswersMemWf (execVscan g b s) :=
  memWf_issue h _ _ fun c hc => by simp [hc]

theorem memWf_execVmovX {s : State} (h : s.memWf) (g : Guard) (b : VBody) :
    AnswersMemWf (execVmovX g b s) :=
  memWf_issue h _ _ fun c hc => by simp [hc]

theorem memWf_execVmovI {s : State} (h : s.memWf) (g : Guard) (b : VBody) :
    AnswersMemWf (execVmovI g b s) :=
  memWf_issue h _ _ fun c hc => by simp [hc]

theorem memWf_execVsel {s : State} (h : s.memWf) (g : Guard) (b : VBody) :
    AnswersMemWf (execVsel g b s) :=
  memWf_issue h _ _ fun c hc => by simp [hc]

theorem memWf_execViotaP {s : State} (h : s.memWf) (g : Guard) (b : VBody) :
    AnswersMemWf (execViotaP g b s) :=
  memWf_issue h _ _ fun c hc => by simp [hc]

@[simp] theorem Cur.memWf_setStream (c : Cur) (k : Nat) (x : Stream) : (c.setStream k x).s.memWf ↔ c.s.memWf := by
  simp [Cur.setStream]

theorem memWf_execPushc {s : State} (h : s.memWf) (g : Guard) (b : VBody) :
    AnswersMemWf (execPushc g b s) :=
  memWf_issue h _ _ fun c hc => by simp [hc]

theorem memWf_execPopcV {s : State} (h : s.memWf) (g : Guard) (b : VBody) :
    AnswersMemWf (execPopcV g b s) :=
  memWf_issue h _ _ fun c hc => by simp [hc]

theorem memWf_execPopcD {s : State} (h : s.memWf) (g : Guard) (b : VBody) :
    AnswersMemWf (execPopcD g b s) :=
  memWf_issue h _ _ fun c hc => by simp [hc]

theorem memWf_execPopcClr {s : State} (h : s.memWf) (g : Guard) (b : VBody) :
    AnswersMemWf (execPopcClr g b s) :=
  memWf_issue h _ _ fun c hc => by simp [hc]

/-! ## Machine/Attend -/

@[simp] theorem State.memWf_seqPages (s : State) (att n : Nat) (f : Nat → Nat) :
    (s.seqPages att n f).memWf ↔ s.memWf := by
  simp [State.seqPages]

@[simp] theorem State.memWf_fillPa {s : State} (h : s.memWf) (b : Byte) (pa n : Nat) : (s.fillPa b pa n).memWf := by
  induction n generalizing s pa with
  | zero => exact h
  | succ n ih => exact ih (State.memWf_setByte h ..) _

@[simp] theorem State.memWf_writeBf {s : State} (h : s.memWf) (pa : Nat) (l : List Nat) : (s.writeBf pa l).memWf :=
  State.memWf_foldl _ (fun _ _ hs => State.memWf_writePa hs ..) _ h

@[simp] theorem State.memWf_rotKeys {s : State} (h : s.memWf) (q : SeqRec) (d : Int) (pa : Nat) :
    (s.rotKeys q d pa).memWf :=
  State.memWf_foldl _ (fun _ _ hs => State.memWf_writeBf hs ..) _ h

/-! ## Machine/Matrix -/

@[simp] theorem State.memWf_segReread (s : State) (die tile : Nat) (c : Cmd) :
    (s.segReread die tile c).memWf ↔ s.memWf := by
  simp [State.segReread]

/-! ## Machine/Engines -/

@[simp] theorem answersMemWf_notEnabled (n : String) : AnswersMemWf (notEnabled n) := trivial

/-! ## The engines' work -/

/-- The states that a part of a command's work gives have their memory in canonical form. -/
def Go.MemWf {α : Type} : Go α → Prop
  | .ok s _ => s.memWf
  | .wait s _ => s.memWf
  | .err s _ => s.memWf
  | .noMem _ => True

@[simp] theorem Go.memWf_ok {α : Type} (s : State) (a : α) : (Go.ok s a).MemWf ↔ s.memWf := Iff.rfl
theorem Go.memWf_ok_of {α : Type} {s : State} (h : s.memWf) (a : α) : (Go.ok s a).MemWf := h
@[simp] theorem Go.memWf_wait {α : Type} (s : State) (va : Nat) : (Go.wait s va : Go α).MemWf ↔ s.memWf := Iff.rfl
@[simp] theorem Go.memWf_err {α : Type} (s : State) (code : Nat) : (Go.err s code : Go α).MemWf ↔ s.memWf := Iff.rfl
@[simp] theorem Go.memWf_noMem {α : Type} (pa : Nat) : (Go.noMem pa : Go α).MemWf := trivial

@[simp] theorem Go.memWf_ite {α : Type} (p : Prop) [Decidable p] (a b : Go α) :
    (if p then a else b).MemWf ↔ if p then a.MemWf else b.MemWf := by split <;> rfl

@[simp] theorem Go.memWf_bind {α β : Type} {g : Go α} {f : State → α → Go β} (hg : g.MemWf)
    (hf : ∀ s a, s.memWf → (f s a).MemWf) : (g.bind f).MemWf := by
  cases g with
  | ok s a => exact hf s a hg
  | wait s va => exact hg
  | err s code => exact hg
  | noMem pa => trivial

/-- Both branches of a test go on. -/
theorem Go.memWf_of_ite {α : Type} {p : Prop} [Decidable p] {a b : Go α} (ha : a.MemWf) (hb : b.MemWf) :
    (if p then a else b).MemWf := by split <;> assumption

theorem Go.memWf_of_fst {α β : Type} {p : Go α × β} {g : Go α} {x : β} (e : p = (g, x)) (h : p.1.MemWf) : g.MemWf := by
  subst e; exact h

section
variable {s : State} (h : s.memWf)
include h

@[simp] theorem State.memWf_engAt (die asid va : Nat) (k : Acc) : (s.engAt die asid va k).MemWf := by
  have hr := State.memWf_resolveEng h die asid va k
  unfold State.engAt
  split <;> rename_i e <;> simp_all

@[simp] theorem State.memWf_engLoad (die asid va n : Nat) : (s.engLoad die asid va n).MemWf :=
  Go.memWf_bind (State.memWf_engAt h ..) fun s pa hs => by simp [hs]

@[simp] theorem State.memWf_engRead (die tile asid : Nat) (d : Desc) (x : List Int) : (s.engRead die tile asid d x).MemWf := by
  simp [State.engRead, h]

@[simp] theorem State.memWf_engOob (die asid : Nat) (d : Desc) (n : Nat) : (s.engOob die asid d n).MemWf :=
  Go.memWf_bind (State.memWf_engAt h ..) fun _ _ hs => State.memWf_addOobw hs ..

@[simp] theorem State.memWf_engWrite (die tile : Nat) (c : Cmd) (d : Desc) (x : List Int) (v : Nat) :
    (s.engWrite die tile c d x v).MemWf := by
  unfold State.engWrite
  split
  · exact State.memWf_engOob h ..
  · split
    · simp [h]
    · exact Go.memWf_bind (State.memWf_engAt h ..) fun s pa hs => by simp [hs]

@[simp] theorem State.memWf_engRmw (die tile : Nat) (c : Cmd) (d : Desc) (x : List Int) (operand : Nat) (f : Nat → Nat) :
    (s.engRmw die tile c d x operand f).MemWf := by
  unfold State.engRmw
  split
  · exact Go.memWf_bind (State.memWf_engRead h ..) fun s old hs => by simp [hs]
  · exact Go.memWf_bind (State.memWf_engAt h ..) fun s pa hs => by simp [hs]

@[simp] theorem State.memWf_engDesc (die tile asid hd : Nat) : (s.engDesc die tile asid hd).MemWf := by
  unfold State.engDesc
  split
  · exact h
  · exact Go.memWf_bind (State.memWf_engLoad h ..) fun s v hs => by simp [hs]

@[simp] theorem State.memWf_engDescs (die asid : Nat) (l : List (Nat × Nat)) : (s.engDescs die asid l).MemWf := by
  induction l generalizing s with
  | nil => exact h
  | cons x rest ih =>
    exact Go.memWf_bind (State.memWf_engDesc h ..) fun s d hs => Go.memWf_bind (ih hs) fun s l hs => hs

@[simp] theorem State.memWf_engScale (die tile asid hd : Nat) : (s.engScale die tile asid hd).MemWf := by
  unfold State.engScale
  split
  · exact h
  · exact Go.memWf_bind (State.memWf_engDesc h ..) fun s d hs => by simp [hs]

@[simp] theorem State.memWf_buildCmd (die tile : Nat) (o : EngOp) (g : Guard) (b : CmdBody) (f : List Nat)
    (seg : Option Nat × Bool) (kept : Option Nat) (view : List Know) (w : Pusher) :
    (s.buildCmd die tile o g b f seg kept view w).MemWf := by
  unfold State.buildCmd
  extract_lets done
  split
  · exact h
  · refine Go.memWf_bind (State.memWf_engDescs h ..) fun s ds hs => ?_
    split
    · exact hs
    · split
      · exact hs
      · extract_lets p
        generalize p = p
        cases p with
        | none => exact hs
        | some p =>
          dsimp only
          split
          · exact hs
          · exact Go.memWf_bind (State.memWf_engScale hs ..) fun s sa hs =>
              Go.memWf_bind (State.memWf_engScale hs ..) fun s sb hs => hs

@[simp] theorem memWf_runUnits {f : State → Nat → Go (Option Nat)} (hf : ∀ s k, s.memWf → (f s k).MemWf) (n k : Nat)
    (l : List Nat) : (runUnits f n k l s).1.MemWf := by
  induction n generalizing s k l with
  | zero => exact h
  | succ n ih =>
    have hk := hf s k h
    unfold runUnits
    split <;> rename_i e <;> rw [e] at hk
    · exact ih hk ..
    all_goals exact hk

@[simp] theorem memWf_readRun {rd : State → Nat → Go Nat} (hr : ∀ s k, s.memWf → (rd s k).MemWf) (n k : Nat)
    (l : List Nat) : (readRun rd n k l s).1.MemWf := by
  induction n generalizing s k l with
  | zero => exact h
  | succ n ih =>
    have hk := hr s k h
    unfold readRun
    split <;> rename_i e <;> rw [e] at hk
    · exact ih hk ..
    all_goals exact hk

@[simp] theorem memWf_foldGo {α : Type} {f : State → α → Go Unit} (hf : ∀ s a, s.memWf → (f s a).MemWf) (l : List α) :
    (foldGo f l s).MemWf := by
  induction l generalizing s with
  | nil => exact h
  | cons a t ih => exact Go.memWf_bind (hf s a h) fun s _ hs => ih hs

@[simp] theorem memWf_readList {rd : State → Nat → Go Nat} (hr : ∀ s k, s.memWf → (rd s k).MemWf) (n i : Nat) :
    (readList rd n i s).MemWf := by
  induction n generalizing s i with
  | zero => exact h
  | succ n ih => exact Go.memWf_bind (hr s i h) fun s v hs => Go.memWf_bind (ih hs _) fun s l hs => hs

/-! ## Sequences and attention -/

@[simp] theorem State.memWf_seqRead (att asid va n dflt j : Nat) : (s.seqRead att asid va n dflt j).MemWf := by
  have hr := State.memWf_resolveKv h att asid va .read
  unfold State.seqRead
  split <;> rename_i e <;> simp_all

@[simp] theorem State.memWf_seqAt (att asid va : Nat) : (s.seqAt att asid va).MemWf := by
  have hr := State.memWf_resolveKv h att asid va .write
  unfold State.seqAt
  split <;> rename_i e <;> simp_all

@[simp] theorem State.memWf_seqGrow (att asid n va : Nat) (fill : Byte) (j : Nat) :
    (s.seqGrow att asid n va fill j).MemWf := by
  have hr := State.memWf_resolveKv h att asid va .write
  unfold State.seqGrow
  -- The size of a page stays opaque, so that no tactic counts its bytes.
  generalize 65536 = size
  split <;> rename_i e <;> have ht := memWf_of_fst hr e
  · exact ht
  · exact ht
  · exact ht
  · trivial
  · split
    · exact ht
    · refine Go.memWf_of_ite ?_ ?_
      · exact ht
      · generalize hp : State.poolTake _ att asid = r
        cases r with
        | none => exact State.memWf_pageRequest ht ..
        | some p =>
          have hu := State.memWf_poolTake ht (page := p.2) hp
          have hz := State.memWf_zeroPa hu p.2 size
          refine State.memWf_seqAt ((State.memWf_seqPages ..).2 (State.memWf_writePa ?_ ..)) ..
          simp [hz]
  · exact ht

@[simp] theorem State.memWf_kvappUnit (die tile att : Nat) (c : Cmd) (q : SeqRec) (t : Nat) :
    (s.kvappUnit die tile att c q t).MemWf := by
  unfold State.kvappUnit
  extract_lets j pos l elems
  have he : ∀ d hd s, s.memWf → (elems d hd s).MemWf := fun d hd s hs =>
    memWf_readList hs (fun s i hs => State.memWf_engRead hs ..) ..
  refine Go.memWf_bind (memWf_readList h (fun s i hs => Go.memWf_bind (he _ i s hs) fun _ _ ht => Go.memWf_ok_of ht _) ..) fun s ks hs => ?_
  refine Go.memWf_bind (memWf_readList hs (fun s i hs => Go.memWf_bind (he _ i s hs) fun _ _ ht => Go.memWf_ok_of ht _) ..) fun s vs hs => ?_
  refine Go.memWf_bind (State.memWf_seqGrow hs ..) fun s pa hs => Go.memWf_bind (State.memWf_seqGrow hs ..) fun s pp hs => ?_
  exact State.memWf_writePa (State.memWf_foldl _ (fun s p hs => State.memWf_writePa hs ..) _
    (State.memWf_foldl _ (fun s p hs => State.memWf_writePa hs ..) _ hs)) ..

@[simp] theorem State.memWf_rotPlaces (att asid : Nat) (q : SeqRec) (j n l : Nat) : (s.rotPlaces att asid q j n l).MemWf := by
  induction n generalizing s l with
  | zero => exact h
  | succ n ih =>
    unfold State.rotPlaces
    split <;> rename_i e <;> have ht := memWf_of_fst (State.memWf_resolveKv h ..) e
    · refine Go.memWf_of_ite ?_ ?_
      · exact (State.memWf_uecc ..).2 ht
      · exact Go.memWf_bind (ih ht _) fun s t hs => hs
    · exact ih ht _
    · exact ht
    · exact ht
    · trivial
    · exact ht

@[simp] theorem State.memWf_kvrotUnit (att : Nat) (c : Cmd) (q : SeqRec) (k : Nat) : (s.kvrotUnit att c q k).MemWf := by
  unfold State.kvrotUnit
  extract_lets j d
  refine Go.memWf_bind (State.memWf_seqRead h ..) fun s pos hs => ?_
  split
  · exact hs
  · extract_lets np
    split
    · exact hs
    · exact Go.memWf_bind (State.memWf_seqAt hs ..) fun s pp hs => Go.memWf_bind (State.memWf_rotPlaces hs ..) fun s l hs =>
        State.memWf_writePa (State.memWf_foldl _ (fun s pa hs => State.memWf_rotKeys hs ..) _ hs) ..

@[simp] theorem State.memWf_seqFree (att asid n va : Nat) : (s.seqFree att asid n va).MemWf := by
  unfold State.seqFree
  split
  · exact h
  · split
    · exact h
    · simp [h]

@[simp] theorem State.memWf_kvevictUnit (att : Nat) (c : Cmd) (q : SeqRec) (k : Nat) : (s.kvevictUnit att c q k).MemWf := by
  unfold State.kvevictUnit
  extract_lets j0 j1
  split
  · have hr := State.memWf_resolveKv h att c.asid (q.posVa (j0 + k)) .write
    split <;> rename_i e <;> simp_all
  · split
    · exact h
    · exact Go.memWf_bind (memWf_foldGo h (fun s va hs => State.memWf_seqFree hs ..) _) fun s _ hs => hs

@[simp] theorem State.memWf_attnSlot (att : Nat) (c : Cmd) (q : SeqRec) (j : Nat) : (s.attnSlot att c q j).MemWf := by
  refine Go.memWf_bind (State.memWf_seqRead h ..) fun s pos hs => ?_
  split
  · exact hs
  · exact Go.memWf_bind (State.memWf_seqRead hs ..) fun s v hs => hs

@[simp] theorem State.memWf_attnUnit (die tile : Nat) (c : Cmd) (q : SeqRec) (slots : List Nat) (k : Nat) :
    (s.attnUnit die tile c q slots k).MemWf := by
  refine Go.memWf_bind (memWf_readList h (fun s i hs => State.memWf_engRead hs ..) ..) fun s qr hs => ?_
  exact Go.memWf_bind (memWf_readList hs (fun s i hs => Go.memWf_bind (State.memWf_engWrite hs ..) fun _ _ ht => Go.memWf_ok_of ht _) ..)
    fun s _ hs => hs

/-! ## Copies and scatters -/

@[simp] theorem State.memWf_tcopyUnit (die tile : Nat) (c : Cmd) (k : Nat) : (s.tcopyUnit die tile c k).MemWf :=
  Go.memWf_bind (State.memWf_engRead h ..) fun _ _ hs => State.memWf_engWrite hs ..

@[simp] theorem State.memWf_tfillUnit (die tile : Nat) (c : Cmd) (k : Nat) : (s.tfillUnit die tile c k).MemWf :=
  State.memWf_engWrite h ..

@[simp] theorem State.memWf_twinUnit (die tile : Nat) (c : Cmd) (k : Nat) : (s.twinUnit die tile c k).MemWf := by
  unfold State.twinUnit
  extract_lets src n row key put
  have hp : ∀ s v, s.memWf → (put s v).MemWf := fun s v hs => by simp [put, hs]
  split
  · exact Go.memWf_bind (State.memWf_engRead h ..) fun s v hs => hp s v hs
  · exact hp s 0 h

@[simp] theorem State.memWf_castRead (die tile : Nat) (c : Cmd) (data : List Nat) : (s.castRead die tile c data).1.MemWf :=
  memWf_readRun h (fun _ _ hs => State.memWf_engRead hs ..) ..

@[simp] theorem State.memWf_castGranule (die tile : Nat) (c : Cmd) (data : List Nat) (r g i : Nat) :
    (s.castGranule die tile c data r g i).1.MemWf :=
  memWf_runUnits h (fun _ _ hs => State.memWf_engWrite hs ..) ..

@[simp] theorem State.memWf_scatIdx (die tile : Nat) (c : Cmd) (w : Nat) (data : List Nat) :
    (s.scatIdx die tile c w data).1.MemWf :=
  memWf_readRun h (fun _ _ hs => State.memWf_engRead hs ..) ..

@[simp] theorem State.memWf_scatMerge (die tile : Nat) (c : Cmd) (col : Nat) (l : List Nat) (v : Option Nat) :
    (s.scatMerge die tile c col l v).MemWf := by
  induction l generalizing s v with
  | nil => exact h
  | cons e t ih => exact Go.memWf_bind (State.memWf_engRead h ..) fun s x hs => ih hs _

@[simp] theorem State.memWf_scatUnit (die tile : Nat) (c : Cmd) (u : Int × List Nat × Option Nat) :
    (s.scatUnit die tile c u).MemWf := by
  unfold State.scatUnit
  extract_lets dst
  split
  · simp [h]
  · extract_lets x
    split
    · simp [h]
    · exact Go.memWf_bind (State.memWf_scatMerge h ..) fun s v hs => State.memWf_engRmw hs ..

@[simp] theorem State.memWf_scatRun (die tile : Nat) (c : Cmd) (lim n w k : Nat) (dat l : List Nat) :
    (s.scatRun die tile c lim n w k dat l).1.MemWf := by
  induction n generalizing s w k dat l with
  | zero => exact h
  | succ n ih =>
    unfold State.scatRun
    split <;> rename_i e <;> have hi := Go.memWf_of_fst e (State.memWf_scatIdx h ..)
    · extract_lets us
      split <;> rename_i e <;> have ht := Go.memWf_of_fst e (memWf_runUnits hi (fun s i hs => by split <;> simp [hs]) ..)
      · split
        · exact ht
        · exact ih ht ..
      · exact ht
    · exact hi

/-! ## The matrix engine -/

@[simp] theorem State.memWf_scaleAt (die tile asid : Nat) (d : Desc) (sbw : Nat) (k j : Int) :
    (s.scaleAt die tile asid d sbw k j).MemWf := by
  unfold State.scaleAt
  split
  · exact h
  · exact Go.memWf_bind (State.memWf_engRead h ..) fun s v hs => hs

@[simp] theorem State.memWf_scalesAt (die tile asid : Nat) (d : Desc) (sbw : Nat) (k : Int) (n : Nat) (j : Int) :
    (s.scalesAt die tile asid d sbw k n j).MemWf := by
  induction n generalizing s j with
  | zero => exact h
  | succ n ih => exact Go.memWf_bind (State.memWf_scaleAt h ..) fun s v hs => Go.memWf_bind (ih hs _) fun s l hs => hs

@[simp] theorem State.memWf_kStep (die tile : Nat) (c : Cmd) (g : Nat) : (s.kStep die tile c g).MemWf := by
  unfold State.kStep
  extract_lets a kg lo hi dup up fresh s1 s2 s3 row0
  have h2 : s2.memWf := by simp [s2, s1, h]
  have h3 : s3.memWf := by simp [s3, h2]
  refine Go.memWf_of_ite ?_ (Go.memWf_of_ite h2 ?_)
  · simp [h]
  · split
    · exact h3
    · refine Go.memWf_bind (State.memWf_scalesAt h3 ..) fun s sas hs => ?_
      exact Go.memWf_bind (State.memWf_scalesAt hs ..) fun s sbs hs => (State.memWf_updTile ..).2 hs

@[simp] theorem State.memWf_kSteps (die tile : Nat) (c : Cmd) (n g : Nat) : (s.kSteps die tile c n g).1.MemWf := by
  induction n generalizing s g with
  | zero => exact h
  | succ n ih =>
    have hk := State.memWf_kStep h die tile c g
    unfold State.kSteps
    split
    · exact h
    · split <;> rename_i e <;> rw [e] at hk
      · exact ih hk _
      all_goals exact hk

@[simp] theorem State.memWf_xldUnit (die tile : Nat) (c : Cmd) (k : Nat) : (s.xldUnit die tile c k).MemWf :=
  Go.memWf_bind (State.memWf_engRead h ..) fun _ _ hs => State.memWf_engWrite hs ..

@[simp] theorem State.memWf_accrdUnit (die tile : Nat) (c : Cmd) (k : Nat) : (s.accrdUnit die tile c k).MemWf := by
  unfold State.accrdUnit
  extract_lets t dst
  split
  · simp [h]
  · exact Go.memWf_bind (State.memWf_engWrite h ..) fun s m hs => by simp [hs]

@[simp] theorem State.memWf_accldUnit (die tile : Nat) (c : Cmd) (k : Nat) : (s.accldUnit die tile c k).MemWf :=
  Go.memWf_bind (State.memWf_engRead h ..) fun _ _ hs => (State.memWf_updTile ..).2 hs

end

@[simp] theorem State.memWf_touchAllocs (s : State) (die tile : Nat) (c : Cmd) (f : Alloc → Alloc) :
    (s.touchAllocs die tile c f).memWf ↔ s.memWf := by
  simp [State.touchAllocs]

@[simp] theorem State.memWf_updChain (s : State) (die tile n : Nat) (f : Chain → Chain) :
    (s.updChain die tile n f).memWf ↔ s.memWf := by
  simp [State.updChain]

@[simp] theorem State.memWf_cmdSignal (s : State) (die tile : Nat) (c : Cmd) :
    (s.cmdSignal die tile c).memWf ↔ s.memWf := by
  simp [State.cmdSignal]

@[simp] theorem State.memWf_unmet (s : State) : (s.unmet).memWf ↔ s.memWf := by simp [State.unmet]

@[simp] theorem State.memWf_cmdDone (s : State) (die tile : Nat) (c : Cmd) :
    (s.cmdDone die tile c).memWf ↔ s.memWf := by
  unfold State.cmdDone
  split <;> simp

@[simp] theorem State.memWf_cmdError {s : State} (h : s.memWf) (die tile : Nat) (c : Cmd) (code : Nat) :
    (s.cmdError die tile c code).memWf := by
  unfold State.cmdError
  split <;> simp [h]

@[simp] theorem State.memWf_cmdUnits {s : State} (h : s.memWf) (die tile : Nat) (r : Running) (lim : Nat) :
    (s.cmdUnits die tile r lim).1.MemWf := by
  unfold State.cmdUnits
  extract_lets c att q units _ _ n x
  have hu : ∀ n f, (∀ s k, s.memWf → (f s k).MemWf) → (units n f).1.MemWf := fun n f hf => memWf_runUnits h hf ..
  cases c.op with
  | mma => exact State.memWf_kSteps h ..
  | xld => exact hu _ _ fun s k hs => State.memWf_xldUnit hs ..
  | accrd => exact hu _ _ fun s k hs => State.memWf_accrdUnit hs ..
  | accld => exact hu _ _ fun s k hs => State.memWf_accldUnit hs ..
  | tcopy => exact hu _ _ fun s k hs => State.memWf_tcopyUnit hs ..
  | tfill => exact hu _ _ fun s k hs => State.memWf_tfillUnit hs ..
  | twin => exact hu _ _ fun s k hs => State.memWf_twinUnit hs ..
  | tmcast => exact Go.memWf_of_ite h h
  | scat => exact State.memWf_scatRun h ..
  | attn =>
    dsimp only
    have hx : x.1.MemWf := memWf_readRun h (fun s k hs => State.memWf_attnSlot hs ..) ..
    split
    · rename_i t e
      have ht : t.memWf := by rw [e] at hx; exact hx
      split
      · exact ht
      · exact memWf_runUnits ht (fun s k hs => State.memWf_attnUnit hs ..) ..
    · exact hx
  | kvapp => exact hu _ _ fun s k hs => State.memWf_kvappUnit hs ..
  | kvrot => exact hu _ _ fun s k hs => State.memWf_kvrotUnit hs ..
  | kvevict => exact hu _ _ fun s k hs => State.memWf_kvevictUnit hs ..

@[simp] theorem State.memWf_runCmd {s : State} (h : s.memWf) (die tile : Nat) (r : Running) (lim : Nat) :
    (s.runCmd die tile r lim).1.MemWf := by
  have hx := State.memWf_cmdUnits ((State.memWf_unmet s).2 h) die tile r lim
  unfold State.runCmd
  extract_lets x
  split <;> exact hx

@[simp] theorem State.memWf_cmdWork {s : State} (h : s.memWf) (die tile : Nat) (r : Running) (lim : Nat) (event : String)
    {fin : State → Running → State} (hf : ∀ s r, s.memWf → (fin s r).memWf) :
    AnswersMemWf (s.cmdWork die tile r lim event fin) := by
  have hx := State.memWf_runCmd h die tile r lim
  unfold State.cmdWork
  split
  · trivial
  · extract_lets x
    change x.1.MemWf at hx
    split <;> rename_i e <;> rw [e] at hx
    · exact hf _ _ hx
    · simpa using hx
    · exact answersMemWf_of_ite trivial (State.memWf_cmdError ((State.memWf_updEng ..).2 hx) ..)
    · trivial

theorem memWf_execEngineCommandComplete {s : State} (h : s.memWf) (die tile eng idx : Nat) :
    AnswersMemWf (execEngineCommandComplete die tile eng idx s) := by
  unfold execEngineCommandComplete
  split
  · trivial
  · exact State.memWf_cmdWork h _ _ _ _ _ fun s x hs => by simp [hs]

theorem State.memWf_units {s : State} (h : s.memWf) (die tile no lim : Nat) :
    AnswersMemWf (s.units die tile no lim) := by
  unfold State.units
  split
  · trivial
  · exact State.memWf_cmdWork h _ _ _ _ _ fun s x hs => by simp [hs]

theorem memWf_execEnginePageResume {s : State} (h : s.memWf) (die tile eng idx : Nat) :
    AnswersMemWf (execEnginePageResume die tile eng idx s) := by
  unfold execEnginePageResume
  repeat' split
  all_goals simp [h]

theorem memWf_execTmcastGranuleDelivery {s : State} (h : s.memWf) (die tile idx rcv : Nat) :
    AnswersMemWf (execTmcastGranuleDelivery die tile idx rcv s) := by
  unfold execTmcastGranuleDelivery
  split
  · trivial
  · extract_lets c g fail put x r
    have hf : ∀ s code, s.memWf → (fail s code).memWf := fun s code hs => by simp [fail, hs]
    have hp : ∀ s r, s.memWf → (put s r).memWf := fun s r hs => by simp [put, hs]
    have hx : x.1.MemWf := State.memWf_castRead ((State.memWf_unmet s).2 h) ..
    split
    · trivial
    · split <;> rename_i e <;> rw [e] at hx
      · exact hp _ _ hx
      · exact hf _ _ hx
      · trivial
      · extract_lets y
        have hy : y.1.MemWf := State.memWf_castGranule hx ..
        split <;> rename_i e <;> rw [e] at hy
        · exact hp _ _ hy
        · exact hf _ _ hy
        · trivial
        · simp [hp _ _ hy]

@[simp] theorem State.memWf_enterCmd {s : State} (h : s.memWf) (die tile : Nat) (c : Cmd) :
    (s.enterCmd die tile c).memWf := by
  simp [State.enterCmd, h]

@[simp] theorem State.memWf_chainStop (s : State) (die tile n code : Nat) :
    (s.chainStop die tile n code).memWf ↔ s.memWf := by
  simp [State.chainStop]

@[simp] theorem State.memWf_chainPush (s : State) (die tile n : Nat) (o : EngOp) (c : Cmd) (f : List Nat) :
    (s.chainPush die tile n o c f).memWf ↔ s.memWf := by
  simp [State.chainPush]

theorem State.memWf_chainFetch {s : State} (h : s.memWf) (die tile n : Nat) :
    AnswersMemWf (s.chainFetch die tile n) := by
  unfold State.chainFetch
  extract_lets e
  split
  · trivial
  · rename_i x _
    have hl := State.memWf_engLoad h die x.asid (x.addr + 32 * x.next) 32
    refine answersMemWf_of_ite trivial ?_
    split <;> rename_i e <;> rw [e] at hl
    · trivial
    · trivial
    · exact (State.memWf_chainStop ..).2 hl
    · replace hl : State.memWf _ := hl
      extract_lets w bad
      split
      · exact (State.memWf_chainStop ..).2 hl
      · extract_lets vals f dup go
        have hgo : AnswersMemWf go := by
          unfold go
          split <;> rename_i e <;> have hb := e ▸ State.memWf_buildCmd hl ..
          · exact (State.memWf_chainPush ..).2 hb
          · trivial
          · exact (State.memWf_chainStop ..).2 hb
          · trivial
        have hs : ∀ code, AnswersMemWf (.next (State.chainStop _ die tile n code)) :=
          fun code => (State.memWf_chainStop ..).2 hl
        refine answersMemWf_of_ite (hs 1) (answersMemWf_of_ite ((State.memWf_updChain ..).2 hl) ?_)
        refine answersMemWf_of_ite (hs 3) (answersMemWf_of_ite (hs 1) (answersMemWf_of_ite trivial ?_))
        clear_value go
        generalize EngOp.eng _ = k
        refine answersMemWf_of_ite ?_ hgo
        split
        · exact hgo
        · exact (State.memWf_askLease ..).2 hl
        · trivial

theorem memWf_execEngineCommandStart {s : State} (h : s.memWf) (die tile eng pusher : Nat) :
    AnswersMemWf (execEngineCommandStart die tile eng pusher s) := by
  refine answersMemWf_of_ite (State.memWf_chainFetch h ..) ?_
  extract_lets e
  refine answersMemWf_of_ite trivial ?_
  split
  · simp [h]
  · split
    · trivial
    · extract_lets turn
      refine answersMemWf_of_ite trivial ?_
      exact State.memWf_enterCmd ((State.memWf_updEng ..).2 h) ..

@[simp] theorem State.memWf_frameDeliver {s : State} (h : s.memWf) (fa q pos : Nat) (v : Word) (taint : Bool) :
    (s.frameDeliver fa q pos v taint).memWf := by
  simp [State.frameDeliver, h]

@[simp] theorem State.memWf_chainDeliver {s : State} (h : s.memWf) (n : Nat) (x : Chain) (v : Word) :
    (s.chainDeliver n x v).memWf := by
  unfold State.chainDeliver
  repeat' split
  all_goals simp [h]

theorem memWf_execChainComplete {s : State} (h : s.memWf) (die tile chain : Nat) :
    AnswersMemWf (execChainComplete die tile chain s) := by
  unfold execChainComplete
  extract_lets e s1 s2
  have h2 : s2.memWf := by simp [s2, s1, h]
  split
  · trivial
  · extract_lets s3
    have h3 : s3.memWf := by
      unfold s3
      split <;> simp [h2]
    exact answersMemWf_of_ite trivial (State.memWf_chainDeliver h3 ..)

theorem memWf_execLeaseGrant {s : State} (h : s.memWf) (die tile cyc : Nat) :
    AnswersMemWf (execLeaseGrant die tile cyc s) := by
  refine answersMemWf_of_ite trivial ?_
  split
  · trivial
  · simp [h]

theorem memWf_execLeaseExpiry {s : State} (h : s.memWf) (die tile cyc : Nat) :
    AnswersMemWf (execLeaseExpiry die tile cyc s) := by
  unfold execLeaseExpiry
  split <;> simp [h]

theorem memWf_execMmaDrain {s : State} (h : s.memWf) (die tile ksteps : Nat) :
    AnswersMemWf (execMmaDrain die tile ksteps s) := by
  unfold execMmaDrain
  split
  · trivial
  · rename_i r _
    refine answersMemWf_of_ite trivial ?_
    extract_lets x _ y put
    have hp : ∀ s y, s.memWf → (put s y).memWf := fun s y hs => by simp [put, hs]
    have hx : x.1.MemWf := State.memWf_kSteps ((State.memWf_unmet s).2 h) ..
    split <;> rename_i e <;> rw [e] at hx
    · exact hp _ _ hx
    · exact State.memWf_cmdError ((State.memWf_updEng ..).2 hx) ..
    · trivial
    · rename_i t
      have ht := hp t { y with cmd := y.cmd.meets t } hx
      extract_lets s1
      simp only [answersMemWf_next]
      split
      · split
        · exact State.memWf_park ht ..
        · exact ht
      · exact ht

/-! ## Machine/Restore -/

@[simp] theorem State.memWf_mapRange {s : State} (h : s.memWf) (d asid : Nat) (k : Acc) (p n : Nat) :
    (s.mapRange d asid k p n).1.memWf := by
  induction n generalizing s p with
  | zero => exact h
  | succ n ih =>
    unfold State.mapRange
    split <;> rename_i e <;> have ht := memWf_of_fst (State.memWf_resolveEng h ..) e
    · split <;> rename_i e <;> exact memWf_of_fst (ih ht _) e
    · exact ht

@[simp] theorem State.memWf_tickPages (s : State) (l : List (Nat × Nat)) : (s.tickPages l).memWf ↔ s.memWf := by
  simp [State.tickPages]

@[simp] theorem Cur.memWf_writePage {c : Cur} (h : c.s.memWf) (l : List (Nat × Nat)) (a n v : Nat) :
    (c.writePage l a n v).s.memWf := by
  simp [Cur.writePage, h]

@[simp] theorem Cur.memWf_writeField {c : Cur} (h : c.s.memWf) (l : List (Nat × Nat)) (a n v : Nat) :
    (c.writeField l a n v).s.memWf := by
  simp [Cur.writeField, h]

@[simp] theorem Cur.memWf_writeVia {c : Cur} (h : c.s.memWf) (l : List (Nat × Nat)) (va : Nat) (fs : List FrameField) :
    (c.writeVia l va fs).s.memWf := Cur.memWf_foldl _ (fun _ _ hc => Cur.memWf_writeField hc ..) _ h

@[simp] theorem State.memWf_loadCohort (s : State) (u : Nat) (i : Inst) (b : Nat) :
    (s.loadCohort u i b).memWf ↔ s.memWf := by
  unfold State.loadCohort
  repeat' split
  all_goals simp

@[simp] theorem State.memWf_putHeld (s : State) (die tile : Nat) (k : Option Held) :
    (s.putHeld die tile k).memWf ↔ s.memWf := by
  unfold State.putHeld
  split <;> simp

@[simp] theorem State.memWf_pushBack (s : State) (die tile place : Nat) (held : Option Held) (c : Cmd) :
    (s.pushBack die tile place held c).memWf ↔ s.memWf := by
  simp [State.pushBack]

@[simp] theorem Go.memWf_restoreWord {s : State} (h : s.memWf) (die tile u : Nat) (i : Inst) (asid : Nat) (old : Option Cmd)
    (held : Option Held) (w : List Word64) : (s.restoreWord die tile u i asid old held w).MemWf := by
  unfold State.restoreWord
  extract_lets place fail
  have hf : ∀ s code, s.memWf → (fail s code).MemWf := fun s code hs => by simp [fail, hs]
  split
  · exact (State.memWf_pushBack ..).2 h
  · split
    · exact hf _ _ h
    · split <;> rename_i e <;> have hb := e ▸ State.memWf_buildCmd h ..
      · exact (State.memWf_pushBack ..).2 hb
      · exact hf _ _ hb
      · exact hb
      · trivial

@[simp] theorem State.memWf_restoreFrom {s : State} (h : s.memWf) (die tile u : Nat) (i : Inst) (asid : Nat)
    (rd : Nat → Nat → Nat) (n k : Nat) (held : Option Held) : (s.restoreFrom die tile u i asid rd n k held).MemWf := by
  induction n generalizing s k held with
  | zero => exact (State.memWf_putHeld ..).2 h
  | succ n ih => exact Go.memWf_bind (Go.memWf_restoreWord h ..) fun s _ hs => ih hs ..

@[simp] theorem State.memWf_restoreWords {s : State} (h : s.memWf) (die tile u : Nat) (i : Inst) (asid : Nat)
    (rd rows : Nat → Nat → Nat) : (s.restoreWords die tile u i asid rd rows).MemWf := by
  refine Go.memWf_bind (State.memWf_restoreFrom h ..) fun s _ hs => ?_
  rw [Go.memWf_ok]
  split
  · split
    · exact (State.memWf_pushBack ..).2 hs
    · exact hs
  · exact hs

@[simp] theorem State.memWf_enterWait (s : State) (u : Nat) : (s.enterWait u).memWf ↔ s.memWf := by
  unfold State.enterWait
  split
  · rfl
  · extract_lets d
    split
    · simp
    · simp
    · simp
    · extract_lets s1
      split <;> simp [s1]
    · extract_lets c s1
      split <;> simp [s1]
    · simp
    · simp

/-! ## Machine/System -/

@[simp] theorem memWf_atLevel (c : Cur) (n : Nat) (e : Eff) : (atLevel c n e).MemWf ↔ (n ≤ c.level → e.MemWf) := by
  simp [atLevel]

@[simp] theorem Cur.memWf_setDieRegs (c : Cur) (f : DieRegs → DieRegs) : (c.setDieRegs f).s.memWf ↔ c.s.memWf := by
  simp [Cur.setDieRegs]

@[simp] theorem Cur.memWf_setSeqx (c : Cur) (f : Seq → Seq) : (c.setSeqx f).s.memWf ↔ c.s.memWf := by simp [Cur.setSeqx]
@[simp] theorem Cur.memWf_fetchAhead (c : Cur) : (c.fetchAhead).s.memWf ↔ c.s.memWf := by simp [Cur.fetchAhead]

theorem memWf_execGets {s : State} (h : s.memWf) (g : Guard) (b : IBody) :
    AnswersMemWf (execGets g b s) :=
  memWf_issue h _ _ fun c hc => by simp [hc]

@[simp] theorem Cur.memWf_writeSreg (c : Cur) (n v : Nat) : (c.writeSreg n v).s.memWf ↔ c.s.memWf := by
  unfold Cur.writeSreg
  split <;> simp

theorem memWf_execSets {s : State} (h : s.memWf) (g : Guard) (b : IBody) :
    AnswersMemWf (execSets g b s) :=
  memWf_issue h _ _ fun c hc => by simp [hc]

@[simp] theorem State.memWf_endHandler (s : State) (d q clk : Nat) : (s.endHandler d q clk).memWf ↔ s.memWf := by
  simp [State.endHandler]

@[simp] theorem State.memWf_resume (s : State) (d q u : Nat) (pc : Word64) : (s.resume d q u pc).memWf ↔ s.memWf := by
  unfold State.resume
  extract_lets s1
  have h1 : s1.memWf ↔ s.memWf := State.memWf_updInst ..
  split
  · exact h1
  · simp [h1]

@[simp] theorem State.memWf_hold (s : State) (u : Nat) (a : Word64) : (s.hold u a).memWf ↔ s.memWf := by
  unfold State.hold
  split <;> simp

theorem memWf_execEret {s : State} (h : s.memWf) (g : Guard) (b : IBody) : AnswersMemWf (execEret g b s) :=
  memWf_issue h _ _ fun c hc => by
    rw [memWf_guarded hc, memWf_atLevel]
    intro _ _
    extract_lets x s1
    split
    · exact hc
    · refine Eff.memWf_of_ite hc ?_
      have h1 : s1.memWf := by simp [s1, hc]
      split
      · exact h1
      · rw [Eff.memWf_done]
        split
        · simp [h1]
        · split <;> simp [h1, hc]
        · simp [h1]
        · simp [h1]

theorem memWf_execWfi {s : State} (h : s.memWf) (g : Guard) (_b : IBody) :
    AnswersMemWf (execWfi g _b s) :=
  memWf_issue h _ _ fun c hc => by simp [hc]

@[simp] theorem Cur.memWf_frameFail {c : Cur} (h : c.s.memWf) (va : Word64) (t : Tr) : (c.frameFail va t).MemWf := by
  unfold Cur.frameFail
  split <;> simp [h]

@[simp] theorem Cur.memWf_saveFrame {c : Cur} (h : c.s.memWf) (va : Word64) (u : Nat) (i : Inst) :
    (c.saveFrame va u i).MemWf := by
  unfold Cur.saveFrame
  extract_lets d t x c' _ i' need r s dr pg
  have hs : s.memWf := by simp [s, r, c', x, h]
  split <;> rename_i e <;> have ht := memWf_of_fst (State.memWf_mapRange hs ..) e
  · exact Cur.memWf_frameFail (by simp [c', x, h]) ..
  · extract_lets c2
    have h2 : c2.s.memWf := Cur.memWf_writeVia (Cur.memWf_writeVia ht ..) ..
    simp [h2]

theorem memWf_execCtxsv {s : State} (h : s.memWf) (g : Guard) (b : IBody) : AnswersMemWf (execCtxsv g b s) :=
  memWf_issue h _ _ fun c hc => by
    rw [memWf_guarded hc, memWf_atLevel]
    intro _ _
    extract_lets va
    refine Eff.memWf_of_ite trivial ?_
    split
    · exact hc
    · exact Eff.memWf_of_ite hc (Cur.memWf_saveFrame hc ..)

@[simp] theorem Cur.memWf_loadFrame {c : Cur} (h : c.s.memWf) (u : Nat) (i : Inst) (rd rows : Nat → Nat → Nat) :
    (c.loadFrame u i rd rows).MemWf := by
  unfold Cur.loadFrame
  extract_lets j _ j' s s'
  have hs : s'.memWf := by simp [s', s, h]
  have hr := State.memWf_restoreWords hs c.die c.tile u j' j'.who.asid rd rows
  split <;> rename_i e <;> rw [e] at hr
  · replace hr : State.memWf _ := hr
    simp [hr]
  · simp [h]
  · simp [h]
  · trivial

theorem memWf_execCtxld {s : State} (h : s.memWf) (g : Guard) (b : IBody) : AnswersMemWf (execCtxld g b s) :=
  memWf_issue h _ _ fun c hc => by
    rw [memWf_guarded hc, memWf_atLevel]
    intro _ _
    extract_lets va
    refine Eff.memWf_of_ite trivial ?_
    split
    · exact hc
    · extract_lets x c1 i1 pg
      have h1 : c1.s.memWf := by simp [c1, x, hc]
      split <;> rename_i e <;> have ht := memWf_of_fst (State.memWf_mapRange h1 ..) e
      · exact Cur.memWf_frameFail h1 ..
      · extract_lets c2 rd ra rp
        refine Eff.memWf_of_ite trivial (Eff.memWf_of_ite ?_ ?_)
        · split <;> rename_i e <;> have hr := memWf_of_fst (State.memWf_mapRange ht ..) e
          · exact Cur.memWf_frameFail ht ..
          · exact Cur.memWf_loadFrame ((State.memWf_tickPages ..).2 hr) ..
        · exact Cur.memWf_loadFrame ((State.memWf_tickPages ..).2 ht) ..

@[simp] theorem State.memWf_tlbDrop (s : State) (d : Nat) (f : TlbEntry → Bool) : (s.tlbDrop d f).memWf ↔ s.memWf := by
  simp [State.tlbDrop]

theorem memWf_tlbinvOp {s : State} (h : s.memWf) (g : Guard) (b : RBody) (ops : List Opnd) (dev : Bool) (f : Nat → Nat → TlbEntry → Bool) :
    AnswersMemWf (tlbinvOp g b ops dev f s) :=
  memWf_issue h _ _ fun c hc => by simp [hc]

theorem memWf_execTlbinvPage {s : State} (h : s.memWf) (g : Guard) (b : RBody) (dev : Bool) :
    AnswersMemWf (execTlbinvPage g b dev s) := memWf_tlbinvOp h ..

theorem memWf_execTlbinvAsid {s : State} (h : s.memWf) (g : Guard) (b : RBody) (dev : Bool) :
    AnswersMemWf (execTlbinvAsid g b dev s) := memWf_tlbinvOp h ..

theorem memWf_execTlbinvAll {s : State} (h : s.memWf) (g : Guard) (b : RBody) (dev : Bool) :
    AnswersMemWf (execTlbinvAll g b dev s) := memWf_tlbinvOp h ..

theorem memWf_execRtabw {s : State} (h : s.memWf) (g : Guard) (b : RBody) :
    AnswersMemWf (execRtabw g b s) :=
  memWf_issue h _ _ fun c hc => by simp [hc]

theorem memWf_execRtabwWin {s : State} (h : s.memWf) (g : Guard) (b : RBody) :
    AnswersMemWf (execRtabwWin g b s) :=
  memWf_issue h _ _ fun c hc => by simp [hc]

theorem memWf_sptwOp {s : State} (h : s.memWf) (g : Guard) (b : RBody) (write : Bool) :
    AnswersMemWf (sptwOp g b write s) :=
  memWf_issue h _ _ fun c hc => by simp [hc]

/-! ## Machine/Deliver -/

@[simp] theorem State.memWf_answered {s : State} (h : s.memWf) (msg uid ext : Nat) (i : Inst) (p : Producer)
    (f : SpanMsg → Ctx → Ctx) :
    AnswersMemWf (s.answered msg uid ext i p f) := by
  unfold State.answered
  split <;> simp [h]

@[simp] theorem State.memWf_deliverNow (s : State) (uid idx : Nat) (i : Inst) (p : Producer) :
    (s.deliverNow uid idx i p).memWf ↔ s.memWf := by
  simp [State.deliverNow]

theorem memWf_execQueueDelivery {s : State} (h : s.memWf) (uid idx ext : Nat) :
    AnswersMemWf (execQueueDelivery uid idx ext s) := by
  unfold execQueueDelivery
  repeat' split
  all_goals simp [h]

@[simp] theorem State.memWf_stale {s : State} (h : s.memWf) (uid idx k : Nat) : AnswersMemWf (s.stale uid idx k) := by
  unfold State.stale
  split
  · split
    · exact answersMemWf_of_ite ((State.memWf_setInst ..).2 h) trivial
    · extract_lets n
      split
      · trivial
      · exact answersMemWf_of_ite ((State.memWf_setInst ..).2 h) trivial
    · trivial
  · trivial

@[simp] theorem State.memWf_dropPosted (s : State) (msg : Nat) : (s.dropPosted msg).memWf ↔ s.memWf := by
  simp [State.dropPosted]

theorem memWf_execPostedStoreAck {s : State} (h : s.memWf) (msg : Nat) : AnswersMemWf (execPostedStoreAck msg s) := by
  unfold execPostedStoreAck
  split <;> simp [h]

/-! ## Machine/Accept -/

@[simp] theorem State.memWf_arenaFacts {s : State} (h : s.memWf) (d asid va : Nat) :
    (s.arenaFacts d asid va).1.memWf := by
  unfold State.arenaFacts
  split
  · exact h
  · split
    · exact h
    · split <;> rename_i e <;> have ht := memWf_of_fst (State.memWf_resolve h ..) e
      · extract_lets home v
        split <;> exact ht
      · exact ht

@[simp] theorem State.memWf_predFacts {s : State} (h : s.memWf) (d : Nat) (r : Image) : (s.predFacts d r).1.memWf := by
  unfold State.predFacts
  extract_lets ey sh
  split
  · exact h
  · split <;> rename_i e <;> have ht := memWf_of_fst (State.memWf_resolve h ..) e
    · split
      · exact ht
      · extract_lets v
        split
        · exact ht
        · split <;> rename_i e <;> exact memWf_of_fst (State.memWf_arenaFacts ht ..) e
    · exact ht

@[simp] theorem State.memWf_packetTake (s : State) (r : Image) (d : Nat) (n : Option Nat) :
    (s.packetTake r d n).memWf ↔ s.memWf := by
  unfold State.packetTake
  split <;> simp

@[simp] theorem State.memWf_rejectLaunch {s : State} (h : s.memWf) (d : Nat) (r : Image) (why : Nat) :
    (s.rejectLaunch d r why).memWf := by
  simp [State.rejectLaunch, h]

@[simp] theorem State.memWf_makeBlocks (s : State) (d n first count : Nat) (unconf : Bool) :
    (s.makeBlocks d n first count unconf).memWf ↔ s.memWf := by
  unfold State.makeBlocks
  split <;> simp

@[simp] theorem State.memWf_enterRec (s : State) (d n : Nat) (img : Image) (r : Rec) (count : Nat) (unconf : Bool) :
    (s.enterRec d n img r count unconf).memWf ↔ s.memWf := by
  simp [State.enterRec]

@[simp] theorem State.memWf_arenaMark {s : State} (h : s.memWf) (pa n alen : Nat) : (s.arenaMark pa n alen).memWf := by
  simp [State.arenaMark, h]

@[simp] theorem State.memWf_takePrediction (s : State) (d : Nat) (r : Image) :
    (s.takePrediction d r).1.memWf ↔ s.memWf := by
  simp [State.takePrediction]

@[simp] theorem State.memWf_updatePrediction (s : State) (d : Nat) (img : BitVec 256) (asid et : Nat) :
    (s.updatePrediction d img asid et).memWf ↔ s.memWf := by
  simp [State.updatePrediction]

@[simp] theorem State.memWf_extentRecord {s : State} (h : s.memWf) (d : Nat) (queue : Option Nat)
    (asid cellVa v : Nat) :
    (s.extentRecord d queue asid cellVa v).memWf := by
  simp [State.extentRecord, h]

@[simp] theorem State.memWf_trimPages {s : State} (h : s.memWf) (d asid p n : Nat) :
    (s.trimPages d asid p n).memWf := by
  induction n generalizing s p with
  | zero => exact h
  | succ n ih =>
    refine ih ?_ _
    split
    · exact h
    · extract_lets e s1
      have h1 : s1.memWf := by simp [s1, h]
      simp [h, h1]

@[simp] theorem State.memWf_arenaTrim {s : State} (h : s.memWf) (d : Nat) (r : Rec) (et : Nat) :
    (s.arenaTrim d r et).memWf := by
  unfold State.arenaTrim
  extract_lets va lb s1
  split
  · exact h
  · split
    extract_lets first s2
    have h1 : s1.memWf := by
      unfold s1
      split <;> rename_i e <;> simp [memWf_of_fst (State.memWf_resolve h ..) e]
    have h2 : s2.memWf := State.memWf_trimPages h1 ..
    split
    · exact h2
    · split
      · exact h2
      · simp [h2, State.memWf_zeroPa h2]

@[simp] theorem State.memWf_acceptPred {s : State} (h : s.memWf) (d n : Nat) (r : Image) (desc : BitVec 1024) (p : PredFacts) :
    (s.acceptPred d n r desc p).memWf := by
  unfold State.acceptPred
  extract_lets t full et ep s1 s2 s3 s4
  have h1 : s1.memWf := State.memWf_arenaMark (by simp [t, h]) ..
  have h2 : s2.memWf := by simp [s2, h1]
  have h3 : s3.memWf := by simp [s3, h2]
  have h4 : s4.memWf := by simp [s4, h3]
  simp [h4]

@[simp] theorem State.memWf_acceptTail {s : State} (h : s.memWf) (d n : Nat) : (s.acceptTail d n).memWf := by
  unfold State.acceptTail
  split <;> simp [h]

theorem State.memWf_acceptHead {s q : State} (h : s.memWf) (hq : q.memWf) (d : Nat) (r : Image) :
    AnswersMemWf (s.acceptHead q d r) := by
  unfold State.acceptHead
  extract_lets desc wait
  refine answersMemWf_of_ite (State.memWf_rejectLaunch h ..) ?_
  split
  · trivial
  · rename_i e
    exact State.memWf_rejectLaunch (memWf_of_fst (State.memWf_readVa h ..) e) ..
  · rename_i e
    have ht := memWf_of_fst (State.memWf_readVa h ..) e
    extract_lets b p
    have hp : p.1.memWf := by simp [p, ht]
    refine answersMemWf_of_ite (State.memWf_rejectLaunch ht ..) ?_
    split
    · exact State.memWf_rejectLaunch hp ..
    · split
      · trivial
      · refine answersMemWf_of_ite trivial (answersMemWf_of_ite ?_ ?_)
        · split
          · exact State.memWf_pageRequest hq ..
          · exact State.memWf_acceptPred hp ..
        · exact (State.memWf_enterRec ..).2 hp

theorem memWf_execLaunchRecordAccept {s : State} (h : s.memWf) (die cyc : Nat) :
    AnswersMemWf (execLaunchRecordAccept die cyc s) := by
  unfold execLaunchRecordAccept
  split
  · trivial
  · extract_lets q s1
    have hq : q.memWf := (State.memWf_advance ..).2 h
    have h1 : s1.memWf := (State.memWf_updSch ..).2 hq
    split
    · exact State.memWf_acceptTail h1 ..
    · exact State.memWf_acceptHead h1 hq ..

@[simp] theorem State.memWf_dropSurplus {s : State} (h : s.memWf) (u : Nat) : (s.dropSurplus u).memWf := by
  unfold State.dropSurplus
  repeat' split
  all_goals simp [h]

@[simp] theorem State.memWf_confirmFrame {s : State} (h : s.memWf) (i : Inst) : (s.confirmFrame i).memWf := by
  unfold State.confirmFrame
  split <;> simp [h]

@[simp] theorem State.memWf_confirmInst {s : State} (h : s.memWf) (u et : Nat) (rel : List Head) :
    (s.confirmInst u et rel).memWf := by
  unfold State.confirmInst
  split <;> simp [h]

@[simp] theorem State.memWf_sendTail (s : State) (d n : Nat) (r : Rec) : (s.sendTail d n r).memWf ↔ s.memWf := by
  simp [State.sendTail]

theorem memWf_execShapeConfirmation {s : State} (h : s.memWf) (die record cyc : Nat) :
    AnswersMemWf (execShapeConfirmation die record cyc s) := by
  unfold execShapeConfirmation
  split
  · trivial
  · refine answersMemWf_of_ite trivial ?_
    extract_lets s1 v et rel s2 s3 surplus s4 s5 s6 valid s7 s8 s9
    have h1 : s1.memWf := (State.memWf_advance ..).2 h
    split
    · exact State.memWf_pageRequest h1 ..
    · have h3 : s3.memWf := State.memWf_extentRecord ((State.memWf_updSch ..).2 h1) ..
      have h4 : s4.memWf := State.memWf_foldl _ (fun s u hs => State.memWf_dropSurplus hs u) _ h3
      have h6 : s6.memWf := (State.memWf_updatePrediction ..).2 (State.memWf_arenaTrim h4 ..)
      have h7 : s7.memWf := State.memWf_foldl _ (fun s u hs => State.memWf_confirmInst hs ..) _ h6
      have h9 : s9.memWf := by simp [s9, s8, h7]
      rw [answersMemWf_next]
      split <;> simp [h9]

theorem memWf_execTailRecordEntry {s : State} (h : s.memWf) (die record cyc : Nat) :
    AnswersMemWf (execTailRecordEntry die record cyc s) := by
  unfold execTailRecordEntry
  split <;> simp [h]

theorem memWf_execCounterLowering {s : State} (h : s.memWf) (die idx cyc : Nat) :
    AnswersMemWf (execCounterLowering die idx cyc s) := by
  unfold execCounterLowering
  split <;> simp [h]

theorem memWf_execFutureRetry {s : State} (h : s.memWf) (uid cyc : Nat) : AnswersMemWf (execFutureRetry uid cyc s) := by
  unfold execFutureRetry
  repeat' split
  all_goals simp [h]

theorem memWf_execCohortBarrierComplete {s : State} (h : s.memWf) (die id cyc : Nat) :
    AnswersMemWf (execCohortBarrierComplete die id cyc s) := by
  simp [execCohortBarrierComplete, h]

/-! ## Machine/Control -/

theorem memWf_execBr {s : State} (h : s.memWf) (g : Guard) (off : BitVec 32) :
    AnswersMemWf (execBr g off s) :=
  memWf_issue h _ _ fun c hc => by simp [hc]

theorem memWf_execBri {s : State} (h : s.memWf) (g : Guard) (b : RBody) :
    AnswersMemWf (execBri g b s) :=
  memWf_issue h _ _ fun c hc => by simp [hc]

@[simp] theorem memWf_callTo {c : Cur} (h : c.s.memWf) (t : Word64) : (callTo c t).MemWf := by simp [callTo, h]

theorem memWf_execCall {s : State} (h : s.memWf) (g : Guard) (off : BitVec 32) :
    AnswersMemWf (execCall g off s) :=
  memWf_issue h _ _ fun c hc => by simp [hc]

theorem memWf_execCalli {s : State} (h : s.memWf) (g : Guard) (b : RBody) :
    AnswersMemWf (execCalli g b s) :=
  memWf_issue h _ _ fun c hc => by simp [hc]

theorem memWf_execRet {s : State} (h : s.memWf) (g : Guard) (b : RBody) : AnswersMemWf (execRet g b s) :=
  memWf_issue h _ _ fun c hc => by
    rw [memWf_guarded hc]
    intro
    split
    · simp [hc]
    · simp [hc]

theorem memWf_execLoop {s : State} (h : s.memWf) (g : Guard) (b : IBody) : AnswersMemWf (execLoop g b s) :=
  memWf_issue h _ _ fun c hc => by
    simp only [memWf_guarded hc, memWf_withOps hc]
    intros
    refine Eff.memWf_of_ite ?_ ?_
    · split <;> simp [hc]
    · simp [hc]

theorem memWf_execLbrk {s : State} (h : s.memWf) (g : Guard) (b : RBody) : AnswersMemWf (execLbrk g b s) :=
  memWf_issue h _ _ fun c hc => by
    rw [memWf_guarded hc]
    intro
    split
    · trivial
    · split <;> simp [hc]

theorem memWf_execLidx {s : State} (h : s.memWf) (g : Guard) (b : IBody) :
    AnswersMemWf (execLidx g b s) :=
  memWf_issue h _ _ fun c hc => by simp [hc]

theorem memWf_execNop {s : State} (h : s.memWf) (_g : Guard) (_b : IBody) :
    AnswersMemWf (execNop _g _b s) :=
  memWf_issue h _ _ fun c hc => by simp [hc]

theorem memWf_execYieldI {s : State} (h : s.memWf) (g : Guard) (_b : IBody) :
    AnswersMemWf (execYieldI g _b s) :=
  memWf_issue h _ _ fun c hc => by simp [hc]

@[simp] theorem State.memWf_exitRelease (s : State) (c : Cur) : (s.exitRelease c).memWf ↔ s.memWf := by
  unfold State.exitRelease
  split <;> simp

theorem memWf_execExit {s : State} (h : s.memWf) (g : Guard) (b : IBody) : AnswersMemWf (execExit g b s) :=
  memWf_issue h _ _ fun c hc => by
    rw [memWf_guarded hc]
    intro
    refine Eff.memWf_of_ite hc (Eff.memWf_of_ite hc ?_)
    dsimp only
    split <;> simp [hc]

theorem memWf_execTrap {s : State} (h : s.memWf) (g : Guard) (b : IBody) :
    AnswersMemWf (execTrap g b s) :=
  memWf_issue h _ _ fun c hc => by simp [hc]

theorem memWf_execUndefinedInstruction {s : State} (h : s.memWf) (word : BitVec 64) :
    AnswersMemWf (execUndefinedInstruction word s) := memWf_issue h _ _ fun _ _ => trivial

/-! ## Machine/Place -/

@[simp] theorem State.memWf_placeIn (s : State) (d q k u cyc : Nat) : (s.placeIn d q k u cyc).memWf ↔ s.memWf := by
  unfold State.placeIn
  repeat' split
  all_goals simp

@[simp] theorem State.memWf_countNoStack (s : State) (d u : Nat) : (s.countNoStack d u).memWf ↔ s.memWf := by
  simp [State.countNoStack]

@[simp] theorem State.memWf_preempt {s : State} (h : s.memWf) (d q u cyc : Nat) : (s.preempt d q u cyc).memWf := by
  unfold State.preempt
  split
  · exact h
  · extract_lets switch s1
    have hs : ∀ s, (switch s).memWf ↔ s.memWf := fun s => State.memWf_updSeq ..
    have h1 : s1.memWf := State.memWf_park h ..
    split
    · simp [hs, h]
    · split
      · split
        · simp [hs, h1]
        · exact h1
      · simp [h]

@[simp] theorem State.memWf_placeFree (s : State) (d q u cyc : Nat) : (s.placeFree d q u cyc).memWf ↔ s.memWf := by
  unfold State.placeFree
  split <;> simp

theorem State.memWf_makeRoom {s t : State} {d q cyc : Nat} {p : Nat × Inst} (h : s.memWf)
    (e : s.makeRoom d q cyc p = some t) : t.memWf := by
  unfold State.makeRoom at e
  split at e
  · simp at e
  · split at e
    · split at e
      · simp only [Option.some.injEq] at e
        subst e
        simp [h]
      · simp at e
    · split at e
      · split at e
        · simp only [Option.some.injEq] at e
          subst e
          simp [h]
        · simp at e
      · simp at e

theorem State.memWf_firstRoom {s t : State} {d q cyc n : Nat} {l : List (Nat × Inst)} (h : s.memWf)
    (e : s.firstRoom d q cyc n l = some t) : t.memWf := by
  induction n generalizing l with
  | zero => simp [State.firstRoom] at e
  | succ n ih =>
    unfold State.firstRoom at e
    split at e
    · simp at e
    · split at e
      · rename_i er
        simp only [Option.some.injEq] at e
        subst e
        exact State.memWf_makeRoom h er
      · split at e
        · simp at e
        · exact ih e

theorem memWf_execTaskPlacement {s : State} (h : s.memWf) (die seq cyc : Nat) :
    AnswersMemWf (execTaskPlacement die seq cyc s) := by
  unfold execTaskPlacement
  extract_lets s1 cyc1 l
  have h1 : s1.memWf := (State.memWf_advance ..).2 h
  split
  · trivial
  · refine answersMemWf_of_ite ((State.memWf_setInst ..).2 h1) (answersMemWf_of_ite ((State.memWf_countNoStack ..).2 h1)
      (answersMemWf_of_ite ((State.memWf_placeFree ..).2 h1) ?_))
    split
    · rename_i e
      exact State.memWf_firstRoom h1 e
    · trivial

theorem memWf_execTimeSliceExpiry {s : State} (h : s.memWf) (die seq cyc : Nat) :
    AnswersMemWf (execTimeSliceExpiry die seq cyc s) := by
  unfold execTimeSliceExpiry
  split <;> simp [h]

theorem memWf_execPriorityAging {s : State} (h : s.memWf) (uid cyc : Nat) :
    AnswersMemWf (execPriorityAging uid cyc s) := by
  unfold execPriorityAging
  split <;> simp [h]

theorem memWf_execStarvationOrdering {s : State} (h : s.memWf) (uid cyc : Nat) :
    AnswersMemWf (execStarvationOrdering uid cyc s) := by
  unfold execStarvationOrdering
  split <;> simp [h]

@[simp] theorem State.memWf_restoreIn {s : State} (h : s.memWf) (u : Nat) (i : Inst) (q k cyc : Nat)
    (rd rows : Nat → Nat → Nat) : (s.restoreIn u i q k cyc rd rows).MemWf := by
  refine Go.memWf_bind (State.memWf_restoreWords ?_ ..) fun s _ hs => ?_
  · simp [h]
  · simp [hs]

theorem memWf_execParkedRestore {s : State} (h : s.memWf) (uid seq cyc : Nat) :
    AnswersMemWf (execParkedRestore uid seq cyc s) := by
  unfold execParkedRestore
  split
  · trivial
  · rename_i i _
    extract_lets d s1 cyc1 rows
    have h1 : s1.memWf := (State.memWf_advance ..).2 h
    split
    · rename_i f k _ _ _
      refine answersMemWf_of_ite trivial ?_
      have hr := State.memWf_restoreIn h1 uid i seq k cyc1 (s1.frameRd (s1.frameAt d f)) rows
      split <;> rename_i e <;> rw [e] at hr
      · exact (State.memWf_freeFrame ..).2 hr
      · exact State.memWf_pageAsk h1 ..
      · exact (State.memWf_freeFrame ..).2 hr
      · trivial
    · trivial

@[simp] theorem State.memWf_adopt (s : State) (d u : Nat) (i : Inst) : (s.adopt d u i).memWf ↔ s.memWf := by
  unfold State.adopt
  split <;> simp

@[simp] theorem State.memWf_thiefServed (s : State) (d thief : Nat) : (s.thiefServed d thief).memWf ↔ s.memWf := by
  simp [State.thiefServed]

theorem memWf_execStealRequest {s : State} (h : s.memWf) (die thief victim cyc : Nat) :
    AnswersMemWf (execStealRequest die thief victim cyc s) := by
  unfold execStealRequest
  split
  · trivial
  · refine answersMemWf_of_ite trivial ?_
    have h1 : (s.advance die cyc).memWf := (State.memWf_advance ..).2 h
    generalize s.advance die cyc = s1 at h1
    dsimp only
    split
    · simp [h1]
    · split <;> simp [h1]

theorem memWf_execStealBackoffExpiry {s : State} (h : s.memWf) (die seq cyc : Nat) :
    AnswersMemWf (execStealBackoffExpiry die seq cyc s) := by
  unfold execStealBackoffExpiry
  split <;> simp [h]

/-! ## Machine/Pages -/

theorem State.memWf_walker {s : State} {u : Nat} {c : Cur} (h : s.memWf) (e : s.walker u = some c) : c.s.memWf := by
  unfold State.walker at e
  split at e
  · simp at e
  · split at e
    · simp at e
    · simp only [Option.ite_none_right_eq_some, Option.some.injEq] at e
      obtain ⟨_, rfl⟩ := e
      exact h

@[simp] theorem State.memWf_walkFault {s : State} (h : s.memWf) (u code va : Nat) : (s.walkFault u code va).memWf := by
  unfold State.walkFault
  split
  · exact h
  · rename_i e
    exact State.memWf_takeTrap (State.memWf_walker h e) ..

@[simp] theorem State.memWf_walkPaged {s : State} (h : s.memWf) (u asid va : Nat) : (s.walkPaged u asid va).memWf := by
  unfold State.walkPaged
  split
  · exact h
  · rename_i e
    exact Cur.memWf_pageWait (State.memWf_walker h e) ..

@[simp] theorem State.memWf_tlbPut (s : State) (d : Nat) (e : TlbEntry) : (s.tlbPut d e).memWf ↔ s.memWf := by
  simp [State.tlbPut]

@[simp] theorem State.memWf_walkEnd {s : State} (h : s.memWf) (d : Nat) (x : Walk) : AnswersMemWf (s.walkEnd d x) := by
  unfold State.walkEnd
  split <;> simp [h]

theorem memWf_execPageWalkComplete {s : State} (h : s.memWf) (die idx : Nat) :
    AnswersMemWf (execPageWalkComplete die idx s) := by
  unfold execPageWalkComplete
  split
  · trivial
  · refine answersMemWf_of_ite trivial (answersMemWf_foldl (fun o x ho => ?_) _ ((State.memWf_updDie ..).2 h))
    cases o with
    | next s => exact State.memWf_walkEnd ho ..
    | fault r => trivial
    | refused r => trivial

@[simp] theorem State.memWf_cancelPrefetch (s : State) (d frame n : Nat) :
    (s.cancelPrefetch d frame n).memWf ↔ s.memWf := by
  simp [State.cancelPrefetch]

@[simp] theorem State.memWf_abandonEviction (s : State) : (s.abandonEviction).memWf ↔ s.memWf := by
  simp [State.abandonEviction]

@[simp] theorem State.memWf_evictRead {s : State} (h : s.memWf) (leaf : Nat) : AnswersMemWf (s.evictRead leaf) := by
  simp [State.evictRead, h]

theorem memWf_execEvictionStart {s : State} (h : s.memWf) (asid va leaf backing : Nat) :
    AnswersMemWf (execEvictionStart asid va leaf backing s) := by
  simp [execEvictionStart, h]

theorem memWf_execEvictionShootdownDone {s : State} (h : s.memWf) (idx : Nat) :
    AnswersMemWf (execEvictionShootdownDone idx s) := by
  unfold execEvictionShootdownDone
  split
  · trivial
  · refine answersMemWf_of_ite trivial (answersMemWf_of_ite trivial (answersMemWf_of_ite trivial ?_))
    exact State.memWf_copyPage (by simp [h]) ..

/-! ## Machine/Ring -/

@[simp] theorem State.memWf_form {s : State} (h : s.memWf) (d k cyc : Nat) : (s.form d k cyc).memWf := by
  unfold State.form
  split
  · exact h
  · extract_lets l r g at_ s1 s2 u view us tk s3
    have h1 : s1.memWf := State.memWf_foldl _ (fun s c hs => State.memWf_setCtx hs ..) _ h
    have h2 : s2.memWf := State.memWf_foldl _ (fun s c hs => State.memWf_writePa hs ..) _ h1
    simp [h, s3, h2]

@[simp] theorem State.memWf_overrun {s : State} (h : s.memWf) (d t hd : Nat) : (s.overrun d t hd).memWf :=
  State.memWf_foldl _ (fun s r hs => State.memWf_cmdError (by simp [hs]) ..) _ (by simp [h])

@[simp] theorem State.memWf_takeBuffer {s : State} (h : s.memWf) (d t k : Nat) : (s.takeBuffer d t k).memWf := by
  refine (State.memWf_updTile ..).2 ?_
  split
  · exact h
  · split
    · exact State.memWf_overrun h ..
    · exact h

@[simp] theorem State.memWf_presentTo (s : State) (d asid ord : Nat) : (s.presentTo d asid ord).memWf ↔ s.memWf := by
  simp [State.presentTo]

@[simp] theorem State.memWf_readOpb {s : State} (h : s.memWf) (d : Nat) (g : Segment) (e : BitVec 256) :
    (s.readOpb d g e).1.memWf := by
  unfold State.readOpb
  extract_lets opb
  split <;> rename_i e <;> simp [memWf_of_fst (State.memWf_readVa h ..) e]

@[simp] theorem State.memWf_present {s : State} (h : s.memWf) (d cyc : Nat) (g : Segment) :
    (s.present d cyc g).memWf := by
  unfold State.present
  extract_lets x rot tag k e usable r s1 s2 s3
  have h1 : s1.memWf := by simp [s1, r, h]
  have h3 : s3.memWf := State.memWf_foldl _ (fun s t hs => State.memWf_takeBuffer hs ..) _ (by simp [s2, h1])
  simp [h3]

@[simp] theorem State.memWf_reportAbsent {s : State} (h : s.memWf) (d : Nat) (g : Segment) (pos : Nat) :
    (s.reportAbsent d g pos).memWf := by
  simp [State.reportAbsent, h]

@[simp] theorem State.memWf_junction {s : State} (h : s.memWf) (r : Ring) (b : Bypass) : (s.junction r b).1.memWf := by
  unfold State.junction
  extract_lets b1 room
  split
  · exact h
  · split
    · split
      · exact State.memWf_foldl _ (fun s l hs => State.memWf_reportAbsent hs ..) _ h
      · exact h
    · split
      · exact h
      · simp [h]

@[simp] theorem State.memWf_endSlot {s : State} (h : s.memWf) (d : Nat) : (s.endSlot d).memWf :=
  State.memWf_foldl _ (fun _ _ hs => State.memWf_saddleEnd hs ..) _ h

@[simp] theorem State.memWf_beginSlot {s : State} (h : s.memWf) (cyc d : Nat) : (s.beginSlot cyc d).memWf := by
  unfold State.beginSlot
  split
  · exact h
  · extract_lets v s1 s2
    have h2 : s2.memWf := by simp [s2, s1, h]
    split
    · exact State.memWf_present h2 ..
    · exact h2

@[simp] theorem State.memWf_formAll {s : State} (h : s.memWf) (cyc d : Nat) : (s.formAll cyc d).memWf :=
  State.memWf_foldl _ (fun _ _ hs => State.memWf_form hs ..) _ h

@[simp] theorem State.memWf_formSlot {s : State} (h : s.memWf) (ring : Nat) : (s.formSlot ring).memWf := by
  unfold State.formSlot
  extract_lets r
  split
  · exact State.memWf_foldl _ (fun s d hs => State.memWf_formAll hs ..) _ (by simp [h])
  · exact h

@[simp] theorem State.memWf_rotate (s : State) (r : Ring) : (s.rotate r).memWf ↔ s.memWf := by simp [State.rotate]

@[simp] theorem State.memWf_junctions {s : State} (h : s.memWf) (r : Ring) (l : List Bypass) :
    (s.junctions r l).1.memWf := by
  induction l generalizing s with
  | nil => exact h
  | cons b t ih => exact ih (State.memWf_junction h r b)

@[simp] theorem State.memWf_dropAt (s : State) (bs : List Bypass) (turnDone : Bool) (d : Nat) :
    (s.dropAt bs turnDone d).1.memWf ↔ s.memWf := by
  simp [State.dropAt]

@[simp] theorem State.memWf_dropAll (s : State) (bs : List Bypass) (turnDone : Bool) (l : List Nat) :
    (s.dropAll bs turnDone l).1.memWf ↔ s.memWf := by
  induction l generalizing s bs with
  | nil => rfl
  | cons d t ih => exact (ih ..).trans (State.memWf_dropAt ..)

theorem memWf_execRingSlot {s : State} (h : s.memWf) (ring : Nat) : AnswersMemWf (execRingSlot ring s) := by
  unfold execRingSlot
  extract_lets r s1 moved sent s2 a b j s3
  have h1 : s1.memWf := State.memWf_foldl _ (fun s d hs => State.memWf_endSlot hs d) _ (State.memWf_formSlot h ring)
  have h3 : s3.memWf := by simp [s3, j, b, a, s2, h1]
  exact answersMemWf_of_ite trivial (State.memWf_foldl _ (fun s d hs => State.memWf_beginSlot hs ..) _ h3)

theorem memWf_execRingImageArrival {s : State} (h : s.memWf) (ring : Nat) :
    AnswersMemWf (execRingImageArrival ring s) := by
  unfold execRingImageArrival
  extract_lets r
  split
  · trivial
  · simp [h]

theorem memWf_execRingImageReread {s : State} (h : s.memWf) (ring die : Nat) (ok : Bool) :
    AnswersMemWf (execRingImageReread ring die ok s) := by
  unfold execRingImageReread
  extract_lets r s1
  have h1 : s1.memWf := (State.memWf_rasBump ..).2 h
  split
  · trivial
  · refine answersMemWf_of_ite ((State.memWf_updRing ..).2 h1) ?_
    split
    · exact State.memWf_reportAbsent h1 ..
    · exact h1

/-! ## Machine/Repair -/

theorem memWf_execLaneTest {s : State} (h : s.memWf) (lane : Nat) (ok : Bool) :
    AnswersMemWf (execLaneTest lane ok s) := by
  simp [execLaneTest, h]

@[simp] theorem State.memWf_formRing (s : State) (arr k cyc : Nat) (own : Bool) :
    (s.formRing arr k cyc own).memWf ↔ s.memWf := by
  simp [State.formRing]

theorem memWf_execDieFenceOrder {s : State} (h : s.memWf) (die cyc : Nat) :
    AnswersMemWf (execDieFenceOrder die cyc s) := by
  simp [execDieFenceOrder, h]

@[simp] theorem State.memWf_loseContexts {s : State} (h : s.memWf) (d : Nat) (keep : Nat → Bool) :
    (s.loseContexts d keep).1.memWf := by
  unfold State.loseContexts
  generalize (List.range 1024).filter _ = l
  exact State.memWf_foldl _ (fun _ _ hs => State.memWf_setCtx hs ..) _ h

@[simp] theorem State.memWf_errBoth {s : State} (h : s.memWf) (asid code die info0 info1 : Nat) :
    (s.errBoth asid code die info0 info1).memWf := by
  simp [State.errBoth, h]

@[simp] theorem State.memWf_reportLost {s : State} (h : s.memWf) (d : Nat) (l : List (Nat × Nat)) :
    (s.reportLost d l).memWf := State.memWf_foldl _ (fun _ _ hs => State.memWf_errBoth hs ..) _ h

@[simp] theorem State.memWf_endDie (s : State) (d : Nat) : (s.endDie d).memWf ↔ s.memWf := by simp [State.endDie]

@[simp] theorem State.memWf_reindexAll (s : State) (dies : List Nat) (idx : Nat) :
    (s.reindexAll dies idx).memWf ↔ s.memWf := by
  simp [State.reindexAll]

@[simp] theorem State.memWf_loseDie {s : State} (h : s.memWf) (d x F : Nat) : (s.loseDie d x F).memWf := by
  refine State.memWf_reportLost (State.memWf_foldl _ (fun s a hs => State.memWf_errTo hs ..) _ ?_) ..
  simp [h]

@[simp] theorem State.memWf_takeover {s : State} (h : s.memWf) (k : Nat) (r : Ring) (d x y : Nat) :
    (s.takeover k r d x y).memWf := by
  simp [State.takeover, h]

theorem memWf_execColBypassTakeover {s : State} (h : s.memWf) (ring idx : Nat) :
    AnswersMemWf (execColBypassTakeover ring idx s) := by
  unfold execColBypassTakeover
  extract_lets r next
  split
  · trivial
  · exact answersMemWf_of_ite trivial (answersMemWf_of_ite (State.memWf_takeover h ..) (by simp [h]))

@[simp] theorem State.memWf_inbound {s : State} (h : s.memWf) (ring : Nat) (p : Position) :
    AnswersMemWf (s.inbound ring p) := by
  simp [State.inbound, h]

@[simp] theorem State.memWf_inJunction {s : State} (h : s.memWf) (ring up : Nat) (started : Bool) (idle : Nat)
    (lost : List LostSeg) : AnswersMemWf (s.inJunction ring up started idle lost) := by
  unfold State.inJunction
  extract_lets r
  split
  · trivial
  · exact answersMemWf_of_ite trivial (by simp [h])

@[simp] theorem State.memWf_farBypass {s : State} (h : s.memWf) (ring idx : Nat) :
    AnswersMemWf (s.farBypass ring idx) := by
  simp [State.farBypass, h]

@[simp] theorem State.memWf_loseAtt {s : State} (h : s.memWf) (d : Nat) : (s.loseAtt d).memWf := by
  refine (State.memWf_updRing ..).2 ((State.memWf_endDie ..).2 ?_)
  refine State.memWf_foldl _ (fun s e hs => State.memWf_foldl _ (fun s t hs => State.memWf_foldl _ (fun s r hs => ?_) _ hs)
    _ hs) _ ((State.memWf_updDie ..).2 h)
  exact State.memWf_cmdError ((State.memWf_updEng ..).2 hs) ..

theorem memWf_execDieFailure {s : State} (h : s.memWf) (die : Nat) (_cause : DieFault) :
    AnswersMemWf (execDieFailure die _cause s) := by
  simp [execDieFailure, h]

@[simp] theorem State.memWf_haltRings (s : State) (f : Nat → Ring → Bool) : (s.haltRings f).memWf ↔ s.memWf := by
  simp [State.haltRings]

@[simp] theorem State.memWf_soft {s : State} (h : s.memWf) (e : SoftError) : AnswersMemWf (s.soft e) := by
  unfold State.soft
  split <;> split <;> simp [h]

theorem memWf_execPatrolScrub {s : State} (h : s.memWf) (die : Nat) : AnswersMemWf (execPatrolScrub die s) := by
  simp [execPatrolScrub, h]

/-! ## Machine/Front -/

@[simp] theorem State.memWf_packetError {s : State} (h : s.memWf) (q die no : Nat) :
    (s.packetError q die no).memWf := by
  simp [State.packetError, h]

@[simp] theorem State.memWf_updFw (s : State) (f : Firmware → Firmware) : (s.updFw f).memWf ↔ s.memWf := by
  simp [State.updFw]

@[simp] theorem State.memWf_frontLoad (s : State) (q pa n : Nat) (acq : Bool) :
    (s.frontLoad q pa n acq).1.memWf ↔ s.memWf := by
  simp [State.frontLoad]

@[simp] theorem State.memWf_frontPage {s : State} (h : s.memWf) (q die va : Nat) : (s.frontPage q die va).1.memWf := by
  simp [State.frontPage, h]

theorem State.memWf_examine {s : State} (h : s.memWf) (q n : Nat) : AnswersMemWf (State.examine q n s) := by
  induction n generalizing s with
  | zero => exact h
  | succ n ih =>
    unfold State.examine
    extract_lets g s1
    have h1 : s1.memWf := (State.memWf_updQueue ..).2 h
    refine answersMemWf_of_ite ((State.memWf_updQueue ..).2 h) (answersMemWf_of_ite ((State.memWf_updQueue ..).2 h)
      (answersMemWf_of_ite h ?_))
    split <;> rename_i e
    · trivial
    · have ht := memWf_of_fst (State.memWf_feResolve h1 ..) e
      extract_lets r
      simp [r, ht]
    · have ht := memWf_of_fst (State.memWf_feResolve h1 ..) e
      extract_lets hd r s2 p s3
      have h2 : s2.memWf := by simp [s2, r, hd, ht]
      refine answersMemWf_of_ite (by simp [hd, ht]) (answersMemWf_of_ite (ih ((State.memWf_updQueue ..).2 h2))
        (answersMemWf_of_ite (State.memWf_packetError h2 ..) (answersMemWf_of_ite ((State.memWf_updQueue ..).2 h2)
        (answersMemWf_of_ite (State.memWf_packetError h2 ..) (answersMemWf_of_ite ?_ (ih ((State.memWf_updQueue ..).2 h2)))))))
      simp [s3, h2]
    · exact State.memWf_packetError (memWf_of_fst (State.memWf_feResolve h1 ..) e) ..

theorem State.memWf_exam {s : State} (h : s.memWf) (q : Nat) : AnswersMemWf (s.exam q) := State.memWf_examine h ..

theorem State.memWf_nextHead {s : State} (h : s.memWf) (q : Nat) : AnswersMemWf (s.nextHead q) := by
  unfold State.nextHead
  extract_lets g k n left
  refine answersMemWf_of_ite (answersMemWf_of_ite ?_ ?_) (State.memWf_exam h q)
  · exact State.memWf_exam ((State.memWf_updQueue ..).2 h) q
  · exact (State.memWf_updQueue ..).2 h

theorem State.memWf_wake {s : State} (h : s.memWf) {start : Nat → State → State}
    (hs : ∀ q s, s.memWf → (start q s).memWf) : AnswersMemWf (s.wake start) := by
  refine answersMemWf_foldl (fun o c ho => ?_) _ h
  cases o with
  | next s =>
    refine answersMemWf_of_ite (State.memWf_exam ?_ _) ?_
    all_goals
      split
      · exact hs _ _ ho
      · exact ho
  | fault r => trivial
  | refused r => trivial

theorem memWf_execQueueDoorbellWrite {s : State} (h : s.memWf) (q : Nat) :
    AnswersMemWf (execQueueDoorbellWrite q s) := by
  unfold execQueueDoorbellWrite
  split
  · exact answersMemWf_of_ite h (State.memWf_exam h q)
  · exact State.memWf_exam h q

theorem memWf_execQcbCommit {s : State} (h : s.memWf) (q gen : Nat) : AnswersMemWf (execQcbCommit q gen s) := by
  unfold execQcbCommit State.commitQcb
  split <;> simp [h]

/-- The states that starting a packet gives have their memory in canonical form. -/
def Act.MemWf : Act → Prop
  | .go s _ => s.memWf
  | .wait s _ _ => s.memWf
  | .bad s _ => s.memWf
  | .later => True
  | .noMem _ => True

@[simp] theorem Act.memWf_go (s : State) (p : Packet) : (Act.go s p).MemWf ↔ s.memWf := Iff.rfl

@[simp] theorem Act.memWf_wait (s : State) (p : Packet) (page : Option Nat) :
    (Act.wait s p page).MemWf ↔ s.memWf := Iff.rfl

@[simp] theorem Act.memWf_bad (s : State) (p : Packet) : (Act.bad s p).MemWf ↔ s.memWf := Iff.rfl
@[simp] theorem Act.memWf_later : Act.later.MemWf := trivial

@[simp] theorem Act.memWf_ite (p : Prop) [Decidable p] (a b : Act) :
    (if p then a else b).MemWf ↔ if p then a.MemWf else b.MemWf := by split <;> rfl

theorem Act.memWf_of_ite {p : Prop} [Decidable p] {a b : Act} (ha : a.MemWf) (hb : b.MemWf) :
    (if p then a else b).MemWf := by
  split <;> assumption

theorem State.memWf_startPacket {s : State} (h : s.memWf) (q ty : Nat) (name : String) {f : State → Packet → Act}
    (hf : ∀ s p, s.memWf → (f s p).MemWf) : AnswersMemWf (s.startPacket q ty name f) := by
  unfold State.startPacket
  split
  · trivial
  · extract_lets g p s1
    have ha := hf (s1.updQueue q GQueue.begin_) p (by simp [s1, h])
    split <;> rename_i e <;> rw [e] at ha
    · trivial
    · trivial
    · exact State.memWf_packetError ha ..
    · exact (State.memWf_updQueue ..).2 ha
    · exact State.memWf_nextHead ((State.memWf_updQueue ..).2 ha) _

@[simp] theorem Act.memWf_page {s : State} (h : s.memWf) (q : Nat) (p : Packet) (va : Nat) :
    (Act.page s q p va).MemWf :=
  State.memWf_frontPage h ..

@[simp] theorem State.memWf_packetAt {s : State} (h : s.memWf) (q : Nat) (p : Packet) (va : Nat) (k : Acc)
    {f : State → Nat → Act} (hf : ∀ s pa, s.memWf → (f s pa).MemWf) : (s.packetAt q p va k f).MemWf := by
  have hr := State.memWf_feResolve h (s.queue q).asid va k
  unfold State.packetAt
  split <;> rename_i e <;> rw [e] at hr
  · exact hf _ _ hr
  · exact Act.memWf_page hr ..
  · trivial
  · exact hr

@[simp] theorem State.memWf_packetStore {s : State} (h : s.memWf) (q : Nat) (p : Packet) (va pa n op v : Nat)
    (rel : Option Nat) :
    (s.packetStore q p va pa n op v rel).1.memWf := by
  simp [State.packetStore, h]

theorem memWf_execGuldonNop {s : State} (h : s.memWf) (q : Nat) : AnswersMemWf (execGuldonNop q s) :=
  State.memWf_startPacket h _ _ _ fun s p hs => by simp [hs]

@[simp] theorem State.memWf_packetLaunch (s : State) (q : Nat) (p : Packet) (img : BitVec 256) :
    (s.packetLaunch q p img).memWf ↔ s.memWf := by
  simp [State.packetLaunch]

@[simp] theorem State.memWf_startPrologue {s : State} (h : s.memWf) (q : Nat) (p : Packet) :
    (s.startPrologue q p).MemWf := by
  unfold State.startPrologue
  extract_lets d u s1
  split <;> simp [s1, h]

theorem memWf_execGuldonLaunch {s : State} (h : s.memWf) (q : Nat) : AnswersMemWf (execGuldonLaunch q s) :=
  State.memWf_startPacket h _ _ _ fun s p hs => by simp [hs]

theorem memWf_execGuldonIlaunch {s : State} (h : s.memWf) (q : Nat) : AnswersMemWf (execGuldonIlaunch q s) :=
  State.memWf_startPacket h _ _ _ fun s p hs => Act.memWf_of_ite hs (Act.memWf_of_ite trivial
    (State.memWf_packetAt hs _ _ _ _ fun s pa hs => by simp [hs]))

@[simp] theorem State.memWf_copyBytes {s : State} (h : s.memWf) (q n : Nat) (p : Packet) :
    (State.copyBytes q n s p).MemWf := by
  induction n generalizing s p with
  | zero => exact h
  | succ n ih =>
    unfold State.copyBytes
    extract_lets src dst
    have hr := State.memWf_feResolve h (s.queue q).asid src .read
    split <;> rename_i e <;> rw [e] at hr
    · rename_i t pa
      have hw := State.memWf_feResolve hr (t.queue q).asid dst .write
      split <;> rename_i e <;> rw [e] at hw
      · exact ih (State.memWf_packetStore ((State.memWf_frontLoad ..).2 hw) ..) _
      · exact Act.memWf_page hw ..
      · trivial
      · exact hw
    · exact Act.memWf_page hr ..
    · trivial
    · exact hr

theorem memWf_execGuldonCopy {s : State} (h : s.memWf) (q : Nat) : AnswersMemWf (execGuldonCopy q s) :=
  State.memWf_startPacket h _ _ _ fun _ _ hs => Act.memWf_of_ite hs (State.memWf_copyBytes hs ..)

theorem memWf_execGuldonSignal {s : State} (h : s.memWf) (q : Nat) : AnswersMemWf (execGuldonSignal q s) :=
  State.memWf_startPacket h _ _ _ fun s p hs => by
    refine Act.memWf_of_ite hs (Act.memWf_of_ite trivial (Act.memWf_of_ite (Act.memWf_of_ite hs ?_) ?_))
    · exact State.memWf_packetAt hs _ _ _ _ fun s pa hs => State.memWf_packetStore hs ..
    · simp [State.packetSem, hs]

@[simp] theorem State.memWf_waitPacket {s : State} (h : s.memWf) (q : Nat) (p : Packet) : (s.waitPacket q p).MemWf := by
  unfold State.waitPacket
  extract_lets p' v
  refine Act.memWf_of_ite h (Act.memWf_of_ite ?_ (Act.memWf_of_ite h ?_))
  · simp [h]
  · exact State.memWf_packetAt h _ _ _ _ fun s pa hs => by simp [hs]

theorem memWf_execGuldonWait {s : State} (h : s.memWf) (q : Nat) : AnswersMemWf (execGuldonWait q s) :=
  answersMemWf_of_ite trivial (State.memWf_startPacket h _ _ _ fun _ _ hs => State.memWf_waitPacket hs ..)

theorem memWf_execGuldonWaitSatisfied {s : State} (h : s.memWf) (q : Nat) :
    AnswersMemWf (execGuldonWaitSatisfied q s) :=
  answersMemWf_of_ite trivial (State.memWf_startPacket h _ _ _ fun s p hs => by
    have hw := State.memWf_waitPacket hs q p
    split
    · trivial
    · exact hw)

theorem memWf_execGuldonLoop {s : State} (h : s.memWf) (q : Nat) : AnswersMemWf (execGuldonLoop q s) :=
  State.memWf_startPacket h _ _ _ fun s p hs => by simp [hs]

theorem memWf_execGuldonCond {s : State} (h : s.memWf) (q : Nat) : AnswersMemWf (execGuldonCond q s) :=
  State.memWf_startPacket h _ _ _ fun s p hs =>
    Act.memWf_of_ite hs (State.memWf_packetAt hs _ _ _ _ fun s pa hs => by simp [hs])

theorem State.memWf_packetPages {s : State} (h : s.memWf) (q : Nat) (p : Packet) (va n : Nat)
    {f : State → (Nat → Nat → Nat) → Nat → Act} (hf : ∀ s rd pa, s.memWf → (f s rd pa).MemWf) :
    (s.packetPages q p va n f).MemWf := by
  unfold State.packetPages
  extract_lets asid pg
  have hr := State.memWf_mapRange h p.die asid .read pg.1 pg.2
  split <;> rename_i e <;> rw [e] at hr
  · exact hf _ _ _ hr
  · trivial
  · trivial
  · split
    · exact Act.memWf_page hr ..
    · exact hr

theorem memWf_execGuldonRestore {s : State} (h : s.memWf) (q : Nat) : AnswersMemWf (execGuldonRestore q s) :=
  State.memWf_startPacket h _ _ _ fun s p hs => by
    extract_lets d
    refine Act.memWf_of_ite hs (State.memWf_packetPages hs _ _ _ _ fun s rd pa hs => ?_)
    split
    · exact hs
    · rename_i u i _
      refine Act.memWf_of_ite hs ?_
      split
      · trivial
      · rename_i x k _
        extract_lets done
        have hd : ∀ s rows, s.memWf → (done s rows).MemWf := by
          intro s rows hs
          have hr := State.memWf_restoreIn hs u i x k (s.die d).cyc rd rows
          unfold done
          split <;> rename_i e <;> rw [e] at hr
          · exact hr
          · exact Act.memWf_of_ite (Act.memWf_page hs ..) trivial
          · exact hr
          · trivial
        exact Act.memWf_of_ite (State.memWf_packetPages hs _ _ _ _ fun s rows _ hs => hd s rows hs) (hd _ _ hs)

theorem memWf_execGuldonDoorbell {s : State} (h : s.memWf) (q : Nat) : AnswersMemWf (execGuldonDoorbell q s) :=
  State.memWf_startPacket h _ _ _ fun s p hs => by simp [hs]

@[simp] theorem State.memWf_prologueTurn (s : State) (q key more : Nat) (done : Bool) :
    (s.prologueTurn q key more done).memWf ↔ s.memWf := by
  simp [State.prologueTurn]

theorem memWf_execPrologueEnd {s : State} (h : s.memWf) (die : Nat) : AnswersMemWf (execPrologueEnd die s) := by
  unfold execPrologueEnd
  repeat' split
  all_goals simp [h]

theorem memWf_execPacketCompletion {s : State} (h : s.memWf) (q pkt : Nat) :
    AnswersMemWf (execPacketCompletion q pkt s) := by
  unfold execPacketCompletion
  extract_lets g s1
  have h1 : s1.memWf := (State.memWf_updQueue ..).2 h
  split
  · trivial
  · rename_i p _
    refine answersMemWf_of_ite trivial (answersMemWf_of_ite h1 ?_)
    have hr := State.memWf_feResolve h1 g.asid p.caddr.toNat .write
    split <;> rename_i e <;> rw [e] at hr
    · exact State.memWf_packetStore hr ..
    · trivial
    · exact State.memWf_err hr ..

theorem memWf_execPageResume {s : State} (h : s.memWf) (die reqno : Nat) :
    AnswersMemWf (execPageResume die reqno s) := by
  refine answersMemWf_foldl (fun o c ho => ?_) _ ((State.memWf_resumePage ..).2 h)
  cases o with
  | next s => exact answersMemWf_of_ite (State.memWf_exam ho _) ho
  | fault r => trivial
  | refused r => trivial

@[simp] theorem State.memWf_dropCommands (s : State) (d u : Nat) : (s.dropCommands d u).memWf ↔ s.memWf := by
  simp [State.dropCommands]

@[simp] theorem State.memWf_endRec {s : State} (h : s.memWf) (d n : Nat) (r : Rec) : (s.endRec d n r).memWf := by
  unfold State.endRec
  extract_lets s1 s2 s3 s4
  have h1 : s1.memWf := State.memWf_foldl _ (fun s u hs => by split <;> simp [hs]) _ h
  have h4 : s4.memWf := by simp [s4, s3, s2, h1]
  simp [h4]

@[simp] theorem State.memWf_resetDie {s : State} (h : s.memWf) (q d : Nat) : (s.resetDie q d).memWf := by
  refine (State.memWf_checkReady ..).2 (State.memWf_foldl _ (fun s p hs => ?_) _ ((State.memWf_updSch ..).2 h))
  split
  · exact hs
  · simp [hs]

@[simp] theorem State.memWf_resetPrologues {s : State} (h : s.memWf) (q : Nat) : (s.resetPrologues q).memWf :=
  State.memWf_foldl _ (fun _ _ hs => (State.memWf_updHost ..).2
    (State.memWf_foldl _ (fun _ _ hs => State.memWf_gone hs _) _ hs)) _ h

@[simp] theorem State.memWf_resetStart {s : State} (h : s.memWf) (q : Nat) : (State.resetStart q s).memWf := by
  unfold State.resetStart
  extract_lets s1 s2 s3 s4 l n s5
  have h3 : s3.memWf := State.memWf_resetPrologues (by simp [s2, s1, h]) _
  have h4 : s4.memWf := State.memWf_foldl _ (fun s d hs => State.memWf_resetDie hs ..) _ h3
  have h5 : s5.memWf := State.memWf_foldl _ (fun s p hs => State.memWf_gone ((State.memWf_dropCommands ..).2 hs) _) _ h4
  simp [h5]

theorem memWf_execQueueReset {s : State} (h : s.memWf) (q : Nat) : AnswersMemWf (execQueueReset q s) := by
  simp [execQueueReset, h]

theorem memWf_execQueueResetComplete {s : State} (h : s.memWf) (q : Nat) :
    AnswersMemWf (execQueueResetComplete q s) := by
  simp [execQueueResetComplete, h]

/-! ## Machine/Firmware -/

@[simp] theorem State.memWf_takeHandover (s : State) : (s.takeHandover).memWf ↔ s.memWf := by simp [State.takeHandover]

@[simp] theorem State.memWf_wakeAll {s : State} (h : s.memWf) : AnswersMemWf s.wakeAll :=
  State.memWf_wake h fun _ _ hs => State.memWf_resetStart hs _

@[simp] theorem State.memWf_leaveHostPhase (s : State) : (s.leaveHostPhase).memWf ↔ s.memWf := by
  simp [State.leaveHostPhase]

@[simp] theorem State.memWf_memTrained {s : State} (h : s.memWf) : AnswersMemWf (s.memTrained) := by
  simp [State.memTrained, h]

theorem memWf_execHeartbeatWrite {s : State} (h : s.memWf) (core cyc : Nat) :
    AnswersMemWf (execHeartbeatWrite core cyc s) := by
  unfold execHeartbeatWrite
  extract_lets t t'
  have ht : t.memWf := (State.memWf_updFw ..).2 h
  have ht' : t'.memWf := (State.memWf_updFw ..).2 ht
  split
  · simp [ht]
  · simp [ht']

theorem memWf_execWatchdogReset {s : State} (h : s.memWf) (core cyc : Nat) :
    AnswersMemWf (execWatchdogReset core cyc s) :=
  answersMemWf_of_ite trivial (State.memWf_wakeAll (by simp [h]))

theorem memWf_execFirmwareUpdate {s : State} (h : s.memWf) (image version cyc : Nat) :
    AnswersMemWf (execFirmwareUpdate image version cyc s) :=
  answersMemWf_of_ite trivial (answersMemWf_of_ite ((State.memWf_updFw ..).2 h)
    (answersMemWf_of_ite (State.memWf_wakeAll ((State.memWf_updFw ..).2 h)) (by simp [h])))

theorem memWf_execUpdateRollback {s : State} (h : s.memWf) (cyc : Nat) : AnswersMemWf (execUpdateRollback cyc s) := by
  unfold execUpdateRollback
  split
  · trivial
  · extract_lets s1 s2 _ s3
    have h3 : s3.memWf := by simp [s3, s2, s1, h]
    exact answersMemWf_of_ite trivial (State.memWf_wakeAll (State.memWf_errTo h3 ..))

@[simp] theorem State.memWf_assign {s : State} (h : s.memWf) (q core : Nat) : AnswersMemWf (s.assign q core) := by
  simp [State.assign, h]

theorem State.memWf_coreStore {s : State} (h : s.memWf) (core addr n bits : Nat) :
    AnswersMemWf (s.coreStore core addr n bits) :=
  answersMemWf_of_ite trivial (answersMemWf_of_ite ((State.memWf_updFw ..).2 h)
    (answersMemWf_of_ite (State.memWf_wakeAll (by simp [h])) ((State.memWf_updFw ..).2 h)))

/-! ## Machine/Ports -/

@[simp] theorem State.memWf_served (s : State) (r : SpanReq) (o : Ledger) : (s.served r o).memWf ↔ s.memWf := by
  simp [State.served]

theorem memWf_execSpanRequestArrival {s : State} (h : s.memWf) (req : SpanReq) :
    AnswersMemWf (execSpanRequestArrival req s) := by
  unfold execSpanRequestArrival
  refine answersMemWf_of_ite trivial (answersMemWf_of_ite h (answersMemWf_of_ite trivial ?_))
  split
  · simp [h]
  · exact answersMemWf_of_ite h (State.memWf_wakeAll (by simp [h]))
  · refine answersMemWf_of_ite h (answersMemWf_of_ite (by simp [h]) ?_)
    dsimp only
    split
    · exact State.memWf_wakeAll (by simp [h])
    · simp [h]

theorem memWf_execSpanResend {s : State} (h : s.memWf) (msg cyc : Nat) : AnswersMemWf (execSpanResend msg cyc s) := by
  unfold execSpanResend
  split <;> simp [h]

@[simp] theorem State.memWf_storeLost {s : State} (h : s.memWf) (msg : Nat) (m : SpanMsg) :
    (s.storeLost msg m).memWf := by
  unfold State.storeLost
  extract_lets cmd s1
  have h1 : s1.memWf := by simp [s1, h]
  cases cmd with
  | none => exact h1
  | some _ => exact State.memWf_cmdError ((State.memWf_updEng ..).2 h1) ..

theorem memWf_execSpanUndeliverable {s : State} (h : s.memWf) (msg cyc : Nat) :
    AnswersMemWf (execSpanUndeliverable msg cyc s) := by
  unfold execSpanUndeliverable
  repeat' split
  all_goals simp [h]

@[simp] theorem State.memWf_updLr (s : State) (n : Nat) (f : BitVec 1024 → BitVec 1024) :
    (s.updLr n f).memWf ↔ s.memWf := by
  simp [State.updLr]

@[simp] theorem State.memWf_updPorts (s : State) (f : Ports → Ports) : (s.updPorts f).memWf ↔ s.memWf := by
  simp [State.updPorts]

@[simp] theorem State.memWf_countLost (s : State) (n msgs bytes : Nat) :
    (s.countLost n msgs bytes).memWf ↔ s.memWf := by
  simp [State.countLost]

@[simp] theorem State.memWf_msgLost (s : State) (m : Message) : (s.msgLost m).memWf ↔ s.memWf := by simp [State.msgLost]

@[simp] theorem State.memWf_authLost (s : State) (m : Message) : (s.authLost m).memWf ↔ s.memWf := by
  simp [State.authLost]

@[simp] theorem State.memWf_number (s : State) (m : Message) : (s.number m).1.memWf ↔ s.memWf := by simp [State.number]

theorem State.memWf_landBytes {s t : State} {n c : Nat} {l : List Byte} (h : s.memWf) (e : s.landBytes n c l = some t) :
    t.memWf := by
  induction l generalizing s c with
  | nil => exact Option.some.inj e ▸ h
  | cons b l ih =>
    unfold State.landBytes at e
    split at e
    · rename_i ef
      exact ih (memWf_of_fst (State.memWf_feWrite h ..) ef) e
    · simp at e

theorem State.memWf_landRuns {s t : State} {n : Nat} {l : List (Nat × List Byte)} (h : s.memWf)
    (e : s.landRuns n l = some t) : t.memWf := by
  induction l generalizing s with
  | nil => exact Option.some.inj e ▸ h
  | cons r l ih =>
    obtain ⟨u, hu, ht⟩ := Option.bind_eq_some_iff.1 e
    exact ih (State.memWf_landBytes h hu) ht

@[simp] theorem State.memWf_acquireTail (s : State) (n : Nat) : (s.acquireTail n).memWf ↔ s.memWf := by
  simp [State.acquireTail]

@[simp] theorem State.memWf_releaseHeld (s : State) (n : Nat) : (s.releaseHeld n).memWf ↔ s.memWf := by
  simp [State.releaseHeld]

@[simp] theorem State.memWf_lrRelease (s : State) (n off bytes : Nat) : (s.lrRelease n off bytes).memWf ↔ s.memWf := by
  simp [State.lrRelease]

@[simp] theorem State.memWf_lowSeen (s : State) (n : Nat) : (s.lowSeen n).memWf ↔ s.memWf := by simp [State.lowSeen]

@[simp] theorem State.memWf_land {s : State} (h : s.memWf) (m : Message) : (s.land m).memWf := by
  unfold State.land
  extract_lets n l head gapRun padRun gapRec padRec
  split
  · exact (State.memWf_msgLost ..).2 h
  · rename_i e
    have ht := State.memWf_landRuns ((State.memWf_unmet s).2 h) e
    simp [ht]

@[simp] theorem State.memWf_overwrite (s : State) (m : Message) (gone l : List LandRec) :
    (s.overwrite m gone l).1.memWf ↔ s.memWf := by
  induction l generalizing s gone with
  | nil => rfl
  | cons r t ih =>
    unfold State.overwrite
    split
    · rfl
    · simp [ih]

@[simp] theorem State.memWf_overwriteGap {s : State} (h : s.memWf) (n : Nat) (gone : List LandRec) :
    (s.overwriteGap n gone).memWf := by
  unfold State.overwriteGap
  extract_lets msgs bytes num data at_ s1 s2 gap s3
  have h1 : s1.memWf := (State.memWf_countLost ..).2 h
  have h2 : s2.memWf := by
    unfold s2
    generalize hr : s1.unmet.landBytes _ _ _ = r
    cases r with
    | none => exact h1
    | some t => exact State.memWf_landBytes ((State.memWf_unmet _).2 h1) hr
  simp [s3, h2]

@[simp] theorem State.memWf_meetRing {s : State} (h : s.memWf) (m : Message) : (s.meetRing m).memWf := by
  simp [State.meetRing, h]

@[simp] theorem State.memWf_finished (s : State) (m : Message) : (s.finished m).memWf ↔ s.memWf := by
  simp [State.finished]

@[simp] theorem State.memWf_late (s : State) (m : Message) : (s.late m).memWf ↔ s.memWf := by simp [State.late]
@[simp] theorem State.memWf_giveUp (s : State) (m : Message) : (s.giveUp m).memWf ↔ s.memWf := by simp [State.giveUp]

theorem memWf_execUetPacketArrival {s : State} (h : s.memWf) (pkt : UetPacket) :
    AnswersMemWf (execUetPacketArrival pkt s) := by
  simp [execUetPacketArrival, h]

theorem memWf_execIngestMessageLanding {s : State} (h : s.memWf) (idx : Nat) :
    AnswersMemWf (execIngestMessageLanding idx s) := by
  unfold execIngestMessageLanding
  split <;> simp [h]

theorem memWf_execIngestReassemblyTimeout {s : State} (h : s.memWf) (idx cyc : Nat) :
    AnswersMemWf (execIngestReassemblyTimeout idx cyc s) := by
  unfold execIngestReassemblyTimeout
  split <;> simp [h]

theorem memWf_execIngestBufferedLanding {s : State} (h : s.memWf) (idx : Nat) :
    AnswersMemWf (execIngestBufferedLanding idx s) := by
  unfold execIngestBufferedLanding
  split <;> simp [h]

theorem memWf_execSnapshotRequest {s : State} (h : s.memWf) (ring : Nat) :
    AnswersMemWf (execSnapshotRequest ring s) := by
  simp [execSnapshotRequest, h]

theorem memWf_execLandingRingEnable {s : State} (h : s.memWf) (ring : Nat) :
    AnswersMemWf (execLandingRingEnable ring s) := by
  simp [execLandingRingEnable, h]

/-! ## Machine/Security -/

@[simp] theorem State.memWf_updSec (s : State) (f : Security → Security) : (s.updSec f).memWf ↔ s.memWf := by
  simp [State.updSec]

theorem memWf_execKeyInstall {s : State} (h : s.memWf) (index wrapped cyc : Nat) :
    AnswersMemWf (execKeyInstall index wrapped cyc s) := by
  simp [execKeyInstall, h]

theorem memWf_execKeyInstallDone {s : State} (h : s.memWf) (cyc : Nat) : AnswersMemWf (execKeyInstallDone cyc s) := by
  unfold execKeyInstallDone
  repeat' split
  all_goals simp [h]

@[simp] theorem State.memWf_spdm (s : State) (req need : Nat) (params : List Nat) (f : Security → Nat × List Nat) :
    (s.spdm req need params f).memWf ↔ s.memWf := by
  simp [State.spdm]

theorem memWf_execGetVersion {s : State} (h : s.memWf) : AnswersMemWf (execGetVersion s) := by simp [execGetVersion, h]

theorem memWf_execGetCapabilities {s : State} (h : s.memWf) : AnswersMemWf (execGetCapabilities s) := by
  simp [execGetCapabilities, h]

theorem memWf_execNegotiateAlgorithms {s : State} (h : s.memWf) (asym hash : Nat) :
    AnswersMemWf (execNegotiateAlgorithms asym hash s) := by
  simp [execNegotiateAlgorithms, h]

theorem memWf_execGetDigests {s : State} (h : s.memWf) : AnswersMemWf (execGetDigests s) := by simp [execGetDigests, h]

theorem memWf_execGetCertificate {s : State} (h : s.memWf) (slot off len : Nat) :
    AnswersMemWf (execGetCertificate slot off len s) := by
  simp [execGetCertificate, h]

theorem memWf_execChallenge {s : State} (h : s.memWf) (slot nonce : Nat) :
    AnswersMemWf (execChallenge slot nonce s) := by
  simp [execChallenge, h]

theorem memWf_execGetMeasurements {s : State} (h : s.memWf) (index nonce : Nat) :
    AnswersMemWf (execGetMeasurements index nonce s) := by
  simp [execGetMeasurements, h]

theorem memWf_execBudgetWrite {s : State} (h : s.memWf) (watts : Nat) : AnswersMemWf (execBudgetWrite watts s) := by
  simp [execBudgetWrite, State.setBudget, h]

theorem memWf_execPowerArbitration {s : State} (h : s.memWf) (cyc : Nat) :
    AnswersMemWf (execPowerArbitration cyc s) := by
  simp [execPowerArbitration, h]

/-- Nothing has been written after a reset. -/
@[simp] theorem State.memWf_cold (s : State) : s.cold.memWf := rfl

theorem memWf_execModuleReset (s : State) (boot : BootConfig) : AnswersMemWf (execModuleReset boot s) := by
  simp [execModuleReset]

theorem memWf_execRecoveryImage {s : State} (h : s.memWf) (image : Nat) : AnswersMemWf (execRecoveryImage image s) := by
  simp [execRecoveryImage, h]

theorem memWf_execDieCalibrated {s : State} (h : s.memWf) (die : Nat) : AnswersMemWf (execDieCalibrated die s) := by
  unfold execDieCalibrated
  extract_lets s1 s2
  have h1 : s1.memWf := (State.memWf_updDie ..).2 h
  have h2 : s2.memWf := by simp [s2, h1]
  exact answersMemWf_of_ite trivial (answersMemWf_of_ite (by simp [h2]) h1)

@[simp] theorem State.memWf_loseReduced {s : State} (h : s.memWf) : s.loseReduced.memWf :=
  State.memWf_foldl _ (fun _ _ hs => State.memWf_reportLost (State.memWf_loseContexts hs ..) ..) _ h

theorem memWf_execFullServiceStart {s : State} (h : s.memWf) (cyc : Nat) :
    AnswersMemWf (execFullServiceStart cyc s) := by
  simp [execFullServiceStart, h]

@[simp] theorem State.memWf_formShort {s : State} (h : s.memWf) (k cyc : Nat) : AnswersMemWf (s.formShort k cyc) := by
  simp [State.formShort, h]

/-! ## Machine/HostSide -/

@[simp] theorem State.memWf_liveField (s : State) (q hi lo v : Nat) : (s.liveField q hi lo v).memWf ↔ s.memWf := by
  simp [State.liveField]

@[simp] theorem State.memWf_ringField (s : State) (n hi lo v : Nat) : (s.ringField n hi lo v).memWf ↔ s.memWf := by
  simp [State.ringField]

@[simp] theorem State.memWf_lrField (s : State) (n hi lo v : Nat) : (s.lrField n hi lo v).memWf ↔ s.memWf := by
  simp [State.lrField]

@[simp] theorem State.memWf_powerField (s : State) (i : Nat) (floor cap : Option Nat) :
    (s.powerField i floor cap).memWf ↔ s.memWf := by
  simp [State.powerField]

theorem memWf_execRegisterWrite {s : State} (h : s.memWf) (reg : CtlReg) (value : Nat) :
    AnswersMemWf (execRegisterWrite reg value s) := by
  unfold execRegisterWrite
  split <;> simp [h]

@[simp] theorem State.memWf_setAgent (s : State) (k : Nat) (o : Ledger) : (s.setAgent k o).memWf ↔ s.memWf := by
  simp [State.setAgent]

@[simp] theorem State.memWf_agentSend (s : State) (k : Nat) (a : HostAccess) (op : Nat) :
    (s.agentSend k a op).memWf ↔ s.memWf := by
  simp [State.agentSend]

@[simp] theorem State.memWf_hostAccess {s : State} (h : s.memWf) (k : Nat) (a : HostAccess) (name : String) :
    AnswersMemWf (s.hostAccess k a name) := by
  unfold State.hostAccess
  repeat' split
  all_goals simp [h]

/-! ## Machine/Scalar -/

theorem memWf_execSel {s : State} (h : s.memWf) (g : Guard) (b : RBody) :
    AnswersMemWf (execSel g b s) :=
  memWf_issue h _ _ fun c hc => by simp [hc]

theorem memWf_addressOp {s : State} (h : s.memWf) (g : Guard) (a dst : Nat) (ops : List Opnd) (f : Word64 → List Word → Word64) :
    AnswersMemWf (addressOp s g a dst ops f) :=
  memWf_issue h _ _ fun c hc => by simp [hc]

theorem memWf_execAddp {s : State} (h : s.memWf) (g : Guard) (b : RBody) :
    AnswersMemWf (execAddp g b s) := memWf_addressOp h ..

theorem memWf_execLeap {s : State} (h : s.memWf) (g : Guard) (b : RBody) :
    AnswersMemWf (execLeap g b s) := memWf_addressOp h ..

theorem memWf_execAddpi {s : State} (h : s.memWf) (g : Guard) (b : IBody) :
    AnswersMemWf (execAddpi g b s) := memWf_addressOp h ..

theorem memWf_compareOp {s : State} (h : s.memWf) (g : Guard) (j : Nat) (zk : Bool) (ops : List Opnd) (f : List Word → Bool) :
    AnswersMemWf (compareOp s g j zk ops f) :=
  memWf_issue h _ _ fun c hc => by simp [hc]

theorem memWf_execPlog {s : State} (h : s.memWf) (g : Guard) (b : PBody) :
    AnswersMemWf (execPlog g b s) :=
  memWf_issue h _ _ fun c hc => by simp [hc]

theorem memWf_execPmovPred {s : State} (h : s.memWf) (g : Guard) (b : RBody) :
    AnswersMemWf (execPmovPred g b s) :=
  memWf_issue h _ _ fun c hc => by simp [hc]

theorem memWf_execPmovFromPair {s : State} (h : s.memWf) (g : Guard) (b : RBody) :
    AnswersMemWf (execPmovFromPair g b s) :=
  memWf_issue h _ _ fun c hc => by simp [hc]

theorem memWf_execPmovToPair {s : State} (h : s.memWf) (g : Guard) (b : RBody) :
    AnswersMemWf (execPmovToPair g b s) :=
  memWf_issue h _ _ fun c hc => by simp [hc]

theorem memWf_predReduce {s : State} (h : s.memWf) (g : Guard) (b : RBody) (f : Pred → Word) :
    AnswersMemWf (predReduce s g b f) :=
  memWf_issue h _ _ fun c hc => by simp [hc]

theorem memWf_execPany {s : State} (h : s.memWf) (g : Guard) (b : RBody) :
    AnswersMemWf (execPany g b s) := memWf_predReduce h ..

theorem memWf_execPall {s : State} (h : s.memWf) (g : Guard) (b : RBody) :
    AnswersMemWf (execPall g b s) := memWf_predReduce h ..

theorem memWf_execPcnt {s : State} (h : s.memWf) (g : Guard) (b : RBody) :
    AnswersMemWf (execPcnt g b s) := memWf_predReduce h ..

theorem memWf_execPlive {s : State} (h : s.memWf) (g : Guard) (b : IBody) :
    AnswersMemWf (execPlive g b s) :=
  memWf_issue h _ _ fun c hc => by simp [hc]

/-! ## Machine/Dispatch -/

theorem memWf_exec {s : State} (h : s.memWf) (i : Instr) : AnswersMemWf (exec i s) := by
  cases i with
  | add _ _ => exact memWf_scalarR2 h ..
  | sub _ _ => exact memWf_scalarR2 h ..
  | and _ _ => exact memWf_scalarR2 h ..
  | or _ _ => exact memWf_scalarR2 h ..
  | xor _ _ => exact memWf_scalarR2 h ..
  | andn _ _ => exact memWf_scalarR2 h ..
  | shl _ _ => exact memWf_scalarR2 h ..
  | shr _ _ => exact memWf_scalarR2 h ..
  | sra _ _ => exact memWf_scalarR2 h ..
  | rot _ _ => exact memWf_scalarR2 h ..
  | min _ _ => exact memWf_scalarR2 h ..
  | max _ _ => exact memWf_scalarR2 h ..
  | minn _ _ => exact memWf_scalarR2 h ..
  | maxn _ _ => exact memWf_scalarR2 h ..
  | clz _ _ => exact memWf_scalarR1 h ..
  | popc _ _ => exact memWf_scalarR1 h ..
  | brev _ _ => exact memWf_scalarR1 h ..
  | sel _ _ => exact memWf_execSel h ..
  | mul _ _ => exact memWf_scalarR2 h ..
  | mulh _ _ => exact memWf_scalarR2 h ..
  | mulhn _ _ => exact memWf_scalarR2 h ..
  | div _ _ => exact memWf_scalarR2 h ..
  | divn _ _ => exact memWf_scalarR2 h ..
  | rem _ _ => exact memWf_scalarR2 h ..
  | remn _ _ => exact memWf_scalarR2 h ..
  | addI _ _ => exact memWf_scalarI h ..
  | subI _ _ => exact memWf_scalarI h ..
  | andI _ _ => exact memWf_scalarI h ..
  | orI _ _ => exact memWf_scalarI h ..
  | xorI _ _ => exact memWf_scalarI h ..
  | andnI _ _ => exact memWf_scalarI h ..
  | shlI _ _ => exact memWf_scalarI h ..
  | shrI _ _ => exact memWf_scalarI h ..
  | sraI _ _ => exact memWf_scalarI h ..
  | rotI _ _ => exact memWf_scalarI h ..
  | minI _ _ => exact memWf_scalarI h ..
  | maxI _ _ => exact memWf_scalarI h ..
  | minnI _ _ => exact memWf_scalarI h ..
  | maxnI _ _ => exact memWf_scalarI h ..
  | mulI _ _ => exact memWf_scalarI h ..
  | divI _ _ => exact memWf_scalarI h ..
  | divnI _ _ => exact memWf_scalarI h ..
  | remI _ _ => exact memWf_scalarI h ..
  | remnI _ _ => exact memWf_scalarI h ..
  | movi _ _ => exact memWf_scalarOp h ..
  | moviH _ _ => exact memWf_scalarOp h ..
  | addp _ _ => exact memWf_execAddp h ..
  | leap _ _ => exact memWf_execLeap h ..
  | addpi _ _ => exact memWf_execAddpi h ..
  | cmp _ _ => exact memWf_compareOp h ..
  | cmpi _ _ => exact memWf_compareOp h ..
  | plog _ _ => exact memWf_execPlog h ..
  | pmovPred _ _ => exact memWf_execPmovPred h ..
  | pmovFromPair _ _ => exact memWf_execPmovFromPair h ..
  | pmovToPair _ _ => exact memWf_execPmovToPair h ..
  | pany _ _ => exact memWf_execPany h ..
  | pall _ _ => exact memWf_execPall h ..
  | pcnt _ _ => exact memWf_execPcnt h ..
  | plive _ _ => exact memWf_execPlive h ..
  | br _ _ => exact memWf_execBr h ..
  | bri _ _ => exact memWf_execBri h ..
  | call _ _ => exact memWf_execCall h ..
  | calli _ _ => exact memWf_execCalli h ..
  | ret g b => exact memWf_execRet h g b
  | loop _ _ => exact memWf_execLoop h ..
  | lbrk g b => exact memWf_execLbrk h g b
  | lidx _ _ => exact memWf_execLidx h ..
  | nop g b => exact memWf_execNop h g b
  | yieldI g b => exact memWf_execYieldI h g b
  | exit g b => exact memWf_execExit h g b
  | trap _ _ => exact memWf_execTrap h ..
  | launch _ _ => exact memWf_launchOp h ..
  | launchP _ _ => exact memWf_launchOp h ..
  | shape _ _ => exact memWf_execShape h ..
  | ralloc _ _ => exact memWf_execRalloc h ..
  | join _ _ => exact memWf_execJoin h ..
  | leave _ _ => exact memWf_execLeave h ..
  | cbar _ _ => exact memWf_execCbar h ..
  | rng _ _ => exact memWf_execRng h ..
  | rngset _ _ => exact memWf_rngsetOp h ..
  | rngsetSplit _ _ => exact memWf_rngsetOp h ..
  | rsub _ _ => exact memWf_execRsub h ..
  | segdone g b => exact memWf_execSegdone h g b
  | rtag _ _ => exact memWf_execRtag h ..
  | ldN8 _ _ => exact memWf_plainLoad h ..
  | ldI8 _ _ => exact memWf_plainLoad h ..
  | ldN16 _ _ => exact memWf_plainLoad h ..
  | ldI16 _ _ => exact memWf_plainLoad h ..
  | ld32 _ _ => exact memWf_plainLoad h ..
  | ld64 _ _ => exact memWf_plainLoad h ..
  | st8 _ _ => exact memWf_plainStore h ..
  | st16 _ _ => exact memWf_plainStore h ..
  | st32 _ _ => exact memWf_plainStore h ..
  | st64 _ _ => exact memWf_execSt64 h ..
  | ldc32 _ _ => exact memWf_plainLoad h ..
  | ldc64 _ _ => exact memWf_plainLoad h ..
  | ldOrdered _ _ _ => exact memWf_execLdOrdered h ..
  | stOrdered _ _ _ => exact memWf_execStOrdered h ..
  | fence g b w => exact memWf_execFence h g b w
  | pref _ _ => exact memWf_execPref h ..
  | aadd _ _ _ => exact memWf_atomicOp h ..
  | aand _ _ _ => exact memWf_atomicOp h ..
  | aor _ _ _ => exact memWf_atomicOp h ..
  | axor _ _ _ => exact memWf_atomicOp h ..
  | amin _ _ _ => exact memWf_atomicOp h ..
  | amax _ _ _ => exact memWf_atomicOp h ..
  | axchg _ _ _ => exact memWf_atomicOp h ..
  | acas _ _ _ => exact memWf_atomicOp h ..
  | ldt _ _ => exact memWf_execLdt h ..
  | stt _ _ => exact memWf_execStt h ..
  | ldv _ _ => exact memWf_vectorLoad h ..
  | ldvCol _ _ => exact memWf_vectorLoad h ..
  | ldvIdx _ _ => exact memWf_vectorLoad h ..
  | stv _ _ => exact memWf_vectorStore h ..
  | stvCol _ _ => exact memWf_vectorStore h ..
  | stvIdx _ _ => exact memWf_vectorStore h ..
  | rdf _ _ => exact memWf_execRdf h ..
  | fill _ _ => exact memWf_execFill h ..
  | waits _ _ => exact memWf_execWaits h ..
  | waitsDec _ _ => exact memWf_execWaitsDec h ..
  | sig _ _ => exact memWf_execSig h ..
  | semset _ _ => exact memWf_execSemset h ..
  | semrd _ _ => exact memWf_execSemrd h ..
  | qcnt _ _ => exact memWf_execQcnt h ..
  | qdrn _ _ => exact memWf_execQdrn h ..
  | lease _ _ => exact memWf_execLease h ..
  | unlease g b => exact memWf_execUnlease h g b
  | chain _ _ => exact memWf_execChain h ..
  | vadd _ _ => exact memWf_typed2 h ..
  | vsub _ _ => exact memWf_typed2 h ..
  | vmul _ _ => exact memWf_typed2 h ..
  | vfma _ _ => exact memWf_laneOp h ..
  | vmin _ _ => exact memWf_typed2 h ..
  | vmax _ _ => exact memWf_typed2 h ..
  | vabs _ _ => exact memWf_typed1 h ..
  | vneg _ _ => exact memWf_typed1 h ..
  | vand _ _ => exact memWf_lane2 h ..
  | vor _ _ => exact memWf_lane2 h ..
  | vxor _ _ => exact memWf_lane2 h ..
  | vshl _ _ => exact memWf_execVshl h ..
  | vshr _ _ => exact memWf_execVshr h ..
  | vsra _ _ => exact memWf_execVsra h ..
  | vcmp _ _ => exact memWf_execVcmp h ..
  | vcvt _ _ => exact memWf_laneOp h ..
  | vrcp _ _ => exact memWf_transcOp h ..
  | vrsq _ _ => exact memWf_transcOp h ..
  | vexp2 _ _ => exact memWf_transcOp h ..
  | vlog2 _ _ => exact memWf_transcOp h ..
  | vsinc _ _ => exact memWf_transcOp h ..
  | vred _ _ => exact memWf_execVred h ..
  | vscan _ _ => exact memWf_execVscan h ..
  | vperm _ _ => exact memWf_laneOp h ..
  | vshufRot _ _ => exact memWf_laneOp h ..
  | vshufSlide _ _ => exact memWf_laneOp h ..
  | vshufZiplo _ _ => exact memWf_laneOp h ..
  | vshufZiphi _ _ => exact memWf_laneOp h ..
  | vshufUnze _ _ => exact memWf_laneOp h ..
  | vshufUnzo _ _ => exact memWf_laneOp h ..
  | vshufRev _ _ => exact memWf_laneOp h ..
  | vbcast _ _ => exact memWf_laneOp h ..
  | vbcastL _ _ => exact memWf_laneOp h ..
  | vmov _ _ => exact memWf_laneOp h ..
  | vmovX _ _ => exact memWf_execVmovX h ..
  | vmovI _ _ => exact memWf_execVmovI h ..
  | vsel _ _ => exact memWf_execVsel h ..
  | viota _ _ => exact memWf_laneOp h ..
  | viotaP _ _ => exact memWf_execViotaP h ..
  | pushc _ _ => exact memWf_execPushc h ..
  | popcV _ _ => exact memWf_execPopcV h ..
  | popcD _ _ => exact memWf_execPopcD h ..
  | popcClr _ _ => exact memWf_execPopcClr h ..
  | gets _ _ => exact memWf_execGets h ..
  | sets _ _ => exact memWf_execSets h ..
  | eret g b => exact memWf_execEret h g b
  | wfi g b => exact memWf_execWfi h g b
  | ctxsv _ _ => exact memWf_execCtxsv h ..
  | ctxld _ _ => exact memWf_execCtxld h ..
  | tlbinvPage _ _ _ => exact memWf_execTlbinvPage h ..
  | tlbinvAsid _ _ _ => exact memWf_execTlbinvAsid h ..
  | tlbinvAll _ _ _ => exact memWf_execTlbinvAll h ..
  | rtabw _ _ => exact memWf_execRtabw h ..
  | rtabwWin _ _ => exact memWf_execRtabwWin h ..
  | sptw _ _ => exact memWf_sptwOp h ..
  | sptwRd _ _ => exact memWf_sptwOp h ..
  | mma _ _ => exact memWf_pushOp h ..
  | xld _ _ => exact memWf_pushOp h ..
  | accrd _ _ => exact memWf_pushOp h ..
  | accld _ _ => exact memWf_pushOp h ..
  | tcopy _ _ => exact memWf_pushOp h ..
  | tmcast _ _ => exact memWf_pushOp h ..
  | twin _ _ => exact memWf_pushOp h ..
  | tfill _ _ => exact memWf_pushOp h ..
  | scat _ _ => exact memWf_pushOp h ..
  | attn _ _ => exact memWf_pushOp h ..
  | kvapp _ _ => exact memWf_pushOp h ..
  | kvrot _ _ => exact memWf_pushOp h ..
  | kvevict _ _ => exact memWf_pushOp h ..
  | undefinedInstruction x => exact memWf_execUndefinedInstruction h x
  | engineCommandStart _ _ _ _ => exact memWf_execEngineCommandStart h ..
  | engineCommandComplete _ _ _ _ => exact memWf_execEngineCommandComplete h ..
  | tmcastGranuleDelivery _ _ _ _ => exact memWf_execTmcastGranuleDelivery h ..
  | enginePageResume _ _ _ _ => exact memWf_execEnginePageResume h ..
  | mmaDrain _ _ _ => exact memWf_execMmaDrain h ..
  | chainComplete _ _ _ => exact memWf_execChainComplete h ..
  | leaseGrant _ _ _ => exact memWf_execLeaseGrant h ..
  | leaseExpiry _ _ _ => exact memWf_execLeaseExpiry h ..
  | queueDelivery _ _ _ => exact memWf_execQueueDelivery h ..
  | postedStoreAck _ => exact memWf_execPostedStoreAck h ..
  | launchRecordAccept _ _ => exact memWf_execLaunchRecordAccept h ..
  | taskPlacement _ _ _ => exact memWf_execTaskPlacement h ..
  | parkedRestore _ _ _ => exact memWf_execParkedRestore h ..
  | timeSliceExpiry _ _ _ => exact memWf_execTimeSliceExpiry h ..
  | priorityAging _ _ => exact memWf_execPriorityAging h ..
  | starvationOrdering _ _ => exact memWf_execStarvationOrdering h ..
  | stealRequest _ _ _ _ => exact memWf_execStealRequest h ..
  | stealBackoffExpiry _ _ _ => exact memWf_execStealBackoffExpiry h ..
  | cohortBarrierComplete _ _ _ => exact memWf_execCohortBarrierComplete h ..
  | futureRetry _ _ => exact memWf_execFutureRetry h ..
  | counterLowering _ _ _ => exact memWf_execCounterLowering h ..
  | shapeConfirmation _ _ _ => exact memWf_execShapeConfirmation h ..
  | tailRecordEntry _ _ _ => exact memWf_execTailRecordEntry h ..
  | pageWalkComplete _ _ => exact memWf_execPageWalkComplete h ..
  | pageResume _ _ => exact memWf_execPageResume h ..
  | evictionStart _ _ _ _ => exact memWf_execEvictionStart h ..
  | evictionShootdownDone _ => exact memWf_execEvictionShootdownDone h ..
  | ringSlot _ => exact memWf_execRingSlot h ..
  | colBypassTakeover _ _ => exact memWf_execColBypassTakeover h ..
  | dieFenceOrder _ _ => exact memWf_execDieFenceOrder h ..
  | ringImageArrival _ => exact memWf_execRingImageArrival h ..
  | ringImageReread _ _ _ => exact memWf_execRingImageReread h ..
  | laneTest _ _ => exact memWf_execLaneTest h ..
  | patrolScrub _ => exact memWf_execPatrolScrub h ..
  | queueDoorbellWrite _ => exact memWf_execQueueDoorbellWrite h ..
  | qcbCommit _ _ => exact memWf_execQcbCommit h ..
  | queueReset _ => exact memWf_execQueueReset h ..
  | queueResetComplete _ => exact memWf_execQueueResetComplete h ..
  | guldonNop _ => exact memWf_execGuldonNop h ..
  | guldonLaunch _ => exact memWf_execGuldonLaunch h ..
  | guldonIlaunch _ => exact memWf_execGuldonIlaunch h ..
  | guldonCopy _ => exact memWf_execGuldonCopy h ..
  | guldonSignal _ => exact memWf_execGuldonSignal h ..
  | guldonWait _ => exact memWf_execGuldonWait h ..
  | guldonWaitSatisfied _ => exact memWf_execGuldonWaitSatisfied h ..
  | guldonLoop _ => exact memWf_execGuldonLoop h ..
  | guldonCond _ => exact memWf_execGuldonCond h ..
  | guldonRestore _ => exact memWf_execGuldonRestore h ..
  | guldonDoorbell _ => exact memWf_execGuldonDoorbell h ..
  | prologueEnd _ => exact memWf_execPrologueEnd h ..
  | packetCompletion _ _ => exact memWf_execPacketCompletion h ..
  | heartbeatWrite _ _ => exact memWf_execHeartbeatWrite h ..
  | watchdogReset _ _ => exact memWf_execWatchdogReset h ..
  | firmwareUpdate _ _ _ => exact memWf_execFirmwareUpdate h ..
  | updateRollback _ => exact memWf_execUpdateRollback h ..
  | spanRequestArrival _ => exact memWf_execSpanRequestArrival h ..
  | spanResend _ _ => exact memWf_execSpanResend h ..
  | spanUndeliverable _ _ => exact memWf_execSpanUndeliverable h ..
  | ingestMessageLanding _ => exact memWf_execIngestMessageLanding h ..
  | ingestReassemblyTimeout _ _ => exact memWf_execIngestReassemblyTimeout h ..
  | ingestBufferedLanding _ => exact memWf_execIngestBufferedLanding h ..
  | snapshotRequest _ => exact memWf_execSnapshotRequest h ..
  | keyInstall _ _ _ => exact memWf_execKeyInstall h ..
  | keyInstallDone _ => exact memWf_execKeyInstallDone h ..
  | budgetWrite _ => exact memWf_execBudgetWrite h ..
  | powerArbitration _ => exact memWf_execPowerArbitration h ..
  | getVersion => exact memWf_execGetVersion h ..
  | getCapabilities => exact memWf_execGetCapabilities h ..
  | negotiateAlgorithms _ _ => exact memWf_execNegotiateAlgorithms h ..
  | getDigests => exact memWf_execGetDigests h ..
  | getCertificate _ _ _ => exact memWf_execGetCertificate h ..
  | challenge _ _ => exact memWf_execChallenge h ..
  | getMeasurements _ _ => exact memWf_execGetMeasurements h ..
  | moduleReset boot => exact memWf_execModuleReset s boot
  | dieCalibrated _ => exact memWf_execDieCalibrated h ..
  | fullServiceStart _ => exact memWf_execFullServiceStart h ..
  | registerWrite _ _ => exact memWf_execRegisterWrite h ..
  | dieFailure g b => exact memWf_execDieFailure h g b
  | uetPacketArrival _ => exact memWf_execUetPacketArrival h ..
  | landingRingEnable _ => exact memWf_execLandingRingEnable h ..
  | recoveryImage _ => exact memWf_execRecoveryImage h ..
  | applicationCoreAccess _ => exact State.memWf_hostAccess h ..
  | deviceMemoryAccess _ => exact State.memWf_hostAccess h ..

/-! ## Machine/Runtime -/

@[simp] theorem State.memWf_descWrite {s : State} (h : s.memWf) (asid va n v : Nat) :
    (s.descWrite asid va n v).1.memWf := by
  unfold State.descWrite
  split <;> rename_i e <;> have ht := memWf_of_fst (State.memWf_feResolve h ..) e
  · split <;> simp [ht]
  · exact ht

theorem State.memWf_talloc {s : State} (h : s.memWf) (die tile asid handle fmt : Nat) (extent : List Nat) (pad : Nat)
    (strict : Bool) : AnswersMemWf (s.talloc die tile asid handle fmt extent pad strict) := by
  unfold State.talloc
  extract_lets size
  refine answersMemWf_of_ite trivial ?_
  split
  · trivial
  · split
    · rename_i e
      exact (State.memWf_updTile ..).2 (memWf_of_fst (State.memWf_descWrite h ..) e)
    · trivial

theorem State.memWf_tfree {s : State} (h : s.memWf) (die tile asid handle : Nat) :
    AnswersMemWf (s.tfree die tile asid handle) := by
  unfold State.tfree
  split
  · trivial
  · refine answersMemWf_of_ite trivial ?_
    extract_lets va
    split
    · rename_i e
      have ht := memWf_of_fst (State.memWf_feRead h ..) e
      split
      rename_i e
      exact (State.memWf_updTile ..).2 (memWf_of_fst (State.memWf_descWrite ht ..) e)
    · trivial

@[simp] theorem State.memWf_placeFirmware (s : State) (die asid pc : Nat) :
    (s.placeFirmware die asid pc).memWf ↔ s.memWf := by
  simp [State.placeFirmware]

theorem State.memWf_move {s : State} (h : s.memWf) (m : Move) : AnswersMemWf (s.move m) := by
  cases m with
  | talloc die tile asid handle fmt extent pad strict =>
    exact State.memWf_talloc h die tile asid handle fmt extent pad strict
  | tfree _ _ _ _ => exact State.memWf_tfree h ..
  | seqCall _ _ _ => exact answersMemWf_of_ite ((State.memWf_updDie ..).2 h) trivial
  | ctxCall _ _ _ => exact answersMemWf_of_ite (State.memWf_setCtx h ..) trivial
  | place ring pos seg =>
    rw [State.move]
    split
    · trivial
    · exact (State.memWf_updRing ..).2 h
  | elem _ _ _ _ _ => simp [State.move, h]
  | firmware _ _ _ => exact answersMemWf_of_ite trivial ((State.memWf_placeFirmware ..).2 h)
  | note _ _ => exact answersMemWf_of_ite trivial ((State.memWf_note ..).2 h)
  | stale _ _ _ => exact State.memWf_stale h ..
  | units _ _ _ _ => exact State.memWf_units h ..
  | evictRead _ => exact State.memWf_evictRead h ..
  | inbound _ _ => exact State.memWf_inbound h ..
  | inJunction _ _ _ _ _ => exact State.memWf_inJunction h ..
  | farBypass _ _ => exact State.memWf_farBypass h ..
  | assign _ _ => exact State.memWf_assign h ..
  | coreStore _ _ _ _ => exact State.memWf_coreStore h ..
  | soft _ => exact State.memWf_soft h ..
  | formShort _ _ => exact State.memWf_formShort h ..
  | memTrained => exact State.memWf_memTrained h
  | hostLoss => exact (State.memWf_haltRings ..).2 h
  | portLoss _ => exact (State.memWf_haltRings ..).2 h
  | issue _ _ => simp [State.move, h]
  | event _ => trivial

theorem State.memWf_runtime {s : State} (h : s.memWf) (m : Move) : AnswersMemWf (s.runtime m) :=
  answersMemWf_of_ite trivial (State.memWf_move h m)

/-! ## Machine/Agenda -/

/-- The state that comes before the next word, if one does, has its memory in canonical form. -/
def Fetched.MemWf : Fetched → Prop
  | .state t => t.memWf
  | .word _ => True
  | .nothing => True
  | .noMem _ => True

theorem Fetched.memWf_of_ite {p : Prop} [Decidable p] {a b : Fetched} (ha : a.MemWf) (hb : b.MemWf) :
    (if p then a else b).MemWf := by split <;> assumption

theorem Cur.memWf_fetch {c : Cur} (h : c.s.memWf) : c.fetch.MemWf := by
  unfold Cur.fetch
  extract_lets d pc trapF
  have ht : ∀ code cls, (trapF code cls).MemWf := fun code cls => State.memWf_takeTrap h ..
  split
  · exact Fetched.memWf_of_ite (ht _ _) (Fetched.memWf_of_ite (State.memWf_takeTrap (by simp [h]) ..) trivial)
  · exact ht _ _
  · exact ht _ _
  · trivial
  · split
    · exact (Cur.memWf_after ..).2 h
    · exact (Cur.memWf_after ..).2 (by simp [h])

theorem State.memWf_fetch {s : State} (h : s.memWf) : s.fetch.MemWf := by
  unfold State.fetch
  extract_lets d q
  split
  · split
    · exact State.memWf_park h ..
    · split
      · exact (State.memWf_switchTo ..).2 h
      · trivial
  · rename_i c e
    have hc := State.memWf_cur h e
    split
    · exact Cur.memWf_joinStart hc
    · split
      · exact (State.memWf_updSeq ..).2 (State.memWf_park ((Cur.memWf_save c).2 hc) ..)
      · split
        · exact State.memWf_prologueCancel ((Cur.memWf_save c).2 hc) ..
        · exact Cur.memWf_fetch hc

theorem State.memWf_issueWord {s : State} (h : s.memWf) : AnswersMemWf s.issueWord := by
  have hf := State.memWf_fetch h
  unfold State.issueWord
  split <;> rename_i e <;> rw [e] at hf
  · exact memWf_exec h _
  · exact hf
  · trivial
  · trivial

theorem State.memWf_issueNext {s : State} (h : s.memWf) : AnswersMemWf s.issueNext := by
  unfold State.issueNext
  split
  · exact State.memWf_issueWord (by simp [h])
  · exact memWf_execRingSlot h _
  · exact State.memWf_formSlot h _
  · exact State.memWf_issueWord h

theorem State.memWf_issueEvent {s : State} (h : s.memWf) (i : Instr) (rest : List Move) :
    AnswersMemWf (s.issueEvent i rest) := by
  unfold State.issueEvent
  split
  · exact State.memWf_issueWord (by simp [h])
  · exact memWf_execRingSlot h _
  · exact State.memWf_formSlot h _
  · exact answersMemWf_of_ite (memWf_exec (by simp [h]) _) trivial

/-! ## Machine/Step -/

theorem memWf_step {s : State} (h : s.memWf) : AnswersMemWf (step s) := by
  unfold step
  split
  · exact State.memWf_issueNext h
  · exact State.memWf_issueEvent h ..
  · exact State.memWf_issueNext (by simp [h])
  · exact State.memWf_runtime (by simp [h]) _

/-- Settles O38: what a step answers, by the word, event or move that it makes. -/
theorem memoryCanonical : Obligations.MemoryCanonical := by
  unfold Obligations.MemoryCanonical
  intro s t h e
  have ht := memWf_step h
  rwa [e] at ht

end Sys2Proof.Machine
end

section
/-! The bytes that a load reads and that a write changes (O11). -/

namespace Sys2Proof.Machine

/-! ## What loads read -/

/-- Words put together, as a number: the word on the right holds the low bits. -/
theorem toNat_append_add {m n : Nat} (x : BitVec n) (y : BitVec m) : (x ++ y).toNat = y.toNat + 2 ^ m * x.toNat := by
  rw [BitVec.toNat_append, Nat.shiftLeft_eq, Nat.mul_comm, ← Nat.two_pow_add_eq_or_of_lt y.isLt, Nat.add_comm]

/-- A read of `m + n` bytes is a read of `m` bytes and one of `n` bytes above it. -/
theorem State.readPa_add (s : State) (pa m n : Nat) :
    s.readPa pa (m + n) = s.readPa pa m + 256 ^ m * s.readPa (pa + m) n := by
  induction m generalizing pa with
  | zero => simp [State.readPa]
  | succ m ih =>
    rw [Nat.add_right_comm, State.readPa, State.readPa, ih, Nat.add_right_comm pa 1 m, Nat.pow_succ', Nat.add_assoc pa m 1]
    ring

theorem State.readPa_one (s : State) (pa : Nat) : s.readPa pa 1 = (s.byteAt pa).toNat := rfl

theorem State.readPa_two (s : State) (pa : Nat) :
    s.readPa pa 2 = (s.byteAt (pa + 1) ++ s.byteAt pa : BitVec 16).toNat := by
  rw [s.readPa_add pa 1 1, toNat_append_add]
  rfl

theorem State.readPa_four (s : State) (pa : Nat) :
    s.readPa pa 4 = (s.byteAt (pa + 3) ++ (s.byteAt (pa + 2) ++ (s.byteAt (pa + 1) ++ s.byteAt pa : BitVec 16) :
      BitVec 24) : BitVec 32).toNat := by
  rw [s.readPa_add pa 3 1, s.readPa_add pa 2 1, s.readPa_two, toNat_append_add (s.byteAt (pa + 3)),
    toNat_append_add (s.byteAt (pa + 2))]
  rfl

/-- The two halves of 64 bits. -/
theorem State.readPa_eight (s : State) (pa : Nat) :
    s.readPa pa 8 = s.readPa pa 4 + 2 ^ 32 * s.readPa (pa + 4) 4 := s.readPa_add pa 4 4

theorem loadEntries_zext {n : Nat} (x : BitVec (8 * n)) : loadEntries (.zext n) x.toNat = [x.setWidth 32] := by
  have hx : x.toNat < 256 ^ n := by
    have := x.isLt
    rwa [Nat.pow_mul] at this
  rw [loadEntries, Nat.mod_eq_of_lt hx, BitVec.ofNat_toNat]

theorem sextN_toNat {n : Nat} (x : BitVec n) : sextN n x.toNat = x.toInt := by
  have hx := x.isLt
  rw [sextN, Nat.mod_eq_of_lt hx, BitVec.toInt_eq_toNat_cond]
  cases n with
  | zero => simp [BitVec.eq_nil x]
  | succ n =>
    have e : 2 * x.toNat < 2 ^ (n + 1) ↔ x.toNat < 2 ^ n := by omega
    simp [e]

theorem loadEntries_sext {n : Nat} (x : BitVec (8 * n)) : loadEntries (.sext n) x.toNat = [x.signExtend 32] := by
  rw [loadEntries, sextN_toNat]; rfl

theorem loadEntries_w32 (x : Word) : loadEntries .w32 x.toNat = [x] := by rw [loadEntries, BitVec.ofNat_toNat, BitVec.setWidth_eq]

/-- 64 bits are two entries, the low half first (R190). -/
theorem loadEntries_w64 (x y : Word) : loadEntries .w64 (x.toNat + 2 ^ 32 * y.toNat) = [x, y] := by
  have hx := x.isLt
  have hy := y.isLt
  have low : BitVec.ofNat 32 (x.toNat + 2 ^ 32 * y.toNat) = x := BitVec.eq_of_toNat_eq (by rw [BitVec.toNat_ofNat]; omega)
  have high : (x.toNat + 2 ^ 32 * y.toNat) / 2 ^ 32 = y.toNat := by omega
  rw [loadEntries, low, high, BitVec.ofNat_toNat, BitVec.setWidth_eq]

/-! ## What a write changes -/

/-- Which control structure answers at an address, and what it holds, does not depend on the memory. -/
theorem State.MemOnly.ctlAt {s t : State} (h : s.MemOnly t) (a : Nat) : t.ctlAt a = s.ctlAt a := by rw [h.eq]; rfl
theorem State.MemOnly.ctlValue {s t : State} (h : s.MemOnly t) (c : Ctl) : t.ctlValue c = s.ctlValue c := by
  rw [h.eq]; cases c <;> rfl

theorem State.byteAt_of_mem {s : State} {a : Nat} (h : s.ctlAt a = none) : s.byteAt a = s.phys.mem.get 0 a := by
  rw [State.byteAt, h]

/-- Where the memory holds the same byte, the same byte is read. -/
theorem State.MemOnly.byteAt_eq {s t : State} (h : s.MemOnly t) {a : Nat} (e : t.phys.mem.get 0 a = s.phys.mem.get 0 a) :
    t.byteAt a = s.byteAt a := by
  rw [State.byteAt, State.byteAt, h.ctlAt, e]
  cases s.ctlAt a with
  | none => rfl
  | some c => exact congrArg (fun v => BitVec.ofNat 8 (v / 256 ^ c.2)) (h.ctlValue c.1)

theorem State.byteAt_writePa_in {s : State} {pa : Nat} (h : s.ctlAt pa = none) (n v : Nat) {k : Nat} (hk : k < n)
    (hc : s.ctlAt (pa + k) = none) : (s.writePa pa n v).byteAt (pa + k) = BitVec.ofNat 8 (v / 256 ^ k) := by
  have hc' : (s.writePa pa n v).ctlAt (pa + k) = none := by rw [(State.writePa_memOnly h n v).ctlAt, hc]
  rw [State.byteAt_of_mem hc', State.writePa_in h n v hk]

theorem State.byteAt_writePa_out {s : State} {pa : Nat} (h : s.ctlAt pa = none) (n v : Nat) {a : Nat}
    (ha : a < pa ∨ pa + n ≤ a) : (s.writePa pa n v).byteAt a = s.byteAt a :=
  (State.writePa_memOnly h n v).byteAt_eq (State.writePa_out h n v ha)

/-- Settles O11: a read of several bytes is the word its bytes make, and a write changes the memory alone, in its own
range. -/
theorem bytesOfLoadsAndStores : Obligations.BytesOfLoadsAndStores := by
  unfold Obligations.BytesOfLoadsAndStores
  refine ⟨fun s pa => ?_, fun s pa n v h => ⟨fun k hk hc => s.byteAt_writePa_in h n v hk hc, fun a ha => s.byteAt_writePa_out h n v ha⟩⟩
  simp only [Nat.add_zero]
  refine ⟨?_, ?_, ?_, ?_, ?_, ?_⟩
  · exact congrArg some (loadEntries_zext (n := 1) (s.byteAt pa))
  · exact congrArg some (loadEntries_sext (n := 1) (s.byteAt pa))
  · exact congrArg some (by rw [s.readPa_two, loadEntries_zext (n := 2)])
  · exact congrArg some (by rw [s.readPa_two, loadEntries_sext (n := 2)])
  · exact congrArg some (by rw [s.readPa_four, loadEntries_w32])
  · exact congrArg some (by rw [s.readPa_eight, s.readPa_four, s.readPa_four, loadEntries_w64])

end Sys2Proof.Machine
end

section
/-! Writes of control fields: each sets its own field and leaves the others (O59). -/

namespace Sys2Proof.Machine

/-! ## Fields of a word, by their bits -/

theorem testBit_fieldOf {w : Nat} (x : BitVec w) (hi lo i : Nat) :
    (fieldOf x hi lo).testBit i = (decide (i < hi - lo + 1) && x.getLsbD (lo + i)) := by
  rw [fieldOf, Nat.testBit_mod_two_pow, Nat.testBit_div_two_pow, Nat.add_comm i lo]
  rfl

/-- A number with the `l` bits from bit `k` taken out and those of `v` put in: high part, new bits, low part. -/
theorem replaceBits_eq (n v k l : Nat) :
    n - n / 2 ^ k % 2 ^ l * 2 ^ k + v % 2 ^ l * 2 ^ k = 2 ^ k * (2 ^ l * (n / 2 ^ k / 2 ^ l) + v % 2 ^ l) + n % 2 ^ k := by
  have low := Nat.div_add_mod n (2 ^ k)
  have mid := Nat.div_add_mod (n / 2 ^ k) (2 ^ l)
  have cut : n - n / 2 ^ k % 2 ^ l * 2 ^ k = 2 ^ k * (2 ^ l * (n / 2 ^ k / 2 ^ l)) + n % 2 ^ k := by
    apply Nat.sub_eq_of_eq_add
    calc n = 2 ^ k * (2 ^ l * (n / 2 ^ k / 2 ^ l) + n / 2 ^ k % 2 ^ l) + n % 2 ^ k := by rw [mid, low]
      _ = _ := by ring
  rw [cut]; ring

/-- The bits of a word after a write of bits `[hi:lo]`. -/
theorem getLsbD_setField {w : Nat} (x : BitVec w) {hi lo : Nat} (v i : Nat) (h : lo ≤ hi) (hw : i < w) :
    (setField x hi lo v).getLsbD i = if lo ≤ i ∧ i ≤ hi then v.testBit (i - lo) else x.getLsbD i := by
  have hlow : x.toNat % 2 ^ lo < 2 ^ lo := Nat.mod_lt _ (Nat.two_pow_pos _)
  have hmid : v % 2 ^ (hi - lo + 1) < 2 ^ (hi - lo + 1) := Nat.mod_lt _ (Nat.two_pow_pos _)
  rw [setField, BitVec.getLsbD_ofNat, replaceBits_eq, Nat.testBit_two_pow_mul_add _ hlow, decide_eq_true hw, Bool.true_and,
    Nat.testBit_two_pow_mul_add _ hmid]
  by_cases below : i < lo
  · rw [if_pos below, if_neg (by omega), Nat.testBit_mod_two_pow, decide_eq_true below, Bool.true_and]; rfl
  by_cases inside : i - lo < hi - lo + 1
  · rw [if_neg below, if_pos inside, if_pos (by omega), Nat.testBit_mod_two_pow, decide_eq_true inside, Bool.true_and]
  · rw [if_neg below, if_neg inside, if_neg (by omega), Nat.testBit_div_two_pow, Nat.testBit_div_two_pow,
      show i - lo - (hi - lo + 1) + (hi - lo + 1) + lo = i by omega]
    rfl

/-- A written field reads as the value, cut to its width. -/
theorem fieldOf_setField_same {w : Nat} (x : BitVec w) {hi lo : Nat} (v : Nat) (h : lo ≤ hi) (hw : hi < w) :
    fieldOf (setField x hi lo v) hi lo = v % 2 ^ (hi - lo + 1) := by
  apply Nat.eq_of_testBit_eq
  intro i
  rw [testBit_fieldOf, Nat.testBit_mod_two_pow]
  by_cases hi' : i < hi - lo + 1
  · rw [getLsbD_setField x v _ h (by omega), if_pos (by omega), Nat.add_sub_cancel_left]
  · simp [hi']

/-- Bits beside the written field read as before. -/
theorem fieldOf_setField_ne {w : Nat} (x : BitVec w) {hi lo b a : Nat} (v : Nat) (h : lo ≤ hi) (hab : a ≤ b) (hw : b < w)
    (hd : b < lo ∨ hi < a) : fieldOf (setField x hi lo v) b a = fieldOf x b a := by
  apply Nat.eq_of_testBit_eq
  intro i
  rw [testBit_fieldOf, testBit_fieldOf]
  by_cases hi' : i < b - a + 1
  · rw [getLsbD_setField x v _ h (by omega), if_neg (by omega)]
  · simp [hi']

/-- Writing what a field holds changes nothing. -/
theorem setField_fieldOf_self {w : Nat} (x : BitVec w) {hi lo : Nat} (h : lo ≤ hi) :
    setField x hi lo (fieldOf x hi lo) = x := by
  apply BitVec.eq_of_getLsbD_eq
  intro i hi'
  rw [getLsbD_setField x _ i h hi', testBit_fieldOf]
  split
  next inside => rw [decide_eq_true (by omega), Bool.true_and, Nat.add_sub_cancel' inside.1]
  next => rfl

/-- A field of the word `v` that is put into a window around it. -/
theorem setField_window {w : Nat} (x : BitVec w) {hi lo top all : Nat} (v : Nat) (h : lo ≤ hi) (ht : hi ≤ top) (ha : top ≤ all) :
    setField x top 0 (fieldOf (setField x hi lo v) all 0) = setField x hi lo v := by
  apply BitVec.eq_of_getLsbD_eq
  intro i hi'
  rw [getLsbD_setField x _ i (Nat.zero_le top) hi', testBit_fieldOf]
  split
  next inside => rw [decide_eq_true (by omega), Bool.true_and, Nat.sub_zero, Nat.zero_add]
  next outside => rw [getLsbD_setField x v i h hi', if_neg (by omega)]

theorem fieldOf_flag {w : Nat} (x : BitVec w) (i : Nat) : fieldOf x i i = 0 ∨ fieldOf x i i = 1 := by
  have : fieldOf x i i < 2 ^ (i - i + 1) := Nat.mod_lt _ (Nat.two_pow_pos _)
  rw [Nat.sub_self] at this
  omega

/-! ## Landing rings (R385) -/

/-- An enabled ring keeps every field but `en`. -/
theorem lrWriteLow_of_enabled {b : BitVec 1024} (v : Nat) (h : fieldOf b 71 71 = 1) :
    lrWriteLow b v = setField b 71 71 (fieldOf (setField b 92 0 v) 71 71) := by
  rw [lrWriteLow, if_pos h]

/-- A write that leaves a ring disabled sets its fields. -/
theorem lrWriteLow_of_disabled {b : BitVec 1024} {v : Nat} (h : fieldOf b 71 71 = 0) (hv : fieldOf (setField b 92 0 v) 71 71 = 0) :
    lrWriteLow b v = setField b 92 0 v := by
  rw [lrWriteLow, if_neg (by omega), if_neg (by omega)]

theorem lrcb_writeLow (p : Ports) (n v : Nat) : (p.writeLow n v).lrcb.get 0 n = lrWriteLow (p.lrcb.get 0 n) v :=
  FMap.get_set_same ..

/-- The control block after a write of one of its low fields is that of the written word, by R385. -/
theorem lrcb_lrField (s : State) (n hi lo v : Nat) : (s.lrField n hi lo v).ports.lrcb.get 0 n =
    lrWriteLow (s.ports.lrcb.get 0 n) (fieldOf (setField (s.ports.lrcb.get 0 n) hi lo v) 127 0) := lrcb_writeLow ..

theorem lrcb_lrField_of_enabled {s : State} {n hi lo : Nat} (v : Nat) (h : lo ≤ hi) (ht : hi ≤ 92) (en : s.lr n 71 71 = 1) :
    (s.lrField n hi lo v).ports.lrcb.get 0 n =
      setField (s.ports.lrcb.get 0 n) 71 71 (fieldOf (setField (s.ports.lrcb.get 0 n) hi lo v) 71 71) := by
  rw [lrcb_lrField, lrWriteLow_of_enabled _ en, setField_window _ v h ht (by decide)]

theorem lrcb_lrField_of_disabled {s : State} {n hi lo : Nat} {v : Nat} (h : lo ≤ hi) (ht : hi ≤ 92) (en : s.lr n 71 71 = 0)
    (hv : fieldOf (setField (s.ports.lrcb.get 0 n) hi lo v) 71 71 = 0) :
    (s.lrField n hi lo v).ports.lrcb.get 0 n = setField (s.ports.lrcb.get 0 n) hi lo v := by
  have window := setField_window (s.ports.lrcb.get 0 n) v h ht (by decide : 92 ≤ 127)
  rw [lrcb_lrField, lrWriteLow_of_disabled en (by rw [window]; exact hv), window]

/-- A write of a control field other than `en`: it lands in a disabled ring, and an enabled ring keeps its block. -/
theorem lr_lrField (s : State) (n : Nat) {hi lo : Nat} (v : Nat) (h : lo ≤ hi) (ht : hi ≤ 92) (hen : 71 < lo ∨ hi < 71) :
    (s.lr n 71 71 = 0 → (s.lrField n hi lo v).lr n hi lo = v % 2 ^ (hi - lo + 1) ∧
      (s.lrField n hi lo v).lr n 1023 128 = s.lr n 1023 128) ∧
    (s.lr n 71 71 = 1 → (s.lrField n hi lo v).lr n 1023 0 = s.lr n 1023 0) := by
  have flag : fieldOf (setField (s.ports.lrcb.get 0 n) hi lo v) 71 71 = s.lr n 71 71 :=
    fieldOf_setField_ne _ v h le_rfl (by decide) hen
  refine ⟨fun en => ?_, fun en => ?_⟩
  · have e := lrcb_lrField_of_disabled h ht en (flag.trans en)
    simp only [State.lr, e]
    exact ⟨fieldOf_setField_same _ v h (by omega), fieldOf_setField_ne _ v h (by decide) (by decide) (by omega)⟩
  · have e := lrcb_lrField_of_enabled v h ht en
    rw [flag, State.lr, setField_fieldOf_self _ le_rfl] at e
    rw [State.lr, e, State.lr]

/-- A write of `en`: 0 disables the ring, and 1 leaves an enabled ring as it is. -/
theorem lr_lrField_en (s : State) (n v : Nat) :
    (v % 2 = 0 → (s.lrField n 71 71 v).lr n 71 71 = 0) ∧
    (s.lr n 71 71 = 1 → v % 2 = 1 → (s.lrField n 71 71 v).lr n 1023 0 = s.lr n 1023 0) := by
  have flag (x : BitVec 1024) (u : Nat) : fieldOf (setField x 71 71 u) 71 71 = u % 2 :=
    fieldOf_setField_same x u le_rfl (by decide)
  refine ⟨fun hv => ?_, fun en hv => ?_⟩
  · rcases fieldOf_flag (s.ports.lrcb.get 0 n) 71 with en | en
    · rw [State.lr, lrcb_lrField_of_disabled le_rfl (by decide) en (by rw [flag, hv]), flag, hv]
    · rw [State.lr, lrcb_lrField_of_enabled v le_rfl (by decide) en, flag, flag, hv]
  · have same : fieldOf (setField (s.ports.lrcb.get 0 n) 71 71 v) 71 71 = fieldOf (s.ports.lrcb.get 0 n) 71 71 := by
      rw [flag, hv]; exact en.symm
    rw [State.lr, lrcb_lrField_of_enabled v le_rfl (by decide) en, same, setField_fieldOf_self _ le_rfl, State.lr]

theorem lrcb_updLr (s : State) (n : Nat) (f : BitVec 1024 → BitVec 1024) :
    (s.updLr n f).ports.lrcb.get 0 n = f (s.ports.lrcb.get 0 n) := FMap.get_set_same ..

theorem phys_updLr (s : State) (n : Nat) (f : BitVec 1024 → BitVec 1024) : (s.updLr n f).phys = s.phys := rfl

theorem lr_updLr_setField_same (s : State) (n : Nat) {hi lo : Nat} (v : Nat) (h : lo ≤ hi) (hw : hi < 1024) :
    (s.updLr n fun b => setField b hi lo v).lr n hi lo = v % 2 ^ (hi - lo + 1) := by
  rw [State.lr, lrcb_updLr, fieldOf_setField_same _ v h hw]
theorem lr_updLr_setField_ne (s : State) (n : Nat) {hi lo b a : Nat} (v : Nat) (h : lo ≤ hi) (hab : a ≤ b) (hw : b < 1024)
    (hd : b < lo ∨ hi < a) : (s.updLr n fun x => setField x hi lo v).lr n b a = s.lr n b a := by
  rw [State.lr, lrcb_updLr, fieldOf_setField_ne _ v h hab hw hd, State.lr]

/-! ## Queues, error rings, span peers and ASID records -/

theorem queue_updQueue_same (s : State) (q : Nat) (f : GQueue → GQueue) : (s.updQueue q f).queue q = f (s.queue q) :=
  FMap.get_set_same ..
theorem queue_updQueue_ne {p q : Nat} (h : p ≠ q) (s : State) (f : GQueue → GQueue) : (s.updQueue q f).queue p = s.queue p :=
  FMap.get_set_ne h ..

theorem ring_ringField (s : State) (n hi lo v : Nat) :
    (s.ringField n hi lo v).host.rings.get 0 n = setField (s.host.rings.get 0 n) hi lo v := FMap.get_set_same ..

/-- The fields of a span peer entry (R383). -/
theorem fieldOf_peerBits (v : Nat) : fieldOf (peerBits v) 12 0 = v % 2 ^ 13 ∧
    fieldOf (peerBits v) 63 16 = v / 2 ^ 16 % 2 ^ 48 ∧ fieldOf (peerBits v) 127 80 = v / 2 ^ 80 % 2 ^ 48 := by
  have h1 : v % 2 ^ 13 < 2 ^ 13 := Nat.mod_lt _ (by decide)
  have h2 : v / 2 ^ 16 % 2 ^ 48 < 2 ^ 48 := Nat.mod_lt _ (by decide)
  have h3 : v / 2 ^ 80 % 2 ^ 48 < 2 ^ 48 := Nat.mod_lt _ (by decide)
  simp only [fieldOf, peerBits, BitVec.toNat_ofNat]
  generalize v % 2 ^ 13 = a at *
  generalize v / 2 ^ 16 % 2 ^ 48 = b at *
  generalize v / 2 ^ 80 % 2 ^ 48 = c at *
  refine ⟨?_, ?_, ?_⟩ <;> omega

/-- A write of all of an ASID record: the fields that exist take the value, the reserved bits between them stay. -/
theorem asidRec_ctlStore (s : State) (n v : Nat) : (s.ctlStore (.asid n) 0 64 v).asidRec n =
    setField (setField (s.asidRec n) 66 0 (v % 2 ^ 512)) 207 128 (v % 2 ^ 512 / 2 ^ 128) := by
  have hx := (s.asidRec n).isLt
  have whole : s.ctlValue (.asid n) - s.ctlValue (.asid n) / 256 ^ 0 % 256 ^ 64 * 256 ^ 0 + v % 256 ^ 64 * 256 ^ 0 = v % 2 ^ 512 := by
    simp only [State.ctlValue]
    omega
  exact (FMap.get_set_same ..).trans (by rw [whole]; rfl)

theorem asidRec_ctlStore_ne {m n : Nat} (h : m ≠ n) (s : State) (v : Nat) :
    (s.ctlStore (.asid n) 0 64 v).asidRec m = s.asidRec m := FMap.get_set_ne h ..

theorem fieldOf_asidRec_ctlStore (s : State) (n v : Nat) :
    fieldOf ((s.ctlStore (.asid n) 0 64 v).asidRec n) 66 0 = v % 2 ^ 67 ∧
    fieldOf ((s.ctlStore (.asid n) 0 64 v).asidRec n) 207 128 = v / 2 ^ 128 % 2 ^ 80 := by
  rw [asidRec_ctlStore, fieldOf_setField_same _ _ (by decide) (by decide),
    fieldOf_setField_ne _ _ (by decide) (by decide) (by decide) (by decide), fieldOf_setField_same _ _ (by decide) (by decide)]
  constructor <;> omega

/-! ## RAS counters (R403) -/

/-- A fold over a range that acts at one number only. -/
theorem foldl_range_ite {α : Type} (f : α → Nat → α) (w n : Nat) (b : α) :
    (List.range n).foldl (fun a i => if i = w then f a i else a) b = if w < n then f b w else b := by
  induction n with
  | zero => rfl
  | succ n ih =>
    rw [List.range_succ, List.foldl_append, ih, List.foldl_cons, List.foldl_nil]
    by_cases e : n = w
    · subst e; simp
    · rw [if_neg e]
      exact if_congr (by omega) rfl rfl

/-- A write of one counter's bytes clears that counter. -/
theorem rasClear_counter (b : BitVec 512) {w : Nat} (h : w < 16) : rasClear b (4 * w) 4 = setField b (32 * w + 31) (32 * w) 0 := by
  have only (i : Nat) : (4 * i < 4 * w + 4 ∧ 4 * w < 4 * i + 4) ↔ i = w := by omega
  simp only [rasClear, only, foldl_range_ite, if_pos h]

theorem fieldOf_rasClear (b : BitVec 512) {w j : Nat} (hw : w < 16) (hj : j < 16) :
    fieldOf (rasClear b (4 * w) 4) (32 * j + 31) (32 * j) = if j = w then 0 else fieldOf b (32 * j + 31) (32 * j) := by
  rw [rasClear_counter b hw]
  split
  next e => rw [e, fieldOf_setField_same _ _ (by omega) (by omega), Nat.zero_mod]
  next e => exact fieldOf_setField_ne _ _ (by omega) (by omega) (by omega) (by omega)

theorem rasAt_of_ne {i : Nat} (h : i ≠ 16) (s : State) : s.rasAt i = (s.die (if i < 16 then i else i - 1)).ras := by
  rw [State.rasAt, if_neg h]
  split <;> rfl

/-- A write to a RAS block changes that block and no other: the host die's is number 16, the compute dies have those below
and the others those above. -/
theorem rasAt_ctlStore (s : State) (i a n v k : Nat) :
    (s.ctlStore (.ras i) a n v).rasAt k = if k = i then rasClear (s.rasAt i) a n else s.rasAt k := by
  by_cases host : i = 16
  · have e : s.ctlStore (.ras i) a n v = s.updHost fun h => { h with ras := rasClear h.ras a n } := if_pos host
    rw [e, host]
    by_cases hk : k = 16
    · subst hk; rfl
    · rw [if_neg hk]
      simp only [State.rasAt, if_neg hk]
      rfl
  · have e : s.ctlStore (.ras i) a n v = s.updDie (if i < 16 then i else i - 1) fun d => { d with ras := rasClear d.ras a n } :=
      if_neg host
    rw [e]
    by_cases hk : k = i
    · rw [if_pos hk, hk, rasAt_of_ne host, rasAt_of_ne host, State.die_updDie]
    by_cases hk' : k = 16
    · rw [if_neg hk, hk']; rfl
    · rw [if_neg hk, rasAt_of_ne hk', rasAt_of_ne hk', State.die_updDie_ne (by split <;> split <;> omega)]

theorem phys_ctlStore_ras (s : State) (i a n v : Nat) : (s.ctlStore (.ras i) a n v).phys = s.phys := by
  simp only [State.ctlStore]
  split <;> rfl

/-! ## Power (R413) -/

theorem power_powerField (s : State) (i : Nat) (f c : Option Nat) : Claims.power (s.powerField i f c) i =
    setFloorCap (Claims.power s i) (f.getD (fieldOf (Claims.power s i) 15 0)) (c.getD (fieldOf (Claims.power s i) 31 16)) :=
  FMap.get_set_same ..

theorem floor_setFloorCap (b : BitVec 128) (f c : Nat) : fieldOf (setFloorCap b f c) 15 0 = f % 2 ^ 16 := by
  rw [setFloorCap, fieldOf_setField_ne _ _ (by decide) (by decide) (by decide) (by decide),
    fieldOf_setField_same _ _ (by decide) (by decide)]

theorem cap_setFloorCap (b : BitVec 128) (f c : Nat) : fieldOf (setFloorCap b f c) 31 16 = Nat.max (f % 2 ^ 16) (c % 2 ^ 16) := by
  rw [setFloorCap, fieldOf_setField_same _ _ (by decide) (by decide)]
  exact Nat.mod_eq_of_lt (Nat.max_lt.mpr ⟨Nat.mod_lt _ (by decide), Nat.mod_lt _ (by decide)⟩)

theorem floors_eq_sum (s : State) : s.floors = ((List.range 22).map fun i => fieldOf (Claims.power s i) 15 0).sum := by
  rw [List.sum_eq_foldl, List.foldl_map]; rfl

/-! ## REGISTER_WRITE by register -/

/-- The control fields of a queue are fields of its live copy, written as they stand. -/
theorem exec_registerWrite_qcb {r : (Nat → CtlReg) × Nat × Nat} (hr : r ∈ Claims.qcbFields) (s : State) (q v : Nat) :
    exec (.registerWrite (r.1 q) v) s = .next (s.liveField q r.2.1 r.2.2 v) ∧ r.2.2 ≤ r.2.1 ∧ r.2.1 < 1024 := by
  simp only [Claims.qcbFields, List.mem_cons, List.not_mem_nil, or_false] at hr
  rcases hr with rfl | rfl | rfl | rfl | rfl | rfl <;> exact ⟨rfl, by decide, by decide⟩

/-- The control fields of an error ring lie beside its head. -/
theorem exec_registerWrite_ring {r : (Nat → CtlReg) × Nat × Nat} (hr : r ∈ Claims.errorRingFields) (s : State) (n v : Nat) :
    exec (.registerWrite (r.1 n) v) s = .next (s.ringField n r.2.1 r.2.2 v) ∧ r.2.2 ≤ r.2.1 ∧ r.2.1 < 256 ∧
      (127 < r.2.2 ∨ r.2.1 < 96) := by
  simp only [Claims.errorRingFields, List.mem_cons, List.not_mem_nil, or_false] at hr
  rcases hr with rfl | rfl | rfl | rfl <;> exact ⟨rfl, by decide, by decide, by decide⟩

/-- The control fields of a landing ring lie beside `en`, in the low bits of its block. -/
theorem exec_registerWrite_landing {r : (Nat → CtlReg) × Nat × Nat} (hr : r ∈ Claims.landingFields) (s : State) (n v : Nat) :
    exec (.registerWrite (r.1 n) v) s = .next (s.lrField n r.2.1 r.2.2 v) ∧ r.2.2 ≤ r.2.1 ∧ r.2.1 ≤ 92 ∧
      (71 < r.2.2 ∨ r.2.1 < 71) := by
  simp only [Claims.landingFields, List.mem_cons, List.not_mem_nil, or_false] at hr
  rcases hr with rfl | rfl | rfl | rfl | rfl <;> exact ⟨rfl, by decide, by decide, by decide⟩

/-- A write of `tail` leaves the control fields and the words below it. -/
theorem exec_registerWrite_lrTail (s : State) (n v : Nat) : ∃ t, exec (.registerWrite (.lrTail n) v) s = .next t ∧
    t.lr n 255 192 = v % 2 ^ 64 ∧ t.lr n 191 0 = s.lr n 191 0 ∧ t.phys = s.phys :=
  ⟨s.updLr n fun b => setField b 255 192 v, rfl, lr_updLr_setField_same s n v (by decide) (by decide),
    lr_updLr_setField_ne s n v (by decide) (by decide) (by decide) (by decide), phys_updLr ..⟩

/-- A write of 1 to `ovf` clears it (W1C), and a write of 0 leaves it. -/
theorem exec_registerWrite_lrOvf (s : State) (n v : Nat) : ∃ t, exec (.registerWrite (.lrOvf n) v) s = .next t ∧
    t.lr n 640 640 = (if v % 2 = 1 then 0 else s.lr n 640 640) ∧ t.lr n 639 0 = s.lr n 639 0 := by
  by_cases hv : v % 2 = 1
  · refine ⟨s.updLr n fun b => setField b 640 640 0, congrArg Host.Outcome.next (if_pos hv), ?_, ?_⟩
    · rw [if_pos hv]; exact lr_updLr_setField_same s n 0 le_rfl (by decide)
    · exact lr_updLr_setField_ne s n 0 le_rfl (by decide) (by decide) (by decide)
  · exact ⟨s, congrArg Host.Outcome.next (if_neg hv), (if_neg hv).symm, rfl⟩

/-- Settles O59: each register by the lemmas on its structure; the fields named are apart, so a write of one leaves the
others. -/
theorem registerWrites : Obligations.RegisterWrites := by
  unfold Obligations.RegisterWrites
  intro s v
  refine ⟨fun r hr q => ?_, fun r hr n => ?_, fun r hr n => ?_, fun n => ⟨?_, exec_registerWrite_lrTail s n v, exec_registerWrite_lrOvf s n v, ?_, ?_⟩,
    fun i w _ hw => ?_, fun i => ⟨?_, ?_⟩, fun d a => ⟨rfl, rfl⟩, ?_⟩
  · obtain ⟨step, ordered, inside⟩ := exec_registerWrite_qcb hr s q v
    have own := queue_updQueue_same s q fun g => { g with live := setField g.live r.2.1 r.2.2 v }
    refine ⟨_, step, own, ?_, fun p hp => queue_updQueue_ne hp s _, rfl⟩
    rw [State.liveField, own]
    exact fieldOf_setField_same _ v ordered inside
  · obtain ⟨step, ordered, inside, apart⟩ := exec_registerWrite_ring hr s n v
    refine ⟨_, step, ?_, ?_, rfl, rfl⟩
    · rw [ring_ringField, fieldOf_setField_same _ v ordered inside]
    · rw [ring_ringField, fieldOf_setField_ne _ v ordered (by decide) (by decide) apart]
  · obtain ⟨step, ordered, low, apart⟩ := exec_registerWrite_landing hr s n v
    exact ⟨_, step, rfl, lr_lrField s n v ordered low apart⟩
  · exact ⟨_, rfl, lr_lrField_en s n v⟩
  · refine ⟨_, rfl, ?_⟩
    rw [show FMap.get 0 (s.updPorts fun p => { p with peers := p.peers.set 0 n (peerBits v) }).ports.peers n = peerBits v from
      FMap.get_set_same ..]
    exact fieldOf_peerBits v
  · obtain ⟨low, high⟩ := fieldOf_asidRec_ctlStore s n v
    exact ⟨_, rfl, low, high, fun m hm => asidRec_ctlStore_ne hm s v⟩
  · refine ⟨_, rfl, fun j hj => ?_, fun k _ hk => ?_, phys_ctlStore_ras ..⟩
    · rw [rasAt_ctlStore, if_pos rfl, fieldOf_rasClear _ hw hj]
    · rw [rasAt_ctlStore, if_neg hk]
  · exact ⟨s.powerField i (some v) none, rfl, by rw [power_powerField, floor_setFloorCap]; rfl⟩
  · have floor : fieldOf (Claims.power s i) 15 0 % 2 ^ 16 = fieldOf (Claims.power s i) 15 0 := Nat.mod_mod ..
    refine ⟨s.powerField i none (some v), rfl, ?_, ?_⟩
    · rw [power_powerField, floor_setFloorCap]; exact floor
    · rw [power_powerField, cap_setFloorCap]; exact congrArg (Nat.max · _) floor
  · exact ⟨s.setBudget v, rfl, by rw [← floors_eq_sum]; rfl, rfl, rfl, rfl⟩

end Sys2Proof.Machine
end

section
/-! # Ring slots and repair events (O51)

A slot boundary runs through operations that write memory, report and test start conditions. `State.SameSides` says that such an
operation leaves the rings, the ring sides and the instances as they are; `State.SidesKept` that one which changes presentations
loses none of them and moves no position; `State.SlotBegun` what the presentations of a new slot add. The repair events follow, each
with the lemma on its operation. -/

namespace Sys2Proof.Machine

/-! ## What leaves rings, ring sides and instances as they are -/

/-- `t` has the rings of `s`, at every die its ring side and its shared registers, and the same instances. -/
structure State.SameSides (s t : State) : Prop where
  rings : t.rings = s.rings
  ring (e : Nat) : (t.die e).ring = (s.die e).ring
  regs (e : Nat) : (t.die e).regs = (s.die e).regs
  who (u : Nat) : (t.inst u).map Inst.who = (s.inst u).map Inst.who

@[simp] theorem State.SameSides.refl (s : State) : s.SameSides s := ⟨rfl, fun _ => rfl, fun _ => rfl, fun _ => rfl⟩
theorem State.SameSides.symm {s t : State} (h : s.SameSides t) : t.SameSides s :=
  ⟨h.rings.symm, fun e => (h.ring e).symm, fun e => (h.regs e).symm, fun u => (h.who u).symm⟩
theorem State.SameSides.trans {s t u : State} (h : s.SameSides t) (k : t.SameSides u) : s.SameSides u :=
  ⟨k.rings.trans h.rings, fun e => (k.ring e).trans (h.ring e), fun e => (k.regs e).trans (h.regs e),
    fun v => (k.who v).trans (h.who v)⟩
theorem State.SameSides.right_iff {t u : State} (k : t.SameSides u) (s : State) : s.SameSides u ↔ s.SameSides t :=
  ⟨fun h => h.trans k.symm, fun h => h.trans k⟩

theorem State.sameSides_of_fields {s t : State} (rings : t.rings = s.rings) (dies : t.dies = s.dies)
    (insts : t.insts = s.insts) : s.SameSides t :=
  ⟨rings, fun e => by rw [State.die, State.die, dies], fun e => by rw [State.die, State.die, dies],
    fun u => by rw [State.inst, State.inst, insts]⟩

theorem State.sameSides_iff_of_fields (s : State) {t u : State} (rings : u.rings = t.rings) (dies : u.dies = t.dies)
    (insts : u.insts = t.insts) : s.SameSides u ↔ s.SameSides t :=
  (State.sameSides_of_fields rings dies insts).right_iff s

theorem State.SameSides.inst_none {s t : State} (h : s.SameSides t) {u : Nat} (e : s.inst u = none) : t.inst u = none := by
  have := h.who u
  rwa [e, Option.map_none, Option.map_eq_none_iff] at this

theorem State.SameSides.inst_some {s t : State} (h : s.SameSides t) {u : Nat} {i : Inst} (e : s.inst u = some i) :
    ∃ j, t.inst u = some j ∧ j.who = i.who := by
  have := h.who u
  rwa [e, Option.map_some, Option.map_eq_some_iff] at this

@[simp] theorem State.sameSides_foldl {α : Type} {f : State → α → State} (hf : ∀ (t : State) a, t.SameSides (f t a)) (l : List α)
    (s t : State) : s.SameSides (l.foldl f t) ↔ s.SameSides t :=
  (List.foldlRecOn (motive := t.SameSides) l f (.refl t) fun _ h a _ => h.trans (hf _ a)).right_iff s

@[simp] theorem State.sameSides_ite (p : Prop) [Decidable p] (s a b : State) :
    s.SameSides (if p then a else b) ↔ if p then s.SameSides a else s.SameSides b := by split <;> rfl

@[simp] theorem State.sameSides_updHost (s t : State) (f : HostDie → HostDie) :
    s.SameSides (t.updHost f) ↔ s.SameSides t := State.sameSides_iff_of_fields s rfl rfl rfl
@[simp] theorem State.sameSides_updQueue (s t : State) (q : Nat) (f : GQueue → GQueue) :
    s.SameSides (t.updQueue q f) ↔ s.SameSides t := State.sameSides_iff_of_fields s rfl rfl rfl
@[simp] theorem State.sameSides_updSeq (s t : State) (d q : Nat) (f : Seq → Seq) :
    s.SameSides (t.updSeq d q f) ↔ s.SameSides t := State.sameSides_iff_of_fields s rfl rfl rfl
@[simp] theorem State.sameSides_updTile (s t : State) (d k : Nat) (f : Tile → Tile) :
    s.SameSides (t.updTile d k f) ↔ s.SameSides t := State.sameSides_iff_of_fields s rfl rfl rfl
@[simp] theorem State.sameSides_updEng (s t : State) (d k : Nat) (f : Engines → Engines) :
    s.SameSides (t.updEng d k f) ↔ s.SameSides t := State.sameSides_iff_of_fields s rfl rfl rfl
@[simp] theorem State.sameSides_tick (s t : State) : s.SameSides t.tick ↔ s.SameSides t :=
  State.sameSides_iff_of_fields s rfl rfl rfl
@[simp] theorem State.sameSides_sendSpan (s t : State) (m : SpanMsg) : s.SameSides (t.sendSpan m) ↔ s.SameSides t :=
  State.sameSides_iff_of_fields s rfl rfl rfl
@[simp] theorem State.sameSides_updRelaxed (s t : State) (f : Relaxed → Relaxed) :
    s.SameSides (t.updRelaxed f) ↔ s.SameSides t := State.sameSides_iff_of_fields s rfl rfl rfl
@[simp] theorem State.sameSides_ports (s t : State) (p : Ports) :
    s.SameSides { t with ports := p } ↔ s.SameSides t := State.sameSides_iff_of_fields s rfl rfl rfl

theorem State.die_updDie_apply (s : State) (d e : Nat) (f : Die → Die) :
    (s.updDie d f).die e = if e = d then f (s.die d) else s.die e := FMap.get_set ..

theorem State.inst_setInst_apply (s : State) (u v : Nat) (i : Inst) :
    (s.setInst u i).inst v = if v = u then some i else s.inst v := by
  split
  next e => rw [e, State.inst_setInst]
  next e => exact State.inst_setInst_ne e ..

@[simp] theorem State.sameSides_updDie {f : Die → Die} (ring : ∀ x, (f x).ring = x.ring) (regs : ∀ x, (f x).regs = x.regs)
    (s t : State) (d : Nat) : s.SameSides (t.updDie d f) ↔ s.SameSides t := by
  refine State.SameSides.right_iff (t := t) (u := t.updDie d f) ⟨rfl, fun e => ?_, fun e => ?_, fun _ => rfl⟩ s
  all_goals
    rw [State.die_updDie_apply]
    split
    next h => simp only [h, ring, regs]
    next => rfl

@[simp] theorem State.sameSides_updSch (s t : State) (d : Nat) (f : Scheduler → Scheduler) :
    s.SameSides (t.updSch d f) ↔ s.SameSides t := State.sameSides_updDie (by intros; rfl) (by intros; rfl) s t d
@[simp] theorem State.sameSides_setRec (s t : State) (d n : Nat) (r : Rec) :
    s.SameSides (t.setRec d n r) ↔ s.SameSides t := State.sameSides_updSch ..
@[simp] theorem State.sameSides_rasBump (s t : State) (d k : Nat) : s.SameSides (t.rasBump d k) ↔ s.SameSides t :=
  State.sameSides_updDie (by intros; rfl) (by intros; rfl) s t d

@[simp] theorem State.sameSides_updInst {f : Inst → Inst} (hf : ∀ i, (f i).who = i.who) (s t : State) (u : Nat) :
    s.SameSides (t.updInst u f) ↔ s.SameSides t := by
  refine State.SameSides.right_iff ⟨t.updInst_rings u f, fun e => by rw [State.die_updInst], fun e => by rw [State.die_updInst],
    fun v => ?_⟩ s
  unfold State.updInst
  split
  next i hi =>
    rw [State.inst_setInst_apply]
    split
    next e => simp only [e, hi, Option.map_some, hf]
    next => rfl
  next => rfl

@[simp] theorem State.sameSides_updRec (s t : State) (d n : Nat) (f : Rec → Rec) :
    s.SameSides (t.updRec d n f) ↔ s.SameSides t := by
  unfold State.updRec; split <;> simp

/-! ### Memory -/

@[simp] theorem State.sameSides_resumeOn (s t : State) (no d : Nat) : s.SameSides (t.resumeOn no d) ↔ s.SameSides t := by
  simp [State.resumeOn]
@[simp] theorem State.sameSides_resumePage (s t : State) (d no : Nat) :
    s.SameSides (t.resumePage d no) ↔ s.SameSides t := by
  unfold State.resumePage
  extract_lets own s1
  simp [s1]

@[simp] theorem State.sameSides_commitQcb (s t : State) (q gen : Nat) :
    s.SameSides (t.commitQcb q gen) ↔ s.SameSides t := by
  unfold State.commitQcb; split <;> simp

@[simp] theorem State.sameSides_ctlStore (s t : State) (c : Ctl) (k n v : Nat) :
    s.SameSides (t.ctlStore c k n v) ↔ s.SameSides t := by
  cases c <;> simp [State.ctlStore, State.setBudget]

theorem State.MemOnly.sameSides {s t : State} (h : s.MemOnly t) : s.SameSides t :=
  State.sameSides_of_fields (by rw [h.eq]) h.dies h.insts

@[simp] theorem State.sameSides_writePa (s t : State) (pa n v : Nat) : s.SameSides (t.writePa pa n v) ↔ s.SameSides t := by
  cases h : t.ctlAt pa with
  | none => exact (State.writePa_memOnly h n v).sameSides.right_iff s
  | some c =>
    obtain ⟨c, k⟩ := c
    simp only [State.writePa, h]
    split
    · simp
    · simp

@[simp] theorem State.sameSides_setCtx (s t : State) (d n : Nat) (b : BitVec 512) :
    s.SameSides (t.setCtx d n b) ↔ s.SameSides t := State.sameSides_writePa ..
@[simp] theorem State.sameSides_ctxMiss (s t : State) (d n rot : Nat) :
    s.SameSides (t.ctxMiss d n rot) ↔ s.SameSides t := State.sameSides_setCtx ..

@[simp] theorem State.sameSides_putHeads (s t : State) (pa n : Nat) (l : List Head) :
    s.SameSides (t.putHeads pa n l) ↔ s.SameSides t := by
  simp [State.putHeads]

@[simp] theorem State.sameSides_setAccessed (s t : State) (epa : Nat) (a : Bool) :
    s.SameSides (t.setAccessed epa a) ↔ s.SameSides t := by
  simp [State.setAccessed, State.rmwPa]

@[simp] theorem State.sameSides_resolve (s t : State) (d asid va : Nat) (k : Acc) :
    s.SameSides (t.resolve d asid va k).1 ↔ s.SameSides t := by
  unfold State.resolve State.resolveAny
  repeat' split
  all_goals simp

theorem State.sameSides_of_fst {α : Type} {s t : State} {p : State × α} {x : α} (h : s.SameSides p.1) (e : p = (t, x)) :
    s.SameSides t := by
  subst e; exact h

theorem State.sameSides_readVa (s : State) (d asid va n : Nat) : s.SameSides (s.readVa d asid va n).1 := by
  unfold State.readVa
  split <;> rename_i e <;> have ht := State.sameSides_of_fst ((State.sameSides_resolve ..).2 (.refl s)) e
  · split
    · exact (State.sameSides_tick ..).2 ht
    · exact ht
  · exact ht

/-! ### Records -/

@[simp] theorem State.sameSides_feResolve (s t : State) (asid va : Nat) (k : Acc) :
    s.SameSides (t.feResolve asid va k).1 ↔ s.SameSides t := by
  unfold State.feResolve
  repeat' split
  all_goals simp

theorem State.sameSides_setReportOrd (s t : State) (queue : Option Nat) (o : Ledger) :
    s.SameSides (t.setReportOrd queue o) ↔ s.SameSides t := by
  cases queue <;> simp [State.setReportOrd, State.queueOrd]

theorem State.sameSides_recordWrite (s : State) (queue : Option Nat) (asid va v : Nat) :
    s.SameSides (s.recordWrite queue asid va v).1 := by
  unfold State.recordWrite
  split <;> rename_i e <;> have ht := State.sameSides_of_fst ((State.sameSides_feResolve ..).2 (.refl s)) e
  · dsimp only
    split
    · simp [State.awayWrite, ht]
    · simp [State.sameSides_setReportOrd, State.writeAs_fst, ht]
  · exact ht

theorem State.sameSides_ringPut (s : State) (queue : Option Nat) (n : Nat) (r : BitVec 256) :
    s.SameSides (s.ringPut queue n r) := by
  unfold State.ringPut
  dsimp only
  split
  · split <;> rename_i e <;> have ht := State.sameSides_of_fst (State.sameSides_recordWrite ..) e
    · simp [ht]
    · simp [State.ringDrop, ht]
  · simp [State.ringDrop]

@[simp] theorem State.sameSides_errTo (s t : State) (ring code asid die tile info0 info1 : Nat) :
    s.SameSides (t.errTo ring code asid die tile info0 info1) ↔ s.SameSides t :=
  (State.sameSides_ringPut t ..).right_iff s
@[simp] theorem State.sameSides_err (s t : State) (queue : Option Nat) (code asid die tile info0 info1 : Nat) :
    s.SameSides (t.err queue code asid die tile info0 info1) ↔ s.SameSides t :=
  (State.sameSides_ringPut t ..).right_iff s
@[simp] theorem State.sameSides_errBoth (s t : State) (asid code die info0 info1 : Nat) :
    s.SameSides (t.errBoth asid code die info0 info1) ↔ s.SameSides t := by
  simp [State.errBoth]
@[simp] theorem State.sameSides_reportLost (s t : State) (d : Nat) (l : List (Nat × Nat)) :
    s.SameSides (t.reportLost d l) ↔ s.SameSides t := by
  simp [State.reportLost]

/-! ### Start conditions and command errors -/

@[simp] theorem Inst.who_makeReady (i : Inst) (cyc : Nat) (l : List Head) : (i.makeReady cyc l).who = i.who := by
  unfold Inst.makeReady; split <;> rfl

@[simp] theorem State.sameSides_checkReady (s t : State) (d : Nat) : s.SameSides (t.checkReady d) ↔ s.SameSides t := by
  refine State.sameSides_foldl (fun t n => ?_) ..
  unfold State.checkRec
  split <;> simp

@[simp] theorem State.sameSides_freeBuffers (s t : State) (d k : Nat) :
    s.SameSides (t.freeBuffers d k) ↔ s.SameSides t := by
  simp [State.freeBuffers]

@[simp] theorem State.sameSides_cmdError (s t : State) (d k : Nat) (c : Cmd) (code : Nat) :
    s.SameSides (t.cmdError d k c code) ↔ s.SameSides t := by
  unfold State.cmdError
  extract_lets s1 s2 s3 s4
  have h3 : s.SameSides s3 ↔ s.SameSides t := by
    simp only [s3]
    split <;> simp [s2, s1, State.touchAllocs, State.updChain]
  simp [s4, h3]

/-! ## What keeps the transit stores and the presentations of the dies -/

/-- `y` is the ring side `x` with the same positions, and with every presentation of `x` still there. -/
structure RingSide.Kept (x y : RingSide) : Prop where
  transit : y.transit = x.transit
  owed : y.owed = x.owed
  nextPres : y.nextPres = x.nextPres
  pres (k : Nat) (p : Pres) : x.pres.find k = some p → ∃ q, y.pres.find k = some q ∧ q.seg = p.seg ∧ q.asid = p.asid ∧ q.ord = p.ord

theorem RingSide.Kept.refl (x : RingSide) : x.Kept x := ⟨rfl, rfl, rfl, fun _ p h => ⟨p, h, rfl, rfl, rfl⟩⟩
theorem RingSide.Kept.trans {x y z : RingSide} (h : x.Kept y) (k : y.Kept z) : x.Kept z := by
  refine ⟨k.transit.trans h.transit, k.owed.trans h.owed, k.nextPres.trans h.nextPres, fun n p hp => ?_⟩
  obtain ⟨q, hq, seg, asid, ord⟩ := h.pres n p hp
  obtain ⟨r, hr, seg', asid', ord'⟩ := k.pres n q hq
  exact ⟨r, hr, seg'.trans seg, asid'.trans asid, ord'.trans ord⟩

/-- A presentation is replaced by one of the same segment. -/
theorem RingSide.kept_put {x y : RingSide} {k : Nat} {p q : Pres} (hp : x.pres.find k = some p)
    (pres : y.pres = x.pres.put k q) (same : q.seg = p.seg ∧ q.asid = p.asid ∧ q.ord = p.ord)
    (transit : y.transit = x.transit) (owed : y.owed = x.owed) (nextPres : y.nextPres = x.nextPres) : x.Kept y := by
  refine ⟨transit, owed, nextPres, fun n r hr => ?_⟩
  rw [pres]
  by_cases e : n = k
  · subst e
    obtain rfl : p = r := Option.some.inj (hp.symm.trans hr)
    exact ⟨q, FMap.find_put_same .., same⟩
  · exact ⟨r, (FMap.find_put_ne e ..).trans hr, rfl, rfl, rfl⟩

/-- Every die keeps its positions, its presentations and its slot counter, every ring all but the mark of its formation
points. -/
structure State.SidesKept (s t : State) : Prop where
  rings (k : Nat) : ∃ b, t.rings.get Ring.init k = { s.rings.get Ring.init k with forming := b }
  side (e : Nat) : (s.die e).ring.Kept (t.die e).ring
  slotc (e : Nat) : (t.die e).regs.rslotc = (s.die e).regs.rslotc

theorem State.SidesKept.refl (s : State) : s.SidesKept s := ⟨fun _ => ⟨_, rfl⟩, fun _ => .refl _, fun _ => rfl⟩
theorem State.SidesKept.trans {s t u : State} (h : s.SidesKept t) (k : t.SidesKept u) : s.SidesKept u := by
  refine ⟨fun n => ?_, fun e => (h.side e).trans (k.side e), fun e => (k.slotc e).trans (h.slotc e)⟩
  obtain ⟨a, ha⟩ := h.rings n
  obtain ⟨b, hb⟩ := k.rings n
  exact ⟨b, by rw [hb, ha]⟩
theorem State.SameSides.sidesKept {s t : State} (h : s.SameSides t) : s.SidesKept t :=
  ⟨fun k => ⟨(s.rings.get Ring.init k).forming, by rw [h.rings]⟩, fun e => by rw [h.ring]; exact .refl _, fun e => by rw [h.regs]⟩

theorem State.sidesKept_foldl {α : Type} {f : State → α → State} (hf : ∀ (s : State) a, s.SidesKept (f s a)) (l : List α)
    (s : State) : s.SidesKept (l.foldl f s) :=
  List.foldlRecOn (motive := s.SidesKept) l f (.refl s) fun _ h a _ => h.trans (hf _ a)

theorem State.sidesKept_updRing {s : State} {d : Nat} {f : RingSide → RingSide} (h : (s.die d).ring.Kept (f (s.die d).ring)) :
    s.SidesKept (s.updRing d f) := by
  refine ⟨fun k => ⟨_, rfl⟩, fun e => ?_, fun e => ?_⟩
  all_goals
    rw [State.updRing, State.die_updDie_apply]
    split
  · subst e; exact h
  · exact .refl _
  · subst e; rfl
  · rfl

/-! ### Saddles, formation points and window buffers -/

theorem State.sidesKept_saddleEnd (s : State) (d k : Nat) : s.SidesKept (s.saddleEnd d k) := by
  unfold State.saddleEnd
  split
  next => exact .refl s
  next p hp =>
    split
    next => exact .refl s
    next =>
      extract_lets s1 missed s2
      have h1 : s.SidesKept s1 := State.sidesKept_updRing (RingSide.kept_put hp rfl ⟨rfl, rfl, rfl⟩ rfl rfl rfl)
      have h2 : s1.SameSides s2 := by simp [s2]
      exact h1.trans (State.SameSides.sidesKept (by simp [h2]))

theorem State.sidesKept_endSlot (s : State) (d : Nat) : s.SidesKept (s.endSlot d) :=
  State.sidesKept_foldl (fun _ _ => State.sidesKept_saddleEnd ..) ..

theorem State.sidesKept_setInst (s : State) (u : Nat) (i : Inst) : s.SidesKept (s.setInst u i) :=
  ⟨fun _ => ⟨_, rfl⟩, fun _ => .refl _, fun _ => rfl⟩

theorem State.sidesKept_form (s : State) (d k cyc : Nat) : s.SidesKept (s.form d k cyc) := by
  unfold State.form
  split
  next => exact .refl s
  next p hp =>
    extract_lets l r g at_ s1 s2 u view us tk s3
    split
    next => exact .refl s
    next =>
      have h2 : s.SameSides s2 := by simp [s2, s1]
      have h3 : s2.SidesKept s3 := by
        refine State.sidesKept_updRing (RingSide.kept_put (k := k) (p := p) (by rw [h2.ring, hp]) rfl ⟨rfl, rfl, rfl⟩ rfl rfl rfl)
      have h4 : s3.SidesKept { s3 with nextUid := u + 16 } :=
        State.SameSides.sidesKept (State.sameSides_of_fields rfl rfl rfl)
      exact ((h2.sidesKept.trans h3).trans h4).trans (State.sidesKept_foldl (fun _ _ => State.sidesKept_setInst ..) ..)

theorem State.sidesKept_formAll (s : State) (cyc d : Nat) : s.SidesKept (s.formAll cyc d) :=
  State.sidesKept_foldl (fun _ _ => State.sidesKept_form ..) ..

theorem State.sidesKept_formSlot (s : State) (k : Nat) : s.SidesKept (s.formSlot k) := by
  unfold State.formSlot
  extract_lets r
  split
  next =>
    refine State.SidesKept.trans ?_ (State.sidesKept_foldl (fun _ _ => State.sidesKept_formAll ..) ..)
    refine ⟨fun n => ?_, fun _ => .refl _, fun _ => rfl⟩
    by_cases e : n = k
    · subst e; exact ⟨false, FMap.get_set_same ..⟩
    · exact ⟨_, FMap.get_set_ne e ..⟩
  next => exact .refl s

theorem State.sidesKept_overrun (s : State) (d t k : Nat) : s.SidesKept (s.overrun d t k) := by
  unfold State.overrun
  extract_lets runs s1 s2
  have h1 : s.SameSides s1 := by simp [s1]
  have h2 : s1.SidesKept s2 := by
    refine State.sidesKept_updRing ?_
    split
    next p hp => exact RingSide.kept_put hp rfl ⟨rfl, rfl, rfl⟩ rfl rfl rfl
    next => exact .refl _
  exact (h1.sidesKept.trans h2).trans (State.SameSides.sidesKept (by simp))

theorem State.sidesKept_takeBuffer (s : State) (d t k : Nat) : s.SidesKept (s.takeBuffer d t k) := by
  unfold State.takeBuffer
  extract_lets x r s1
  have h1 : s.SidesKept s1 := by
    simp only [s1]
    split
    next => exact .refl s
    next =>
      split
      next => exact State.sidesKept_overrun ..
      next => exact .refl s
  exact h1.trans (State.SameSides.sidesKept (by simp))

/-! ## Presentation -/

theorem State.sameSides_presentTo (s : State) (d asid ord : Nat) : s.SameSides (s.presentTo d asid ord) := by
  simp [State.presentTo]

theorem State.sameSides_readOpb (s : State) (d : Nat) (g : Segment) (e : BitVec 256) : s.SameSides (s.readOpb d g e).1 := by
  unfold State.readOpb
  extract_lets opb
  split <;> rename_i e <;> simp [State.sameSides_of_fst (State.sameSides_readVa ..) e]

/-- The slot has begun at the dies `l`: each has its positions as before and the segment of the head one presented. -/
structure State.SlotBegun (l : List Nat) (s t : State) : Prop where
  rings (k : Nat) : ∃ b, t.rings.get Ring.init k = { s.rings.get Ring.init k with forming := b }
  slotc (e : Nat) : (t.die e).regs.rslotc = (s.die e).regs.rslotc
  transit (e : Nat) : (t.die e).ring.transit = (s.die e).ring.transit
  others (e : Nat) : e ∉ l → (s.die e).ring.Kept (t.die e).ring
  shown (d : Nat) : d ∈ l → ∀ g, ((s.die d).ring.transit.headD Position.empty).seg = some g →
    ∃ p, (t.die d).ring.pres.find (s.die d).ring.nextPres = some p ∧ p.seg = g.id ∧ p.asid = g.asid ∧ p.ord = g.ord

/-- A presentation enters its segment under the die's next number, and no later part of it takes that away. -/
theorem State.present_entered (s : State) (d cyc : Nat) (g : Segment) : ∃ (a : State) (f : RingSide → RingSide),
    s.SameSides a ∧ (a.updRing d f).SidesKept (s.present d cyc g) ∧ ∀ y, (f y).transit = y.transit ∧
      ∃ p, (f y).pres.find (s.die d).ring.nextPres = some p ∧ p.seg = g.id ∧ p.asid = g.asid ∧ p.ord = g.ord := by
  unfold State.present
  extract_lets x rot tag k e usable r s1 s2 s3
  have hr : s.SameSides r.1 := by
    simp only [r]
    split
    next => exact State.sameSides_readOpb ..
    next => exact .refl s
  have h2 : s1.SidesKept s2 := State.SameSides.sidesKept (by simp [s2])
  have h3 : s2.SidesKept s3 := State.sidesKept_foldl (fun _ _ => State.sidesKept_takeBuffer ..) ..
  exact ⟨r.1, _, hr, (h2.trans h3).trans (State.sameSides_presentTo ..).sidesKept,
    fun y => ⟨rfl, _, FMap.find_put_same .., rfl, rfl, rfl⟩⟩

theorem State.slotBegun_present {s : State} {d : Nat} {g : Segment} (cyc : Nat)
    (head : ((s.die d).ring.transit.headD Position.empty).seg = some g) : s.SlotBegun [d] (s.present d cyc g) := by
  obtain ⟨a, f, same, kept, entered⟩ := s.present_entered d cyc g
  have at_ (e : Nat) : ((a.updRing d f).die e).ring = if e = d then f (s.die d).ring else (s.die e).ring := by
    rw [State.updRing, State.die_updDie_apply]
    split <;> simp [same.ring]
  refine ⟨fun k => ?_, fun e => ?_, fun e => ?_, fun e he => ?_, fun e he g' hg' => ?_⟩
  · rw [← same.rings]; exact kept.rings k
  · rw [kept.slotc, State.updRing, State.die_updDie_apply, ← same.regs]
    split
    next e => rw [e]
    next => rfl
  · rw [(kept.side e).transit, at_]
    split
    next e => rw [e, (entered _).1]
    next => rfl
  · have := kept.side e
    rwa [at_, if_neg (List.ne_of_not_mem_cons he)] at this
  · obtain rfl := List.mem_singleton.1 he
    obtain rfl := Option.some.inj (head.symm.trans hg')
    obtain ⟨_, p, hp, seg, asid, ord⟩ := entered (s.die e).ring
    obtain ⟨q, hq, seg', asid', ord'⟩ := (kept.side e).pres _ p (by rwa [at_, if_pos rfl])
    exact ⟨q, hq, seg'.trans seg, asid'.trans asid, ord'.trans ord⟩

/-- A position whose image is whole and which no die has forwarded empty. -/
def Position.Plain (p : Position) : Prop := p.torn = false ∧ p.out = none

theorem Position.show_plain {p : Position} (h : p.Plain) (d : Nat) : p.show d = (p.seg, p, false) := by
  obtain ⟨torn, out⟩ := h
  simp [Position.show, torn, out]

theorem State.SidesKept.slotBegun_nil {s t : State} (h : s.SidesKept t) : s.SlotBegun [] t :=
  ⟨h.rings, h.slotc, fun e => (h.side e).transit, fun e _ => h.side e, fun _ hd => absurd hd List.not_mem_nil⟩

theorem State.SlotBegun.trans {l m : List Nat} {s t u : State} (h : s.SlotBegun l t) (k : t.SlotBegun m u) (apart : l.Disjoint m) :
    s.SlotBegun (l ++ m) u := by
  refine ⟨fun n => ?_, fun e => (k.slotc e).trans (h.slotc e), fun e => (k.transit e).trans (h.transit e), fun e he => ?_,
    fun d hd g hg => ?_⟩
  · obtain ⟨a, ha⟩ := h.rings n
    obtain ⟨b, hb⟩ := k.rings n
    exact ⟨b, by rw [hb, ha]⟩
  · obtain ⟨hl, hm⟩ := not_or.1 (mt List.mem_append.2 he)
    exact (h.others e hl).trans (k.others e hm)
  · by_cases hl : d ∈ l
    · obtain ⟨p, hp, seg, asid, ord⟩ := h.shown d hl g hg
      obtain ⟨q, hq, seg', asid', ord'⟩ := (k.others d (apart hl)).pres _ p hp
      exact ⟨q, hq, seg'.trans seg, asid'.trans asid, ord'.trans ord⟩
    · have hm : d ∈ m := (List.mem_append.1 hd).resolve_left hl
      have := k.shown d hm g (by rwa [h.transit])
      rwa [(h.others d hl).nextPres] at this

/-- A slot begins at a die whose head position is whole. -/
theorem State.slotBegun_beginSlot {s : State} {d : Nat} {p : Position} {rest : List Position} (cyc : Nat)
    (store : (s.die d).ring.transit = p :: rest) (plain : p.Plain) : s.SlotBegun [d] (s.beginSlot cyc d) := by
  have still : s.SidesKept (s.updRing d fun x => { x with transit := p :: rest }) :=
    State.sidesKept_updRing ⟨store.symm, rfl, rfl, fun _ q hq => ⟨q, hq, rfl, rfl, rfl⟩⟩
  unfold State.beginSlot
  rw [store]
  simp only [Position.show_plain plain, Bool.false_eq_true, if_false]
  split
  next g hg =>
    refine still.slotBegun_nil.trans (State.slotBegun_present cyc ?_) (List.disjoint_nil_left _)
    rw [(still.side d).transit, store]; exact hg
  next hg =>
    refine ⟨still.rings, still.slotc, fun e => (still.side e).transit, fun e _ => still.side e, fun e he g hg' => ?_⟩
    obtain rfl := List.mem_singleton.1 he
    rw [store, List.headD_cons, hg] at hg'
    cases hg'

/-- A slot begins at the dies of a ring, one after the other. -/
theorem State.slotBegun_foldl (cyc : Nat) {l : List Nat} (once : l.Nodup) {s : State}
    (store : ∀ d ∈ l, ∃ p rest, (s.die d).ring.transit = p :: rest ∧ p.Plain) :
    s.SlotBegun l (l.foldl (fun s d => s.beginSlot cyc d) s) := by
  induction l generalizing s with
  | nil => exact (State.SidesKept.refl s).slotBegun_nil
  | cons d l ih =>
    obtain ⟨new, once⟩ := List.nodup_cons.1 once
    obtain ⟨p, rest, hd, plain⟩ := store d List.mem_cons_self
    have first := State.slotBegun_beginSlot cyc hd plain
    have later := ih once fun e he => by rw [first.transit]; exact store e (List.mem_cons_of_mem d he)
    exact first.trans later (List.singleton_disjoint.2 new)

/-! ## The move of the positions -/

/-- A fold that changes each die of a list once. -/
theorem State.die_foldl_updDie (f : Nat → Die → Die) {l : List Nat} (once : l.Nodup) (s : State) (e : Nat) :
    (l.foldl (fun s d => s.updDie d (f d)) s).die e = if e ∈ l then f e (s.die e) else s.die e := by
  induction l generalizing s with
  | nil => rfl
  | cons d l ih =>
    obtain ⟨new, once⟩ := List.nodup_cons.1 once
    rw [List.foldl_cons, ih once, State.die_updDie_apply]
    by_cases h : e = d
    · subst h; simp [new]
    · simp [h]

theorem find_foldl_put {α : Type} (g : Nat → α) (l : List Nat) (m : FMap α) {d : Nat} (h : d ∈ l ∨ m.find d = some (g d)) :
    (l.foldl (fun m d => m.put d (g d)) m).find d = some (g d) := by
  induction l generalizing m with
  | nil => exact h.resolve_left List.not_mem_nil
  | cons e l ih =>
    refine ih _ ?_
    by_cases hd : d = e
    · subst hd; exact .inr (FMap.find_put_same ..)
    · rw [FMap.find_put_ne hd]
      exact h.imp_left fun h => (List.mem_cons.1 h).resolve_left hd

/-- The place of a die in a ring that lists no die twice. -/
theorem idxOf?_of_nodup {l : List Nat} (once : l.Nodup) {j d : Nat} (h : l[j]? = some d) : l.idxOf? d = some j := by
  obtain ⟨hj, rfl⟩ := List.getElem?_eq_some_iff.1 h
  rw [List.idxOf?_eq_some_iff]
  exact ⟨hj, rfl, fun i hi => fun e => absurd (once.getElem_inj_iff.1 e) (by omega)⟩

theorem Ring.prev_of_getElem? {r : Ring} (once : r.dies.Nodup) {j d e : Nat} (hd : r.dies[j]? = some d)
    (he : r.dies[(j + r.dies.length - 1) % r.dies.length]? = some e) : r.prev d = e := by
  rw [Ring.prev, idxOf?_of_nodup once hd]
  simp only [List.getD_eq_getElem?_getD, he, Option.getD_some]

/-- What reaches the die at place `j`: the head of the die before it, or what the receiver of a spliced ring takes in. -/
theorem Ring.incoming_of_getElem? {r : Ring} (once : r.dies.Nodup) (g : Nat → Position) {j d e : Nat} (hd : r.dies[j]? = some d)
    (he : r.dies[(j + r.dies.length - 1) % r.dies.length]? = some e) :
    r.incoming (r.dies.foldl (fun m d => m.put d (g d)) .empty) d =
      if r.spliced = true ∧ j = 0 then r.inFrom.headD .empty else g e := by
  have first : r.dies.head? = some d ↔ j = 0 := by
    rw [List.head?_eq_getElem?]
    constructor
    · intro h
      exact Option.some.inj ((idxOf?_of_nodup once hd).symm.trans (idxOf?_of_nodup once h))
    · rintro rfl; exact hd
  rw [Ring.incoming, Ring.prev_of_getElem? once hd he,
    find_foldl_put g r.dies .empty (.inl (List.mem_of_getElem? he)), Option.getD_some]
  exact if_congr (and_congr_right' first) rfl rfl

/-- A die of the ring after the boundary (R14, R270). -/
theorem State.die_rotate (s : State) {r : Ring} (once : r.dies.Nodup) {d : Nat} (hd : d ∈ r.dies) :
    ((s.rotate r).die d).ring = (s.die d).ring.shift
        (r.incoming (r.dies.foldl (fun m d => m.put d ((s.die d).ring.transit.headD .empty)) .empty) d) ∧
      ((s.rotate r).die d).regs.rslotc = (s.die d).regs.rslotc + 1 := by
  unfold State.rotate
  extract_lets heads
  rw [State.die_foldl_updDie (fun d x => { x with
      ring := x.ring.shift (r.incoming heads d), regs := { x.regs with rslotc := x.regs.rslotc + 1 },
      cyc := Nat.max x.cyc (r.start + r.slotCycles) }) once, if_pos hd]
  exact ⟨rfl, rfl⟩

theorem RingSide.dropFront_of_none_owed {x : RingSide} (h : x.owed = 0) (n : Nat) : x.dropFront n = (x, 0) := by
  induction n with
  | zero => rfl
  | succ n ih =>
    simp only [RingSide.dropFront, ih, h, Nat.lt_irrefl, false_and, and_false, if_false]
    split <;> rfl

/-- Where no die owes a drop and no junction stands, nothing is dropped (R398). -/
theorem State.dropAll_of_none_owed {s : State} {l : List Nat} (h : ∀ d ∈ l, (s.die d).ring.owed = 0) (turnDone : Bool) :
    s.SameSides (s.dropAll [] turnDone l).1 ∧ (s.dropAll [] turnDone l).2 = [] := by
  induction l generalizing s with
  | nil => exact ⟨.refl s, rfl⟩
  | cons d l ih =>
    have here : s.dropAt [] turnDone d = (s.updRing d fun _ => (s.die d).ring, []) := by
      simp [State.dropAt, RingSide.dropFront_of_none_owed (h d List.mem_cons_self)]
    have same : s.SameSides (s.updRing d fun _ => (s.die d).ring) := by
      refine ⟨rfl, fun e => ?_, fun e => ?_, fun _ => rfl⟩
      all_goals
        rw [State.updRing, State.die_updDie_apply]
        split
        next e => rw [e]
        next => rfl
    rw [State.dropAll, here]
    obtain ⟨after, none⟩ := ih (s := s.updRing d fun _ => (s.die d).ring) fun e he => by
      rw [same.ring]; exact h e (List.mem_cons_of_mem d he)
    exact ⟨same.trans after, none⟩

/-! ## The slot boundary -/

/-- The store of die `d` after the boundary, where `e` is the die before it and `j` the place of `d` in ring `r`. -/
def State.movedOn (s : State) (r : Ring) (j d e : Nat) : List Position :=
  (s.die d).ring.transit.drop 1 ++
    [if r.spliced = true ∧ j = 0 then r.inFrom.headD .empty else (s.die e).ring.transit.headD .empty]

/-- A store of plain positions stays one: its head has gone, and what has come in is plain. -/
theorem State.movedOn_plain {s : State} {r : Ring} {j d e : Nat} (taken : (r.inFrom.headD .empty).Plain)
    (own : (s.die d).ring.transit ≠ [] ∧ ∀ p ∈ (s.die d).ring.transit, p.Plain)
    (before : (s.die e).ring.transit ≠ [] ∧ ∀ p ∈ (s.die e).ring.transit, p.Plain) :
    ∃ p rest, s.movedOn r j d e = p :: rest ∧ p.Plain := by
  have all (q : Position) (hq : q ∈ s.movedOn r j d e) : q.Plain := by
    rcases List.mem_append.1 hq with h | h
    · exact own.2 q (List.mem_of_mem_drop h)
    · obtain rfl := List.mem_singleton.1 h
      split
      · exact taken
      · obtain ⟨p, rest, hp⟩ := List.exists_cons_of_ne_nil before.1
        rw [hp, List.headD_cons]
        exact before.2 p (hp ▸ List.mem_cons_self)
  obtain ⟨p, rest, hp⟩ := List.exists_cons_of_ne_nil (l := s.movedOn r j d e) (by simp [State.movedOn])
  exact ⟨p, rest, hp, all p (hp ▸ List.mem_cons_self)⟩

/-- A die whose part of the ring is whole: it accepts the slot, owes nothing, and has positions, all of them plain. -/
structure State.Whole (s : State) (r : Ring) (d : Nat) : Prop where
  accepts : s.silent d (r.start + r.slotCycles) = false
  owed : (s.die d).ring.owed = 0
  filled : (s.die d).ring.transit ≠ []
  plain : ∀ p ∈ (s.die d).ring.transit, p.Plain

/-- The boundary of a ring that is whole and has no bypass, up to the presentations of the new slot. -/
theorem execRingSlot_boundary {s : State} {k : Nat} {r : Ring} (hr : s.rings.get Ring.init k = r) (formed : r.formed = true)
    (runs : r.halted = false) (none : r.bypasses = []) (once : r.dies.Nodup) (whole : ∀ d ∈ r.dies, s.Whole r d) :
    ∃ a, execRingSlot k s = .next (r.dies.foldl (fun s d => s.beginSlot (r.start + r.slotCycles) d) a) ∧
      (a.rings.get Ring.init k).start = r.start + r.slotCycles ∧ (a.rings.get Ring.init k).inFrom = r.inFrom.drop 1 ∧
      ∀ j d e, r.dies[j]? = some d → r.dies[(j + r.dies.length - 1) % r.dies.length]? = some e →
        (a.die d).ring.transit = s.movedOn r j d e ∧ (a.die d).ring.nextPres = (s.die d).ring.nextPres ∧
        (a.die d).regs.rslotc = (s.die d).regs.rslotc + 1 := by
  have accepts : ¬ (!r.formed || r.halted || r.dies.any fun d => s.silent d (r.start + r.slotCycles)) = true := by
    simpa [formed, runs] using fun d hd => (whole d hd).accepts
  unfold execRingSlot
  rw [hr]
  extract_lets q s1 moved sent s2 a b c s3 s4
  have h1 : s.SidesKept s1 := (s.sidesKept_formSlot k).trans (State.sidesKept_foldl (fun _ _ => State.sidesKept_endSlot ..) ..)
  have rotated (d : Nat) (hd : d ∈ r.dies) := s1.die_rotate once hd
  have owed (d : Nat) (hd : d ∈ r.dies) : (s2.die d).ring.owed = 0 := by
    rw [(rotated d hd).1]
    exact (h1.side d).owed.trans (whole d hd).owed
  have ha : s2.SameSides a.1 ∧ a.2 = [] := by
    have : moved = [] := by rw [show moved = r.bypasses.map _ from rfl, none, List.map_nil]
    simp only [a, this]
    exact State.dropAll_of_none_owed owed false
  have hb : b = (a.1, []) := by simp only [b, ha.2]; rfl
  have hc : s2.SameSides c.1 := by
    simp only [c, hb]
    exact ha.1.trans (State.dropAll_of_none_owed (fun d hd => by rw [ha.1.ring]; exact owed d hd) true).1
  have ring : (s4.rings.get Ring.init k).start = r.start + r.slotCycles ∧ (s4.rings.get Ring.init k).inFrom = r.inFrom.drop 1 := by
    simp only [s4, q, FMap.get_set_same, and_self]
  refine ⟨s4, if_neg accepts, ring.1, ring.2, fun j d e hd he => ?_⟩
  have hd' := List.mem_of_getElem? hd
  have same : (s4.die d).ring = (s2.die d).ring := hc.ring d
  obtain ⟨turned, counted⟩ := rotated d hd'
  rw [same, turned, RingSide.shift,
    Ring.incoming_of_getElem? once (fun d => (s1.die d).ring.transit.headD .empty) hd he]
  refine ⟨?_, (h1.side d).nextPres, ?_⟩
  · rw [State.movedOn, (h1.side d).transit, (h1.side e).transit]
  · rw [show (s4.die d).regs = (s2.die d).regs from hc.regs d, counted, h1.slotc]

/-- RING_SLOT on a whole ring (R14, R15, R270, R275). -/
theorem execRingSlot_whole {s : State} {k : Nat} {r : Ring} (hr : s.rings.get Ring.init k = r) (formed : r.formed = true)
    (runs : r.halted = false) (none : r.bypasses = []) (once : r.dies.Nodup) (taken : (r.inFrom.headD .empty).Plain)
    (whole : ∀ d ∈ r.dies, s.Whole r d) :
    ∃ t, execRingSlot k s = .next t ∧ (t.rings.get Ring.init k).start = r.start + r.slotCycles ∧
      (t.rings.get Ring.init k).inFrom = r.inFrom.drop 1 ∧
      ∀ j d e, r.dies[j]? = some d → r.dies[(j + r.dies.length - 1) % r.dies.length]? = some e →
        (t.die d).regs.rslotc = (s.die d).regs.rslotc + 1 ∧ (t.die d).ring.transit = s.movedOn r j d e ∧
        ∀ g, ((t.die d).ring.transit.headD .empty).seg = some g →
          ∃ p, (t.die d).ring.pres.find (s.die d).ring.nextPres = some p ∧ p.seg = g.id ∧ p.asid = g.asid ∧ p.ord = g.ord := by
  obtain ⟨a, step, start, inFrom, moved⟩ := execRingSlot_boundary hr formed runs none once whole
  have begun := State.slotBegun_foldl (r.start + r.slotCycles) once (s := a) fun d hd => by
    obtain ⟨j, hj, rfl⟩ := List.getElem_of_mem hd
    have hp : (j + r.dies.length - 1) % r.dies.length < r.dies.length := Nat.mod_lt _ (by omega)
    rw [(moved j _ _ (List.getElem?_eq_getElem hj) (List.getElem?_eq_getElem hp)).1]
    have at_ {i : Nat} (hi : i < r.dies.length) := whole _ (List.getElem_mem hi)
    exact State.movedOn_plain taken ⟨(at_ hj).filled, (at_ hj).plain⟩ ⟨(at_ hp).filled, (at_ hp).plain⟩
  obtain ⟨forming, ring⟩ := begun.rings k
  refine ⟨_, step, by rw [ring]; exact start, by rw [ring]; exact inFrom, fun j d e hd he => ?_⟩
  obtain ⟨transit, next, counted⟩ := moved j d e hd he
  refine ⟨(begun.slotc d).trans counted, (begun.transit d).trans transit, fun g hg => ?_⟩
  rw [← next]
  exact begun.shown d (List.mem_of_getElem? hd) g (by rwa [← begun.transit])

/-! ## Failures, lane tests and re-injection -/

theorem hasNat_eq_false {l : List Nat} {v : Nat} (h : v ∉ l) : hasNat l v = false := by
  simpa [hasNat] using fun x hx (e : x = v) => h (e ▸ hx)
theorem hasNat_iff {l : List Nat} {v : Nat} : hasNat l v = true ↔ v ∈ l := by simp [hasNat]

/-- A ring die that fails accepts no slot any more (R394). -/
theorem execDieFailure_ringDie {d : Nat} (h : d < 16) (c : DieFault) (s : State) :
    execDieFailure d c s = .next (s.updRing d fun x => { x with stopped := true }) := by
  rw [execDieFailure, if_neg (by simpa [isAtt] using h)]

/-- An idle lane that works stays as it is (R395). -/
theorem execLaneTest_works {s : State} {lane : Nat} (idle : lane ∉ s.lanesUsed) : execLaneTest lane true s = .next s := by
  rw [execLaneTest, hasNat_eq_false idle]
  rfl

/-- An idle lane that fails (R395). -/
theorem execLaneTest_fails {s : State} {lane : Nat} (idle : lane ∉ s.lanesUsed) :
    ∃ t, execLaneTest lane false s = .next t ∧ lane ∈ t.host.badLanes ∧ (∀ l ∈ s.host.badLanes, l ∈ t.host.badLanes) ∧
      (t.die (laneDie lane)).ras = bumpCounter (s.die (laneDie lane)).ras 7 := by
  refine ⟨_, by rw [execLaneTest, hasNat_eq_false idle]; rfl, ?_, fun l hl => ?_, ?_⟩
  · simp only [State.updHost]
    split
    next h => exact hasNat_iff.1 h
    next => exact List.mem_append_right _ (List.mem_singleton_self lane)
  · simp only [State.updHost]
    split
    next => exact hl
    next => exact List.mem_append_left _ hl
  · rw [State.die_updHost, State.rasBump, State.die_updDie]

/-- The images arrive in the order of the lost segments (R398). -/
theorem markArrived_first {pre post : List LostSeg} {l : LostSeg} (before : ∀ x ∈ pre, x.arrived = true) (h : l.arrived = false) :
    markArrived (pre ++ l :: post) = some (pre ++ { l with arrived := true } :: post) := by
  induction pre with
  | nil => simp [markArrived, h]
  | cons x pre ih =>
    rw [List.cons_append, markArrived, if_pos (before x List.mem_cons_self),
      ih fun y hy => before y (List.mem_cons_of_mem x hy)]
    rfl

theorem execRingImageArrival_first {s : State} {k : Nat} {b : Bypass} {pre post : List LostSeg} {l : LostSeg}
    (bypass : (s.rings.get Ring.init k).bypasses = [b]) (lost : b.lost = pre ++ l :: post)
    (before : ∀ x ∈ pre, x.arrived = true) (waits : l.arrived = false) :
    execRingImageArrival k s = .next { s with rings := s.rings.set Ring.init k { s.rings.get Ring.init k with
      bypasses := [{ b with lost := pre ++ { l with arrived := true } :: post }] } } := by
  simp only [execRingImageArrival, bypass, arriveIn, lost, markArrived_first before waits]

/-- The first torn position that `f` names is whole again (R397). -/
theorem mendFirst_first {f : Position → Bool} {pre post : List Position} {p : Position}
    (before : ∀ x ∈ pre, (x.torn && x.seg.isSome && f x) = false) (h : (p.torn && p.seg.isSome && f p) = true) :
    mendFirst f (pre ++ p :: post) = some (p, pre.length, pre ++ { p with torn := false } :: post) := by
  induction pre with
  | nil => rw [List.nil_append, mendFirst, if_pos h]; rfl
  | cons x pre ih =>
    rw [List.cons_append, mendFirst, if_neg (by simp [before x List.mem_cons_self]),
      ih fun y hy => before y (List.mem_cons_of_mem x hy)]
    rfl

/-- A re-read of a die's own torn position succeeds (R397, R403). -/
theorem execRingImageReread_mends {s : State} {k d : Nat} {pre post : List Position} {p : Position}
    (store : (s.die d).ring.transit = pre ++ p :: post) (before : ∀ x ∈ pre, ¬ (x.torn = true ∧ x.seg.isSome ∧ x.out = none))
    (torn : p.torn = true) (seg : p.seg.isSome) (out : p.out = none) :
    ∃ t, execRingImageReread k d true s = .next t ∧ (t.die d).ring.transit = pre ++ { p with torn := false } :: post ∧
      (t.die d).ras = bumpCounter (s.die d).ras 2 := by
  have found : s.findTorn (s.rings.get Ring.init k) d = some (d, p, pre.length, pre ++ { p with torn := false } :: post) := by
    rw [State.findTorn, store, mendFirst_first (fun x hx => ?_) (by simp [torn, seg, out])]
    have := before x hx
    simp only [← Bool.not_eq_true, Bool.and_eq_true, Option.isNone_iff_eq_none]
    exact fun ⟨⟨a, b⟩, c⟩ => this ⟨a, b, c⟩
  refine ⟨_, by rw [execRingImageReread, found]; rfl, ?_, ?_⟩
  · rw [State.updRing, State.die_updDie]
  · rw [State.updRing, State.die_updDie, State.rasBump, State.die_updDie]

/-! ## Takeover -/

theorem lookupCell_mem {α : Type} {k : Nat} {v : α} {l : List (Nat × α)} (h : lookupCell k l = some v) : (k, v) ∈ l := by
  induction l with
  | nil => cases h
  | cons c l ih =>
    rw [lookupCell_cons] at h
    split at h
    next e => subst e; cases h; exact List.mem_cons_self
    next => exact List.mem_cons_of_mem _ (ih h)

/-- The instances of a die that has failed, one after the other (R400). -/
def State.endInsts (s : State) (l : List (Nat × Inst)) : State :=
  l.foldl (fun s p => { (s.dropWaiter p.1) with insts := s.insts.del p.1 }) s

theorem State.sameSides_dropWaiter (s : State) (u : Nat) : s.SameSides (s.dropWaiter u) := by
  simp [State.dropWaiter]

theorem State.endInsts_cons (s : State) (p : Nat × Inst) (l : List (Nat × Inst)) :
    s.endInsts (p :: l) = State.endInsts { (s.dropWaiter p.1) with insts := s.insts.del p.1 } l := rfl

theorem State.rings_endInsts (s : State) (l : List (Nat × Inst)) : (s.endInsts l).rings = s.rings := by
  induction l generalizing s with
  | nil => rfl
  | cons p l ih =>
    rw [State.endInsts_cons, ih]
    dsimp only
    exact (s.sameSides_dropWaiter p.1).rings

theorem State.inst_endInsts {s : State} {l : List (Nat × Inst)} {u : Nat} (h : (∃ i, (u, i) ∈ l) ∨ s.inst u = none) :
    (s.endInsts l).inst u = none := by
  induction l generalizing s with
  | nil => exact h.resolve_left fun ⟨_, hi⟩ => List.not_mem_nil hi
  | cons p l ih =>
    rw [State.endInsts_cons]
    refine ih ?_
    by_cases e : u = p.1
    · subst e; exact .inr (FMap.find_del_same ..)
    · refine h.imp (fun ⟨i, hi⟩ => ⟨i, (List.mem_cons.1 hi).resolve_left fun hp => e (congrArg Prod.fst hp)⟩) fun h => ?_
      exact (FMap.find_del_ne e ..).trans h

theorem State.sameSides_endDie (s : State) (d : Nat) : (s.endInsts (s.instsOn d)).SameSides (s.endDie d) := by
  unfold State.endDie
  extract_lets s1 s2 s3
  simp [s3, s2, s1, State.endInsts]

/-- The instances of a failed die have all ended (R400). -/
theorem State.inst_endDie {s : State} {d u : Nat} {i : Inst} (h : s.inst u = some i) (on : i.who.die = d) :
    (s.endDie d).inst u = none :=
  (s.sameSides_endDie d).inst_none (State.inst_endInsts
    (.inl ⟨i, List.mem_filter.2 ⟨lookupCell_mem h, beq_iff_eq.2 on⟩⟩))

theorem State.sameSides_loseContexts (s : State) (d : Nat) (keep : Nat → Bool) : s.SameSides (s.loseContexts d keep).1 := by
  simp [State.loseContexts]

/-- What the loss of die `x` leaves: the rings, a die that has stopped, and none of its instances. -/
theorem State.loseDie_leaves (s : State) (d x F : Nat) : (s.loseDie d x F).rings = s.rings ∧
    ((s.loseDie d x F).die x).ring.stopped = true ∧
    ∀ u i, s.inst u = some i → i.who.die = x → (s.loseDie d x F).inst u = none := by
  unfold State.loseDie
  extract_lets c s1 s2 info s3 s4
  have lost : s.SameSides c.1 := s.sameSides_loseContexts x _
  have reported : s2.SameSides (s4.reportLost x c.2) := by simp [s4, s3]
  refine ⟨?_, ?_, fun u i hi on => ?_⟩
  · rw [reported.rings, State.updRing_rings, (c.1.sameSides_endDie x).rings, State.rings_endInsts, lost.rings]
  · rw [reported.ring, show s2.die x = _ from State.die_updDie ..]
  · obtain ⟨j, hj, same⟩ := lost.inst_some hi
    exact reported.inst_none (State.inst_endDie hj (same ▸ on))

theorem State.inst_reindexAll (s : State) (dies : List Nat) (idx u : Nat) : (s.reindexAll dies idx).inst u = s.inst u :=
  List.foldlRecOn (motive := fun t : State => t.inst u = s.inst u) dies _ rfl fun _ h _ _ => h

/-- The takeover around a die of this module (R396, R400). -/
theorem State.takeover_leaves (s : State) (k : Nat) (r : Ring) (d x y : Nat) (here : x ≠ outside) :
    ((s.takeover k r d x y).rings.get Ring.init k).dies = r.dies.filter (fun e => e != x) ∧
    ((s.takeover k r d x y).die x).ring.stopped = true ∧
    ∀ u i, s.inst u = some i → i.who.die = x → (s.takeover k r d x y).inst u = none := by
  unfold State.takeover
  extract_lets du F far store last torn gone lost last' ahead route b old s1 idx dies s2 s3
  have near : ¬ far = true := by simpa [far] using here
  obtain ⟨rings, stopped, ended⟩ := s3.loseDie_leaves d x F
  rw [if_neg near]
  refine ⟨?_, stopped, fun u i hi on => ended u i ?_ on⟩
  · rw [rings]
    simp only [s3, FMap.get_set_same]
    rfl
  · have start : s1.inst u = s.inst u := by simp only [s1, if_neg near]; rfl
    exact ((State.inst_reindexAll s1 dies idx u).trans start).trans hi

/-- Which way COL_BYPASS_TAKEOVER goes at a ring without a splice (R394, R396). -/
theorem execColBypassTakeover_eq {s : State} {k j d : Nat} {r : Ring} (hr : s.rings.get Ring.init k = r) (formed : r.formed = true)
    (runs : r.halted = false) (here : r.next d ≠ outside) (place : r.dies[j]? = some d)
    (up : s.silent d (r.start + r.slotCycles) = false) (down : s.silent (r.next d) (r.start + r.slotCycles) = true) :
    execColBypassTakeover k j s =
      if s.routeFree r d (r.next d) (r.next (r.next d)) (r.start + r.slotCycles) = true
      then .next (s.takeover k r d (r.next d) (r.next (r.next d)))
      else .next { s with rings := s.rings.set Ring.init k { r with halted := true } } := by
  simp [execColBypassTakeover, hr, place, formed, runs, here, up, down]

/-! ## Patrol scrub (R402) -/

/-- One line of a patrol scrub: it is counted and poisoned. -/
def State.scrubLine (die : Nat) (s : State) (l : Nat) : State :=
  { s.rasBump die 1 with phys := { s.phys with bad := s.phys.bad ++ (lineBytes l).filter fun a => !hasNat s.phys.bad a } }

theorem mem_lineBytes {l a : Nat} : a ∈ lineBytes l ↔ a / 64 = l := by
  simp only [lineBytes, List.mem_map, List.mem_range]
  constructor
  · rintro ⟨i, hi, rfl⟩; omega
  · intro h; exact ⟨a % 64, Nat.mod_lt _ (by decide), by omega⟩

theorem State.bad_scrubLine (die : Nat) (s : State) (l a : Nat) :
    a ∈ (s.scrubLine die l).phys.bad ↔ a ∈ s.phys.bad ∨ a / 64 = l := by
  simp only [State.scrubLine, List.mem_append, List.mem_filter, mem_lineBytes, Bool.not_eq_true', ← Bool.not_eq_true, hasNat_iff]
  by_cases h : a ∈ s.phys.bad <;> simp [h]

theorem State.bad_foldl_scrubLine (die : Nat) (l : List Nat) (s : State) (a : Nat) :
    a ∈ (l.foldl (State.scrubLine die) s).phys.bad ↔ a ∈ s.phys.bad ∨ a / 64 ∈ l := by
  induction l generalizing s with
  | nil => simp
  | cons x l ih => rw [List.foldl_cons, ih, State.bad_scrubLine, List.mem_cons, or_assoc]

theorem State.foldl_scrubLine_keeps (die : Nat) (l : List Nat) (s : State) :
    (l.foldl (State.scrubLine die) s).phys.mem = s.phys.mem ∧ (l.foldl (State.scrubLine die) s).insts = s.insts :=
  List.foldlRecOn (motive := fun t : State => t.phys.mem = s.phys.mem ∧ t.insts = s.insts) l _ ⟨rfl, rfl⟩ fun _ h _ _ => h

/-- A patrol scrub poisons the lines of the die that hold an uncorrectable error, and changes no byte. -/
theorem execPatrolScrub_poisons (s : State) (d : Nat) : ∃ t, execPatrolScrub d s = .next t ∧ t.phys.mem = s.phys.mem ∧
    t.insts = s.insts ∧ (∀ a ∈ s.phys.bad, a ∈ t.phys.bad) ∧
    ∀ a ∈ s.phys.bad, s.homeOf a = some (if 16 ≤ d then .hbm d else .dieMem d) → ∀ b, b / 64 = a / 64 → b ∈ t.phys.bad := by
  unfold execPatrolScrub
  extract_lets home mine lines s1 n
  have scrubbed : s1 = lines.foldl (State.scrubLine d) s := rfl
  obtain ⟨mem, insts⟩ := State.foldl_scrubLine_keeps d lines s
  have bad (a : Nat) : a ∈ s1.phys.bad ↔ a ∈ s.phys.bad ∨ a / 64 ∈ lines := scrubbed ▸ State.bad_foldl_scrubLine d lines s a
  refine ⟨_, rfl, scrubbed ▸ mem, scrubbed ▸ insts, fun a ha => (bad a).2 (.inl ha), fun a ha hhome b hb => (bad b).2 ?_⟩
  have own : a ∈ mine := List.mem_filter.2 ⟨ha, beq_iff_eq.2 (hhome.trans (by simp [home, isAtt]))⟩
  by_cases whole : (lineBytes (a / 64)).all (hasNat s.phys.bad) = true
  · exact .inl (hasNat_iff.1 (List.all_eq_true.1 whole b (mem_lineBytes.2 hb)))
  · right
    rw [hb]
    refine List.mem_filter.2 ⟨List.mem_eraseDups.2 (List.mem_map.2 ⟨a, own, rfl⟩), ?_⟩
    simpa using whole

/-! ## The obligation -/

/-- Settles O51: the ring slot from the presentations of whole head positions after the move, each repair event by the lemma
on its operation. -/
theorem ringSlotsAndRepair : Obligations.RingSlotsAndRepair := by
  unfold Obligations.RingSlotsAndRepair
  refine ⟨?slot, ?fence, ?failure, ?lane, ?arrival, ?reread, ?takeover, execPatrolScrub_poisons⟩
  case slot =>
    intro s k r taken formed runs none once torn out whole
    exact execRingSlot_whole rfl formed runs none once ⟨torn, out⟩ fun d hd =>
      let ⟨accepts, owed, filled, plain⟩ := whole d hd
      ⟨accepts, owed, filled, plain⟩
  case fence =>
    intro s d cyc
    refine ⟨_, rfl, ?_, rfl, rfl⟩
    rw [State.updRing, State.die_updDie, State.advance, State.die_updDie]
    cases (s.die d).ring.fence <;> rfl
  case failure =>
    intro s d c ringDie
    refine ⟨_, execDieFailure_ringDie ringDie c s, ?_, fun e he => State.die_updDie_ne he .., rfl, rfl⟩
    rw [State.updRing, State.die_updDie]
  case lane =>
    intro s lane idle
    exact ⟨execLaneTest_works idle, execLaneTest_fails idle⟩
  case arrival =>
    intro s k b pre post l bypass lost before waits
    exact ⟨_, execRingImageArrival_first bypass lost before waits, by rw [FMap.get_set_same], rfl⟩
  case reread =>
    intro s k d pre post p store before torn seg out
    exact execRingImageReread_mends store before torn seg out
  case takeover =>
    intro s k j d r x y formed runs whole low place up down
    have here : x ≠ outside := fun e => absurd (e ▸ low) (by decide)
    have way := execColBypassTakeover_eq rfl formed runs here place up down
    refine ⟨fun blocked => ⟨_, way.trans (if_neg (ne_true_of_eq_false blocked)), FMap.get_set_same .., rfl, rfl⟩,
      fun free => ⟨_, way.trans (if_pos free), s.takeover_leaves k r d x y here⟩⟩

end Sys2Proof.Machine
end

section
/-! # A barrier whose completion reaches another instance (O49)

When a barrier completes, the cohort byte of every parked joiner is written into its frame (R348, R352). The statement on barriers
holds for a frame pool in plain memory, and it fails for one that lies over the page-resume registers (R357): the byte is then a
request number, and the instances that are parked on that request go on (R378). -/

namespace Sys2Proof.Machine

/-- A pending joiner of cohort 0 on die 13, parked in frame slot 0 until the page of request 64 comes. -/
def parkedJoiner : Inst where
  who := ⟨.block, 0, 0, 13, 0, 0, 0, 0, none, none, 0⟩
  ctx := Ctx.init 0 0
  range := ⟨0, 0, false, 0, 0, false⟩
  sched := ⟨.parked, none, 0, 0, 0, 0, false, .page false, 0, true, some 0, none, none, none, false, [], false, false, none, [],
    none⟩
  coh := some 0
  ex := ⟨false, false, false, none, none, false, 0, 0, 0, 0, 0, false, (0, 0), false, 0⟩

/-- Die 13 when the one member of cohort 0 has arrived and instance 1 waits to join. The frame pool is aligned as R334 has it; the
cohort byte of its slot 0 is the first byte of the die's page-resume register. -/
def poolOverResume : State :=
  { State.reset with
    insts := ⟨[(1, parkedJoiner)]⟩
    dies := ⟨[(13, { Die.init with
      regs := { DieRegs.init with fpool := 0x4102_8000, fpn := 1 }
      sch := { Scheduler.init with cohorts := ⟨[(0, ⟨[0], [1], [0], [], [], 0, []⟩)]⟩, frames := [0], parks := [(64, 1)] } })]⟩
    phys := { Phys.init with qcBase := 0x4100_3F00 } }

/-- The joiner, no member when the barrier completes, is told that its page has come. -/
theorem inst_cohortComplete_poolOverResume : ((poolOverResume.advance 13 24).cohortComplete 13 0).inst 1 =
    some { parkedJoiner with sched := { parkedJoiner.sched with wait := .page true } } := by
  decide +kernel

/-- Refutes O49, by the last part of the clause on barriers: an instance that has not arrived changes when the barrier completes,
where the frame pool lies over the page-resume registers. -/
theorem not_schedulerTimersAndSteals : ¬ Obligations.SchedulerTimersAndSteals := by
  unfold Obligations.SchedulerTimersAndSteals
  rintro ⟨⟨-, barrier, -⟩, -⟩
  obtain ⟨t, step, -, -, others⟩ := barrier poolOverResume 13 0 (by decide) (by decide)
  have completes : exec (.cohortBarrierComplete 13 0 ((poolOverResume.cohort 13 0).lastAt + 24)) poolOverResume =
    .next ((poolOverResume.advance 13 24).cohortComplete 13 0) := rfl
  cases completes.symm.trans step
  have kept := others 1 (by decide)
  rw [inst_cohortComplete_poolOverResume] at kept
  exact absurd kept (by decide)

end Sys2Proof.Machine
end

section
/-! # Cohort and range words (O20)

First what the cohort operations do to a cohort and leave alone, then a stream that blocks (R45): every producer whose value this
module gives has delivered, and nothing around the stream has changed but its sequencer and error counters. The words follow. -/

namespace Sys2Proof.Machine

/-! ## Cohorts -/

@[simp] theorem State.cohort_setCohort (s : State) (d id : Nat) (c : Cohort) : (s.setCohort d id c).cohort d id = c := by
  simp [State.cohort, State.setCohort, State.updSch]

@[simp] theorem State.cohort_updInst (s : State) (u : Nat) (f : Inst → Inst) (d id : Nat) :
    (s.updInst u f).cohort d id = s.cohort d id := by
  simp [State.cohort]

theorem State.cohort_eq_of_sch {s t : State} {d : Nat} (h : (t.die d).sch = (s.die d).sch) (id : Nat) :
    t.cohort d id = s.cohort d id := by
  rw [State.cohort, State.cohort, h]

/-- A join: a member if the cohort has nobody, else a pending joiner (R38). -/
theorem State.cohort_cohortJoin (s : State) (d id u : Nat) : (s.cohortJoin d id u).cohort d id =
    if (s.cohort d id).members = [] ∧ (s.cohort d id).pending = [] then { s.cohort d id with members := [u] }
    else { s.cohort d id with pending := (s.cohort d id).pending ++ [u] } := by
  simp [State.cohortJoin]

/-- An update of cohorts and instances only. -/
structure State.CohortOnly (s t : State) : Prop where
  phys : t.phys = s.phys
  host : t.host = s.host
  tiles : t.tiles = s.tiles

theorem State.cohortOnly_join (s : State) (d id u : Nat) : s.CohortOnly (s.cohortJoin d id u) := by
  constructor <;> simp [State.cohortJoin, State.setCohort]

theorem State.cohortOnly_leave (s : State) (d u : Nat) : s.CohortOnly (s.cohortLeave d u) := by
  unfold State.cohortLeave
  split <;> constructor <;> simp [State.setCohort]

/-- An arrival is noted at the current barrier, or at the next one while the join is pending (R38). -/
theorem State.cohort_cohortArrive (s : State) (d id u : Nat) (view : List Know) :
    (u ∉ (s.cohort d id).pending → u ∈ ((s.cohortArrive d id u view).cohort d id).arrived) ∧
    (u ∈ (s.cohort d id).pending → u ∈ ((s.cohortArrive d id u view).cohort d id).early) := by
  constructor <;> intro h <;> simp [State.cohortArrive, hasNat, h]

/-! ## Delivery before a switch -/

@[simp] theorem Ctx.deliver_prods (c : Ctx) (k : Nat) (ws : List Word) (v : VecReg) :
    (c.deliver k ws v).prods = c.prods.eraseIdx k := by
  unfold Ctx.deliver
  split
  next h => rw [List.eraseIdx_of_length_le (List.getElem?_eq_none_iff.1 h)]
  next => rfl
@[simp] theorem Ctx.deliver_pc (c : Ctx) (k : Nat) (ws : List Word) (v : VecReg) : (c.deliver k ws v).pc = c.pc := by
  unfold Ctx.deliver; split <;> rfl
@[simp] theorem Ctx.deliver_flights (c : Ctx) (k : Nat) (ws : List Word) (v : VecReg) :
    (c.deliver k ws v).flights = c.flights := by
  unfold Ctx.deliver; split <;> rfl

theorem State.giveNow_prods (s : State) (c : Ctx) (k : Nat) (p : Producer) :
    (s.giveNow c k p).2.prods = c.prods.eraseIdx k := by
  unfold State.giveNow
  extract_lets c1 c2
  have given : c2.prods = c.prods.eraseIdx k := by simp only [c2]; split <;> simp [c1]
  split <;> exact given

/-- `t` is `s` but for the error counters of the dies (R403). -/
structure State.CountsOnly (s t : State) : Prop where
  eq : t = { s with dies := t.dies }
  die (d : Nat) : t.die d = { s.die d with ras := (t.die d).ras }

theorem State.CountsOnly.refl (s : State) : s.CountsOnly s := ⟨rfl, fun _ => rfl⟩
theorem State.CountsOnly.trans {s t u : State} (h : s.CountsOnly t) (k : t.CountsOnly u) : s.CountsOnly u :=
  ⟨by rw [k.eq, h.eq], fun d => by rw [k.die, h.die]⟩

theorem State.countsOnly_rasBump (s : State) (d k : Nat) : s.CountsOnly (s.rasBump d k) := by
  refine ⟨rfl, fun e => ?_⟩
  rw [State.rasBump, State.die_updDie_apply]
  split
  next h => rw [h]
  next => rfl

theorem State.countsOnly_uecc (s : State) (pa : Nat) : s.CountsOnly (s.uecc pa) := by
  unfold State.uecc
  split
  · exact s.countsOnly_rasBump ..
  · exact s.countsOnly_rasBump ..
  · exact .refl s

/-- A delivery counts at most an error, and the stream keeps its PC and its results in flight. -/
theorem State.giveNow_keeps (s : State) (c : Ctx) (k : Nat) (p : Producer) : s.CountsOnly (s.giveNow c k p).1 ∧
    (s.giveNow c k p).2.pc = c.pc ∧ (s.giveNow c k p).2.flights = c.flights := by
  unfold State.giveNow
  extract_lets c1 c2
  have pc : c2.pc = c.pc := by simp only [c2]; split <;> simp [c1]
  have flights : c2.flights = c.flights := by simp only [c2]; split <;> simp [c1]
  split
  · exact ⟨s.countsOnly_uecc _, pc, flights⟩
  · exact ⟨.refl s, pc, flights⟩

theorem State.deliverSome_keeps (s : State) (sel : Producer → Bool) (n : Nat) (c : Ctx) :
    s.CountsOnly (s.deliverSome sel n c).1 ∧ (s.deliverSome sel n c).2.pc = c.pc ∧
    (s.deliverSome sel n c).2.flights = c.flights := by
  induction n generalizing s c with
  | zero => exact ⟨.refl s, rfl, rfl⟩
  | succ n ih =>
    unfold State.deliverSome
    split
    · exact ⟨.refl s, rfl, rfl⟩
    · split
      · exact ⟨.refl s, rfl, rfl⟩
      · obtain ⟨counts, pc, flights⟩ := s.giveNow_keeps c ‹_› ‹_›
        obtain ⟨counts', pc', flights'⟩ := ih (s.giveNow c ‹_› ‹_›).1 (s.giveNow c ‹_› ‹_›).2
        exact ⟨counts.trans counts', pc'.trans pc, flights'.trans flights⟩

/-- With a step for each producer, only chain statuses, loads of other modules and extents are left. -/
theorem State.deliverLocal_prods (s : State) (n : Nat) (c : Ctx) (h : c.prods.length ≤ n) :
    ∀ p ∈ (s.deliverLocal n c).2.prods, p.src.isChain = true ∨ p.src.isSpan = true ∨ p.src.isExtent = true := by
  unfold State.deliverLocal
  induction n generalizing s c with
  | zero =>
    intro p hp
    rw [State.deliverSome, List.length_eq_zero_iff.1 (Nat.le_zero.1 h)] at hp
    cases hp
  | succ n ih =>
    unfold State.deliverSome
    split
    next idle =>
      intro p hp
      have := List.findIdx?_eq_none_iff.1 idle p hp
      revert this
      cases p.src.isChain <;> cases p.src.isSpan <;> cases p.src.isExtent <;> simp
    next k found =>
      have lt : k < c.prods.length := (List.findIdx?_eq_some_iff_findIdx_eq.1 found).1
      rw [List.getElem?_eq_getElem lt]
      exact ih _ _ (by rw [State.giveNow_prods, List.length_eraseIdx_of_lt lt]; omega)

/-! ## A stream that blocks (R45) -/

theorem Cur.blocks_block (c : Cur) (w : Wait) : c.Blocks c.s w c.pc (c.block w) := by
  unfold Cur.block
  extract_lets c1 s1
  obtain ⟨⟨around, -⟩, pc, flights⟩ := c.s.deliverSome_keeps (fun _ => true) c.i.ctx.prods.length c.i.ctx.landAll
  have around : c1.s = { c.s with dies := c1.s.dies } := around
  have left := c.s.deliverLocal_prods c.i.ctx.prods.length c.i.ctx.landAll (Nat.le_refl _)
  have seqs : c1.s.seqs = c.s.seqs := by rw [around]
  refine ⟨⟨c1.i, State.inst_setInst .., rfl, rfl, rfl, rfl, pc, flights, rfl, left, ?_⟩,
    fun u hu => ?_, fun k hk => ?_, ?_, ?_, ?_⟩
  · show s1.seq c1.die c1.q = _
    simp only [s1, State.seq_updSeq, Cur.save, State.seq_setInst]
    rw [State.seq, seqs]
    rfl
  · refine (State.inst_setInst_ne (u := c1.uid) hu c1.s c1.i).trans ?_
    rw [around]
    rfl
  · exact (FMap.get_set_ne hk ..).trans (by rw [Cur.save, State.setInst_seqs, seqs])
  · show c1.s.phys = _
    rw [around]
  · show c1.s.host = _
    rw [around]
  · show c1.s.ports = _
    rw [around]

/-- Whether a stream blocks does not depend on its context and the state in which it issues. -/
theorem Cur.Blocks.of_stream {c c' : Cur} {b : State} {w : Wait} {pc : Word64} {t : State} (k : c'.Blocks b w pc t)
    (uid : c'.uid = c.uid) (q : c'.q = c.q) (clk : c'.clk = c.clk) (who : c'.i.who = c.i.who) : c.Blocks b w pc t := by
  have die : c'.die = c.die := by rw [Cur.die, Cur.die, who]
  obtain ⟨inst, insts, seqs, phys, host, ports⟩ := k
  rw [uid, q, clk, who, die] at inst
  rw [uid] at insts
  rw [die, q] at seqs
  exact ⟨inst, insts, seqs, phys, host, ports⟩

/-- A change of cohorts leaves the stream blocked. -/
theorem Cur.Blocks.setCohort {c : Cur} {b : State} {w : Wait} {pc : Word64} {t : State} (k : c.Blocks b w pc t) (d id : Nat)
    (x : Cohort) : c.Blocks b w pc (t.setCohort d id x) :=
  ⟨k.inst, k.insts, k.seqs, k.phys, k.host, k.ports⟩

/-- The cohorts are as before the stream has blocked. -/
theorem Cur.sch_block (c : Cur) (w : Wait) (d : Nat) : ((c.block w).die d).sch = (c.s.die d).sch := by
  obtain ⟨counts, -, -⟩ := c.s.deliverSome_keeps (fun _ => true) c.i.ctx.prods.length c.i.ctx.landAll
  have delivered : (c.deliverAll.s.die d).sch = (c.s.die d).sch := by rw [Cur.deliverAll, State.deliverLocal, counts.die]
  unfold Cur.block
  extract_lets c1 s1
  rw [State.advance, State.die_updDie_apply]
  split
  next h => subst h; exact delivered
  next => exact delivered

/-! ## The cohort words (R38, R152) -/

section Words
variable {s : State} {c : Cur} {g : Guard} {b : IBody} (h : s.Issues c) (o : c.Ordinary) (on : guardAt c.regs g 0 = true)
include h o on

theorem execJoin_inCohort (has : c.i.coh ≠ none) : execJoin g b s = .next (State.takeTrap c 0x0F 0 0 c.pc c.pc) :=
  issueLen_trap h.cur (o.may ..) (by simp [guarded_true on, Option.isSome_iff_ne_none.2 has])

theorem execLeave_otherCohort (other : c.i.coh ≠ some b.imm.toNat) :
    execLeave g b s = .next (State.takeTrap c 0x0F 0 0 c.pc c.pc) :=
  issueLen_trap h.cur (o.may ..) (by simp [guarded_true on, other])

theorem execCbar_otherCohort (other : c.i.coh ≠ some b.imm.toNat) :
    execCbar g b s = .next (State.takeTrap c 0x0F 0 0 c.pc c.pc) :=
  issueLen_trap h.cur (o.may ..) (by simp [guarded_true on, other])

theorem execJoin_joins (alone : c.i.coh = none)
    (room : (s.cohort c.die b.imm.toNat).members.length + (s.cohort c.die b.imm.toNat).pending.length < 1024) :
    ∃ t, execJoin g b s = .next t ∧ c.Leaves (s.cohortJoin c.die b.imm.toNat c.uid)
      ({ c.i with coh := some b.imm.toNat }.past c.pc 8) t := by
  have here := State.cur_s h.cur
  refine word_ok (c' := { c with s := s.cohortJoin c.die b.imm.toNat c.uid, i := { c.i with coh := some b.imm.toNat } }) h
    (o.may ..) ?_ ⟨rfl, rfl, rfl, rfl, rfl⟩ rfl rfl
  simp [guarded_true on, alone, here, Cohort.full, room]

theorem execLeave_leaves (own : c.i.coh = some b.imm.toNat) :
    ∃ t, execLeave g b s = .next t ∧ c.Leaves ((s.advance c.die c.clk).cohortLeave c.die c.uid)
      ({ c.i with coh := none }.past c.pc 8) t := by
  have here := State.cur_s h.cur
  refine word_ok (c' := { c with s := (s.advance c.die c.clk).cohortLeave c.die c.uid, i := { c.i with coh := none } }) h
    (o.may ..) ?_ ⟨rfl, rfl, rfl, rfl, rfl⟩ rfl rfl
  simp [guarded_true on, own, here]

/-- The stream that blocks at a barrier stands past the word, and its arrival is noted. -/
theorem execCbar_blocks (own : c.i.coh = some b.imm.toNat) (acq : c.i.ctx.acqOpen = false) (far : c.i.ctx.remoteOpen = false) :
    ∃ t view, execCbar g b s = .next (t.cohortArrive c.die b.imm.toNat c.uid view) ∧
      c.Blocks s (.cbar b.imm.toNat false) (c.i.past c.pc 8).ctx.pc t ∧
      t.cohort c.die b.imm.toNat = s.cohort c.die b.imm.toNat := by
  have here := State.cur_s h.cur
  refine ⟨((c.mapCtx fun x => c.s.captureAll x).fallThrough 8).block (.cbar b.imm.toNat false),
    (c.s.captureAll c.i.ctx).ord.view, issueLen_done h (o.may ..) ?_, ?_, ?_⟩
  · simp [guarded_true on, own, afterAcquire, acq, release, far]
    rfl
  · have blocked := ((c.mapCtx fun x => c.s.captureAll x).fallThrough 8).blocks_block (.cbar b.imm.toNat false)
    exact here ▸ blocked.of_stream rfl rfl rfl rfl
  · exact (State.cohort_eq_of_sch (Cur.sch_block ..) _).trans (by rw [← here]; rfl)

end Words

/-! ## The range words (R154, R155) -/

section Ranges
variable {s : State} {c : Cur} {g : Guard} (h : s.Issues c) (o : c.Ordinary) (on : guardAt c.regs g 0 = true)
include h o on

/-- `RNG` delivers the lowest number of a range that holds one and takes it out. -/
theorem execRng_takes {b : IBody} (room : c.room b.dst.toNat 1 = true) (more : c.i.range.lo.toNat < c.i.range.hi.toNat) :
    ∃ t, execRng g b s = .next t ∧ c.Leaves s
      { (c.i.withCtx (c.i.ctx.reserves b.dst.toNat 1 (.known [c.i.range.lo]) false false false)).past c.pc 8 with
        range := { c.i.range with lo := c.i.range.lo + 1 } } t := by
  have lt : c.i.range.lo.ult c.i.range.hi = true := by simpa [BitVec.ult] using more
  have here := State.cur_s h.cur
  unfold execRng
  exact word_ok (len := 8) (c' := { c with i := { c.i with range := { c.i.range with lo := c.i.range.lo + 1 } } }.produce
      b.dst.toNat 1 (.known [c.i.range.lo]) false false false)
    (i := { c.i.withCtx (c.i.ctx.reserves b.dst.toNat 1 (.known [c.i.range.lo]) false false false) with
      range := { c.i.range with lo := c.i.range.lo + 1 } })
    h (o.may ..) (by simp only [guarded_true on, needRoom_true room, if_pos lt]) ⟨rfl, rfl, rfl, rfl, rfl⟩ here rfl

/-- `RNG` of an empty range delivers all ones. -/
theorem execRng_empty {b : IBody} (room : c.room b.dst.toNat 1 = true) (empty : c.i.range.hi.toNat ≤ c.i.range.lo.toNat) :
    ∃ t, execRng g b s = .next t ∧ c.Leaves s
      ((c.i.withCtx (c.i.ctx.reserves b.dst.toNat 1 (.known [0xFFFF_FFFF]) false false false)).past c.pc 8) t := by
  have le : ¬ c.i.range.lo.ult c.i.range.hi = true := by simpa [BitVec.ult] using empty
  have here := State.cur_s h.cur
  exact word_ok (c' := c.produce b.dst.toNat 1 (.known [0xFFFF_FFFF]) false false false) h (o.may ..)
    (by simp only [guarded_true on, needRoom_true room, if_neg le]) (c.same_produce ..) here rfl

/-- The range is replaced. -/
theorem rngsetOp_replaces {b : RBody} (split : Bool) {lo hi : Word} {tl th : Bool} {taken : FMap Nat}
    (ops : c.regs.reads [opA b, opB b] = .vals [(lo, tl), (hi, th)] taken) :
    ∃ t, rngsetOp g b split s = .next t ∧ c.Leaves s
      { (c.i.withCtx { c.i.ctx with regs := c.regs.eat taken }).past c.pc 8 with
        range := { c.i.range with lo := lo, hi := hi, steal := split, set := true } } t := by
  have here := State.cur_s h.cur
  unfold rngsetOp
  exact word_ok (len := 8) (c' := { c with i := { c.i with range :=
        { c.i.range with lo := lo, hi := hi, steal := split, set := true } } }.mapRegs fun r => r.eat taken)
    (i := { c.i.withCtx { c.i.ctx with regs := c.regs.eat taken } with
      range := { c.i.range with lo := lo, hi := hi, steal := split, set := true } })
    h (o.may ..) (by simp only [guarded_true on, withOps_vals ops]; rfl) ⟨rfl, rfl, rfl, rfl, rfl⟩ here rfl

end Ranges

/-! ## The obligation -/

/-- Settles O20: each word by the lemma on its operation. -/
theorem cohortAndRangeWords : Obligations.CohortAndRangeWords := by
  unfold Obligations.CohortAndRangeWords
  refine ⟨fun g b s c h o on => ?cohort, fun g b s c h o on room => ?rng, ?rngset⟩
  case cohort =>
    have here := State.cur_s h.cur
    refine ⟨execJoin_inCohort h o on, fun alone room => ?join, fun other mk hmk => ?other, fun own => ?leave,
      fun own acq far => ?cbar⟩
    case join =>
      obtain ⟨t, step, frame⟩ := execJoin_joins h o on alone room
      obtain ⟨phys, host, tiles⟩ := s.cohortOnly_join c.die b.imm.toNat c.uid
      have joined : t.cohort c.die b.imm.toNat = _ :=
        (State.cohort_eq_of_sch (by rw [frame.die]) _).trans (s.cohort_cohortJoin c.die b.imm.toNat c.uid)
      refine ⟨t, step, ⟨_, frame.inst, rfl, rfl⟩, ?_, ?_, frame.phys.trans phys, frame.host.trans host,
        frame.tiles.trans tiles⟩
      all_goals
        rw [joined]
        split
      · rfl
      · rfl
      · next nobody => exact nobody.2
      · rfl
    case other =>
      rcases List.mem_pair.1 hmk with rfl | rfl
      · exact execLeave_otherCohort h o on other
      · exact execCbar_otherCohort h o on other
    case leave =>
      obtain ⟨t, step, frame⟩ := execLeave_leaves h o on own
      obtain ⟨phys, host, tiles⟩ := (s.advance c.die c.clk).cohortOnly_leave c.die c.uid
      exact ⟨t, _, step, frame.inst, rfl, rfl, frame.phys.trans phys, frame.host.trans host, frame.tiles.trans tiles⟩
    case cbar =>
      obtain ⟨t, view, step, blocked, same⟩ := execCbar_blocks h o on own acq far
      have arrival := t.cohort_cohortArrive c.die b.imm.toNat c.uid view
      rw [same] at arrival
      exact ⟨_, step, blocked.setCohort .., arrival⟩
  case rng => exact ⟨execRng_takes h o on room, execRng_empty h o on room⟩
  case rngset =>
    intro e he g b s c lo hi tl th taken h o on ops
    rcases List.mem_pair.1 he with rfl | rfl
    · exact rngsetOp_replaces h o on false ops
    · exact rngsetOp_replaces h o on true ops

end Sys2Proof.Machine
end

section
/-! # Placement, restores and time slices (O48) -/

namespace Sys2Proof.Machine

/-- What every step of a fold keeps, the fold keeps. -/
theorem State.foldl_keeps {α β : Type} (g : State → β) {f : State → α → State} (hf : ∀ t a, g (f t a) = g t)
    (l : List α) (s : State) : g (l.foldl f s) = g s :=
  List.foldlRecOn (motive := fun t => g t = g s) l f rfl fun t h a _ => (hf t a).trans h

theorem State.inst_updInst (s : State) (u v : Nat) (f : Inst → Inst) :
    (s.updInst u f).inst v = if v = u then (s.inst v).map f else s.inst v := by
  unfold State.updInst
  split
  next i hi =>
    rw [State.inst_setInst_apply]
    split
    next e => rw [e, hi]; rfl
    next => rfl
  next gone =>
    split
    next e => rw [e, gone]; rfl
    next => rfl

/-! ## Ranking (R46) -/

theorem firstBy_mem {α : Type} {lt : α → α → Bool} {l : List α} {x : α} (h : firstBy lt l = some x) : x ∈ l := by
  induction l generalizing x with
  | nil => cases h
  | cons y t ih =>
    unfold firstBy at h
    split at h
    next z first =>
      split at h <;> cases h
      · exact List.mem_cons_of_mem _ (ih first)
      · exact List.mem_cons_self
    next => cases h; exact List.mem_cons_self

/-- An element that comes before every other one is the first. -/
theorem firstBy_eq_some {α : Type} {lt : α → α → Bool} {l : List α} {x : α} (mem : x ∈ l)
    (before : ∀ y ∈ l, y = x ∨ (lt x y = true ∧ lt y x = false)) : firstBy lt l = some x := by
  induction l with
  | nil => cases mem
  | cons y t ih =>
    have rest : ∀ z ∈ t, z = x ∨ (lt x z = true ∧ lt z x = false) := fun z hz => before z (List.mem_cons_of_mem _ hz)
    unfold firstBy
    rcases before y List.mem_cons_self with rfl | ⟨lower, higher⟩
    · split
      next z first =>
        rcases rest z (firstBy_mem first) with rfl | ⟨-, not⟩
        · exact ite_self _
        · rw [not]; rfl
      next => rfl
    · have tail : x ∈ t := (List.mem_cons.1 mem).resolve_left (by rintro rfl; simp [lower] at higher)
      rw [ih tail rest]
      exact if_pos lower

/-- With none ordered by age alone, the one of highest effective priority is chosen. -/
theorem chooseReady_eq_some {cyc : Nat} {l : List (Nat × Inst)} {x : Nat × Inst} (mem : x ∈ l)
    (top : ∀ y ∈ l, y.2.aged cyc = false ∧ (y = x ∨ y.2.eff cyc < x.2.eff cyc)) : chooseReady cyc l = some x := by
  have young : l.filter (fun y => y.2.aged cyc) = [] := List.filter_eq_nil_iff.2 fun y hy => by simp [(top y hy).1]
  unfold chooseReady
  rw [young]
  refine firstBy_eq_some mem fun y hy => (top y hy).2.imp_right fun lt => ?_
  simp [ranksBefore, Nat.ne_of_gt lt, Nat.ne_of_lt lt, lt, Nat.le_of_lt lt]

theorem State.freeSlot_eq_some {s : State} {d q k : Nat} (lt : k < 4) (free : (s.seq d q).slots.find k = none)
    (taken : ∀ j, j < k → (s.seq d q).slots.find j ≠ none) : s.freeSlot d q = some k := by
  refine List.find?_range_eq_some.2 ⟨by simp [free], List.mem_range.2 lt, fun j hj => ?_⟩
  simp [Option.isSome_iff_ne_none, taken j hj]

theorem Inst.isTask_iff {i : Inst} : i.isTask = true ↔ Claims.task i := by simp [Inst.isTask, Claims.task]

/-- No event happens before the cycle that its die has come to. -/
theorem State.cyc_advance (s : State) (d cyc : Nat) : Nat.max cyc ((s.advance d cyc).die d).cyc = Nat.max cyc (s.die d).cyc := by
  rw [State.advance, State.die_updDie]
  exact (Nat.max_left_comm cyc (s.die d).cyc cyc).trans (by rw [Nat.max_self, Nat.max_comm])

theorem State.mem_readyOn {s : State} {d : Nat} {p : Nat × Inst} :
    p ∈ s.readyOn d ↔ p ∈ s.insts.cells ∧ p.2.who.die = d ∧ p.2.sched.status = .ready ∧ Claims.task p.2 := by
  simp only [State.readyOn, State.instsOn, List.mem_filter, Bool.and_eq_true, beq_iff_eq, Inst.isTask_iff, and_assoc]

/-- The ready instance that TASK_PLACEMENT chooses (R46): the one of highest effective priority, none being ordered by age alone. -/
theorem chooseReady_placement {s : State} {d q cyc u : Nat} {i : Inst} (mem : (u, i) ∈ s.insts.cells) (on : i.who.die = d)
    (ready : i.sched.status = .ready) (task : Claims.task i) (may : i.mayRun q = true) (stack : i.sched.stack.isSome = true)
    (top : ∀ p ∈ s.insts.cells, p.2.who.die = d → p.2.sched.status = .ready → Claims.task p.2 →
      p.2.sched.byAge = false ∧ Claims.readyFor p.2 (Nat.max cyc (s.die d).cyc) < 300000 ∧
      (p = (u, i) ∨ Claims.rank p.2 (Nat.max cyc (s.die d).cyc) < Claims.rank i (Nat.max cyc (s.die d).cyc))) :
    chooseReady (Nat.max cyc (s.die d).cyc) (((s.advance d cyc).readyOn d).filter fun p =>
      p.2.mayRun q && ((s.advance d cyc).hasStack p.2 || !p.2.sched.noStack)) = some (u, i) := by
  refine chooseReady_eq_some (List.mem_filter.2 ⟨State.mem_readyOn.2 ⟨mem, on, ready, task⟩, ?_⟩) fun p hp => ?_
  · simp [may, State.hasStack, stack]
  · obtain ⟨hp, on, ready, task⟩ := State.mem_readyOn.1 (List.mem_filter.1 hp).1
    obtain ⟨young, short, first⟩ := top p hp on ready task
    refine ⟨?_, first⟩
    have short : p.2.readySum (Nat.max cyc (s.die d).cyc) < 300000 := short
    simp [Inst.aged, young, short]

/-- A ready instance that has not yielded takes the lowest free slot. -/
theorem execTaskPlacement_places {s : State} {d q cyc u k n : Nat} {i : Inst}
    (chosen : chooseReady (Nat.max cyc (s.die d).cyc) (((s.advance d cyc).readyOn d).filter fun p =>
      p.2.mayRun q && ((s.advance d cyc).hasStack p.2 || !p.2.sched.noStack)) = some (u, i))
    (unplaced : i.sched.seq = none) (stack : i.sched.stack = some n) (slot : s.freeSlot d q = some k) :
    execTaskPlacement d q cyc s = .next ((s.advance d cyc).placeIn d q k u (Nat.max cyc (s.die d).cyc)) := by
  have slot' : (s.advance d cyc).freeSlot d q = some k := slot
  unfold execTaskPlacement
  simp only [State.cyc_advance]
  rw [chosen]
  simp [Inst.yielded, unplaced, State.hasStack, stack, slot', State.placeFree]

/-- An instance that has yielded goes on in the slot that it holds (R148). -/
theorem execTaskPlacement_yielded {s : State} {d q cyc u : Nat} {i : Inst}
    (chosen : chooseReady (Nat.max cyc (s.die d).cyc) (((s.advance d cyc).readyOn d).filter fun p =>
      p.2.mayRun q && ((s.advance d cyc).hasStack p.2 || !p.2.sched.noStack)) = some (u, i))
    (ready : i.sched.status = .ready) (placed : i.sched.seq = some q) :
    execTaskPlacement d q cyc s = .next ((s.advance d cyc).setInst u { i with sched := { i.sched with
      status := .resident, waited := i.readySum (Nat.max cyc (s.die d).cyc) } }) := by
  unfold execTaskPlacement
  simp only [State.cyc_advance]
  rw [chosen]
  simp [Inst.yielded, placed, ready]

/-- An instance that has its stack is placed (R46, R335). -/
theorem State.placeIn_stacked {s : State} {d q k u cyc n : Nat} {i : Inst} (hi : s.inst u = some i)
    (stack : i.sched.stack = some n) :
    s.placeIn d q k u cyc = (s.setInst u { i with sched := { i.sched with
        status := .resident, seq := some q, slot := k, waited := i.readySum cyc, noStack := false } }).updSeq d q fun x =>
      { (x.upTo cyc) with slots := x.slots.put k u } := by
  unfold State.placeIn
  simp [hi, stack]

/-! ## Restores (R352) -/

/-- Below the span addresses, a frame reads as memory of this module does. -/
theorem State.readAnyPa_eq (s : State) {pa n : Nat} (h : pa + n ≤ 2 ^ 51) : s.readAnyPa pa n = s.readPa pa n := by
  induction n generalizing pa with
  | zero => rfl
  | succ n ih =>
    have near : isSpan pa = false := by rw [isSpan, Nat.div_eq_of_lt (by omega)]; rfl
    rw [State.readAnyPa, State.readPa, ih (by omega), State.byteAny, near]
    rfl

/-- The wait of an instance that waits for nothing, or for a page that has come, whose frame says the same. -/
theorem restoredWait_over {w : Wait} {rd : Nat → Nat → Nat} (ended : w = .none ∨ w = .page true)
    (frame : rd 0x1E0 4 = 0 ∨ rd 0x1E0 4 = 6) : restoredWait w rd = .none ∨ restoredWait w rd = .page true := by
  unfold restoredWait
  split
  · exact ended
  · unfold frameWait
    rcases frame with e | e <;> simp [e]

/-- An instance whose wait is over comes back as resident. -/
theorem State.enterWait_over {s : State} {u : Nat} {i : Inst} (hi : s.inst u = some i)
    (ended : i.sched.wait = .none ∨ i.sched.wait = .page true) : s.enterWait u = s.setInst u (i.waitOver true) := by
  unfold State.enterWait
  rcases ended with e | e <;> simp [hi, e]

/-- The cohort of a frame changes the stream's own cohort, and cohorts. -/
theorem State.loadCohort_keeps {s : State} {u : Nat} {i : Inst} (hi : s.inst u = some i) (b : Nat) :
    (∃ h, (s.loadCohort u i b).inst u = some { i with coh := h }) ∧ (s.loadCohort u i b).seqs = s.seqs ∧
    (s.loadCohort u i b).phys = s.phys := by
  unfold State.loadCohort
  split
  · exact ⟨⟨i.coh, hi⟩, rfl, rfl⟩
  · extract_lets d s1 id s2 c
    have left : s1.inst u = some i ∧ s1.seqs = s.seqs ∧ s1.phys = s.phys := by
      simp only [s1]; split <;> exact ⟨hi, rfl, rfl⟩
    obtain ⟨inst, seqs, phys⟩ := left
    have joined : s2.inst u = some { i with coh := if b / 64 = 0 then none else some id } ∧ s2.seqs = s.seqs ∧
        s2.phys = s.phys :=
      ⟨by simp [s2, State.inst_updInst, inst], by simp [s2, seqs], by simp [s2, phys]⟩
    split <;> exact ⟨⟨_, joined.1⟩, joined.2.1, joined.2.2⟩

/-- A frame that holds no command words restores none. -/
theorem State.restoreWords_none {s : State} {d t u : Nat} {i : Inst} {asid : Nat} {rd rows : Nat → Nat → Nat}
    (words : rd 0x350 4 = 0) (acc : rd 0 4 / 2 ^ 16 % 2 = 0) : s.restoreWords d t u i asid rd rows = .ok s () := by
  unfold State.restoreWords
  simp only [words, frameHeld, acc]
  simp [State.restoreFrom, State.putHeld, Go.bind]
  split <;> rfl

theorem Inst.restore_facts (i : Inst) (rd : Nat → Nat → Nat) : (i.restore rd).who.die = i.who.die ∧
    (i.restore rd).ctx.pc = BitVec.ofNat 64 (rd 8 8) ∧ (i.restore rd).ctx.st.sp = BitVec.ofNat 64 (rd 0x10 8) :=
  ⟨rfl, rfl, rfl⟩

theorem FMap.get_foldl_set {α : Type} [DecidableEq α] (d : α) (g : Nat → α) (n : Nat) (m : FMap α) (j : Nat) :
    ((List.range n).foldl (fun m k => m.set d (k + 1) (g (k + 1))) m).get d j =
      if 1 ≤ j ∧ j ≤ n then g j else m.get d j := by
  induction n with
  | zero => rw [if_neg (by omega)]; rfl
  | succ n ih =>
    rw [List.range_succ, List.foldl_append, List.foldl_cons, List.foldl_nil, FMap.get_set, ih]
    split
    next e => subst e; rw [if_pos (by omega)]
    next => exact if_congr (by omega) rfl rfl

theorem settle_s (new old : Regs) (prods : List Producer) : (settle new old prods).s = new.s :=
  List.foldlRecOn (motive := fun r : Regs => r.s = new.s) _ _ rfl fun _ h _ _ => h

/-- The scalar registers are those of the frame (R348). -/
theorem Inst.restore_getS (i : Inst) (rd : Nat → Nat → Nat) {m : Nat} (low : 1 ≤ m) (high : m < 56) :
    (i.restore rd).ctx.regs.getS m = BitVec.ofNat 32 (rd (0x40 + 4 * m) 4) := by
  have loaded : (i.restore rd).ctx.regs.s = (i.load rd).ctx.regs.s := settle_s ..
  rw [Regs.getS, if_neg (by omega), loaded]
  exact (FMap.get_foldl_set 0 (fun k => BitVec.ofNat 32 (rd (0x40 + 4 * k) 4)) 55 .empty m).trans (if_pos ⟨low, by omega⟩)

/-- A parked instance whose wait is over comes back into slot `k` with what its frame holds (R352). -/
theorem State.restoreIn_over {s : State} {u q k cyc : Nat} {i : Inst} {rd rows : Nat → Nat → Nat}
    (ended : i.sched.wait = .none ∨ i.sched.wait = .page true) (wait : rd 0x1E0 4 = 0 ∨ rd 0x1E0 4 = 6)
    (words : rd 0x350 4 = 0) (acc : rd 0 4 / 2 ^ 16 % 2 = 0) :
    ∃ t j, s.restoreIn u i q k cyc rd rows = .ok t () ∧ t.inst u = some j ∧ j.ctx = (i.restore rd).ctx ∧
      j.sched.status = .resident ∧ j.sched.seq = some q ∧ j.sched.slot = k ∧ j.sched.wait = .none ∧ j.sched.frame = none ∧
      (t.seq i.who.die q).slots.find k = some u ∧ t.phys = s.phys := by
  unfold State.restoreIn
  extract_lets d tile j w old j1 s1
  have now := restoredWait_over ended wait
  obtain ⟨⟨h, inst⟩, seqs, phys⟩ := (s.setInst u j1).loadCohort_keeps (State.inst_setInst s u j1) (rd 0x34 1)
  rw [State.restoreWords_none words acc]
  simp only [Go.bind]
  rw [State.enterWait_over (i := { j1 with
      coh := h
      sched := { j1.sched with frame := none, accSlot := none, heldAt := none, accTile := none, saved := [] } })
    (by simp [State.inst_updInst, s1, inst]) now]
  have ctx : j.ctx = (i.restore rd).ctx := by
    simp only [j, State.settleConf]
    repeat' split
    all_goals rfl
  refine ⟨_, _, rfl, State.inst_setInst .., ctx, rfl, rfl, rfl, rfl, rfl, ?_, by simpa [s1] using phys⟩
  rw [State.seq_setInst]
  exact (congrArg (fun x : Seq => x.slots.find k) (State.seq_updSeq _ d q _)).trans (FMap.find_put_same ..)

/-- PARKED_RESTORE of an instance whose wait is over: it is restored, and its frame slots are free. -/
theorem execParkedRestore_restores {s : State} {u q cyc f k : Nat} {i : Inst} (hi : s.inst u = some i)
    (parked : i.sched.status = .parked) (frame : i.sched.frame = some f) (slot : s.freeSlot i.who.die q = some k)
    (may : i.mayRun q = true) (ended : i.sched.wait = .none ∨ i.sched.wait = .page true) :
    let x := s.advance i.who.die cyc
    ∃ rows, ∀ t, x.restoreIn u i q k (Nat.max cyc (x.die i.who.die).cyc) (x.frameRd (x.frameAt i.who.die f)) rows = .ok t () →
      execParkedRestore u q cyc s = .next (t.freeFrame i) := by
  have holds : s.waitHolds i (tileOfSeq q) = true := by
    unfold State.waitHolds
    rcases ended with e | e <;> simp [e]
  unfold execParkedRestore
  simp only [hi, parked, frame, slot, may, holds, Bool.not_true, Bool.or_self, Bool.false_eq_true, if_false]
  cases i.sched.accSlot with
  | none => exact ⟨fun _ _ => 0, fun t step => by simp only [step]⟩
  | some a =>
    exact ⟨(s.advance i.who.die cyc).frameRd ((s.advance i.who.die cyc).accAt i.who.die a), fun t step => by simp only [step]⟩

/-! ## Squashes (R43, R48) -/

@[simp] theorem State.insts_dropWaiter (s : State) (u : Nat) : (s.dropWaiter u).insts = s.insts := by
  unfold State.dropWaiter
  rw [State.updHost_insts]
  exact State.foldl_keeps State.insts (fun t d => by split <;> rfl) ..
@[simp] theorem State.seqs_dropWaiter (s : State) (u : Nat) : (s.dropWaiter u).seqs = s.seqs := by
  unfold State.dropWaiter
  rw [State.updHost_seqs]
  exact State.foldl_keeps State.seqs (fun t d => by split <;> rfl) ..

@[simp] theorem State.insts_forget (s : State) (u : Nat) (i : Inst) : (s.forget u i).insts = s.insts := by
  unfold State.forget
  rw [State.foldl_keeps State.insts fun t d => by split <;> rfl]
  simp
@[simp] theorem State.seqs_forget (s : State) (u : Nat) (i : Inst) : (s.forget u i).seqs = s.seqs := by
  unfold State.forget
  rw [State.foldl_keeps State.seqs fun t d => by split <;> rfl]
  simp

theorem State.cohortLeave_keeps {s : State} {u : Nat} {i : Inst} (hi : s.inst u = some i) (d : Nat) :
    (∃ h, (s.cohortLeave d u).inst u = some { i with coh := h }) ∧ (s.cohortLeave d u).seqs = s.seqs := by
  unfold State.cohortLeave
  split
  · exact ⟨⟨i.coh, hi⟩, rfl⟩
  · exact ⟨⟨none, by simp [State.inst_updInst, State.setCohort, hi]⟩, by simp [State.setCohort]⟩

theorem State.startExt_keeps (s : State) (i : Inst) : (s.startExt i).ex = i.ex ∧ (s.startExt i).range = i.range := by
  unfold State.startExt
  repeat' split
  all_goals exact ⟨rfl, rfl⟩

/-- What a squash gives up: the lease, the cohort, the slot, and what the die still owes to the instance (R43, R48). -/
def State.released (s : State) (u : Nat) (i : Inst) : State :=
  (((s.endLease i.who.die i.tileNo u).cohortLeave i.who.die u).leaveSlot u i).forget u i

theorem State.inst_released {s : State} {u : Nat} {i : Inst} (hi : s.inst u = some i) :
    ∃ h, (s.released u i).inst u = some { i with coh := h } := by
  obtain ⟨⟨h, inst⟩, -⟩ := State.cohortLeave_keeps (s := s.endLease i.who.die i.tileNo u) hi i.who.die
  refine ⟨h, ?_⟩
  rw [State.released, State.inst, State.insts_forget, State.leaveSlot]
  split <;> exact inst

/-- The sequencer that the instance ran on runs it no more. -/
theorem State.running_released {s : State} {u q : Nat} {i : Inst} (hi : s.inst u = some i) (on : i.sched.seq = some q)
    (runs : (s.seq i.who.die q).running = some u) : ((s.released u i).seq i.who.die q).running = none := by
  obtain ⟨-, seqs⟩ := State.cohortLeave_keeps (s := s.endLease i.who.die i.tileNo u) hi i.who.die
  rw [State.released, State.seq, State.seqs_forget, State.leaveSlot, on]
  refine (congrArg Seq.running (State.seq_updSeq _ i.who.die q _)).trans (if_pos ?_)
  rw [State.seq, seqs]
  exact runs

/-- A squashed instance is ready at its first instruction, and its sequencer runs it no more. -/
theorem State.squash_running {s : State} {u q : Nat} {i : Inst} (hi : s.inst u = some i) (on : i.sched.seq = some q)
    (runs : (s.seq i.who.die q).running = some u) :
    (∃ j, (s.squash u false).inst u = some j ∧ j.sched.status = .ready ∧ j.sched.seq = none ∧ j.ctx.pc = i.ex.entry ∧
      j.ctx.issued = 0 ∧ j.range.lo = i.range.lo0 ∧ j.range.hi = i.range.hi0) ∧
    ((s.squash u false).seq i.who.die q).running = none := by
  obtain ⟨h, inst⟩ := State.inst_released hi
  have stopped := State.running_released hi on runs
  obtain ⟨ex, range⟩ := (s.released u i).startExt_keeps { i with coh := h }
  unfold State.squash
  rw [hi]
  constructor
  · refine ⟨_, (State.inst_updInst ..).trans ((if_pos rfl).trans (congrArg _ inst)), rfl, rfl, ?_, rfl, ?_, ?_⟩
    · exact congrArg Extra.entry ex
    · exact congrArg Range.lo0 range
    · exact congrArg Range.hi0 range
  · exact (congrArg Seq.running (State.seq_updInst ..)).trans stopped

/-- An uncommitted instance leaves its sequencer by a squash (R48). -/
theorem State.preempt_uncommitted {s : State} {d q u cyc : Nat} {i : Inst} (hi : s.inst u = some i)
    (free : i.sched.committed = false) :
    s.preempt d q u cyc = (s.squash u false).updSeq d q fun x => { (x.upTo (cyc + 8)) with slice := cyc + 8 } := by
  unfold State.preempt
  simp [hi, free]

theorem State.preemptible_eq_some {s : State} {d q u : Nat} {i : Inst} (runs : Claims.runsTask s d q u i) :
    s.preemptible d q = some (u, i) := by
  obtain ⟨running, hi, task, status⟩ := runs
  unfold State.preemptible
  simp [running, hi, Inst.isTask_iff.2 task, status]

/-- The slice of a running instance ends when a ready one of no lower effective priority may take its place. -/
theorem execTimeSliceExpiry_preempts {s : State} {d q cyc u : Nat} {i : Inst} {p : Nat × Inst}
    (runs : Claims.runsTask s d q u i) (past : (s.seq d q).slice + 200000 ≤ cyc) (ready : p ∈ s.readyOn d)
    (may : p.2.mayRun q = true) (rank : i.eff cyc ≤ p.2.eff cyc) :
    execTimeSliceExpiry d q cyc s = .next ((s.advance d cyc).preempt d q u (Nat.max cyc (s.die d).cyc)) := by
  unfold execTimeSliceExpiry
  rw [State.preemptible_eq_some runs]
  have any : (s.readyOn d).any (fun p => p.2.mayRun q && decide (i.eff cyc ≤ p.2.eff cyc)) = true :=
    List.any_eq_true.2 ⟨p, ready, by simp [may, rank]⟩
  simp [any, past]

/-! ## The obligation -/

/-- Settles O48: who is chosen by the lemmas on ranking, then each event by the lemma on its operation. -/
theorem placement : Obligations.Placement := by
  unfold Obligations.Placement
  refine ⟨?place, ?yielded, ?restore, ?slice⟩
  case place =>
    intro s d q cyc u k n i hi mem on ready unplaced task may stack lt free taken now top
    have chosen := chooseReady_placement mem on ready task may (by simp [stack]) top
    have step := execTaskPlacement_places chosen unplaced stack (State.freeSlot_eq_some lt free taken)
    rw [State.placeIn_stacked (s := s.advance d cyc) hi stack] at step
    refine ⟨_, step, State.inst_setInst .., fun v hv => State.inst_setInst_ne hv .., ?_, rfl, rfl⟩
    rw [State.seq_updSeq]
    exact FMap.find_put_same ..
  case yielded =>
    intro s d q cyc u n i hi mem on ready placed task may stack now top
    have chosen := chooseReady_placement mem on ready task may (by simp [stack]) top
    exact ⟨_, execTaskPlacement_yielded chosen ready placed, State.inst_setInst .., fun v hv => State.inst_setInst_ne hv ..,
      rfl, rfl, rfl⟩
  case restore =>
    intro s u q cyc f k i hi parked frame ended may lt free taken x a low wait words acc
    have base : x.frameAt i.who.die f = a := by
      simp only [State.frameAt, x, State.advance, State.die_updDie]
      rfl
    have rd (o n : Nat) (h : o + n ≤ 0x2B80) : x.frameRd (x.frameAt i.who.die f) o n = x.readPa (a + o) n := by
      rw [State.frameRd, base, State.readAnyPa_eq _ (by omega)]
    rw [← rd _ _ (by decide)] at wait words
    rw [← Nat.add_zero a, ← rd _ _ (by decide)] at acc
    obtain ⟨rows, restores⟩ :=
      execParkedRestore_restores (cyc := cyc) hi parked frame (State.freeSlot_eq_some lt free taken) may ended
    obtain ⟨t, j, step, inst, ctx, status, seq, slot, woken, noFrame, placed, phys⟩ :=
      State.restoreIn_over (s := x) (u := u) (q := q) (k := k) (cyc := Nat.max cyc (x.die i.who.die).cyc) (rows := rows)
        ended wait words acc
    have step := restores t step
    have pc : j.ctx.pc = BitVec.ofNat 64 (x.readPa (a + 8) 8) := by rw [ctx, ← rd _ _ (by decide)]; rfl
    have sp : j.ctx.st.sp = BitVec.ofNat 64 (x.readPa (a + 0x10) 8) := by rw [ctx, ← rd _ _ (by decide)]; rfl
    refine ⟨_, j, step, inst, status, seq, slot, woken, noFrame, pc, sp, fun m low high => ?_, placed, ?_, phys⟩
    · rw [ctx, Inst.restore_getS _ _ low high, rd _ _ (by omega)]
    · simp [State.freeFrame, State.updSch, frame, dropNat]
  case slice =>
    intro s d q cyc u i p runs on seq free past mem pon ready task may rank
    have step := execTimeSliceExpiry_preempts runs past (State.mem_readyOn.2 ⟨mem, pon, ready, task⟩) may rank
    obtain ⟨running, hi, -, -⟩ := runs
    subst on
    obtain ⟨⟨j, inst, facts⟩, stopped⟩ := State.squash_running (s := s.advance i.who.die cyc) hi seq running
    rw [State.preempt_uncommitted (s := s.advance i.who.die cyc) hi free] at step
    obtain ⟨status, off, pc, issued, lo, hi'⟩ := facts
    refine ⟨_, j, step, inst, status, off, pc, issued, lo, hi', ?_, ?_⟩
    · rw [State.seq_updSeq, Seq.upTo, stopped]
      rfl
    · rw [State.seq_updSeq]

end Sys2Proof.Machine
end

section
/-! # Launch records (O47)

First what a report leaves alone: an error record is a write of memory, which can reach the page-resume register of a die and
nothing else of a scheduler. Then records, the blocks that they get, and their confirmation. -/

namespace Sys2Proof.Machine

/-! ## What memory writes and reports leave of the schedulers -/

/-- At every die `t` has the scheduler of `s`, but for the instances that wait for a page (R378). -/
def State.ParksOnly (s t : State) : Prop := ∀ e, (t.die e).sch = { (s.die e).sch with parks := (t.die e).sch.parks }

@[simp] theorem State.ParksOnly.refl (s : State) : s.ParksOnly s := fun _ => rfl
theorem State.ParksOnly.symm {s t : State} (h : s.ParksOnly t) : t.ParksOnly s := fun e => by rw [h e]
theorem State.ParksOnly.trans {s t u : State} (h : s.ParksOnly t) (k : t.ParksOnly u) : s.ParksOnly u :=
  fun e => by rw [k e, h e]
theorem State.ParksOnly.right_iff {t u : State} (k : t.ParksOnly u) (s : State) : s.ParksOnly u ↔ s.ParksOnly t :=
  ⟨fun h => h.trans k.symm, fun h => h.trans k⟩

theorem State.parksOnly_of_dies {s t : State} (h : t.dies = s.dies) : s.ParksOnly t :=
  fun e => by rw [State.die, State.die, h]
theorem State.parksOnly_iff_of_dies (s : State) {t u : State} (h : u.dies = t.dies) : s.ParksOnly u ↔ s.ParksOnly t :=
  (State.parksOnly_of_dies h).right_iff s

@[simp] theorem State.parksOnly_foldl {α : Type} {f : State → α → State} (hf : ∀ (t : State) a, t.ParksOnly (f t a))
    (l : List α) (s t : State) : s.ParksOnly (l.foldl f t) ↔ s.ParksOnly t :=
  (List.foldlRecOn (motive := t.ParksOnly) l f (.refl t) fun _ h a _ => h.trans (hf _ a)).right_iff s
@[simp] theorem State.parksOnly_ite (p : Prop) [Decidable p] (s a b : State) :
    s.ParksOnly (if p then a else b) ↔ if p then s.ParksOnly a else s.ParksOnly b := by split <;> rfl

@[simp] theorem State.parksOnly_updHost (s t : State) (f : HostDie → HostDie) :
    s.ParksOnly (t.updHost f) ↔ s.ParksOnly t := State.parksOnly_iff_of_dies s rfl
@[simp] theorem State.parksOnly_updQueue (s t : State) (q : Nat) (f : GQueue → GQueue) :
    s.ParksOnly (t.updQueue q f) ↔ s.ParksOnly t := State.parksOnly_iff_of_dies s rfl
@[simp] theorem State.parksOnly_updRelaxed (s t : State) (f : Relaxed → Relaxed) :
    s.ParksOnly (t.updRelaxed f) ↔ s.ParksOnly t := State.parksOnly_iff_of_dies s rfl
@[simp] theorem State.parksOnly_sendSpan (s t : State) (m : SpanMsg) : s.ParksOnly (t.sendSpan m) ↔ s.ParksOnly t :=
  State.parksOnly_iff_of_dies s rfl
@[simp] theorem State.parksOnly_ports (s t : State) (p : Ports) : s.ParksOnly { t with ports := p } ↔ s.ParksOnly t :=
  State.parksOnly_iff_of_dies s rfl
@[simp] theorem State.parksOnly_updInst (s t : State) (u : Nat) (f : Inst → Inst) :
    s.ParksOnly (t.updInst u f) ↔ s.ParksOnly t :=
  State.ParksOnly.right_iff (fun e => by rw [State.die_updInst]) s

theorem State.parksOnly_updDie {f : Die → Die} (sch : ∀ x, (f x).sch = x.sch) (s t : State) (d : Nat) :
    s.ParksOnly (t.updDie d f) ↔ s.ParksOnly t := by
  refine State.ParksOnly.right_iff (t := t) (u := t.updDie d f) (fun e => ?_) s
  rw [State.die_updDie_apply]
  split
  next h => rw [h, sch]
  next => rfl

@[simp] theorem State.parksOnly_rasClear (s t : State) (d k n : Nat) :
    s.ParksOnly (t.updDie d fun x => { x with ras := rasClear x.ras k n }) ↔ s.ParksOnly t :=
  State.parksOnly_updDie (f := fun x => { x with ras := rasClear x.ras k n }) (fun _ => rfl) s t d

@[simp] theorem State.parksOnly_resumeOn (s t : State) (no d : Nat) : s.ParksOnly (t.resumeOn no d) ↔ s.ParksOnly t := by
  have own : t.ParksOnly (t.updSch d fun x => { x with parks := x.parks.filter fun p => p.1 != no }) := fun e => by
    rw [State.updSch, State.die_updDie_apply]
    split
    next h => rw [h]
    next => rfl
  simp only [State.resumeOn, State.parksOnly_updInst, State.ParksOnly.refl, implies_true, State.parksOnly_foldl]
  exact own.right_iff s

@[simp] theorem State.parksOnly_resumePage (s t : State) (d no : Nat) :
    s.ParksOnly (t.resumePage d no) ↔ s.ParksOnly t := by
  unfold State.resumePage
  extract_lets own s1
  simp [s1]

@[simp] theorem State.parksOnly_commitQcb (s t : State) (q gen : Nat) : s.ParksOnly (t.commitQcb q gen) ↔ s.ParksOnly t := by
  unfold State.commitQcb; split <;> simp

@[simp] theorem State.parksOnly_ctlStore (s t : State) (c : Ctl) (k n v : Nat) :
    s.ParksOnly (t.ctlStore c k n v) ↔ s.ParksOnly t := by
  cases c <;> simp [State.ctlStore, State.setBudget]

@[simp] theorem State.parksOnly_writePa (s t : State) (pa n v : Nat) : s.ParksOnly (t.writePa pa n v) ↔ s.ParksOnly t := by
  cases h : t.ctlAt pa with
  | none => exact State.parksOnly_iff_of_dies s (State.writePa_memOnly h n v).dies
  | some c =>
    obtain ⟨c, k⟩ := c
    simp only [State.writePa, h]
    split <;> simp

@[simp] theorem State.parksOnly_putHeads (s t : State) (pa n : Nat) (l : List Head) :
    s.ParksOnly (t.putHeads pa n l) ↔ s.ParksOnly t := by
  simp [State.putHeads]

@[simp] theorem State.parksOnly_setAccessed (s t : State) (epa : Nat) (a : Bool) :
    s.ParksOnly (t.setAccessed epa a) ↔ s.ParksOnly t := by
  simp [State.setAccessed, State.rmwPa]

@[simp] theorem State.parksOnly_feResolve (s t : State) (asid va : Nat) (k : Acc) :
    s.ParksOnly (t.feResolve asid va k).1 ↔ s.ParksOnly t := by
  unfold State.feResolve
  repeat' split
  all_goals simp

theorem State.parksOnly_setReportOrd (s t : State) (queue : Option Nat) (o : Ledger) :
    s.ParksOnly (t.setReportOrd queue o) ↔ s.ParksOnly t := by
  cases queue <;> simp [State.setReportOrd, State.queueOrd]

theorem State.ParksOnly.of_fst {α : Type} {s t : State} {p : State × α} {x : α} (h : s.ParksOnly p.1) (e : p = (t, x)) :
    s.ParksOnly t := by
  subst e; exact h

theorem State.parksOnly_recordWrite (s : State) (queue : Option Nat) (asid va v : Nat) :
    s.ParksOnly (s.recordWrite queue asid va v).1 := by
  unfold State.recordWrite
  split <;> rename_i e <;> have resolved := ((State.parksOnly_feResolve ..).2 (.refl s)).of_fst e
  · dsimp only
    split
    · simpa [State.awayWrite] using resolved
    · simpa [State.parksOnly_setReportOrd, State.writeAs_fst] using resolved
  · exact resolved

/-- A record that is written to an error ring, or dropped, leaves launches and records alone (R362). -/
theorem State.parksOnly_err (s : State) (queue : Option Nat) (code asid die tile info0 info1 : Nat) :
    s.ParksOnly (s.err queue code asid die tile info0 info1) := by
  unfold State.err State.ringPut
  generalize s.ringFor queue asid = n
  dsimp only
  split
  · split <;> rename_i e <;> have written := State.ParksOnly.of_fst (State.parksOnly_recordWrite s queue _ _ _) e
    · simpa using written
    · simpa [State.ringDrop] using written
  · simp [State.ringDrop]

@[simp] theorem State.die_packetTake (s : State) (r : Image) (d : Nat) (n : Option Nat) (e : Nat) :
    (s.packetTake r d n).die e = s.die e := by
  unfold State.packetTake; split <;> rfl
theorem State.parksOnly_rejectLaunch (s : State) (d : Nat) (r : Image) (why : Nat) : s.ParksOnly (s.rejectLaunch d r why) := by
  intro e
  rw [State.rejectLaunch, State.die_packetTake]
  exact State.parksOnly_err ..

/-! ## Records -/

theorem State.inst_eq_of_insts {s t : State} (h : t.insts = s.insts) (u : Nat) : t.inst u = s.inst u := by
  rw [State.inst, State.inst, h]

theorem State.recOf_eq_of_die {s t : State} {d : Nat} (h : t.die d = s.die d) (n : Nat) : t.recOf d n = s.recOf d n := by
  rw [State.recOf, State.recOf, h]

@[simp] theorem State.sch_updSch (s : State) (d : Nat) (f : Scheduler → Scheduler) :
    ((s.updSch d f).die d).sch = f (s.die d).sch := by
  simp [State.updSch]

theorem State.updRec_eq {s : State} {d n : Nat} {r : Rec} (h : s.recOf d n = some r) (f : Rec → Rec) :
    s.updRec d n f = s.setRec d n (f r) := by
  rw [State.updRec, h]

theorem State.recOf_updRec_apply (s : State) (d n m : Nat) (f : Rec → Rec) :
    (s.updRec d n f).recOf d m = if m = n then (s.recOf d m).map f else s.recOf d m := by
  unfold State.updRec
  split
  next r hr =>
    split
    next e => rw [e, hr, State.recOf_setRec]; rfl
    next e => simp only [State.recOf, State.setRec, State.sch_updSch, FMap.find_put_ne e]
  next gone =>
    split
    next e => rw [e, gone]; rfl
    next => rfl

/-- The scheduler of a die, but for its records: what records, their start and their blocks leave alone. -/
def Scheduler.others (x : Scheduler) : Scheduler := { x with recs := .empty }

theorem Scheduler.launchq_eq {x y : Scheduler} (h : x.others = y.others) : x.launchq = y.launchq :=
  (congrArg Scheduler.launchq h :)
theorem Scheduler.lowerings_eq {x y : Scheduler} (h : x.others = y.others) : x.lowerings = y.lowerings :=
  (congrArg Scheduler.lowerings h :)
theorem Scheduler.confirms_eq {x y : Scheduler} (h : x.others = y.others) : x.confirms = y.confirms :=
  (congrArg Scheduler.confirms h :)

theorem State.others_setRec (s : State) (d n : Nat) (r : Rec) :
    ((s.setRec d n r).die d).sch.others = (s.die d).sch.others := by
  rw [State.setRec, State.sch_updSch]; rfl

theorem State.others_updRec (s : State) (d n : Nat) (f : Rec → Rec) :
    ((s.updRec d n f).die d).sch.others = (s.die d).sch.others := by
  unfold State.updRec
  split
  · exact s.others_setRec ..
  · rfl

theorem State.die_foldl_updInst {α : Type} (u : α → Nat) (f : State → α → Inst → Inst) (l : List α) (s : State) (d : Nat) :
    (l.foldl (fun s a => s.updInst (u a) (f s a)) s).die d = s.die d :=
  State.foldl_keeps (fun s => s.die d) (fun s a => s.die_updInst (u a) (f s a) d) l s

/-- What no update of a fold changes in an instance stays. -/
theorem State.map_inst_foldl_updInst {α β : Type} (g : Inst → β) {u : α → Nat} {f : State → α → Inst → Inst}
    (hf : ∀ s a i, g (f s a i) = g i) (l : List α) (s : State) (v : Nat) :
    ((l.foldl (fun s a => s.updInst (u a) (f s a)) s).inst v).map g = (s.inst v).map g := by
  refine State.foldl_keeps (fun s => (s.inst v).map g) (fun s a => ?_) l s
  rw [State.inst_updInst]
  split
  · rw [Option.map_map]
    exact Option.map_congr fun i _ => hf s a i
  · rfl

/-- Where and as what an instance begins: its identity and its PC. -/
def Inst.start (i : Inst) : Who × Word64 := (i.who, i.ctx.pc)

@[simp] theorem Inst.start_makeReady (i : Inst) (cyc : Nat) (l : List Head) : (i.makeReady cyc l).start = i.start := by
  unfold Inst.makeReady; split <;> rfl

/-- A test of a record's start conditions sets at most `started` of the record, and leaves where the instances stand. -/
theorem State.checkRec_facts {s : State} {d n : Nat} {r : Rec} (h : s.recOf d n = some r) :
    (∃ b, (s.checkRec d n).recOf d n = some { r with started := b }) ∧
    ((s.checkRec d n).die d).sch.others = (s.die d).sch.others ∧
    ∀ v, ((s.checkRec d n).inst v).map Inst.start = (s.inst v).map Inst.start := by
  unfold State.checkRec
  simp only [h]
  split
  · exact ⟨⟨r.started, h⟩, rfl, fun _ => rfl⟩
  · have die := State.die_foldl_updInst id
      (fun _ _ i => i.makeReady ((s.setRec d n { r with started := true }).die d).cyc r.rels) r.live
      (s.setRec d n { r with started := true }) d
    refine ⟨⟨true, (State.recOf_eq_of_die die n).trans (State.recOf_setRec ..)⟩, ?_, ?_⟩
    · exact (congrArg (fun x : Die => x.sch.others) die).trans (s.others_setRec ..)
    · exact State.map_inst_foldl_updInst Inst.start (u := id) (fun _ _ i => i.start_makeReady ..) r.live _

/-! ## The blocks of a record -/

theorem State.inst_foldl_setInst (u n : Nat) (g : Nat → Inst) (s : State) {k : Nat} (h : k < n) :
    ((List.range n).foldl (fun s k => s.setInst (u + k) (g k)) s).inst (u + k) = some (g k) := by
  induction n with
  | zero => omega
  | succ n ih =>
    rw [List.range_succ, List.foldl_append, List.foldl_cons, List.foldl_nil, State.inst_setInst_apply]
    split
    next e => rw [show k = n by omega]
    next => exact ih (by omega)

theorem State.die_foldl_setInst (u n : Nat) (g : Nat → Inst) (s : State) (d : Nat) :
    ((List.range n).foldl (fun s k => s.setInst (u + k) (g k)) s).die d = s.die d :=
  State.foldl_keeps (fun s => s.die d) (fun s k => s.die_setInst (u + k) (g k) d) (List.range n) s

/-- A record that gets blocks keeps the rest, but perhaps starts; the blocks begin at its descriptor's entry (R24, R300). -/
theorem State.makeBlocks_facts {s : State} {d n : Nat} {r : Rec} (first count : Nat) (unconf : Bool) (h : s.recOf d n = some r) :
    (∃ b, (s.makeBlocks d n first count unconf).recOf d n =
      some { r with started := b, live := r.live ++ (List.range count).map (s.nextUid + ·) }) ∧
    ((s.makeBlocks d n first count unconf).die d).sch.others = (s.die d).sch.others ∧
    ∀ k, k < count → ((s.makeBlocks d n first count unconf).inst (s.nextUid + k)).map Inst.start =
      some (r.blockInst d n (first + k) unconf (s.recTile d r)).start := by
  unfold State.makeBlocks
  simp only [h]
  generalize made : (List.range count).foldl (fun t k =>
    t.setInst (s.nextUid + k) (r.blockInst d n (first + k) unconf (s.recTile d r))) { s with nextUid := s.nextUid + count } = t
  have inst (k : Nat) (hk : k < count) :
      t.inst (s.nextUid + k) = some (r.blockInst d n (first + k) unconf (s.recTile d r)) :=
    made ▸ State.inst_foldl_setInst s.nextUid count _ _ hk
  have die : t.die d = s.die d := made ▸ State.die_foldl_setInst s.nextUid count _ _ d
  have others (r : Rec) : ((t.setRec d n r).die d).sch.others = (s.die d).sch.others := (t.others_setRec ..).trans (by rw [die])
  split
  next started =>
    have kept := State.die_foldl_updInst (s.nextUid + ·)
      (fun t' _ i => i.makeReady (t'.die d).cyc r.rels) (List.range count)
      (t.setRec d n { r with live := r.live ++ (List.range count).map (s.nextUid + ·) }) d
    refine ⟨⟨r.started, (State.recOf_eq_of_die kept n).trans (State.recOf_setRec ..)⟩, ?_, fun k hk => ?_⟩
    · exact (congrArg (fun x : Die => x.sch.others) kept).trans (others _)
    · refine (State.map_inst_foldl_updInst Inst.start (u := (s.nextUid + ·)) (fun _ _ i => i.start_makeReady ..) _ _ _).trans ?_
      exact congrArg (Option.map Inst.start) (inst k hk)
  next =>
    obtain ⟨⟨b, hrec⟩, hothers, hinst⟩ := State.checkRec_facts
      (State.recOf_setRec t d n { r with live := r.live ++ (List.range count).map (s.nextUid + ·) })
    refine ⟨⟨b, hrec⟩, hothers.trans (others _), fun k hk => ?_⟩
    rw [hinst, State.inst_setRec, inst k hk]
    rfl

/-- A block begins as its record and its index say (R24). -/
theorem Rec.start_blockInst (r : Rec) (d n b : Nat) (unconf : Bool) (tile : Option Nat) :
    ∃ w, (r.blockInst d n b unconf tile).start = (w, BitVec.ofNat 64 (r.d 63 0)) ∧ w.kind = .block ∧ w.recNo = some n ∧
      w.blk = BitVec.ofNat 32 b :=
  ⟨_, rfl, rfl, rfl, rfl⟩

/-! ## Acceptance (R21, R24, R31) -/

theorem Image.bad_of {r : Image} (bad : r.f 79 64 = 0 ∨ r.f 95 80 = 0 ∨ r.f 63 0 % 128 ≠ 0) :
    (decide (r.f 79 64 = 0) || decide (r.f 95 80 = 0) || addrBad (r.f 63 0) 128) = true := by
  rcases bad with h | h | h <;> simp [addrBad, h]

theorem Image.good_of {r : Image} (count : r.f 79 64 * r.f 95 80 ≠ 0) (aligned : r.f 63 0 % 128 = 0) (low : r.f 63 0 < 2 ^ 55) :
    (decide (r.f 79 64 = 0) || decide (r.f 95 80 = 0) || addrBad (r.f 63 0) 128) = false := by
  obtain ⟨x, y⟩ := Nat.mul_ne_zero_iff.1 count
  simpa [addrBad, x, y, aligned] using low

/-- A record that enters its matcher, with its blocks. -/
theorem State.enterRec_facts (s : State) (d n : Nat) (img : Image) (r : Rec) (count : Nat) (unconf : Bool) (fresh : r.live = []) :
    ∃ x, (s.enterRec d n img r count unconf).recOf d n = some x ∧ x.img = r.img ∧ x.desc = r.desc ∧ x.asid = r.asid ∧
      x.live.length = count ∧ ((s.enterRec d n img r count unconf).die d).sch.launchq = (s.die d).sch.launchq ∧
      ∀ k, k < count → ∃ u i, x.live[k]? = some u ∧ (s.enterRec d n img r count unconf).inst u = some i ∧
        i.who.kind = .block ∧ i.who.recNo = some n ∧ i.who.blk = BitVec.ofNat 32 k ∧ i.ctx.pc = BitVec.ofNat 64 (r.d 63 0) := by
  unfold State.enterRec
  extract_lets s1 s2 s3
  have entered : s2.recOf d n = some r := by simp [s2, State.recOf]
  have raised : ∃ c h, s3.recOf d n = some { r with ctr := c, holders := h } := by
    simp only [s3]
    split
    · exact ⟨_, _, entered⟩
    · rw [State.recOf_updRec_apply, entered]
      split <;> exact ⟨_, _, rfl⟩
  have launchq : (s3.die d).sch.launchq = (s.die d).sch.launchq := by
    have put : (s2.die d).sch.launchq = (s.die d).sch.launchq := by simp [s2, s1]
    simp only [s3]
    split
    · exact put
    · exact (Scheduler.launchq_eq (s2.others_updRec ..)).trans put
  obtain ⟨c, h, raised⟩ := raised
  obtain ⟨⟨b, hrec⟩, others, blocks⟩ := State.makeBlocks_facts 0 count unconf raised
  refine ⟨_, hrec, rfl, rfl, rfl, by simp [fresh], (Scheduler.launchq_eq others).trans launchq, fun k hk => ?_⟩
  obtain ⟨i, hi, start⟩ := Option.map_eq_some_iff.1 (blocks k hk)
  obtain ⟨w, begin, kind, recNo, blk⟩ := Rec.start_blockInst { r with ctr := c, holders := h } d n (0 + k) unconf
    (s3.recTile d { r with ctr := c, holders := h })
  obtain ⟨who, pc⟩ := Prod.mk.inj (start.trans begin)
  refine ⟨s3.nextUid + k, i, ?_, hi, who ▸ kind, who ▸ recNo, ?_, pc⟩
  · simp [fresh, hk]
  · rw [who, blk, Nat.zero_add]

/-- The tail of a record makes its blocks (R300). -/
theorem State.acceptTail_facts {s : State} {d n : Nat} {r : Rec} (h : s.recOf d n = some r) (valid : s.asidValid r.asid = true)
    (part : s.asidPart r.asid = s.partOf d) :
    ∃ y, (s.acceptTail d n).recOf d n = some y ∧ y.tailDue = 0 ∧ y.live.length = r.live.length + r.tailDue ∧
      ((s.acceptTail d n).die d).sch.launchq = (s.die d).sch.launchq := by
  have good : (!(s.setRec d n { r with tailDue := 0 }).asidValid r.asid ||
      (s.setRec d n { r with tailDue := 0 }).asidPart r.asid != (s.setRec d n { r with tailDue := 0 }).partOf d) = false := by
    have valid : (s.setRec d n { r with tailDue := 0 }).asidValid r.asid = true := valid
    have part : (s.setRec d n { r with tailDue := 0 }).asidPart r.asid = (s.setRec d n { r with tailDue := 0 }).partOf d := part
    simp [valid, part]
  obtain ⟨⟨b, hrec⟩, others, -⟩ :=
    State.makeBlocks_facts (r.ep - r.tailDue) r.tailDue false (State.recOf_setRec s d n { r with tailDue := 0 })
  unfold State.acceptTail
  simp only [h, good, Bool.false_eq_true, if_false]
  refine ⟨_, hrec, rfl, ?_, (Scheduler.launchq_eq others).trans (Scheduler.launchq_eq (s.others_setRec ..))⟩
  rw [List.length_append, List.length_map, List.length_range]

/-- A bad head of the launch queue leaves it, and no record enters. -/
theorem execLaunchRecordAccept_rejects {s : State} {d cyc : Nat} {r : Image} {rest : List Image}
    (head : (s.die d).sch.launchq = r :: rest) (untailed : r.tail = none)
    (bad : r.f 79 64 = 0 ∨ r.f 95 80 = 0 ∨ r.f 63 0 % 128 ≠ 0) :
    execLaunchRecordAccept d cyc s =
      .next (((s.advance d cyc).updSch d fun x => { x with launchq := rest }).rejectLaunch d r 0) := by
  unfold execLaunchRecordAccept State.acceptHead
  rw [head]
  simp only [untailed, Image.bad_of bad, if_true]

/-- A good head of the launch queue, predicted by no table, enters its matcher. -/
theorem execLaunchRecordAccept_enters {s s2 : State} {d cyc n v : Nat} {r : Image} {rest : List Image}
    (head : (s.die d).sch.launchq = r :: rest) (untailed : r.tail = none) (count : r.f 79 64 * r.f 95 80 ≠ 0)
    (aligned : r.f 63 0 % 128 = 0) (low : r.f 63 0 < 2 ^ 55) (plain : r.f 109 109 = 0)
    (read : ((s.advance d cyc).updSch d fun x => { x with launchq := rest }).readVa d r.asid (r.f 63 0) 128 = (s2, .ok v))
    (desc : s2.descRejected d r.asid (BitVec.ofNat 1024 v) = false) (image : s2.imageRejected d r = false)
    (free : s2.freeRec d = some n) (room : s2.matcherFull d (fieldOf (BitVec.ofNat 1024 v) 142 139) = false) :
    execLaunchRecordAccept d cyc s = .next (s2.enterRec d n r
      (s2.newRec d r (BitVec.ofNat 1024 v) (r.f 79 64 * r.f 95 80) true 0 (0, 0, 0)) (r.f 79 64 * r.f 95 80) false) := by
  unfold execLaunchRecordAccept State.acceptHead
  rw [head]
  simp only [untailed, Image.good_of count aligned low, read, desc, image, plain, free, room, Bool.or_self, Bool.false_eq_true,
    if_false, Nat.zero_ne_one]

/-- A tail at the head of the launch queue is accepted for its record (R300). -/
theorem execLaunchRecordAccept_tail {s : State} {d cyc n : Nat} {r : Image} {rest : List Image}
    (head : (s.die d).sch.launchq = r :: rest) (tailed : r.tail = some n) :
    execLaunchRecordAccept d cyc s =
      .next (((s.advance d cyc).updSch d fun x => { x with launchq := rest }).acceptTail d n) := by
  unfold execLaunchRecordAccept
  rw [head]
  simp only [tailed]

/-! ## Lowerings and tails (R31, R300) -/

/-- A counter that is not zero is lowered by one (R31). -/
theorem State.lower_lowers {s : State} {d n asid : Nat} {queue : Option Nat} {r : Rec} (h : s.recOf d n = some r)
    (live : r.ended = false) (due : r.retired = false) (own : r.asid = asid) (high : r.ctr ≠ 0) :
    s.lower d n asid queue = (s.setRec d n { r with ctr := r.ctr - 1 }).checkRec d n := by
  have high : (r.ctr == 0) = false := beq_false_of_ne high
  unfold State.lower
  simp only [h, live, due, own, high, bne_self_eq_false, Bool.or_self, Bool.false_eq_true, if_false]

/-- A waiting tail enters a launch queue with room. -/
theorem execTailRecordEntry_enters {s : State} {d n cyc : Nat} {rest : List Nat} {r : Rec} (tails : (s.die d).sch.tails = n :: rest)
    (h : s.recOf d n = some r) (room : (s.die d).sch.launchq.length < 256) :
    execTailRecordEntry d n cyc s = .next (((s.advance d cyc).updSch d fun x => { x with tails := rest }).enqueue d
      ⟨r.img, r.asid, r.queue, r.pkt, false, 0, some n, none⟩) := by
  unfold execTailRecordEntry
  rw [tails, h]
  simp [Nat.not_le.2 room]

/-- A lowering that arrives lowers its record's counter, or reports (R31, R205). -/
theorem execCounterLowering_arrives {s : State} {d k cyc : Nat} {l : Lowering} (h : (s.die d).sch.lowerings[k]? = some l) :
    execCounterLowering d k cyc s = .next
      (((s.advance d cyc).updSch d fun x => { x with lowerings := x.lowerings.eraseIdx k }).lower d l.recNo l.asid l.queue) := by
  unfold execCounterLowering
  rw [h]

/-! ## Confirmation (R298) -/

theorem State.confirmInst_none {s : State} {u : Nat} (h : s.inst u = none) (et : Nat) (rel : List Head) :
    s.confirmInst u et rel = s := by
  rw [State.confirmInst, h]

/-- An instance whose wait ends keeps what is no part of its scheduling, and is not parked by it. -/
theorem Inst.endWait_facts (i : Inst) (w : Wait) :
    (i.endWait w).ex = i.ex ∧ (i.sched.status ≠ .parked → (i.endWait w).sched.status ≠ .parked) := by
  unfold Inst.endWait
  split
  · exact ⟨rfl, fun _ => by simp⟩
  · exact ⟨rfl, id⟩

/-- The confirmation of an instance that is not parked is a change of that instance. -/
theorem State.confirmInst_some {s : State} {u : Nat} {i : Inst} (h : s.inst u = some i) (here : i.sched.status ≠ .parked)
    (et : Nat) (rel : List Head) :
    ∃ j, s.confirmInst u et rel = s.setInst u j ∧ j.ex.unconf = false ∧ j.sched.status ≠ .parked := by
  have frame : s.confirmFrame i = s := by
    unfold State.confirmFrame
    split
    next parked _ => exact absurd parked here
    next => rfl
  unfold State.confirmInst
  rw [h]
  dsimp -zeta only
  extract_lets s1 ord o ctx extra j1 who j
  have unconf : j.ex.unconf = false := by simp only [j]; split <;> rfl
  have status : j.sched.status ≠ .parked := by simp only [j]; split <;> exact here
  obtain ⟨ex, stays⟩ := j.endWait_facts (.commit true)
  refine ⟨_, congrArg (State.setInst · u _) frame, ?_, ?_⟩
  · split
    · rw [ex, unconf]
    · exact unconf
  · split
    · exact stays status
    · exact status

/-- Instances that are confirmed are confirmed, whichever others are after them. -/
theorem State.foldl_confirmInst {s : State} {l : List Nat} (here : ∀ u ∈ l, ∀ i, s.inst u = some i → i.sched.status ≠ .parked)
    (et : Nat) (rel : List Head) :
    let t := l.foldl (fun s u => s.confirmInst u et rel) s
    t.dies = s.dies ∧
    ∀ u i, s.inst u = some i → ∃ j, t.inst u = some j ∧ (u ∈ l ∨ i.ex.unconf = false → j.ex.unconf = false) := by
  induction l generalizing s with
  | nil => exact ⟨rfl, fun u i hi => ⟨i, hi, fun h => h.resolve_left (List.not_mem_nil)⟩⟩
  | cons a l ih =>
    rw [List.foldl_cons]
    cases ha : s.inst a with
    | none =>
      rw [State.confirmInst_none ha]
      obtain ⟨dies, confirmed⟩ := ih fun u hu => here u (List.mem_cons_of_mem _ hu)
      refine ⟨dies, fun u i hi => ?_⟩
      have other : u ≠ a := by rintro rfl; cases ha.symm.trans hi
      simpa [other] using confirmed u i hi
    | some k =>
      obtain ⟨j, step, unconf, status⟩ := State.confirmInst_some ha (here a List.mem_cons_self k ha) et rel
      rw [step]
      have next : ∀ u ∈ l, ∀ i, (s.setInst a j).inst u = some i → i.sched.status ≠ .parked := fun u hu i hi => by
        rw [State.inst_setInst_apply] at hi
        split at hi
        · cases hi; exact status
        · exact here u (List.mem_cons_of_mem _ hu) i hi
      obtain ⟨dies, confirmed⟩ := ih next
      refine ⟨dies, fun u i hi => ?_⟩
      by_cases e : u = a
      · subst e
        obtain ⟨j', hj, done⟩ := confirmed u j (State.inst_setInst ..)
        exact ⟨j', hj, fun _ => done (.inr unconf)⟩
      · simpa [e] using confirmed u i ((State.inst_setInst_ne e ..).trans hi)

/-- Readers that wake leave the records and the confirmations of the dies, and whether an instance is confirmed. -/
theorem State.wakeCell_facts (s : State) (pa : Nat) (sel : Waiter → Bool) :
    (∀ d n, (s.wakeCell pa sel).recOf d n = s.recOf d n ∧ ((s.wakeCell pa sel).die d).sch.confirms = (s.die d).sch.confirms) ∧
    ∀ v, ((s.wakeCell pa sel).inst v).map Inst.ex = (s.inst v).map Inst.ex := by
  unfold State.wakeCell
  extract_lets ws s1
  have waiters : s1.insts = s.insts ∧ ∀ d, (s1.die d).sch.recs = (s.die d).sch.recs ∧
      (s1.die d).sch.confirms = (s.die d).sch.confirms := by
    simp only [s1, State.setWaiters]
    split
    · refine ⟨rfl, fun d => ?_⟩
      rw [State.updSch, State.die_updDie_apply]
      split
      next h => rw [h]; exact ⟨rfl, rfl⟩
      next => exact ⟨rfl, rfl⟩
    · exact ⟨rfl, fun _ => ⟨rfl, rfl⟩⟩
  obtain ⟨insts, sides⟩ := waiters
  refine ⟨fun d n => ?_, fun v => ?_⟩
  · have die := State.die_foldl_updInst Waiter.uid (fun (t : State) _ i => i.readyAgain (t.die i.who.die).cyc) ws s1 d
    obtain ⟨recs, confirms⟩ := sides d
    rw [State.recOf, State.recOf, die, recs]
    exact ⟨rfl, confirms⟩
  · have kept := State.map_inst_foldl_updInst Inst.ex (u := Waiter.uid)
      (f := fun (t : State) _ i => i.readyAgain (t.die i.who.die).cyc) (fun _ _ _ => rfl) ws s1 v
    exact kept.trans (by rw [State.inst, insts]; rfl)

theorem State.trimOut_none {s : State} {r : Rec} (h : r.i 255 192 = 0) (et : Nat) : s.trimOut r et = none := by
  rw [State.trimOut, if_pos (.inl h)]
theorem State.arenaTrim_none {s : State} {r : Rec} (h : r.i 255 192 = 0) (d et : Nat) : s.arenaTrim d r et = s := by
  rw [State.arenaTrim, h]; rfl

theorem State.updatePrediction_keeps (s : State) (d : Nat) (img : BitVec 256) (asid et : Nat) :
    (s.updatePrediction d img asid et).insts = s.insts ∧
    ((s.updatePrediction d img asid et).die d).sch.recs = (s.die d).sch.recs ∧
    ((s.updatePrediction d img asid et).die d).sch.confirms = (s.die d).sch.confirms := by
  unfold State.updatePrediction
  extract_lets ey k e
  split
  · exact ⟨rfl, rfl, rfl⟩
  · split
    · exact ⟨rfl, by rw [State.sch_updSch], by rw [State.sch_updSch]⟩
    · exact ⟨rfl, rfl, rfl⟩

/-- A tail that is sent leaves the records, the confirmations and the instances. -/
theorem State.sendTail_keeps (s : State) (d n : Nat) (r : Rec) :
    (s.sendTail d n r).insts = s.insts ∧ ((s.sendTail d n r).die d).sch.recs = (s.die d).sch.recs ∧
    ((s.sendTail d n r).die d).sch.confirms = (s.die d).sch.confirms := by
  unfold State.sendTail State.enqueue
  split <;> exact ⟨rfl, by rw [State.sch_updSch], by rw [State.sch_updSch]⟩

/-- What a confirmed record says (R298, R300). -/
def Rec.confirm (r : Rec) (et due : Nat) (rel : List Head) : Rec :=
  { r with confirmed := true, ep := et, tailDue := due, rels := joinHeads r.rels rel }

/-- The valid blocks of a record go on, and so do the readers among them that wait for its extent (R298, R304). -/
def State.releaseBlocks (s : State) (d n : Nat) (r : Rec) (et : Nat) (rel : List Head) (valid : List Nat) : State :=
  ((valid.foldl (fun s u => s.confirmInst u et rel) s).updRec d n fun x => x.confirm et (et - r.ep) rel).wakeCell r.shapePa
    fun w => w.own && hasNat valid w.uid

theorem State.releaseBlocks_facts {s : State} {d n : Nat} {r : Rec} (h : s.recOf d n = some r) {valid : List Nat}
    (here : ∀ u ∈ valid, ∀ i, s.inst u = some i → i.sched.status ≠ .parked) (et : Nat) (rel : List Head) :
    (s.releaseBlocks d n r et rel valid).recOf d n = some (r.confirm et (et - r.ep) rel) ∧
    ((s.releaseBlocks d n r et rel valid).die d).sch.confirms = (s.die d).sch.confirms ∧
    ∀ u ∈ valid, ∀ i, s.inst u = some i → ∃ j, (s.releaseBlocks d n r et rel valid).inst u = some j ∧ j.ex.unconf = false := by
  obtain ⟨dies, confirmed⟩ := State.foldl_confirmInst here et rel
  unfold State.releaseBlocks
  generalize valid.foldl (fun s u => s.confirmInst u et rel) s = s1 at dies confirmed
  have die : s1.die d = s.die d := by rw [State.die, State.die, dies]
  rw [State.updRec_eq ((State.recOf_eq_of_die die n).trans h)]
  obtain ⟨recs, insts⟩ := (s1.setRec d n (r.confirm et (et - r.ep) rel)).wakeCell_facts r.shapePa
    fun w => w.own && hasNat valid w.uid
  refine ⟨(recs d n).1.trans (State.recOf_setRec ..), (recs d n).2.trans ?_, fun u hu i hi => ?_⟩
  · rw [Scheduler.confirms_eq (s1.others_setRec ..), die]
  · obtain ⟨j, hj, unconf⟩ := confirmed u i hi
    have kept := insts u
    rw [State.inst_setRec, hj] at kept
    obtain ⟨k, hk, ex⟩ := Option.map_eq_some_iff.1 kept
    exact ⟨k, hk, (congrArg Extra.unconf ex).trans (unconf (.inl hu))⟩

/-- A confirmation by a larger extent, with no arena and no instance to trim, releases the blocks and sends the tail. -/
theorem execShapeConfirmation_extends {s : State} {d n cyc et : Nat} {x : Rec} (h : s.recOf d n = some x)
    (unconfirmed : x.confirmed = false) (due : n ∈ (s.die d).sch.confirms) (plain : x.i 255 192 = 0)
    (extent : et = (s.advance d cyc).readPa x.shapePa 8 % 2 ^ 32) (small : et ≤ 65535) (more : x.ep < et)
    (valid : ∀ u ∈ x.live, ∀ i, s.inst u = some i → i.who.blk.toNat < et ∧ i.sched.status ≠ .parked) :
    ∃ (s1 : State) (rel : List Head), s1.insts = s.insts ∧ s1.recOf d n = some x ∧
      (s1.die d).sch.confirms = dropNat (s.die d).sch.confirms n ∧
      execShapeConfirmation d n cyc s =
        .next ((s1.releaseBlocks d n x et rel x.live).sendTail d n (x.confirm et (et - x.ep) rel)) := by
  unfold execShapeConfirmation
  rw [h]
  dsimp -zeta only
  rw [if_neg (by simp [hasNat, due, unconfirmed])]
  extract_lets s1 v et' rel s2 s3 surplus s4 s5 s6 kept s7 s8 s9
  have same : et' = et := by rw [extent] at small ⊢; exact Nat.min_eq_left small
  have e3 : s3 = s2 := if_pos (extent ▸ small)
  have e4 : surplus = [] := List.filter_eq_nil_iff.2 fun u hu => by
    rw [e3, same]
    split
    next i hi => simpa using (valid u hu i hi).1
    next => exact Bool.false_ne_true
  have e6 : s6 = s2.updatePrediction d x.img x.asid et := by
    simp only [s6, s5, s4, e4, List.foldl_nil, e3, State.arenaTrim_none plain, same]
  have e7 : kept = x.live := by simp [kept, e4, hasNat]
  obtain ⟨insts, recs, confirms⟩ := s2.updatePrediction_keeps d x.img x.asid et
  rw [← e6] at insts recs confirms
  have die2 : (s2.die d).sch.recs = (s.die d).sch.recs ∧ (s2.die d).sch.confirms = dropNat (s.die d).sch.confirms n := by
    simp [s2, s1, State.advance]
  have rec6 : s6.recOf d n = some x := by rw [State.recOf, recs, die2.1]; exact h
  have insts6 : s6.insts = s.insts := insts
  have e9 : s9 = s6.releaseBlocks d n x et rel x.live := by simp only [s9, s8, s7, e7, same]; rfl
  have rec9 : (s6.releaseBlocks d n x et rel x.live).recOf d n = some (x.confirm et (et - x.ep) rel) :=
    (State.releaseBlocks_facts rec6
      (fun u hu i hi => (valid u hu i ((State.inst_eq_of_insts insts6 u).symm.trans hi)).2) et rel).1
  refine ⟨s6, rel, insts6, rec6, confirms.trans die2.2, ?_⟩
  rw [State.trimOut_none plain]
  simp only [e9, rec9, same, if_pos more]

/-! ## The obligation -/

/-- Settles O47: each event by the lemma on its operation. -/
theorem launchRecords : Obligations.LaunchRecords := by
  unfold Obligations.LaunchRecords
  refine ⟨?reject, ?enter, ?tail, ?entry, ?lowering, ?confirmation⟩
  case reject =>
    intro s d cyc r rest head untailed bad
    have kept := State.parksOnly_rejectLaunch ((s.advance d cyc).updSch d fun x => { x with launchq := rest }) d r 0 d
    rw [State.sch_updSch] at kept
    refine ⟨_, execLaunchRecordAccept_rejects head untailed bad, by rw [kept], ?_⟩
    rw [kept]
    simp [State.advance]
  case enter =>
    intro s s2 d cyc n v r rest s1 b count head untailed any aligned low plain read desc image free room
    obtain ⟨x, hx, img, hdesc, asid, live, launchq, blocks⟩ := s2.enterRec_facts d n r
      (s2.newRec d r b count true 0 (0, 0, 0)) count false rfl
    exact ⟨_, x, execLaunchRecordAccept_enters head untailed any aligned low plain read desc image free room, launchq, hx, img,
      hdesc, asid, live, blocks⟩
  case tail =>
    intro s d cyc n r rest x head tailed hx valid part
    obtain ⟨y, hy, due, live, launchq⟩ := State.acceptTail_facts (d := d) (n := n)
      (s := (s.advance d cyc).updSch d fun x => { x with launchq := rest }) (r := x)
      (by simpa [State.recOf, State.advance] using hx) valid part
    exact ⟨_, y, execLaunchRecordAccept_tail head tailed, launchq.trans (by rw [State.sch_updSch]), hy, due, live⟩
  case entry =>
    intro s d n cyc rest x tails hx room
    refine ⟨_, ⟨x.img, x.asid, x.queue, x.pkt, false, 0, some n, none⟩, execTailRecordEntry_enters tails hx room, ?_⟩
    simp [State.enqueue, State.advance]
  case lowering =>
    intro s d k cyc l x hl hx live due own high
    have step := execCounterLowering_arrives (cyc := cyc) hl
    generalize arrived : ((s.advance d cyc).updSch d fun y => { y with lowerings := y.lowerings.eraseIdx k }) = s1 at step
    have found : s1.recOf d l.recNo = some x := by
      rw [← arrived]
      simpa [State.recOf, State.advance] using hx
    have lowerings : (s1.die d).sch.lowerings = (s.die d).sch.lowerings.eraseIdx k := by
      rw [← arrived]
      simp [State.advance]
    rw [State.lower_lowers found live due own high] at step
    obtain ⟨⟨b, hrec⟩, others, -⟩ := State.checkRec_facts (State.recOf_setRec s1 d l.recNo { x with ctr := x.ctr - 1 })
    refine ⟨_, _, step, ?_, hrec, rfl, rfl⟩
    rw [Scheduler.lowerings_eq others, Scheduler.lowerings_eq (s1.others_setRec ..), lowerings]
  case confirmation =>
    intro s d n cyc x hx unconfirmed due plain v small more valid
    obtain ⟨s1, rel, insts, rec1, confirms, step⟩ := execShapeConfirmation_extends hx unconfirmed due plain rfl small more valid
    have inst := State.inst_eq_of_insts insts
    obtain ⟨hrec, same, blocks⟩ := State.releaseBlocks_facts rec1
      (fun u hu i hi => (valid u hu i (inst u ▸ hi)).2) v rel
    obtain ⟨insts', recs', confirms'⟩ := (s1.releaseBlocks d n x v rel x.live).sendTail_keeps d n (x.confirm v (v - x.ep) rel)
    refine ⟨_, x.confirm v (v - x.ep) rel, step, ?_, rfl, rfl, rfl, ?_, fun u hu i hi => ?_⟩
    · rw [State.recOf, recs']
      exact hrec
    · rw [confirms', same, confirms]
      simp [dropNat]
    · obtain ⟨j, hj, unconf⟩ := blocks u hu i ((inst u).trans hi)
      exact ⟨j, (State.inst_eq_of_insts insts' u).trans hj, unconf⟩

end Sys2Proof.Machine
end

section
/-! # Crossing writes (O40)

Results in flight are kept by landing cycle, so that those due land in order and the last one to the register stays. -/

namespace Sys2Proof.Machine

/-! ## Scalar registers after a result lands -/

theorem bitAt_putBit {w n : Nat} (x : BitVec w) (b : Bool) (low : n < w) (m : Nat) :
    bitAt (putBit x m b) n = if m = n then b else bitAt x n := by
  by_cases e : m = n
  · subst e
    cases b <;> simp [putBit, bitAt, low]
  · have clear : (1#w <<< m).getLsbD n = false := (BitVec.getLsbD_twoPow m n).trans (by simp [e])
    cases b <;> simp only [putBit, bitAt, BitVec.getLsbD_and, BitVec.getLsbD_or, BitVec.getLsbD_not, clear, low, e,
      Bool.false_eq_true, if_false, if_true, decide_true, Bool.not_false, Bool.and_true, Bool.or_false]

theorem Regs.getS_setS_same {n : Nat} (r : Regs) (v : Word) (t : Bool) (pos : 1 ≤ n) : (r.setS n v t).getS n = v := by
  simp [Regs.setS, Regs.getS, Nat.ne_of_gt pos]

theorem Regs.taintS_setS_same {n : Nat} (r : Regs) (v : Word) (t : Bool) (pos : 1 ≤ n) (low : n < 64) :
    (r.setS n v t).taintS n = t := by
  simp [Regs.setS, Regs.taintS, Nat.ne_of_gt pos, bitAt_putBit _ _ low]

/-- A result for another place leaves the value and the taint of a scalar register. -/
theorem Regs.scalar_land_other {n : Nat} {w : Write} (r : Regs) (low : n < 64) (other : ∀ v t, w ≠ .s n v t) :
    (r.land w).getS n = r.getS n ∧ (r.land w).taintS n = r.taintS n := by
  cases w with
  | s m v t =>
    have ne : m ≠ n := fun e => other v t (e ▸ rfl)
    change (r.setS m v t).getS n = r.getS n ∧ (r.setS m v t).taintS n = r.taintS n
    unfold Regs.setS
    split
    · exact ⟨rfl, rfl⟩
    · simp [Regs.getS, Regs.taintS, FMap.get_set_ne (Ne.symm ne), bitAt_putBit _ _ low, ne]
  | v m val mask t =>
    have kept : (r.setV m val mask t).s = r.s ∧ (r.setV m val mask t).staint = r.staint := by
      unfold Regs.setV
      split <;> exact ⟨rfl, rfl⟩
    simp [Regs.land, Regs.getS, Regs.taintS, kept]
  | p m val mask t => exact ⟨rfl, rfl⟩
  | q m pos v t => exact ⟨rfl, rfl⟩
  | vq m pos val t => exact ⟨rfl, rfl⟩

/-! ## Landing in order (R63) -/

/-- What is due lands, in order, where the list rises by landing cycle; the rest stays in flight. -/
theorem landDue_rising (clk : Nat) {l : List Flight} (rising : (l.map (·.land)).Pairwise (· ≤ ·)) (r : Regs) :
    landDue clk l r = ((l.filter fun f => decide (f.land ≤ clk)).foldl (fun r f => r.land f.w) r,
      l.filter fun f => decide (clk < f.land)) := by
  induction l generalizing r with
  | nil => rfl
  | cons f t ih =>
    rw [List.map_cons, List.pairwise_cons] at rising
    obtain ⟨first, rest⟩ := rising
    unfold landDue
    split
    next due => rw [ih rest, List.filter_cons_of_pos (by simpa), List.filter_cons_of_neg (by simpa)]; rfl
    next later =>
      have all : ∀ g ∈ f :: t, clk < g.land := fun g hg => by
        rcases List.mem_cons.1 hg with rfl | hg
        · omega
        · have := first _ (List.mem_map_of_mem hg); omega
      rw [List.filter_eq_nil_iff.2 fun g hg => by have := all g hg; simp; omega,
        List.filter_eq_self.2 fun g hg => by simpa using all g hg]
      rfl

/-- After its own result, the results of other places leave a scalar register as it is. -/
theorem Regs.scalar_foldl_land {n : Nat} (low : n < 64) {l : List Flight} (other : ∀ f ∈ l, ∀ v t, f.w ≠ .s n v t) (r : Regs) :
    (l.foldl (fun r f => r.land f.w) r).getS n = r.getS n ∧ (l.foldl (fun r f => r.land f.w) r).taintS n = r.taintS n :=
  List.foldlRecOn (motive := fun r' : Regs => r'.getS n = r.getS n ∧ r'.taintS n = r.taintS n) l _ ⟨rfl, rfl⟩
    fun r' h f hf => by
      obtain ⟨value, taint⟩ := r'.scalar_land_other low (other f hf)
      exact ⟨value.trans h.1, taint.trans h.2⟩

/-- The last result to land in a scalar register is what it holds. -/
theorem Ctx.landAt_last {x : Ctx} {clk n land : Nat} {v : Word} {t : Bool} {before after : List Flight} (pos : 1 ≤ n)
    (low : n < 64) (flights : x.flights = before ++ ⟨land, .s n v t⟩ :: after)
    (rising : (x.flights.map (·.land)).Pairwise (· ≤ ·)) (due : land ≤ clk)
    (other : ∀ f ∈ after, f.land ≤ clk → ∀ v' t', f.w ≠ .s n v' t') :
    (x.landAt clk).regs.getS n = v ∧ (x.landAt clk).regs.taintS n = t ∧
      (x.landAt clk).flights = x.flights.filter fun f => decide (clk < f.land) := by
  unfold Ctx.landAt
  rw [landDue_rising clk rising]
  refine ⟨?_, ?_, rfl⟩ <;>
    simp only [flights, List.filter_append, List.filter_cons, due, decide_true, if_true, List.foldl_append, List.foldl_cons]
  all_goals
    generalize List.foldl _ _ (before.filter _) = r
    obtain ⟨value, taint⟩ := Regs.scalar_foldl_land low (l := after.filter fun f => decide (f.land ≤ clk))
      (fun f hf => other f (List.mem_filter.1 hf).1 (by simpa using (List.mem_filter.1 hf).2)) (r.land (.s n v t))
  · exact value.trans (r.getS_setS_same v t pos)
  · exact taint.trans (r.taintS_setS_same v t pos low)

/-- A result takes its place after those that land no later, and before the others. -/
theorem insertFlight_place (f : Flight) {l : List Flight} (rising : (l.map (·.land)).Pairwise (· ≤ ·)) :
    ∃ before after, l = before ++ after ∧ insertFlight f l = before ++ f :: after ∧ (∀ g ∈ before, g.land ≤ f.land) ∧
      ∀ g ∈ after, f.land < g.land := by
  induction l with
  | nil => exact ⟨[], [], rfl, rfl, by simp, by simp⟩
  | cons g t ih =>
    rw [List.map_cons, List.pairwise_cons] at rising
    obtain ⟨first, rest⟩ := rising
    unfold insertFlight
    split
    next lt =>
      refine ⟨[], g :: t, rfl, rfl, by simp, fun k hk => ?_⟩
      rcases List.mem_cons.1 hk with rfl | hk
      · exact lt
      · exact Nat.lt_of_lt_of_le lt (first _ (List.mem_map_of_mem hk))
    next ge =>
      obtain ⟨before, after, split, place, low, high⟩ := ih rest
      exact ⟨g :: before, after, by rw [split]; rfl, by rw [place]; rfl, List.forall_mem_cons.2 ⟨Nat.le_of_not_lt ge, low⟩, high⟩

/-! ## The obligation -/

/-- Settles O40: the first clause by the order in which results land, the second by the place of a new one, and the third from
the first, with the multiply's result before the add's. -/
theorem crossingWrites : Obligations.CrossingWrites := by
  unfold Obligations.CrossingWrites
  refine ⟨?last, ?place, ?later⟩
  case last =>
    intro x clk n v t land before after pos low flights rising due other
    exact Ctx.landAt_last pos (by omega) flights rising due other
  case place => exact fun x clk l w rising => insertFlight_place ⟨clk + l, w⟩ rising
  case later =>
    intro x n t a b ta tb pos low none
    have flights : ((x.fly t 3 (.s n a ta)).fly (t + 2) 1 (.s n b tb)).flights = [⟨t + 3, .s n a ta⟩] ++ [⟨t + 3, .s n b tb⟩] := by
      simp [Ctx.fly, none, insertFlight]
    exact (Ctx.landAt_last pos (by omega) flights (by simp [flights]) (Nat.le_refl _) (by simp)).1

end Sys2Proof.Machine
end

section
/-! # Guards, scalar operands and barred words (O42)

Guards and operand reads, then what the issue of a barred word answers. That a cancelled prologue is gone rests on what the end of
an instance runs through: `State.SameSides` carries its absence through most of it. -/

namespace Sys2Proof.Machine

/-! ## Guards (R67) -/

/-- A number built bit by bit has the bits it was built from. -/
theorem testBit_foldl_add_two_pow (p : Nat → Bool) (n : Nat) :
    let a := (List.range n).foldl (fun a i => if p i then a + 2 ^ i else a) 0
    a < 2 ^ n ∧ ∀ i, a.testBit i = (decide (i < n) && p i) := by
  induction n with
  | zero => simp
  | succ n ih =>
    obtain ⟨small, bits⟩ := ih
    simp only [List.range_succ, List.foldl_append, List.foldl_cons, List.foldl_nil]
    cases set : p n
    · refine ⟨by simp; omega, fun i => ?_⟩
      simp only [Bool.false_eq_true, if_false, bits]
      by_cases e : i = n
      · simp [e, set]
      · have : i < n + 1 ↔ i < n := by omega
        simp [this]
    · refine ⟨by simp; omega, fun i => ?_⟩
      have join := Nat.two_pow_add_eq_or_of_lt small 1
      rw [Nat.mul_one] at join
      rw [if_pos rfl, Nat.add_comm, join, Nat.testBit_or, bits, Nat.testBit_two_pow]
      by_cases e : i = n
      · simp [e, set]
      · have : i < n + 1 ↔ i < n := by omega
        simp [this, Ne.symm e]

theorem getLsbD_guardMask (r : Regs) (g : Guard) {i : Nat} (lane : i < 64) : (guardMask r g).getLsbD i = guardAt r g i := by
  obtain ⟨-, bits⟩ := testBit_foldl_add_two_pow (guardAt r g) 64
  rw [guardMask, BitVec.getLsbD_ofNat, bits]
  simp [lane]

theorem guardAt_eq (r : Regs) (g : Guard) (i : Nat) :
    guardAt r g i = g.tt.getLsbD (4 * ((r.getP g.pa.toNat).getLsbD i).toNat + 2 * ((r.getP g.pb.toNat).getLsbD i).toNat +
      ((r.getP g.pc.toNat).getLsbD i).toNat) := by
  have bit (x : Pred) : (if bitAt x i then 1 else 0) = (x.getLsbD i).toNat := by
    unfold bitAt
    cases x.getLsbD i <;> rfl
  simp only [guardAt, bit]
  rfl

/-! ## Reads of scalar operands (R51, R57 to R60) -/

theorem reads_register (r : Regs) {n : Nat} (k : Bool) (low : n < 56) :
    r.reads [⟨n, k⟩] = .vals [(r.getS n, r.taintS n)] .empty := by
  simp [Regs.reads, readOps, low]

theorem reads_register_high (r : Regs) {n : Nat} (k : Bool) (pos : 1 ≤ n) (low : n < 56) :
    r.reads [⟨n, k⟩] = .vals [(r.s.get 0 n, r.staint.getLsbD n)] .empty := by
  simp [reads_register r k low, Regs.getS, Regs.taintS, bitAt, Nat.ne_of_gt pos]

/-- What was taken from one queue is consumed at its head. -/
theorem Regs.getQ_eat_one (r : Regs) (q n : Nat) :
    (r.eat (FMap.empty.set 0 q (n + 1))).getQ q = (r.getQ q).consume (n + 1) := by
  have cells : (FMap.empty.set 0 q (n + 1)).cells = [(q, n + 1)] := by simp [FMap.set, FMap.empty, insertCell]
  simp [Regs.eat, cells, Regs.getQ, Regs.setQ]

theorem FMap.set_set_empty (q m n : Nat) :
    ((FMap.empty : FMap Nat).set 0 q (m + 1)).set 0 q (n + 1) = FMap.empty.set 0 q (n + 1) := by
  simp [FMap.set, FMap.empty, insertCell]

section
variable (r : Regs) {q : Nat}

theorem reads_queue_empty (k : Bool) (none : (r.getQ q).items = []) : r.reads [⟨56 + q, k⟩] = .empty := by
  simp [Regs.reads, readOps, none]

theorem reads_queue_pending (k : Bool) {rest : List (Option (Word × Bool))} (pending : (r.getQ q).items = none :: rest) :
    r.reads [⟨56 + q, k⟩] = .wait := by
  simp [Regs.reads, readOps, pending]

variable {h : Nat} {x y : Word × Bool} {rest : List (Option (Word × Bool))} (hq : r.getQ q = ⟨h, some x :: some y :: rest⟩)
include hq

/-- Two reads of a queue take its first two entries. -/
theorem reads_queue_both : ∃ tk, r.reads [⟨56 + q, false⟩, ⟨56 + q, false⟩] = .vals [x, y] tk ∧ (r.eat tk).getQ q = ⟨h + 2, rest⟩ := by
  refine ⟨FMap.empty.set 0 q 2, ?_, by rw [Regs.getQ_eat_one, hq]; rfl⟩
  simp [Regs.reads, readOps, hq, FMap.set_set_empty]

/-- After a read with the keep mark, the next one takes the same entry. -/
theorem reads_queue_keep_first :
    ∃ tk, r.reads [⟨56 + q, true⟩, ⟨56 + q, false⟩] = .vals [x, x] tk ∧ (r.eat tk).getQ q = ⟨h + 1, some y :: rest⟩ := by
  refine ⟨FMap.empty.set 0 q 1, ?_, by rw [Regs.getQ_eat_one, hq]; rfl⟩
  simp [Regs.reads, readOps, hq]

/-- A second read with the keep mark leaves the second entry. -/
theorem reads_queue_keep_second :
    ∃ tk, r.reads [⟨56 + q, false⟩, ⟨56 + q, true⟩] = .vals [x, y] tk ∧ (r.eat tk).getQ q = ⟨h + 1, some y :: rest⟩ := by
  refine ⟨FMap.empty.set 0 q 1, ?_, by rw [Regs.getQ_eat_one, hq]; rfl⟩
  simp [Regs.reads, readOps, hq]

theorem reads_queue_keep : ∃ tk, r.reads [⟨56 + q, true⟩] = .vals [x] tk ∧ (r.eat tk).getQ q = r.getQ q := by
  refine ⟨.empty, ?_, rfl⟩
  simp [Regs.reads, readOps, hq]

end

/-! ## The register forms of two operands (R129, R130) -/

/-- A scalar word whose queue operand is pending stays at issue (R60). -/
theorem scalarOp_wait {s : State} {c : Cur} {g : Guard} {ops : List Opnd} {dst lat : Nat} (f : List Word → Word)
    (hc : s.cur = some c) (hg : guardAt c.regs g 0 = true) (ho : c.regs.reads ops = .wait) :
    ∃ t, scalarOp s g ops dst lat f = .next t ∧ c.Leaves s c.i t := by
  have k := Cur.leaves_after (Cur.Same.refl c)
  rw [State.cur_s hc] at k
  exact ⟨_, issueLen_stall hc c.may_all (by simp [guarded_true hg, withOps, ho]), k⟩

/-- A scalar word with a false guard does nothing but go on (R61). -/
theorem scalarOp_off {s : State} {c : Cur} {g : Guard} {ops : List Opnd} {dst lat : Nat} (f : List Word → Word)
    (h : s.Issues c) (hg : guardAt c.regs g 0 = false) :
    ∃ t, scalarOp s g ops dst lat f = .next t ∧ c.Leaves s (c.i.past c.pc 8) t :=
  guarded_off h c.may_all (guarded_false hg _)

/-! ## Barred words (R341, R364) -/

/-- In the handler context a word that is barred to it takes the undefined-instruction fault (R341). -/
theorem issueLen_barred_handler {s : State} {c : Cur} (hc : s.cur = some c) (handler : c.i.who.kind = .handler) (len : Nat)
    (pro : Bool) (f : Cur → Eff) : issueLen len pro false s f = .next (State.takeTrap c 1 0 0 c.pc c.pc) := by
  simp [issueLen, hc, handler, Cur.finish]

/-- In a prologue a word that is barred to it cancels the prologue (R364). -/
theorem issueLen_barred_prologue {s : State} {c : Cur} (hc : s.cur = some c) (prologue : c.i.who.kind = .prologue) (len : Nat)
    (hand : Bool) (f : Cur → Eff) : issueLen len false hand s f =
      .next ((s.updSeq c.die c.q fun x => { x with clk := c.clk + 1 }).prologueCancel c.die c.uid 1) := by
  simp [issueLen, hc, prologue]

theorem taskWords_barred {i : Instr} {g : Guard} {b : IBody} {r : RBody} (mem : i ∈ Claims.taskWords g b r) (s : State) :
    ∃ len pro f, exec i s = issueLen len pro false s f := by
  unfold Claims.taskWords at mem
  fin_cases mem <;> exact ⟨_, _, _, rfl⟩

theorem notPrologue_barred {i : Instr} {g : Guard} {b : IBody} {r : RBody} (mem : i ∈ Claims.notPrologue g b r) (s : State) :
    ∃ len hand f, exec i s = issueLen len false hand s f := by
  unfold Claims.notPrologue at mem
  fin_cases mem <;> exact ⟨_, _, _, rfl⟩

/-! ## An instance that is gone -/

@[simp] theorem Inst.who_endWait (i : Inst) (w : Wait) : (i.endWait w).who = i.who := by
  unfold Inst.endWait; split <;> rfl

@[simp] theorem Inst.who_plainWake (t idx : Nat) (v : Word) (heads : List Head) (i : Inst) :
    (plainWake t idx v heads i).who = i.who := by
  unfold plainWake
  repeat' split
  all_goals simp [Inst.acquire]

@[simp] theorem State.sameSides_grantDec (s t : State) (d k idx n : Nat) :
    s.SameSides (t.grantDec d k idx n) ↔ s.SameSides t := by
  induction n generalizing t with
  | zero => rfl
  | succ n ih =>
    unfold State.grantDec
    extract_lets x
    split
    next => rfl
    next w =>
      extract_lets t1 t2
      split
      next =>
        have wake : t.SameSides t2 := (State.sameSides_updInst (by simp [Inst.acquire]) ..).2
          (State.sameSides_of_fields rfl rfl rfl)
        exact (ih t2).trans (wake.right_iff s)
      next => rfl

@[simp] theorem State.sameSides_semAdd (s t : State) (d k idx n : Nat) :
    s.SameSides (t.semAdd d k idx n) ↔ s.SameSides t := by
  simp [State.semAdd, State.semStep]

@[simp] theorem State.sameSides_lower (s t : State) (d n asid : Nat) (queue : Option Nat) :
    s.SameSides (t.lower d n asid queue) ↔ s.SameSides t := by
  unfold State.lower
  split
  · simp
  · simp [State.checkRec]

@[simp] theorem State.sameSides_contRelease (s t : State) (d n asid : Nat) (queue : Option Nat) :
    s.SameSides (t.contRelease d n asid queue) ↔ s.SameSides t := by
  unfold State.contRelease
  extract_lets t1
  split <;> simp [t1]

@[simp] theorem State.sameSides_retireOne (s t : State) (d n : Nat) (r : Rec) :
    s.SameSides (t.retireOne d n r) ↔ s.SameSides t := by
  have arena (u : State) : u.SameSides (u.arenaRelease d r) := by
    unfold State.arenaRelease
    split
    next =>
      split <;> rename_i e <;> have h := State.sameSides_of_fst ((State.sameSides_resolve ..).2 (.refl u)) e
      · simpa using h
      · exact h
    next => exact .refl u
  have packet (u : State) : u.SameSides (u.packetRec r d n) := by
    unfold State.packetRec
    split <;> simp
  unfold State.retireOne
  extract_lets t1 t2 t3 t4 k
  have h1 : s.SameSides t1 ↔ s.SameSides t := by simp [t1, State.carryOn]
  have h4 : s.SameSides t4 ↔ s.SameSides t1 := by
    simp only [t4, State.sameSides_updSch]
    exact ((arena t1).trans (packet t2)).right_iff s
  split
  · simp [State.semRelease, h4, h1]
  · exact h4.trans h1

@[simp] theorem State.sameSides_retireChain (s t : State) (d k n : Nat) :
    s.SameSides (t.retireChain d k n) ↔ s.SameSides t := by
  induction k generalizing t n with
  | zero => rfl
  | succ k ih =>
    unfold State.retireChain
    split
    next => rfl
    next => simp [ih]

theorem State.sameSides_recRetire (s : State) (d n : Nat) : s.SameSides (s.recRetire d n) := by
  simp [State.recRetire]

section
variable {s : State} {u : Nat} (h : s.inst u = none)
include h

theorem State.inst_ctxReturn_none (d n : Nat) (b : BitVec 512) (due : Option (Nat × Pres)) (rot : Option Nat) :
    (s.ctxReturn d n b due rot).inst u = none := by
  have set : (s.setCtx d n b).inst u = none := ((State.sameSides_setCtx ..).2 (.refl s)).inst_none h
  unfold State.ctxReturn
  extract_lets s1 sg
  split
  · split
    · exact ((State.sameSides_ctxMiss ..).2 (.refl s1)).inst_none set
    · exact set
  · exact set

theorem State.inst_ctxLeave_none (d : Nat) (p : Pres) (t : SegTask) (n : Nat) (next skip : Bool) :
    (s.ctxLeave d p t n next skip).inst u = none := by
  unfold State.ctxLeave
  extract_lets b r
  repeat' split
  · exact h
  · exact State.inst_ctxReturn_none h ..
  · exact ((State.sameSides_setCtx ..).2 (.refl s)).inst_none h
  · exact State.inst_ctxReturn_none h ..

theorem State.inst_segTaskRetire_none (d k : Nat) : (s.segTaskRetire d k).inst u = none := by
  unfold State.segTaskRetire
  split
  · exact h
  split
  · exact h
  · exact List.foldlRecOn (motive := fun s : State => s.inst u = none) _ _ h fun s h c _ => State.inst_ctxLeave_none h ..

theorem State.inst_checkSaddle_none (d k : Nat) : (s.checkSaddle d k).inst u = none := by
  unfold State.checkSaddle State.saddleEnd
  repeat' split
  · exact h
  · exact h
  · exact h
  · extract_lets s1 missed s2
    have s2s : s1.SameSides s2 := by simp [s2]
    exact State.SameSides.inst_none (s := s1) (by simp [s2s]) h
  · exact h

theorem State.inst_segBlockGone_none (d k v : Nat) : (s.segBlockGone d k v).inst u = none := by
  unfold State.segBlockGone
  split
  · exact h
  · extract_lets t s1 s2
    have h2 : s2.inst u = none := State.inst_checkSaddle_none (s := s1) h ..
    split
    · exact State.inst_segTaskRetire_none h2 ..
    · exact h2

end

/-- What is gone is no instance any more (R25, R44). -/
theorem State.inst_gone (s : State) (u : Nat) : (s.gone u).inst u = none := by
  unfold State.gone
  split
  next none => exact none
  next i hi =>
    extract_lets d s1 s2 s3 s4 s5 s6 s7 s8
    have h7 : s7.inst u = none := FMap.find_del_same ..
    have h8 : s8.inst u = none := by
      simp only [s8]
      split
      · exact State.inst_segBlockGone_none h7 ..
      · exact h7
    split
    · exact (State.sameSides_recRetire ..).inst_none (((State.sameSides_updRec ..).2 (.refl s8)).inst_none h8)
    · exact h8

/-- A prologue that is cancelled is gone, and its packet launches nothing more (R364). -/
theorem State.prologueCancel_facts (s : State) (d u reason : Nat) :
    (s.prologueCancel d u reason).inst u = none ∧ ∀ qn no run, s.host.prologues.find d = some (qn, no, run) →
      (s.prologueCancel d u reason).host.prologues.find d = none ∧
      ∀ p ∈ ((s.prologueCancel d u reason).queue qn).open_, p.key = no → p.ready = true ∧ p.prologue = false := by
  unfold State.prologueCancel
  split
  next none => exact ⟨State.inst_gone .., fun _ _ _ found => by simp [none] at found⟩
  next qn no run found =>
    extract_lets asid s1 s2 s3
    refine ⟨((State.inst_updQueue ..).trans (State.inst_updHost ..)).trans (State.inst_gone s1 u), fun qn' no' run' found' => ?_⟩
    obtain ⟨rfl, rfl, rfl⟩ : qn = qn' ∧ no = no' ∧ run = run' := by simpa [found] using found'
    refine ⟨FMap.find_del_same s2.host.prologues d, fun p hp own => ?_⟩
    rw [queue_updQueue_same] at hp
    obtain ⟨p', -, rfl⟩ := List.mem_map.1 hp
    split at own
    next => simp [*]
    next other => exact absurd own other

/-- Each word of the table is a scalar word on operands a and b. -/
theorem scalar2_scalarOp {e : (Guard → RBody → Instr) × Nat × (Word → Word → Word)} (he : e ∈ Claims.scalar2) (g : Guard)
    (b : RBody) (s : State) : ∃ lat f, exec (e.1 g b) s = scalarOp s g [opA b, opB b] b.dst.toNat lat f := by
  unfold Claims.scalar2 at he
  fin_cases he <;> exact ⟨_, _, rfl⟩

/-! ## The obligation -/

/-- Settles O42: guards and reads by the lemmas above, the table's words by what a scalar word answers, and barred words by what the
issue of one answers. -/
theorem guardsOperandsAndBarredWords : Obligations.GuardsOperandsAndBarredWords := by
  unfold Obligations.GuardsOperandsAndBarredWords
  refine ⟨⟨?guards, ⟨?zero, ?register, ?queue, ?missing, ?words⟩⟩, ?handler, ?prologue⟩
  case guards => exact fun r g i lane => ⟨guardAt_eq r g i, getLsbD_guardMask r g lane⟩
  case zero => exact fun r k => reads_register r k (by decide)
  case register => exact fun r n k pos low => reads_register_high r k pos low
  case queue =>
    intro r q h x y rest _ hq
    exact ⟨reads_queue_both r hq, reads_queue_keep_first r hq, reads_queue_keep_second r hq, reads_queue_keep r hq⟩
  case missing => exact fun r q k rest _ => ⟨reads_queue_empty r k, reads_queue_pending r k⟩
  case words =>
    intro e he g b s c h
    obtain ⟨lat, f, word⟩ := scalar2_scalarOp he g b s
    rw [word]
    exact ⟨scalarOp_off f h, fun on => ⟨scalarOp_wait f h.cur on, scalarOp_empty f h.cur on,
      fun l tk ops full => scalarOp_full f h.cur on ops full⟩⟩
  case handler =>
    intro g b r s c h handler i mem
    obtain ⟨len, pro, f, word⟩ := taskWords_barred mem s
    rw [word, issueLen_barred_handler h.cur handler]
  case prologue =>
    intro g b r s c h prologue i mem
    obtain ⟨len, hand, f, word⟩ := notPrologue_barred mem s
    obtain ⟨gone, packet⟩ := State.prologueCancel_facts (s.updSeq c.die c.q fun x => { x with clk := c.clk + 1 }) c.die c.uid 1
    exact ⟨_, word.trans (issueLen_barred_prologue h.cur prologue ..), gone, packet⟩

end Sys2Proof.Machine
end

section
/-! # Special registers (O27)

A table of the statement has one lemma that says of every register in it what the model reads or writes there; what the words
answer is proved once, for any register. -/

namespace Sys2Proof.Machine

theorem atLevel_of_le {c : Cur} {n : Nat} (enough : n ≤ c.level) (e : Eff) : atLevel c n e = e :=
  if_neg (Nat.not_lt.2 enough)

/-- Task level reaches no register of the handler's numbers, 0x40 and above (R73). -/
theorem sregLevel_le {c : Cur} {n : Nat} (level : 0x40 ≤ n → 1 ≤ Claims.level c) : (if 0x40 ≤ n then 1 else 0) ≤ c.level := by
  split
  next high => exact level high
  next => exact Nat.zero_le _

/-! ## The registers of the tables (R71, R334) -/

/-- A register that `GETS` reads: its value, its width, and that it is not `%rasfa`. -/
theorem sregs_facts {e : Nat × Bool × (State → Cur → Nat)} (he : e ∈ Claims.sregs) (c : Cur) :
    c.sreg e.1 = e.2.2 c.s c ∧ sregWidth e.1 = some (if e.2.1 then 64 else 32) ∧ e.1 < 256 ∧ e.1 ≠ 0x4C := by
  unfold Claims.sregs at he
  fin_cases he <;> refine ⟨?_, rfl, by decide, by decide⟩
  all_goals simp [Cur.sreg, isAtt, Cur.dregs, Cur.seqx, Cur.tile, tileOfSeq, Cur.level, fieldOf]

theorem clip_64 {v : Nat} (fits : v < 2 ^ 64) (k : Nat) : clip v k 64 = v / 2 ^ k * 2 ^ k := by
  rw [clip, Nat.mod_eq_of_lt fits]

/-- A register of the die that `SETS` writes: its width, the level that it takes, and what is written (R4: reserved bits are
dropped). -/
theorem dieWrites_facts {e : Nat × Bool × Nat × (DieRegs → Nat → DieRegs)} (he : e ∈ Claims.dieWrites) :
    (sregWidth e.1 == some 64) = e.2.1 ∧ sregRO e.1 = false ∧ (0x40 ≤ e.1 ∧ e.1 < 256) ∧ 1 ≤ e.2.2.1 ∧
      (sregFirm e.1 = true ↔ e.2.2.1 = 2) ∧
      ∀ (c : Cur) (v : Nat), v < 2 ^ 64 → c.writeSreg e.1 v = c.setDieRegs fun r => e.2.2.2 r v := by
  unfold Claims.dieWrites at he
  fin_cases he <;> refine ⟨rfl, rfl, by decide, by decide, by decide, fun c v fits => ?_⟩
  all_goals simp [Cur.writeSreg, clip_64 fits]
  simp [clip]

/-- A register of the sequencer that `SETS` writes. -/
theorem seqWrites_facts {e : Nat × Bool × (Seq → Nat → Seq)} (he : e ∈ Claims.seqWrites) :
    (sregWidth e.1 == some 64) = e.2.1 ∧ sregRO e.1 = false ∧ (0x40 ≤ e.1 ∧ e.1 < 256) ∧ sregFirm e.1 = false ∧
      ∀ (c : Cur) (v : Nat), v < 2 ^ 64 → c.writeSreg e.1 v = c.setSeqx fun x => e.2.2 x v := by
  unfold Claims.seqWrites at he
  fin_cases he <;> refine ⟨rfl, rfl, by decide, by decide, fun c v fits => ?_⟩
  all_goals simp [Cur.writeSreg, clip_64 fits]

/-- A write of a special register changes no other stream's place and not the stream's own (R73). -/
theorem Cur.same_writeSreg (c : Cur) (n v : Nat) : c.Same (c.writeSreg n v) := by
  unfold Cur.writeSreg
  repeat' split
  all_goals exact ⟨rfl, rfl, rfl, rfl, rfl⟩

/-! ## What the words answer (R72, R73) -/

section
variable {s : State} {c : Cur} {g : Guard} {b : IBody} {n : Nat} (h : s.Issues c) (plain : c.i.who.kind ≠ .prologue)
  (on : guardAt c.regs g 0 = true) (imm : b.imm.toNat = n) (small : n < 256)
include h plain on imm small

/-- Below supervisor level a register of the handler's numbers takes the privilege fault (R73). -/
theorem sregWords_privilege {mk : Guard → IBody → Instr} (word : mk ∈ [Instr.gets, .sets]) (high : 0x40 ≤ n)
    (task : Claims.level c = 0) : exec (mk g b) s = .next (State.takeTrap c 2 0 0 c.pc c.pc) := by
  have below (e : Eff) : atLevel c (if 0x40 ≤ n then 1 else 0) e = .trap 2 c.pc := by
    rw [if_pos high]
    exact if_pos (by rw [Cur.level, ← Claims.level, task]; decide)
  simp only [List.mem_cons, List.not_mem_nil, or_false] at word
  rcases word with rfl | rfl
  all_goals
    refine issueLen_trap h.cur (c.may_hand plain) ?_
    simp only [guarded_true on, imm, Nat.mod_eq_of_lt small, below]

/-- A register 32 or 64 bits wide is read as the stream stands (R72). -/
theorem execGets_reads (level : 0x40 ≤ n → 1 ≤ Claims.level c) (free : n ≠ 0x4C) {wide : Bool}
    (width : sregWidth n = some (if wide then 64 else 32)) (room : c.room b.dst.toNat 1 = true) :
    let v : Word64 := BitVec.ofNat 64 (c.sreg n)
    ∃ t, execGets g b s = .next t ∧ c.Leaves s ((c.i.withCtx (if wide
      then c.pairResult .empty b.dst.toNat (v.extractLsb' 0 32) (v.extractLsb' 32 32) false
      else c.scalarResult .empty b.dst.toNat 1 (BitVec.ofNat 32 (c.sreg n)) false)).past c.pc 8) t := by
  intro v
  have eff (e : Eff) : atLevel c (if 0x40 ≤ n then 1 else 0) e = e := atLevel_of_le (sregLevel_le level) e
  cases wide
  case true =>
    refine word_ok (c' := c.putPair b.dst.toNat 1 v false) h (c.may_hand plain) ?_ (c.same_putPair ..)
      (State.cur_s (c := c) h.cur) rfl
    simp only [guarded_true on, imm, Nat.mod_eq_of_lt small, eff, if_neg free, width, if_true]
    rfl
  case false =>
    refine word_ok (c' := c.putS b.dst.toNat 1 (BitVec.ofNat 32 (c.sreg n)) false) h (c.may_hand plain) ?_ (c.same_putS ..)
      ((c.putS_s ..).trans (State.cur_s h.cur)) (c.putS_ctx .empty ..)
    simp only [guarded_true on, imm, Nat.mod_eq_of_lt small, eff, if_neg free, width, needRoom_true room]
    rfl

/-- A register that may not be written takes the special-register fault (R334). -/
theorem execSets_readOnly (level : 0x40 ≤ n → 1 ≤ Claims.level c) (ro : sregRO n = true) :
    execSets g b s = .next (State.takeTrap c 3 0 0 c.pc c.pc) := by
  refine issueLen_trap h.cur (c.may_hand plain) ?_
  simp only [guarded_true on, imm, Nat.mod_eq_of_lt small, atLevel_of_le (sregLevel_le level), ro, if_true]

/-- A register that firmware alone may write takes the privilege fault below that level (R334). -/
theorem execSets_firmware (level : 0x40 ≤ n → 1 ≤ Claims.level c) (ro : sregRO n = false) (firm : sregFirm n = true)
    (low : Claims.level c < 2) : execSets g b s = .next (State.takeTrap c 2 0 0 c.pc c.pc) := by
  refine issueLen_trap h.cur (c.may_hand plain) ?_
  have low : c.level < 2 := low
  simp [guarded_true on, imm, Nat.mod_eq_of_lt small, atLevel_of_le (sregLevel_le level), ro, firm, low]

section
variable {wide : Bool} {v : Nat} {taken : FMap Nat} (level : 0x40 ≤ n → 1 ≤ Claims.level c) (ro : sregRO n = false)
  (firm : sregFirm n = true → 2 ≤ Claims.level c) (width : (sregWidth n == some 64) = wide)
  (value : Claims.setsValue c b wide v taken)
include level ro firm width value

/-- A register that may be written takes the operand's value at once, and the operand is consumed. -/
theorem execSets_writes (aligned : n = 0x0C → v % 8 = 0) :
    ∃ t, execSets g b s = .next t ∧
      c.Leaves (c.writeSreg n v).s (((c.writeSreg n v).mapRegs fun r => r.eat taken).i.past c.pc 8) t := by
  refine word_ok h (c.may_hand plain) (c' := (c.writeSreg n v).mapRegs fun r => r.eat taken) ?_
    ((c.same_writeSreg n v).trans (Cur.same_mapRegs ..)) rfl rfl
  have allowed : (sregFirm n && decide (c.level < 2)) = false := by
    cases f : sregFirm n
    · rfl
    · exact decide_eq_false (Nat.not_lt.2 (firm f))
  have sp : ¬(n = 0x0C ∧ v % 8 ≠ 0) := fun ⟨e, odd⟩ => odd (aligned e)
  simp only [guarded_true on, imm, Nat.mod_eq_of_lt small, atLevel_of_le (sregLevel_le level), ro, allowed, width,
    Bool.false_eq_true, if_false]
  cases wide
  case true =>
    obtain ⟨rfl, rfl⟩ := value
    simp only [if_true, withOps_vals (reads_nil _), if_neg sp]
  case false =>
    obtain ⟨w, tw, ops, rfl⟩ := value
    simp only [Bool.false_eq_true, if_false, withOps_vals (c := c) (ops := [opI b]) ops, List.map_cons, nth, List.getD_cons_zero, if_neg sp]
end

end

/-- A value of `SETS` has 64 bits. -/
theorem setsValue_lt {c : Cur} {b : IBody} {wide : Bool} {v : Nat} {taken : FMap Nat} (value : Claims.setsValue c b wide v taken) :
    v < 2 ^ 64 := by
  cases wide
  case true => obtain ⟨rfl, -⟩ := value; exact BitVec.isLt _
  case false => obtain ⟨w, -, -, rfl⟩ := value; exact Nat.lt_of_lt_of_le w.isLt (by decide)

/-! ## `%rasfa` and `%rcfg` -/

/-- What a read of `%rasfa` finds: the stored value, raised by a free amount (R340, log entry 23). -/
def Cur.raisedRasfa (c : Cur) : Word :=
  BitVec.ofNat 32 (Nat.min 0xFFFF_FFFF ((c.s.die c.die).regs.rasfa.toNat + Config.freeNat c.s.free))

/-- The state in which that value has been written back. -/
def Cur.rasfaRaised (c : Cur) : State :=
  c.s.tick.updDie c.die fun d => { d with regs := { d.regs with rasfa := c.raisedRasfa } }

theorem Cur.fetchAhead_eq (c : Cur) : c.fetchAhead = c.mapS fun _ => c.rasfaRaised := rfl

theorem Cur.sreg_fetchAhead (c : Cur) : c.fetchAhead.sreg 0x4C = c.raisedRasfa.toNat := by
  change (c.rasfaRaised.die c.die).regs.rasfa.toNat = _
  rw [Cur.rasfaRaised, State.die_updDie]

theorem Cur.le_raisedRasfa (c : Cur) : (c.s.die c.die).regs.rasfa.toNat ≤ c.raisedRasfa.toNat := by
  have small : Nat.min 0xFFFF_FFFF ((c.s.die c.die).regs.rasfa.toNat + Config.freeNat c.s.free) < 2 ^ 32 :=
    Nat.lt_of_le_of_lt (Nat.min_le_left ..) (by decide)
  rw [Cur.raisedRasfa, BitVec.toNat_ofNat, Nat.mod_eq_of_lt small]
  exact Nat.le_min.2 ⟨Nat.le_of_lt_succ (BitVec.isLt _), Nat.le_add_right ..⟩

theorem execGets_rasfa {s : State} {c : Cur} {g : Guard} {b : IBody} (h : s.Issues c) (plain : c.i.who.kind ≠ .prologue)
    (on : guardAt c.regs g 0 = true) (imm : b.imm.toNat = 0x4C) (level : 1 ≤ Claims.level c)
    (room : c.room b.dst.toNat 1 = true) : ∃ t, execGets g b s = .next t ∧ c.Leaves c.rasfaRaised
      ((c.i.withCtx (c.scalarResult .empty b.dst.toNat 1 c.raisedRasfa false)).past c.pc 8) t := by
  refine word_ok (c' := c.fetchAhead.putS b.dst.toNat 1 c.raisedRasfa false) h (c.may_hand plain) ?_
    ((c.same_mapS fun _ => c.rasfaRaised).trans (c.fetchAhead.same_putS ..)) (Cur.putS_s ..) (Cur.putS_ctx c.fetchAhead .empty ..)
  have width : sregWidth 0x4C = some 32 := rfl
  have room' : c.fetchAhead.room b.dst.toNat 1 = true := room
  simp only [guarded_true on, imm, Nat.reduceMod, atLevel_of_le (sregLevel_le fun _ => level), if_true, width,
    Cur.sreg_fetchAhead, BitVec.ofNat_toNat, BitVec.setWidth_eq, needRoom_true room']
  rfl

theorem rcfgWrite_eq (old : Word) (formed : Bool) (v : Nat) : rcfgWrite old formed v = BitVec.ofNat 32 (if formed
    then old.toNat / 8 * 8 + v % 8 else v % 2 ^ 3 + v / 2 ^ 4 % 2 ^ 11 * 2 ^ 4 + v / 2 ^ 16 % 2 ^ 11 * 2 ^ 16) := by
  cases formed
  case true =>
    simp only [rcfgWrite, setField, if_true]
    congr 1
    omega
  case false =>
    simp only [rcfgWrite, Bool.false_eq_true, if_false]
    congr 1
    omega

theorem Cur.writeSreg_rcfg (c : Cur) (v : Nat) : c.writeSreg 0x4D v = if 16 ≤ c.die then c else c.setDieRegs fun r =>
    { r with rcfg := BitVec.ofNat 32 (if c.s.inRing c.die then r.rcfg.toNat / 8 * 8 + v % 8
      else v % 2 ^ 3 + v / 2 ^ 4 % 2 ^ 11 * 2 ^ 4 + v / 2 ^ 16 % 2 ^ 11 * 2 ^ 16) } := by
  simp [Cur.writeSreg, isAtt, rcfgWrite_eq]

/-! ## `%sp` -/

theorem Cur.writeSreg_sp (c : Cur) (v : Word64) :
    c.writeSreg 0x0C v.toNat = c.mapCtx fun x => { x with st := { x.st with sp := v } } := by
  simp [Cur.writeSreg]

/-- A misaligned value for `%sp` takes the special-register fault (R73). -/
theorem execSets_misaligned {s : State} {c : Cur} {g : Guard} {b : IBody} (h : s.Issues c) (plain : c.i.who.kind ≠ .prologue)
    (on : guardAt c.regs g 0 = true) (imm : b.imm.toNat = 0x0C) (odd : (c.regs.getPair b.a.toNat).toNat % 8 ≠ 0) :
    execSets g b s = .next (State.takeTrap c 3 0 0 c.pc c.pc) := by
  refine issueLen_trap h.cur (c.may_hand plain) ?_
  have facts : (sregWidth 0x0C == some 64) = true ∧ sregRO 0x0C = false ∧ sregFirm 0x0C = false := by decide
  simp [guarded_true on, imm, atLevel_of_le, facts, withOps_vals (reads_nil _), odd]

/-! ## The obligation -/

/-- Settles O27: each table by the lemma on its registers, with what the two words answer for any register. -/
theorem specialRegisters : Obligations.SpecialRegisters := by
  unfold Obligations.SpecialRegisters
  refine ⟨⟨?gets, ?rasfa, ?privilege⟩, ?die, ?seq, ?rcfg, ?sp, ?plive, ?readOnly⟩
  case gets =>
    intro e he g b s c h plain on imm level room
    obtain ⟨value, width, small, free⟩ := sregs_facts he c
    rw [State.cur_s h.cur] at value
    have reads := execGets_reads h plain on imm small level free width room
    rw [value] at reads
    exact reads
  case rasfa =>
    intro g b s c h plain on imm level room
    obtain ⟨t, step, leaves⟩ := execGets_rasfa h plain on imm level room
    obtain rfl := State.cur_s h.cur
    exact ⟨t, _, step, c.le_raisedRasfa, leaves⟩
  case privilege =>
    intro mk word g b s c h plain on high low task
    exact sregWords_privilege h plain on rfl (by omega) word high task
  case die =>
    intro e he g b s c v taken h plain on imm
    obtain ⟨width, ro, ⟨high, small⟩, some, firm, write⟩ := dieWrites_facts he
    refine ⟨fun super own => ?_, fun level value => ?_⟩
    · exact execSets_firmware h plain on imm small (fun _ => by omega) ro (firm.2 own) (by omega)
    · have writes := execSets_writes h plain on imm small (fun _ => by omega) ro (fun f => by have := firm.1 f; omega) width
        value (by omega)
      obtain rfl := State.cur_s h.cur
      rw [write c v (setsValue_lt value)] at writes
      exact writes
  case seq =>
    intro e he g b s c v taken h plain on imm level value
    obtain ⟨width, ro, ⟨high, small⟩, firm, write⟩ := seqWrites_facts he
    have writes := execSets_writes h plain on imm small (fun _ => level) ro (fun f => absurd f (by simp [firm])) width value
      (by omega)
    obtain rfl := State.cur_s h.cur
    rw [write c v (setsValue_lt value)] at writes
    exact writes
  case rcfg =>
    intro g b s c v taken h plain on imm level value old w
    have writes := execSets_writes h plain on imm (by decide) (fun _ => by omega) rfl (fun _ => by omega) rfl value
      (fun e => absurd e (by decide))
    obtain rfl := State.cur_s h.cur
    rw [Cur.writeSreg_rcfg] at writes
    by_cases att : 16 ≤ c.die
    · rw [if_pos att] at writes ⊢
      exact writes
    · rw [if_neg att] at writes ⊢
      exact writes
  case sp =>
    intro g b s c h plain on imm v
    refine ⟨fun odd => execSets_misaligned h plain on imm odd, fun aligned => ?_⟩
    have writes := execSets_writes h plain on imm (by decide) (fun high => absurd high (by decide)) rfl
      (fun firm => absurd firm (by decide)) rfl (⟨rfl, rfl⟩ : Claims.setsValue c b true v.toNat .empty) fun _ => aligned
    obtain rfl := State.cur_s h.cur
    rw [Cur.writeSreg_sp] at writes
    exact writes
  case plive =>
    intro g b s c v taken h plain on imm value
    have writes := execSets_writes h plain on imm (by decide) (fun high => absurd high (by decide)) rfl
      (fun firm => absurd firm (by decide)) rfl value (fun e => absurd e (by decide))
    obtain rfl := State.cur_s h.cur
    exact writes
  case readOnly =>
    intro n mem g b s c h plain on imm level
    have facts : n < 256 ∧ sregRO n = true := by
      fin_cases mem <;> decide
    exact execSets_readOnly h plain on imm facts.1 level facts.2

end Sys2Proof.Machine
end

section
/-! # A chain's error record that reaches its own stream (O46)

A chain that has stopped writes an error record at its completion (R216, R222). The statement on its stream holds for an error ring
in plain memory, and it fails for one that lies over the page-resume registers (R357): the record's code is then a request number,
and an instance listed under that request is told that its page has come (R378). -/

namespace Sys2Proof.Machine

/-- A stream of ASID 0 on die 0 that waits for nothing; the status of chain 0 is pending in its q3. -/
def chainStream : Inst where
  who := ⟨.block, 0, 0, 0, 0, 0, 0, 0, none, none, 0⟩
  ctx := { Ctx.init 0 0 with prods := [⟨false, 3, 0, 1, .chain 0, false, false, false, none, false⟩] }
  range := ⟨0, 0, false, 0, 0, false⟩
  sched := ⟨.resident, some 0, 0, 0, 0, 0, false, .none, 0, true, none, none, none, none, false, [], false, false, none, [], none⟩
  coh := none
  ex := ⟨false, false, false, none, none, false, 0, 0, 0, 0, 0, false, (0, 0), false, 0⟩

/-- A chain of stream 1 that its third word has stopped, after two that completed. -/
def stoppedChain : Chain := ⟨1, 0, none, 0x10000, 5, 3, 2, some 0x202, .empty, 0, 3, 0, []⟩

/-- ASID 0 is valid, with one leaf of 4 TiB that maps its addresses to themselves for writing (its entry stands at the first byte of
LPDDR6). Its error ring begins at 0x4002_4000 and eight of its records have been written and read, so that the next one goes to the
page-resume registers at 0x4002_4100. Die 0 lists stream 1 under request 3. -/
def ringOverResume : State :=
  { State.reset with
    insts := ⟨[(1, chainStream)]⟩
    tiles := ⟨[(0, { Tile.init with eng := { Engines.init with chains := ⟨[(0, stoppedChain)]⟩ } })]⟩
    dies := ⟨[(0, { Die.init with sch := { Scheduler.init with parks := [(3, 1)] } })]⟩
    phys := { Phys.init with mem := ⟨[(0x400_0000_0000, 0x4B)]⟩ }
    host := { HostDie.init with
      asids := ⟨[(0, BitVec.ofNat 512 (2 ^ 64 + 0x400_0000_0000))]⟩
      rings := ⟨[(0, BitVec.ofNat 256 (0x4002_4000 + 8 * 2 ^ 96 + 8 * 2 ^ 128))]⟩ } }

/-- The stream, which waits for nothing, is told with its status that a page has come. -/
theorem wait_chainComplete_ringOverResume : (match exec (.chainComplete 0 0 0) ringOverResume with
    | .next t => (t.inst 1).map fun i => i.sched.wait
    | _ => none) = some (.page true) := by
  decide +kernel

/-- Refutes O46, by the clause on a stopped chain: where the error ring lies over the page-resume registers, the completion changes
more of the stream than its context. The stream is not parked, and yet its die lists it under a page request. -/
theorem not_deliveriesAndLeases : ¬ Obligations.DeliveriesAndLeases := by
  unfold Obligations.DeliveriesAndLeases
  rintro ⟨⟨-, -, -, -, chain⟩, -⟩
  obtain ⟨stopped, -⟩ := chain ringOverResume 0 0 0 0 stoppedChain chainStream
  obtain ⟨t, step, -, inst⟩ := stopped (by decide) (by decide) (by decide) (by decide) (by decide) (by decide)
  have told := wait_chainComplete_ringOverResume
  rw [step] at told
  have kept : (t.inst 1).map (fun i => i.sched.wait) = some .none := by rw [show t.inst 1 = _ from inst]; rfl
  exact absurd (kept.symm.trans told) (by decide)

end Sys2Proof.Machine
end

section
/-! # Formats and the opcode map (O34, O35, O36)

Bytes and words first, then the formats: the fields of a word put together from its parts, and the word put together from its
fields. The opcode map is then read row by row: what a row encodes it reads back, what it reads it has encoded, no word matches
two rows, and every word has a row. -/

namespace Sys2Proof

/-! ## Bytes and words -/

theorem length_natToBytes (n v : Nat) : (natToBytes n v).length = n := by
  induction n generalizing v with
  | zero => rfl
  | succ n ih => simp [natToBytes, ih]

theorem bytesToNat_natToBytes (n v : Nat) : bytesToNat (natToBytes n v) = v % 256 ^ n := by
  induction n generalizing v with
  | zero => simp [natToBytes, bytesToNat, Nat.mod_one]
  | succ n ih =>
    rw [natToBytes, bytesToNat, ih, Nat.pow_succ', Nat.mod_mul, BitVec.toNat_ofNat]

theorem bytesToNat_lt (bs : List Byte) : bytesToNat bs < 256 ^ bs.length := by
  induction bs with
  | nil => simp [bytesToNat]
  | cons b bs ih =>
    have := b.isLt
    simp only [bytesToNat, List.length_cons, Nat.pow_succ']
    omega

theorem natToBytes_bytesToNat (bs : List Byte) : natToBytes bs.length (bytesToNat bs) = bs := by
  induction bs with
  | nil => rfl
  | cons b bs ih =>
    have head : BitVec.ofNat 8 (b.toNat + 256 * bytesToNat bs) = b := by
      apply BitVec.eq_of_toNat_eq
      have := b.isLt
      rw [BitVec.toNat_ofNat]
      omega
    have tail : (b.toNat + 256 * bytesToNat bs) / 256 = bytesToNat bs := by
      have := b.isLt
      omega
    rw [List.length_cons, bytesToNat, natToBytes, head, tail, ih]

/-- The bytes of a list of words, lowest address first (R1, R79). -/
def wordBytes (ws : List (BitVec 64)) : List Byte := ws.flatMap fun w => natToBytes 8 w.toNat

theorem encodeBytes_eq (i : Instr) : encodeBytes i = wordBytes (encode i) := rfl
@[simp] theorem wordBytes_cons (w : BitVec 64) (ws : List (BitVec 64)) :
    wordBytes (w :: ws) = natToBytes 8 w.toNat ++ wordBytes ws := rfl

theorem length_wordBytes (ws : List (BitVec 64)) : (wordBytes ws).length = 8 * ws.length := by
  induction ws with
  | nil => rfl
  | cons w ws ih => rw [wordBytes_cons, List.length_append, length_natToBytes, ih, List.length_cons]; omega

/-- A word is read back from its place among the bytes. -/
theorem wordAt_wordBytes (ws : List (BitVec 64)) (rest : List Byte) (k : Nat) (h : k < ws.length) :
    wordAt (wordBytes ws ++ rest) k = ws.getD k 0 := by
  induction ws generalizing k with
  | nil => cases h
  | cons w ws ih =>
    have len := length_natToBytes 8 w.toNat
    cases k with
    | zero =>
      rw [wordAt, wordBytes_cons, List.append_assoc, Nat.mul_zero, List.drop_zero, List.take_left' len,
        bytesToNat_natToBytes, Nat.mod_eq_of_lt (show w.toNat < 256 ^ 8 from w.isLt), BitVec.ofNat_toNat, BitVec.setWidth_eq]
      rfl
    | succ k =>
      have skip : (wordBytes (w :: ws) ++ rest).drop (8 * (k + 1)) = (wordBytes ws ++ rest).drop (8 * k) := by
        rw [wordBytes_cons, List.append_assoc, Nat.mul_add, Nat.add_comm, ← List.drop_drop, List.drop_left' len]
      rw [wordAt, skip]
      exact ih k (Nat.lt_of_succ_lt_succ h)

theorem natToBytes_wordAt (bs : List Byte) (k : Nat) (h : 8 * k + 8 ≤ bs.length) :
    natToBytes 8 (wordAt bs k).toNat = (bs.drop (8 * k)).take 8 := by
  have len : ((bs.drop (8 * k)).take 8).length = 8 := by rw [List.length_take, List.length_drop]; omega
  have lt := bytesToNat_lt ((bs.drop (8 * k)).take 8)
  have back := natToBytes_bytesToNat ((bs.drop (8 * k)).take 8)
  rw [len] at lt back
  rw [wordAt, BitVec.toNat_ofNat, Nat.mod_eq_of_lt (show _ < 2 ^ 64 from lt), back]

/-- The words read one after another are the bytes that they were read from. -/
theorem wordBytes_wordAt (bs : List Byte) (n : Nat) (h : 8 * n ≤ bs.length) :
    wordBytes ((List.range n).map (wordAt bs)) = bs.take (8 * n) := by
  induction n with
  | zero => rfl
  | succ n ih =>
    rw [List.range_succ, List.map_append, wordBytes, List.flatMap_append, ← wordBytes, ih (by omega), Nat.mul_succ,
      List.take_add, ← natToBytes_wordAt bs n (by omega)]
    simp

/-! ## The words of an instruction -/

/-- Words of an instruction: four for a command major, else one (R79, R80). -/
def wordCount (w : BitVec 64) : Nat := if isCmdWord w then 4 else 1

/-- Decodes a list of words, of which those that are missing count as zero. -/
def decodeList (ws : List (BitVec 64)) : Except DecodeErr Instr :=
  decodeWords (ws.getD 0 0) (ws.getD 1 0) (ws.getD 2 0) (ws.getD 3 0)

theorem decode_wordBytes (ws : List (BitVec 64)) (rest : List Byte) (h : ws.length = wordCount (ws.getD 0 0)) :
    decode true (wordBytes ws ++ rest) = (decodeList ws).map fun i => (i, rest) := by
  have len := length_wordBytes ws
  have word := wordAt_wordBytes ws rest
  unfold wordCount at h
  unfold decode decodeList
  split at h
  next cmd =>
    rw [word 0 (by omega), word 1 (by omega), word 2 (by omega), word 3 (by omega), if_neg (by rw [List.length_append]; omega),
      if_pos cmd, if_neg (by decide), if_neg (by rw [List.length_append]; omega), List.drop_left' (by omega)]
  next ctl =>
    obtain ⟨w, rfl⟩ := List.length_eq_one_iff.1 h
    rw [word 0 (by omega), if_neg (by rw [List.length_append, len]; omega), if_neg ctl, List.drop_left' (by omega)]
    rfl

/-- What decodes was read from the words at the front of the bytes. -/
theorem words_of_decode {aligned : Bool} {bs rest : List Byte} {i : Instr} (h : decode aligned bs = .ok (i, rest)) :
    ∃ ws, bs = wordBytes ws ++ rest ∧ ws.length = wordCount (ws.getD 0 0) ∧ decodeList ws = .ok i ∧
      (isCmdWord (ws.getD 0 0) = true → aligned = true) := by
  unfold decode at h
  split at h
  next => cases h
  next long =>
    split at h
    next cmd =>
      split at h
      next => cases h
      next placed =>
        split at h
        next => cases h
        next long =>
          cases read : decodeWords (wordAt bs 0) (wordAt bs 1) (wordAt bs 2) (wordAt bs 3) with
          | error => rw [read] at h; cases h
          | ok j =>
            rw [read] at h
            cases h
            refine ⟨(List.range 4).map (wordAt bs), ?_, (if_pos cmd).symm, read, fun _ => by simpa using placed⟩
            rw [wordBytes_wordAt bs 4 (by omega), List.take_append_drop]
    next ctl =>
      cases read : decodeWords (wordAt bs 0) 0 0 0 with
      | error => rw [read] at h; cases h
      | ok j =>
        rw [read] at h
        cases h
        refine ⟨(List.range 1).map (wordAt bs), ?_, (if_neg ctl).symm, read, fun cmd => absurd cmd ctl⟩
        rw [wordBytes_wordAt bs 1 (by omega), List.take_append_drop]

theorem decodeWords_eq_ok {w0 w1 w2 w3 : BitVec 64} {i : Instr} : decodeWords w0 w1 w2 w3 = .ok i ↔
    (isCmdWord w0 && bitOf w0 11) = false ∧ i.wf = true ∧
      ∃ r, findRow w0 opRows = some r ∧ r.term w0 w1 w2 w3 = some i := by
  unfold decodeWords
  constructor
  · intro h
    split at h
    next => cases h
    next clear =>
      split at h
      next => split at h <;> cases h
      next r row =>
        split at h
        next => cases h
        next j term =>
          split at h
          next wf =>
            cases h
            exact ⟨by simpa using clear, wf, r, row, term⟩
          next => cases h
  · rintro ⟨clear, wf, r, row, term⟩
    rw [if_neg (by simp [clear]), row]
    simp only [term, wf, if_true]

/-! ## Fields of a word put together from its parts -/

/-- A field above the last part. The width of the whole is a numeral in the formats, so `no_index`. -/
theorem extract_append_high {v w : Nat} (x : BitVec v) (y : BitVec w) {start len : Nat} (h : w ≤ start) :
    BitVec.extractLsb' start len (no_index (x ++ y)) = x.extractLsb' (start - w) len :=
  BitVec.extractLsb'_append_eq_of_le h

/-- A field within the last part. -/
theorem extract_append_low {v w : Nat} (x : BitVec v) (y : BitVec w) {start len : Nat} (h : start + len ≤ w) :
    BitVec.extractLsb' start len (no_index (x ++ y)) = y.extractLsb' start len :=
  BitVec.extractLsb'_append_eq_of_add_le h

/-- Two neighbouring fields of a word are one field. -/
theorem extract_append_extract (w : BitVec 64) {hi lo m n : Nat} (h : hi = lo + n) :
    @HAppend.hAppend (BitVec m) (BitVec n) (no_index (BitVec (m + n))) _ (w.extractLsb' hi m) (w.extractLsb' lo n) =
      w.extractLsb' lo (m + n) :=
  BitVec.extractLsb'_append_extractLsb'_eq_extractLsb' h

theorem bit1_beq_one (b : Bool) : (bit1 b == 1#1) = b := by cases b <;> rfl

theorem bit1_bitOf (w : BitVec 64) (k : Nat) : bit1 (bitOf w k) = w.extractLsb' k 1 := by
  rcases BitVec.eq_zero_or_eq_one (w.extractLsb' k 1) with h | h <;> simp [bitOf, bit1, h]

/-! ## The formats: what is read from a word put together, and each word put together from what is read -/

theorem fields_encR (n : Nat) (fn : BitVec 8) (g : Guard) (b : RBody) : majorOf (encR n fn g b) = n % 256 ∧
    guardOf (encR n fn g b) = g ∧ rBodyOf (encR n fn g b) = b ∧ fnOf (encR n fn g b) = fn := by
  simp (disch := decide) only [majorOf, guardOf, rBodyOf, fnOf, encR, encHead, bitOf, extract_append_high, extract_append_low,
    BitVec.extractLsb'_eq_self, Nat.reduceSub, Nat.reduceAdd, bit1_beq_one, BitVec.toNat_ofNat, Nat.reducePow, and_self]

theorem encR_fields (w : BitVec 64) : encR (majorOf w) (fnOf w) (guardOf w) (rBodyOf w) = w := by
  simp (disch := decide) only [majorOf, guardOf, rBodyOf, fnOf, encR, encHead, bit1_bitOf, BitVec.ofNat_toNat, BitVec.setWidth_eq,
    extract_append_extract, BitVec.extractLsb'_eq_self, Nat.reduceAdd]

theorem fields_encI (n : Nat) (g : Guard) (b : IBody) :
    majorOf (encI n g b) = n % 256 ∧ guardOf (encI n g b) = g ∧ iBodyOf (encI n g b) = b := by
  simp (disch := decide) only [majorOf, guardOf, iBodyOf, encI, encHead, extract_append_high, extract_append_low,
    BitVec.extractLsb'_eq_self, Nat.reduceSub, BitVec.toNat_ofNat, Nat.reducePow, and_self]

theorem encI_fields (w : BitVec 64) : encI (majorOf w) (guardOf w) (iBodyOf w) = w := by
  simp (disch := decide) only [majorOf, guardOf, iBodyOf, encI, encHead, BitVec.ofNat_toNat, BitVec.setWidth_eq,
    extract_append_extract, BitVec.extractLsb'_eq_self, Nat.reduceAdd]

theorem fields_encV (n : Nat) (g : Guard) (b : VBody) :
    majorOf (encV n g b) = n % 256 ∧ guardOf (encV n g b) = g ∧ vBodyOf (encV n g b) = b := by
  simp (disch := decide) only [majorOf, guardOf, vBodyOf, encV, encHead, bitOf, extract_append_high, extract_append_low,
    BitVec.extractLsb'_eq_self, Nat.reduceSub, Nat.reduceAdd, bit1_beq_one, BitVec.toNat_ofNat, Nat.reducePow, and_self]

theorem encV_fields (w : BitVec 64) : encV (majorOf w) (guardOf w) (vBodyOf w) = w := by
  simp (disch := decide) only [majorOf, guardOf, vBodyOf, encV, encHead, bit1_bitOf, BitVec.ofNat_toNat, BitVec.setWidth_eq,
    extract_append_extract, BitVec.extractLsb'_eq_self, Nat.reduceAdd]

theorem fields_encP (n : Nat) (g : Guard) (b : PBody) :
    majorOf (encP n g b) = n % 256 ∧ guardOf (encP n g b) = g ∧ pBodyOf (encP n g b) = b := by
  simp (disch := decide) only [majorOf, guardOf, pBodyOf, encP, encHead, bitOf, extract_append_high, extract_append_low,
    BitVec.extractLsb'_eq_self, Nat.reduceSub, Nat.reduceAdd, bit1_beq_one, BitVec.toNat_ofNat, Nat.reducePow, and_self]

theorem encP_fields (w : BitVec 64) : encP (majorOf w) (guardOf w) (pBodyOf w) = w := by
  simp (disch := decide) only [majorOf, guardOf, pBodyOf, encP, encHead, bit1_bitOf, BitVec.ofNat_toNat, BitVec.setWidth_eq,
    extract_append_extract, BitVec.extractLsb'_eq_self, Nat.reduceAdd]

theorem fields_encB (n : Nat) (kind : BitVec 4) (g : Guard) (off : BitVec 32) : majorOf (encB n kind g off) = n % 256 ∧
    guardOf (encB n kind g off) = g ∧ (encB n kind g off).extractLsb' 4 32 = off ∧
    (encB n kind g off).extractLsb' 0 4 = kind := by
  simp (disch := decide) only [majorOf, guardOf, encB, encHead, extract_append_high, extract_append_low,
    BitVec.extractLsb'_eq_self, Nat.reduceSub, BitVec.toNat_ofNat, Nat.reducePow, and_self]

theorem encB_fields (w : BitVec 64) : encB (majorOf w) (w.extractLsb' 0 4) (guardOf w) (w.extractLsb' 4 32) = w := by
  simp (disch := decide) only [majorOf, guardOf, encB, encHead, BitVec.ofNat_toNat, BitVec.setWidth_eq,
    extract_append_extract, BitVec.extractLsb'_eq_self, Nat.reduceAdd]

theorem fields_encC (n : Nat) (op : BitVec 8) (g : Guard) (c : CmdBody) : ∃ w0 w1 w2 w3, encC n op g c = [w0, w1, w2, w3] ∧
    majorOf w0 = n % 256 ∧ guardOf w0 = g ∧ cmdBodyOf w0 w1 w2 w3 = c ∧ w0.extractLsb' 28 8 = op ∧ bitOf w0 11 = false := by
  refine ⟨_, _, _, _, rfl, ?_⟩
  simp (disch := decide) only [majorOf, guardOf, cmdBodyOf, encHead, bitOf, extract_append_high, extract_append_low,
    BitVec.extractLsb'_eq_self, Nat.reduceSub, Nat.reduceAdd, BitVec.toNat_ofNat, Nat.reducePow, true_and]
  rfl

theorem encC_fields (w0 w1 w2 w3 : BitVec 64) (clear : bitOf w0 11 = false) :
    encC (majorOf w0) (w0.extractLsb' 28 8) (guardOf w0) (cmdBodyOf w0 w1 w2 w3) = [w0, w1, w2, w3] := by
  have zero : 0#1 = w0.extractLsb' 11 1 := by rw [← bit1_bitOf, clear]; rfl
  simp (disch := decide) only [majorOf, guardOf, cmdBodyOf, encC, encHead, zero, BitVec.ofNat_toNat, BitVec.setWidth_eq,
    extract_append_extract, BitVec.extractLsb'_eq_self, Nat.reduceAdd]

/-! ## Orders, scopes and the kinds of `TLBINV` -/

theorem orderOf_eq_some {n : Nat} {o : Order} : orderOf n = some o ↔ n = o.code.toNat := by
  constructor
  · unfold orderOf
    split <;> intro h <;> cases h <;> rfl
  · rintro rfl
    cases o <;> rfl

theorem scopeOf_eq_some {n : Nat} {o : Scope} : scopeOf n = some o ↔ n = o.code.toNat := by
  constructor
  · unfold scopeOf
    split <;> intro h <;> cases h <;> rfl
  · rintro rfl
    cases o <;> rfl

/-- A part of the fn field is a field of the word. -/
theorem extract_fnOf (w : BitVec 64) {start len : Nat} (h : start + len ≤ 8) :
    (fnOf w).extractLsb' start len = w.extractLsb' (4 + start) len := by
  ext k hk
  simp only [fnOf, BitVec.getElem_extractLsb', BitVec.getLsbD_extractLsb', Nat.add_assoc]
  simp (disch := omega)
  omega

theorem extract_of_fnOf {w : BitVec 64} {x : BitVec 8} (h : fnOf w = x) (start len : Nat) (k : start + len ≤ 8) :
    w.extractLsb' (4 + start) len = x.extractLsb' start len := by
  rw [← h, extract_fnOf w k]

theorem fnOf_eq (w : BitVec 64) :
    fnOf w = bit1 (bitOf w 11) ++ bit1 (bitOf w 10) ++ w.extractLsb' 7 3 ++ w.extractLsb' 4 3 := by
  simp (disch := decide) only [fnOf, bit1_bitOf, extract_append_extract, Nat.reduceAdd]

/-- The parts of a fn field of R98. -/
theorem fnOf_eq_iff {w : BitVec 64} {x y : Bool} {o s : BitVec 3} : fnOf w = bit1 x ++ bit1 y ++ o ++ s ↔
    bitOf w 11 = x ∧ bitOf w 10 = y ∧ w.extractLsb' 7 3 = o ∧ w.extractLsb' 4 3 = s := by
  constructor
  · intro h
    have p7 := extract_of_fnOf h 7 1 (by decide)
    have p6 := extract_of_fnOf h 6 1 (by decide)
    have p3 := extract_of_fnOf h 3 3 (by decide)
    have p0 := extract_of_fnOf h 0 3 (by decide)
    simp (disch := decide) only [extract_append_high, extract_append_low, BitVec.extractLsb'_eq_self, Nat.reduceSub,
      Nat.reduceAdd, Nat.add_zero] at p7 p6 p3 p0
    simp only [bitOf, p7, p6, p3, p0, bit1_beq_one, and_self]
  · rintro ⟨rfl, rfl, rfl, rfl⟩
    exact fnOf_eq w

/-- The fn field reads as the specification that it encodes, and as no other (R98). -/
theorem memSpecOf_eq_some {w : BitVec 64} {m : MemSpec} : memSpecOf w = some m ↔ fnOf w = encSpec m := by
  rw [encSpec, fnOf_eq_iff, memSpecOf]
  constructor
  · intro h
    split at h
    next o s order scope =>
      cases h
      exact ⟨rfl, rfl, BitVec.eq_of_toNat_eq (orderOf_eq_some.1 order), BitVec.eq_of_toNat_eq (scopeOf_eq_some.1 scope)⟩
    next => cases h
  · rintro ⟨wide, sgn, order, scope⟩
    rw [orderOf_eq_some.2 (congrArg BitVec.toNat order), scopeOf_eq_some.2 (congrArg BitVec.toNat scope), wide, sgn]

/-- The fn field of an ordered load or store, with its size in bits 7 and 6 (R98). -/
theorem sizedSpecOf_eq_some {w : BitVec 64} {m : MemSpec} :
    sizedSpecOf w = some m ↔ m.sgn = false ∧ fnOf w = encSized m := by
  have spec : encSized m = encSpec ⟨true, m.wide, m.ord, m.scope⟩ := by
    rw [encSized, encSpec, show bit1 true = 1#1 from rfl]
  rw [spec, ← memSpecOf_eq_some, sizedSpecOf]
  constructor
  · intro h
    split at h
    next x read =>
      split at h
      next wide => cases h; exact ⟨rfl, by rw [read, ← wide]⟩
      next => cases h
    next => cases h
  · rintro ⟨sgn, read⟩
    rw [read, ← sgn]
    rfl

/-- The fn field of `TLBINV` (R376). -/
theorem fnOf_eq_encTlb {w : BitVec 64} {kind : BitVec 4} {dev : Bool} : fnOf w = encTlb kind dev ↔
    w.extractLsb' 9 3 = 0 ∧ bitOf w 8 = dev ∧ w.extractLsb' 4 4 = kind := by
  constructor
  · intro h
    have p5 := extract_of_fnOf h 5 3 (by decide)
    have p4 := extract_of_fnOf h 4 1 (by decide)
    have p0 := extract_of_fnOf h 0 4 (by decide)
    simp (disch := decide) only [encTlb, extract_append_high, extract_append_low, BitVec.extractLsb'_eq_self, Nat.reduceSub,
      Nat.reduceAdd, Nat.add_zero] at p5 p4 p0
    simp only [bitOf, p5, p4, p0, bit1_beq_one, and_self]
    trivial
  · rintro ⟨zero, rfl, rfl⟩
    rw [encTlb, ← show w.extractLsb' 9 3 = 0#3 from zero]
    simp (disch := decide) only [fnOf, bit1_bitOf, extract_append_extract, Nat.reduceAdd]

/-! ## Rows of the opcode map (R90) -/

/-- The row makes command words. -/
def OpRow.isCmd (r : OpRow) : Bool :=
  match r.make with
  | .cmd _ _ => true
  | _ => false

/-- The term is one that the row makes, and holds the row's sub-opcode where that lies in an operand field. -/
def OpRow.Makes (r : OpRow) (i : Instr) : Prop :=
  match r.make with
  | .r _ none f => ∃ g b, i = f g b
  | .r _ (some m) f => ∃ g b, i = f g b ∧ b.m = m
  | .i f => ∃ g b, i = f g b
  | .v lo hi f => ∃ g b, i = f g b ∧ lo ≤ b.var.toNat ∧ b.var.toNat ≤ hi
  | .p f => ∃ g b, i = f g b
  | .b _ f => ∃ g off, i = f g off
  | .atomic f => ∃ g b m, i = f g b m
  | .sized f => ∃ g b m, i = f g b m ∧ m.sgn = false
  | .tlb _ f => ∃ g b dev, i = f g b dev
  | .cmd _ f => ∃ g c, i = f g c

/-- The term stands for a word of the row's kind, encoded by these words. -/
def OpRow.Encoded (r : OpRow) (i : Instr) (ws : List (BitVec 64)) : Prop :=
  encode i = ws ∧ i.isCode = true ∧ i.isCmd = r.isCmd

/-- The row's terms are encoded in its own format. -/
def OpRow.Encodes (r : OpRow) : Prop :=
  match r.make with
  | .r fn _ f => ∀ g b, r.Encoded (f g b) [encR r.major (BitVec.ofNat 8 fn) g b]
  | .i f => ∀ g b, r.Encoded (f g b) [encI r.major g b]
  | .v _ _ f => ∀ g b, r.Encoded (f g b) [encV r.major g b]
  | .p f => ∀ g b, r.Encoded (f g b) [encP r.major g b]
  | .b kind f => ∀ g off, r.Encoded (f g off) [encB r.major (BitVec.ofNat 4 kind) g off]
  | .atomic f => ∀ g b m, r.Encoded (f g b m) [encR r.major (encSpec m) g b]
  | .sized f => ∀ g b m, r.Encoded (f g b m) [encR r.major (encSized m) g b]
  | .tlb kind f => ∀ g b dev, r.Encoded (f g b dev) [encR r.major (encTlb (BitVec.ofNat 4 kind) dev) g b]
  | .cmd op f => ∀ g c, r.Encoded (f g c) (encC r.major (BitVec.ofNat 8 op) g c)

/-- The row's sub-opcode fits its field. -/
def OpRow.subFits (r : OpRow) : Bool :=
  match r.make with
  | .r fn _ _ => decide (fn < 256)
  | .b kind _ => decide (kind < 16)
  | .tlb kind _ => decide (kind < 16)
  | .cmd op _ => decide (op < 256)
  | _ => true

/-- The row has the major and the sub-opcode of the first word and reads the term from the words, whose reserved bit is zero. -/
structure OpRow.Reads (r : OpRow) (i : Instr) (ws : List (BitVec 64)) : Prop where
  length : ws.length = if r.isCmd then 4 else 1
  major : r.major = majorOf (ws.getD 0 0)
  sub : r.sub (ws.getD 0 0) = true
  term : r.term (ws.getD 0 0) (ws.getD 1 0) (ws.getD 2 0) (ws.getD 3 0) = some i
  clear : (r.isCmd && bitOf (ws.getD 0 0) 11) = false

/-! ## The table, row by row -/

theorem opRows_major_lt : ∀ r ∈ opRows, r.major < 256 := by
  decide +kernel

/-- The command majors make command words, and the other majors make none (R80). -/
theorem opRows_isCmd : ∀ r ∈ opRows, (decide (0xF8 ≤ r.major) && decide (r.major ≤ 0xFB)) = r.isCmd := by
  decide +kernel

theorem opRows_subFits : ∀ r ∈ opRows, r.subFits = true := by
  decide +kernel

theorem opRows_encode : ∀ r ∈ opRows, r.Encodes := by
  simp only [opRows, scalarRows, controlRows, memoryRows, vectorRows, systemRows, commandRows, List.forall_mem_append,
    List.forall_mem_cons, List.not_mem_nil, false_imp_iff, implies_true, and_true]
  and_intros <;> intro g b <;> intros <;> exact ⟨rfl, rfl, rfl⟩

/-! ## The row of a word -/

theorem RBody.m_of_ok {b : RBody} {u₁ u₂ u₃ u₄ : FieldUse} {m : Bool} (h : b.ok u₁ u₂ u₃ u₄ m = true) : b.m = m := by
  simp only [RBody.ok, Bool.and_eq_true, beq_iff_eq] at h
  exact h.2
theorem ldOrderedOk_sgn {b : RBody} {m : MemSpec} (h : ldOrderedOk b m = true) : m.sgn = false := by
  simp only [ldOrderedOk, Bool.and_eq_true, beq_iff_eq] at h
  exact h.1.2
theorem stOrderedOk_sgn {b : RBody} {m : MemSpec} (h : stOrderedOk b m = true) : m.sgn = false := by
  simp only [stOrderedOk, Bool.and_eq_true, beq_iff_eq] at h
  exact h.1.2
theorem VBody.var_of_shiftOk {b : VBody} {sat : Bool} (h : b.shiftOk sat = true) : b.var.toNat ≤ 2 := by
  unfold VBody.shiftOk at h
  grind
theorem VBody.var_of_cmpOk {b : VBody} (h : b.cmpOk = true) : b.var.toNat ≤ 1 := by
  unfold VBody.cmpOk at h
  grind
theorem VBody.var_of_cvtOk {b : VBody} (h : b.cvtOk = true) : b.var.toNat ≤ 3 := by
  unfold VBody.cvtOk at h
  grind
theorem VBody.var_of_redOk {b : VBody} (h : b.redOk = true) : b.var.toNat ≤ 5 := by
  unfold VBody.redOk at h
  grind

/-- Each word has the row at its constructor's place: the map lists the rows in the order of the constructors. -/
theorem exists_row {i : Instr} (code : i.isCode = true) (wf : i.wf = true) : ∃ r ∈ opRows, r.Makes i := by
  suffices row : ∃ r, opRows[i.ctorIdx]? = some r ∧ r.Makes i by
    obtain ⟨r, place, makes⟩ := row
    exact ⟨r, List.mem_of_getElem? place, makes⟩
  cases i <;> cases code
  case rngset.refl | rngsetSplit.refl | waits.refl | waitsDec.refl => exact ⟨_, rfl, _, _, rfl, RBody.m_of_ok wf⟩
  case ldOrdered.refl => exact ⟨_, rfl, _, _, _, rfl, ldOrderedOk_sgn wf⟩
  case stOrdered.refl => exact ⟨_, rfl, _, _, _, rfl, stOrderedOk_sgn wf⟩
  case fence.refl | aadd.refl | aand.refl | aor.refl | axor.refl | amin.refl | amax.refl | axchg.refl | acas.refl |
      tlbinvPage.refl | tlbinvAsid.refl | tlbinvAll.refl =>
    exact ⟨_, rfl, _, _, _, rfl⟩
  case vshl.refl | vshr.refl | vsra.refl => exact ⟨_, rfl, _, _, rfl, Nat.zero_le _, VBody.var_of_shiftOk wf⟩
  case vcmp.refl => exact ⟨_, rfl, _, _, rfl, Nat.zero_le _, VBody.var_of_cmpOk wf⟩
  case vcvt.refl => exact ⟨_, rfl, _, _, rfl, Nat.zero_le _, VBody.var_of_cvtOk wf⟩
  case vred.refl | vscan.refl => exact ⟨_, rfl, _, _, rfl, Nat.zero_le _, VBody.var_of_redOk wf⟩
  case ldv.refl | ldvCol.refl | ldvIdx.refl | stv.refl | stvCol.refl | stvIdx.refl | vadd.refl | vsub.refl | vmul.refl |
      vfma.refl | vmin.refl | vmax.refl | vabs.refl | vneg.refl | vand.refl | vor.refl | vxor.refl | vrcp.refl | vrsq.refl |
      vexp2.refl | vlog2.refl | vsinc.refl | vperm.refl | vshufRot.refl | vshufSlide.refl | vshufZiplo.refl |
      vshufZiphi.refl | vshufUnze.refl | vshufUnzo.refl | vshufRev.refl | vbcast.refl | vbcastL.refl | vmov.refl |
      vmovX.refl | vmovI.refl | vsel.refl | viota.refl | viotaP.refl | pushc.refl | popcV.refl | popcD.refl | popcClr.refl =>
    refine ⟨_, rfl, _, _, rfl, ?_⟩
    simp only [Instr.wf, Bool.and_eq_true, decide_eq_true_eq, beq_iff_eq] at wf
    omega
  all_goals exact ⟨_, rfl, _, _, rfl⟩

/-- The row of a word reads it back from its encoding. -/
theorem OpRow.reads_encode {r : OpRow} {i : Instr} (small : r.major < 256) (fits : r.subFits = true)
    (encodes : r.Encodes) (makes : r.Makes i) : r.Reads i (encode i) := by
  obtain ⟨n, make⟩ := r
  replace small : n % 256 = n := Nat.mod_eq_of_lt small
  cases make with
  | r fn m f =>
    have sub : fn % 256 = fn := Nat.mod_eq_of_lt (of_decide_eq_true fits)
    cases m with
    | none =>
      obtain ⟨g, b, rfl⟩ := makes
      obtain ⟨words, -, -⟩ := encodes g b
      obtain ⟨major, guard, body, fnRead⟩ := fields_encR n (BitVec.ofNat 8 fn) g b
      rw [words]
      refine ⟨rfl, (major.trans small).symm, ?_, ?_, rfl⟩
      · simp [OpRow.sub, fnRead, sub]
      · simp [OpRow.term, guard, body]
    | some m =>
      obtain ⟨g, b, rfl, mod⟩ := makes
      obtain ⟨words, -, -⟩ := encodes g b
      obtain ⟨major, guard, body, fnRead⟩ := fields_encR n (BitVec.ofNat 8 fn) g b
      rw [words]
      have bit : bitOf (encR n (BitVec.ofNat 8 fn) g b) 0 = m := (congrArg RBody.m body).trans mod
      refine ⟨rfl, (major.trans small).symm, ?_, ?_, rfl⟩
      · simp [OpRow.sub, fnRead, sub, bit]
      · simp [OpRow.term, guard, body]
  | i f =>
    obtain ⟨g, b, rfl⟩ := makes
    obtain ⟨words, -, -⟩ := encodes g b
    obtain ⟨major, guard, body⟩ := fields_encI n g b
    rw [words]
    refine ⟨rfl, (major.trans small).symm, rfl, ?_, rfl⟩
    simp [OpRow.term, guard, body]
  | v lo hi f =>
    obtain ⟨g, b, rfl, least, most⟩ := makes
    obtain ⟨words, -, -⟩ := encodes g b
    obtain ⟨major, guard, body⟩ := fields_encV n g b
    rw [words]
    have var : (encV n g b).extractLsb' 8 4 = b.var := congrArg VBody.var body
    refine ⟨rfl, (major.trans small).symm, ?_, ?_, rfl⟩
    · simp [OpRow.sub, var, least, most]
    · simp [OpRow.term, guard, body]
  | p f =>
    obtain ⟨g, b, rfl⟩ := makes
    obtain ⟨words, -, -⟩ := encodes g b
    obtain ⟨major, guard, body⟩ := fields_encP n g b
    rw [words]
    refine ⟨rfl, (major.trans small).symm, rfl, ?_, rfl⟩
    simp [OpRow.term, guard, body]
  | b kind f =>
    obtain ⟨g, off, rfl⟩ := makes
    obtain ⟨words, -, -⟩ := encodes g off
    obtain ⟨major, guard, offRead, kindRead⟩ := fields_encB n (BitVec.ofNat 4 kind) g off
    rw [words]
    have sub : kind % 16 = kind := Nat.mod_eq_of_lt (of_decide_eq_true fits)
    refine ⟨rfl, (major.trans small).symm, ?_, ?_, rfl⟩
    · simp [OpRow.sub, kindRead, sub]
    · simp [OpRow.term, guard, offRead]
  | atomic f =>
    obtain ⟨g, b, m, rfl⟩ := makes
    obtain ⟨words, -, -⟩ := encodes g b m
    obtain ⟨major, guard, body, fnRead⟩ := fields_encR n (encSpec m) g b
    rw [words]
    refine ⟨rfl, (major.trans small).symm, rfl, ?_, rfl⟩
    simp [OpRow.term, guard, body, memSpecOf_eq_some.2 fnRead]
  | sized f =>
    obtain ⟨g, b, m, rfl, sgn⟩ := makes
    obtain ⟨words, -, -⟩ := encodes g b m
    obtain ⟨major, guard, body, fnRead⟩ := fields_encR n (encSized m) g b
    rw [words]
    refine ⟨rfl, (major.trans small).symm, rfl, ?_, rfl⟩
    simp [OpRow.term, guard, body, sizedSpecOf_eq_some.2 ⟨sgn, fnRead⟩]
  | tlb kind f =>
    obtain ⟨g, b, dev, rfl⟩ := makes
    obtain ⟨words, -, -⟩ := encodes g b dev
    obtain ⟨major, guard, body, fnRead⟩ := fields_encR n (encTlb (BitVec.ofNat 4 kind) dev) g b
    rw [words]
    have sub : kind % 16 = kind := Nat.mod_eq_of_lt (of_decide_eq_true fits)
    obtain ⟨zero, devRead, kindRead⟩ := fnOf_eq_encTlb.1 fnRead
    refine ⟨rfl, (major.trans small).symm, ?_, ?_, rfl⟩
    · simp [OpRow.sub, kindRead, sub, zero]
    · simp [OpRow.term, guard, body, devRead]
  | cmd op f =>
    obtain ⟨g, c, rfl⟩ := makes
    obtain ⟨words, -, -⟩ := encodes g c
    obtain ⟨w0, w1, w2, w3, parts, major, guard, body, opRead, clear⟩ := fields_encC n (BitVec.ofNat 8 op) g c
    rw [words]
    have sub : op % 256 = op := Nat.mod_eq_of_lt (of_decide_eq_true fits)
    rw [parts]
    refine ⟨rfl, (major.trans small).symm, ?_, ?_, clear⟩
    · simp [OpRow.sub, opRead, sub]
    · simp [OpRow.term, guard, body]

theorem OpRow.Encoded.of_eq {r : OpRow} {i : Instr} {ws ws' : List (BitVec 64)} (h : r.Encoded i ws) (eq : ws = ws') :
    r.Encoded i ws' := eq ▸ h

theorem ofNat_eq_of_beq {k m : Nat} {x : BitVec k} (h : (x.toNat == m) = true) : BitVec.ofNat k m = x := by
  rw [← beq_iff_eq.1 h, BitVec.ofNat_toNat, BitVec.setWidth_eq]

/-- What a row reads from words is encoded by these words. -/
theorem OpRow.encoded_of_reads {r : OpRow} {i : Instr} {ws : List (BitVec 64)} (encodes : r.Encodes) (reads : r.Reads i ws) :
    r.Encoded i ws := by
  obtain ⟨length, major, sub, term, clear⟩ := reads
  obtain ⟨n, make⟩ := r
  cases make with
  | cmd op f =>
    match ws, length with
    | [w0, w1, w2, w3], _ =>
      cases term
      have words : encC n (BitVec.ofNat 8 op) (guardOf w0) (cmdBodyOf w0 w1 w2 w3) = [w0, w1, w2, w3] := by
        rw [show n = majorOf w0 from major, ofNat_eq_of_beq (x := w0.extractLsb' 28 8) sub, encC_fields w0 w1 w2 w3 clear]
      exact (encodes _ _).of_eq words
  | r fn m f =>
    obtain ⟨w, rfl⟩ := List.length_eq_one_iff.1 length
    cases term
    have fnRead : ((fnOf w).toNat == fn) = true := by
      cases m with
      | none => exact sub
      | some m => exact (Bool.and_eq_true_iff.1 sub).1
    have word : encR n (BitVec.ofNat 8 fn) (guardOf w) (rBodyOf w) = w := by
      rw [show n = majorOf w from major, ofNat_eq_of_beq fnRead, encR_fields]
    exact (encodes _ _).of_eq (congrArg ([·]) word)
  | i f =>
    obtain ⟨w, rfl⟩ := List.length_eq_one_iff.1 length
    cases term
    have word : encI n (guardOf w) (iBodyOf w) = w := by rw [show n = majorOf w from major, encI_fields]
    exact (encodes _ _).of_eq (congrArg ([·]) word)
  | v lo hi f =>
    obtain ⟨w, rfl⟩ := List.length_eq_one_iff.1 length
    cases term
    have word : encV n (guardOf w) (vBodyOf w) = w := by rw [show n = majorOf w from major, encV_fields]
    exact (encodes _ _).of_eq (congrArg ([·]) word)
  | p f =>
    obtain ⟨w, rfl⟩ := List.length_eq_one_iff.1 length
    cases term
    have word : encP n (guardOf w) (pBodyOf w) = w := by rw [show n = majorOf w from major, encP_fields]
    exact (encodes _ _).of_eq (congrArg ([·]) word)
  | b kind f =>
    obtain ⟨w, rfl⟩ := List.length_eq_one_iff.1 length
    cases term
    have word : encB n (BitVec.ofNat 4 kind) (guardOf w) (w.extractLsb' 4 32) = w := by
      rw [show n = majorOf w from major, ofNat_eq_of_beq (x := w.extractLsb' 0 4) sub, encB_fields]
    exact (encodes _ _).of_eq (congrArg ([·]) word)
  | atomic f =>
    obtain ⟨w, rfl⟩ := List.length_eq_one_iff.1 length
    obtain ⟨m, spec, rfl⟩ := Option.map_eq_some_iff.1 term
    have word : encR n (encSpec m) (guardOf w) (rBodyOf w) = w := by
      rw [show n = majorOf w from major, ← memSpecOf_eq_some.1 (show memSpecOf w = some m from spec), encR_fields]
    exact (encodes _ _ _).of_eq (congrArg ([·]) word)
  | sized f =>
    obtain ⟨w, rfl⟩ := List.length_eq_one_iff.1 length
    obtain ⟨m, spec, rfl⟩ := Option.map_eq_some_iff.1 term
    have word : encR n (encSized m) (guardOf w) (rBodyOf w) = w := by
      rw [show n = majorOf w from major, ← (sizedSpecOf_eq_some.1 (show sizedSpecOf w = some m from spec)).2, encR_fields]
    exact (encodes _ _ _).of_eq (congrArg ([·]) word)
  | tlb kind f =>
    obtain ⟨w, rfl⟩ := List.length_eq_one_iff.1 length
    cases term
    obtain ⟨kindRead, zero⟩ := Bool.and_eq_true_iff.1 sub
    have fnRead : fnOf w = encTlb (BitVec.ofNat 4 kind) (bitOf w 8) :=
      fnOf_eq_encTlb.2 ⟨(ofNat_eq_of_beq zero).symm, rfl, (ofNat_eq_of_beq kindRead).symm⟩
    have word : encR n (encTlb (BitVec.ofNat 4 kind) (bitOf w 8)) (guardOf w) (rBodyOf w) = w := by
      rw [show n = majorOf w from major, ← fnRead, encR_fields]
    exact (encodes _ _ _).of_eq (congrArg ([·]) word)

/-! ## One row for each word -/

/-- The row has the major and the sub-opcode of the word. -/
def OpRow.matches (r : OpRow) (w : BitVec 64) : Bool := decide (r.major = majorOf w) && r.sub w

theorem findRow_eq_find? (w : BitVec 64) (l : List OpRow) : findRow w l = l.find? (·.matches w) := by
  induction l with
  | nil => rfl
  | cons r t ih =>
    rw [findRow, List.find?_cons, ih]
    cases h : r.matches w <;> simp_all [OpRow.matches]

theorem OpRow.sub_r (n fn : Nat) (m : Option Bool) (f : Guard → RBody → Instr) (w : BitVec 64) :
    OpRow.sub ⟨n, .r fn m f⟩ w = ((fnOf w).toNat == fn && m.all (bitOf w 0 == ·)) := by
  cases m <;> simp [OpRow.sub]

/-- The sub-opcodes of two rows of one format exclude each other. -/
def RowMake.apart (x y : RowMake) : Bool :=
  match x, y with
  | .r fn m _, .r fn' m' _ => fn != fn' || m.any fun k => m'.any fun k' => k != k'
  | .v lo hi _, .v lo' hi' _ => decide (hi < lo') || decide (hi' < lo)
  | .b kind _, .b kind' _ => kind != kind'
  | .tlb kind _, .tlb kind' _ => kind != kind'
  | .cmd op _, .cmd op' _ => op != op'
  | _, _ => false

theorem RowMake.not_sub_of_apart {x y : RowMake} (h : x.apart y = true) {n k : Nat} {w : BitVec 64}
    (hx : OpRow.sub ⟨n, x⟩ w = true) (hy : OpRow.sub ⟨k, y⟩ w = true) : False := by
  unfold RowMake.apart at h
  split at h
  next fn m _ fn' m' _ =>
    simp only [OpRow.sub_r, Bool.and_eq_true, beq_iff_eq, Option.all_eq_true] at hx hy
    rcases Bool.or_eq_true_iff.1 h with h | h
    · exact bne_iff_ne.1 h (hx.1.symm.trans hy.1)
    · obtain ⟨k, mod, h⟩ := (Option.any_eq_true ..).1 h
      obtain ⟨k', mod', h⟩ := (Option.any_eq_true ..).1 h
      exact bne_iff_ne.1 h ((hx.2 k mod).symm.trans (hy.2 k' mod'))
  case h_6 => cases h
  all_goals
    simp only [OpRow.sub, Bool.and_eq_true, Bool.or_eq_true, decide_eq_true_eq, beq_iff_eq, bne_iff_ne, ne_eq] at h hx hy
    omega

/-- No two rows of one major have a sub-opcode in common. -/
theorem opRows_apart : opRows.Pairwise fun r r' => (r.major != r'.major || r.make.apart r'.make) = true := by
  decide +kernel

/-- No word matches two rows. -/
theorem opRows_exclude (w : BitVec 64) : opRows.Pairwise fun r r' => ¬ (r.matches w = true ∧ r'.matches w = true) := by
  refine opRows_apart.imp fun {r r'} apart both => ?_
  simp only [OpRow.matches, Bool.and_eq_true, decide_eq_true_eq] at both
  obtain ⟨⟨major, sub⟩, major', sub'⟩ := both
  rcases Bool.or_eq_true_iff.1 apart with apart | apart
  · exact bne_iff_ne.1 apart (major.trans major'.symm)
  · exact RowMake.not_sub_of_apart apart sub sub'

/-- A row that has the major and the sub-opcode of a word is the row that the decoder finds. -/
theorem findRow_of_matches {r : OpRow} (h : r ∈ opRows) {w : BitVec 64} (fits : r.matches w = true) :
    findRow w opRows = some r := by
  rw [findRow_eq_find?]
  obtain ⟨r', found⟩ := Option.isSome_iff_exists.1 (List.find?_isSome (p := (OpRow.matches · w)).2 ⟨r, h, fits⟩)
  have fits' : r'.matches w = true := List.find?_some (p := (OpRow.matches · w)) found
  rw [found]
  have : Std.Symm fun r r' : OpRow => ¬ (r.matches w = true ∧ r'.matches w = true) := ⟨fun _ _ no both => no both.symm⟩
  by_contra other
  exact (opRows_exclude w).forall h (List.mem_of_find?_eq_some found) (fun same => other (same ▸ rfl)) ⟨fits, fits'⟩

theorem matches_of_findRow {r : OpRow} {w : BitVec 64} (h : findRow w opRows = some r) : r ∈ opRows ∧ r.matches w = true := by
  rw [findRow_eq_find?] at h
  exact ⟨List.mem_of_find?_eq_some h, List.find?_some (p := (OpRow.matches · w)) h⟩

/-! ## Decoding and encoding -/

theorem isCmdWord_of_row {r : OpRow} (h : r ∈ opRows) {w : BitVec 64} (major : r.major = majorOf w) : isCmdWord w = r.isCmd := by
  rw [← opRows_isCmd r h, major, isCmdWord]

/-- What decodes from words is what a row of the map reads from them. -/
theorem decodeList_eq_ok {ws : List (BitVec 64)} {i : Instr} :
    decodeList ws = .ok i ∧ ws.length = wordCount (ws.getD 0 0) ↔ i.wf = true ∧ ∃ r ∈ opRows, r.Reads i ws := by
  rw [decodeList, decodeWords_eq_ok]
  constructor
  · rintro ⟨⟨clear, wf, r, row, term⟩, length⟩
    obtain ⟨h, fits⟩ := matches_of_findRow row
    obtain ⟨major, sub⟩ := Bool.and_eq_true_iff.1 fits
    replace major := of_decide_eq_true major
    have cmd := isCmdWord_of_row h major
    exact ⟨wf, r, h, by rw [length, wordCount, cmd], major, sub, term, by rw [← cmd, clear]⟩
  · rintro ⟨wf, r, h, length, major, sub, term, clear⟩
    have cmd := isCmdWord_of_row h major
    have row := findRow_of_matches h (w := ws.getD 0 0) (by rw [OpRow.matches, sub, Bool.and_true, decide_eq_true_iff, major])
    exact ⟨⟨by rw [cmd, clear], wf, r, row, term⟩, by rw [length, wordCount, cmd]⟩

/-- Settles O34: the row of the word's constructor is the only one that its encoding matches, and it reads the word back. -/
theorem roundTrip : Obligations.RoundTrip := by
  unfold Obligations.RoundTrip
  intro i rest code wf
  obtain ⟨r, h, makes⟩ := exists_row code wf
  have reads := OpRow.reads_encode (opRows_major_lt r h) (opRows_subFits r h) (opRows_encode r h) makes
  obtain ⟨decodes, length⟩ := decodeList_eq_ok.2 ⟨wf, r, h, reads⟩
  rw [encodeBytes_eq, decode_wordBytes _ _ length, decodes]
  rfl

/-- Settles O35: a word that decodes was read by a row of the map, in whose format the encoder writes the same word. -/
theorem oneMeaning : Obligations.OneMeaning := by
  unfold Obligations.OneMeaning
  intro aligned bs i rest h
  obtain ⟨ws, bytes, length, decodes, placed⟩ := words_of_decode h
  obtain ⟨wf, r, row, reads⟩ := decodeList_eq_ok.1 ⟨decodes, length⟩
  obtain ⟨words, code, kind⟩ := OpRow.encoded_of_reads (opRows_encode r row) reads
  refine ⟨code, wf, by rw [encodeBytes_eq, words, bytes], fun cmd => placed ?_⟩
  rw [isCmdWord_of_row row reads.major, ← kind, cmd]

/-- A table word that starts with the encoding of an instruction reads as that instruction. -/
theorem decodeTableWord_of_bytes {nbits w : Nat} {i : Instr} {rest : List Byte} (code : i.isCode = true) (wf : i.wf = true)
    (bytes : natToBytes 32 (w % 2 ^ nbits) = encodeBytes i ++ rest) : decodeTableWord nbits w = some i := by
  rw [decodeTableWord, bytes, roundTrip i rest code wf]

/-- Settles O36: each word is the encoding of the instruction that it stands for, with zeros behind it. -/
theorem wordsRead : Obligations.WordsRead := by
  unfold Obligations.WordsRead
  and_intros <;> exact decodeTableWord_of_bytes (rest := List.replicate 24 0) (by decide) (by decide) (by decide)

end Sys2Proof
end

section
/-! # Command words (O33)

A release goes on once every load of this module is performed, the descriptors that handles name are read and pass their checks, and
so do the panel and the scale tensors of an `MMA`. With these the push completes (R217 to R221). -/

namespace Sys2Proof.Machine

/-! ## Loads performed early -/

theorem State.isSpan_perform (s : State) (o : Ledger) (p : Producer) : (s.perform o p).2.src.isSpan = p.src.isSpan := by
  unfold State.perform
  split
  next f ls src =>
    rw [src]
    simp only [ProdSrc.isSpan, List.any_map]
    congr 1
    funext l
    cases l with
    | mem pa => by_cases bad : s.badAt pa (fmtBytes f) = true <;> simp [bad]
    | _ => rfl
  next src =>
    rw [src]
    exact (apply_ite ProdSrc.isSpan _ _ _).trans (ite_self false)
  next => rfl

theorem State.any_isSpan_performAll (s : State) (sel : Producer → Bool) (l : List Producer) (o : Ledger) :
    (s.performAll sel l o).2.any (·.src.isSpan) = l.any (·.src.isSpan) := by
  induction l generalizing o with
  | nil => rfl
  | cons p t ih =>
    simp only [State.performAll, List.any_cons, ih]
    split
    · rw [State.isSpan_perform]
    · rfl

/-- Loads of other modules stay open when loads of this module are performed. -/
@[simp] theorem State.remoteOpen_capture (s : State) (x : Ctx) (sel : Producer → Bool) :
    (s.capture x sel).remoteOpen = x.remoteOpen := s.any_isSpan_performAll sel x.prods x.ord

@[simp] theorem Claims.ordered_remoteOpen (s : State) (x : Ctx) (t : Bool) : (Claims.ordered s x t).remoteOpen = x.remoteOpen := by
  cases t
  · rfl
  · exact s.remoteOpen_capture x _

@[simp] theorem Claims.ordered_undeliv (s : State) (x : Ctx) (t : Bool) : (Claims.ordered s x t).undeliv = x.undeliv := by
  cases t <;> rfl
@[simp] theorem Claims.ordered_posted (s : State) (x : Ctx) (t : Bool) : (Claims.ordered s x t).posted = x.posted := by
  cases t <;> rfl
@[simp] theorem Claims.ordered_regs (s : State) (x : Ctx) (t : Bool) : (Claims.ordered s x t).regs = x.regs := by
  cases t <;> rfl
@[simp] theorem Claims.ordered_pc (s : State) (x : Ctx) (t : Bool) : (Claims.ordered s x t).pc = x.pc := by
  cases t <;> rfl

theorem Cur.orderTaint_eq (c : Cur) (t : Bool) : c.orderTaint t = c.mapCtx fun x => Claims.ordered c.s x t := by
  cases t <;> rfl

/-- A release goes on when no load of another module is open and, at sys scope, no posted store is outstanding (R194, R195). -/
theorem release_open {c : Cur} {sys : Bool} (far : c.i.ctx.remoteOpen = false)
    (stores : sys = true → c.i.ctx.undeliv = false ∧ c.i.ctx.posted = []) (k : Cur → Eff) :
    release c sys k = k (c.mapCtx fun x => c.s.captureAll x) := by
  cases sys with
  | false => simp [release, far]
  | true =>
    obtain ⟨undeliv, posted⟩ := stores rfl
    simp [release, far, undeliv, posted]

/-! ## Descriptors, panel and scales -/

theorem access_held {c : Cur} {va : Word64} {n : Nat} {k : Acc} {pa : Nat} (aligned : va.toNat % n = 0)
    (held : c.s.translate c.die c.asid va.toNat k = .ok pa) (f : Nat → Eff) : access c va n k f = f pa := by
  simp [access, aligned, held]

theorem withDescs_cons {c : Cur} {h tile pa : Nat} {d : Desc} (names : c.NamesOn tile h d pa) (rest : List (Nat × Nat))
    (k : List Desc → Eff) : withDescs c ((h, tile) :: rest) k = withDescs c rest fun l => k (d :: l) := by
  obtain ⟨⟨nonzero, small⟩, aligned, held, home, sound, read, ok⟩ := names
  have num : ¬ (h = 0 ∨ 0xFFFF ≤ h) := by omega
  subst read
  simp [withDescs, num, access_held aligned held, sound, Cur.readAny, home, ok]

/-- Handles that name descriptors are read and pass their checks. -/
theorem withDescs_named {c : Cur} {hs : List (Nat × Nat)} {ds : List Desc} {pas : List Nat} (length : ds.length = hs.length)
    (length' : pas.length = ds.length) (names : ∀ (k h tile : Nat) (d : Desc) (pa : Nat), hs[k]? = some (h, tile) → ds[k]? = some d →
      pas[k]? = some pa → c.NamesOn tile h d pa) (k : List Desc → Eff) : withDescs c hs k = k ds := by
  induction hs generalizing ds pas k with
  | nil =>
    rw [List.length_eq_zero_iff.1 length]
    rfl
  | cons x hs ih =>
    obtain ⟨h, tile⟩ := x
    match ds, pas, length, length' with
    | d :: ds, pa :: pas, length, length' =>
      rw [withDescs_cons (names 0 h tile d pa rfl rfl rfl)]
      exact ih (Nat.succ.inj length) (Nat.succ.inj length') (fun n => names (n + 1)) _

theorem withScale_of {c : Cur} {h : Nat} {d : Desc} {pa : Nat}
    (scale : h = 0 ∧ d = noDesc ∨ c.NamesOn c.tile h d pa ∧ scaleOk d = true) (k : Desc → Eff) : withScale c h k = k d := by
  rcases scale with ⟨rfl, rfl⟩ | ⟨names, ok⟩
  · rfl
  · rw [withScale, if_neg names.num.1, withDescs_cons names]
    exact if_pos ok

theorem withPanel_other {c : Cur} {o : EngOp} (other : o ≠ .mma) (f : List Nat) (ds : List Desc)
    (k : List Desc → Option PanelTag → Option Nat → Eff) : withPanel c o f ds k = k ds none none := if_neg other

/-- The panel of an `MMA` and the scale tensors that its pairing reads (R226, R118). -/
theorem withPanel_mma {c : Cur} {f : List Nat} {a sa sb : Desc} {psa psb : Nat} {tag : PanelTag} {pres : Option Nat}
    (panel : c.panel (uf f 1) = some (tag, pres)) (check : mmaCheck c.s.host.phase f a tag = none)
    (scaleA : (scaleHandles a tag).1 = 0 ∧ sa = noDesc ∨ c.NamesOn c.tile (scaleHandles a tag).1 sa psa ∧ scaleOk sa = true)
    (scaleB : (scaleHandles a tag).2 = 0 ∧ sb = noDesc ∨ c.NamesOn c.tile (scaleHandles a tag).2 sb psb ∧ scaleOk sb = true)
    (k : List Desc → Option PanelTag → Option Nat → Eff) : withPanel c .mma f [a] k = k [a, sa, sb] (some tag) pres := by
  simp [withPanel, panel, check, withScale_of scaleA, withScale_of scaleB]

/-! ## The push -/

theorem Cur.leased_of {c : Cur} (h : Claims.leased c.s c) : c.leased = true := by
  obtain ⟨l, lease, uid, ended, left, age⟩ := h
  simp [Cur.leased, lease, uid, ended, left, age]

theorem commitStall_of_confirmed {c : Cur} (h : c.i.ex.unconf = false) (e : Eff) : commitStall c e = e := by
  simp [commitStall, h]
theorem afterAcquire_of_none {c : Cur} (h : c.i.ctx.acqOpen = false) (k : Eff) : afterAcquire c k = k := by
  simp [afterAcquire, h]

/-- The stream once every earlier access is performed, as a release asks (R194). -/
def Cur.released (c : Cur) (t : Bool) : Cur := c.mapCtx fun x => c.s.captureAll (Claims.ordered c.s x t)

/-- The command that the stream pushes (R218). -/
def Cur.command (c : Cur) (o : EngOp) (g : Guard) (b : CmdBody) (f : List Nat) (ds : List Desc) (tag : Option PanelTag)
    (pres : Option Nat) : Cmd :=
  { mkCmd o g b f ds tag pres
      ⟨c.uid, c.place, c.asid, c.i.who.queue, c.pc.toNat, none, seqKey c.die c.q, c.i.who.kind == .firmware⟩ with
    view := c.i.ctx.ord.fork (cmdScope o f) }

theorem Cur.push_s (c : Cur) (o : EngOp) (cmd : Cmd) (d : Desc) :
    (c.push o cmd d).s = (Claims.pushedCmd c.s c o.eng cmd).twinTagWrite c.die c.tile o cmd.asid cmd.f d := by
  unfold Cur.push Claims.pushedCmd Cur.mapS
  by_cases h : o.eng = 0
  · simp only [h, if_true]; rfl
  · simp only [h, if_false]; rfl

theorem Cur.same_push (c : Cur) (o : EngOp) (cmd : Cmd) (d : Desc) : c.Same (c.push o cmd d) := c.same_mapS _

theorem Cur.same_released (c : Cur) (t : Bool) : c.Same (c.released t) := ⟨rfl, rfl, rfl, rfl, Claims.ordered_pc ..⟩

/-- The release of a word whose address or value has this taint. -/
theorem release_orderTaint {c : Cur} {sys : Bool} (t : Bool) (far : c.i.ctx.remoteOpen = false)
    (stores : sys = true → c.i.ctx.undeliv = false ∧ c.i.ctx.posted = []) (k : Cur → Eff) :
    release (c.orderTaint t) sys k = k (c.released t) := by
  rw [Cur.orderTaint_eq, release_open]
  · rfl
  · exact (Claims.ordered_remoteOpen ..).trans far
  · intro h
    obtain ⟨undeliv, posted⟩ := stores h
    exact ⟨(Claims.ordered_undeliv ..).trans undeliv, (Claims.ordered_posted ..).trans posted⟩

/-- The stream comes to push the word with the fields `f`: its guard is true, nothing holds it or its release, it has the lease
that a matrix command needs, its queue has room, and the fields and semaphores are legal (R101, R102, R212, R218, R221). -/
structure Cur.MayPush (c : Cur) (s : State) (o : EngOp) (g : Guard) (b : CmdBody) (l : List (Word × Bool)) (taken : FMap Nat)
    (f : List Nat) : Prop where
  issues : s.Issues c
  kind : c.i.who.kind ≠ .prologue
  on : guardAt c.regs g 0 = true
  confirmed : c.i.ex.unconf = false
  acquired : c.i.ctx.acqOpen = false
  operands : c.regs.reads (cmdOpnds b) = .vals l taken
  fields : resolveFields o b (l.map (·.1)) = f
  lease : o.eng = 0 → Claims.leased s c
  room : ((s.tile c.die c.tile).eng.queues.get [] (8 * o.eng + c.q % 4)).length < 16
  limits : o.limits (resolvedBody b f) = true
  window : s.cmdWindow c.asid b = true
  far : c.i.ctx.remoteOpen = false
  stores : cmdScope o f = 4 → c.i.ctx.undeliv = false ∧ c.i.ctx.posted = []

/-- A command word that passes every check completes: its command stands at the tail of its queue. -/
theorem pushOp_leaves {o : EngOp} {g : Guard} {b : CmdBody} {s : State} {c : Cur} {l : List (Word × Bool)} {taken : FMap Nat}
    {f : List Nat} {named ds : List Desc} {tag : Option PanelTag} {pres : Option Nat} (may : c.MayPush s o g b l taken f)
    (descs : ∀ k, withDescs c (cmdHandles o c.tile f) k = k named) (check : s.descCheck c.die o f named = none)
    (panel : ∀ k, withPanel c o f named k = k ds tag pres) :
    let cmd := (c.released (l.any (·.2))).command o g b f ds tag pres
    ∃ t, pushOp o g b s = .next t ∧
      c.Leaves ((Claims.pushedCmd s c o.eng cmd).twinTagWrite c.die c.tile o c.asid f (ds.getD 0 noDesc))
        ((c.i.withCtx { (s.captureAll (Claims.ordered s c.i.ctx (l.any (·.2)))) with regs := c.regs.eat taken }).past
          c.pc 32).committed t := by
  intro cmd
  obtain ⟨h, kind, on, confirmed, acq, ops, fields, lease, room, limits, window, far, stores⟩ := may
  obtain rfl := State.cur_s h.cur
  refine word_ok (c' := (((c.released (l.any (·.2))).commit).push o cmd (ds.getD 0 noDesc)).mapRegs fun r => r.eat taken)
    (i := (c.i.withCtx { c.s.captureAll (Claims.ordered c.s c.i.ctx (l.any (·.2))) with regs := c.regs.eat taken }).committed)
    h (Cur.may_hand kind) ?eff ?same ?state ?inst
  case eff =>
    have notFull : (c.s.tile c.die c.tile).eng.full o.eng c.place = false := decide_eq_false (Nat.not_le.2 room)
    have held : (decide (o.eng = 0) && !c.leased) = false := by
      rw [Bool.and_eq_false_imp, decide_eq_true_iff]
      intro eng
      rw [Cur.leased_of (lease eng), Bool.not_true]
    have sys : (cmdScope o f == 4) = true → c.i.ctx.undeliv = false ∧ c.i.ctx.posted = [] := fun h => stores (beq_iff_eq.1 h)
    simp only [guarded_true on, commitStall_of_confirmed confirmed, withOps_vals ops, afterAcquire_of_none acq, held, notFull,
      fields, limits, window, descs, check, panel, release_orderTaint _ far sys, Bool.not_true, Bool.or_self, Bool.false_eq_true,
      if_false]
    rfl
  case same =>
    exact (((c.same_released _).trans (Cur.same_commit _)).trans (Cur.same_push ..)).trans (Cur.same_mapRegs ..)
  case state => exact Cur.push_s ..
  case inst =>
    rw [show c.regs = (Claims.ordered c.s c.i.ctx (l.any (·.2))).regs from (Claims.ordered_regs ..).symm]
    rfl

/-! ## The obligation -/

/-- Each command word is a push of its operation at its engine (R103). -/
theorem exec_command : ∀ e ∈ Claims.commands, e.2.2 = e.2.1.eng ∧ ∀ g b s, exec (e.1 g b) s = pushOp e.2.1 g b s := by
  simp only [Claims.commands, List.forall_mem_cons, List.not_mem_nil, false_imp_iff, implies_true, and_true]
  and_intros <;> intros <;> rfl

/-- The command holds what the push fixes (R218). -/
theorem Cur.isPush_command (c : Cur) (t : Bool) (o : EngOp) (g : Guard) (b : CmdBody) (f : List Nat) (ds : List Desc)
    (tag : Option PanelTag) (pres : Option Nat) : Claims.isPush c o b f ((c.released t).command o g b f ds tag pres) := by
  have pc : (c.released t).pc = c.pc := (c.same_released t).pc
  exact ⟨rfl, rfl, rfl, rfl, rfl, rfl, rfl, rfl, rfl, rfl, congrArg BitVec.toNat pc, rfl, rfl, rfl, rfl, rfl, rfl, rfl⟩

/-- Settles O33, by the lemma on the push: `MMA` alone reads a panel and scale tensors. -/
theorem commandPushes : Obligations.CommandPushes := by
  unfold Obligations.CommandPushes
  refine ⟨?other, ?mma⟩
  case other =>
    intro e he other g b s c l taken ds pas h kind on confirmed acq ops f lease room limits window length length' names check far
      stores x
    obtain ⟨eng, run⟩ := exec_command e he
    rw [eng] at lease room
    obtain ⟨t, next, leaves⟩ := pushOp_leaves
      ⟨h, kind, on, confirmed, acq, ops, rfl, lease, room, limits, window, far, stores⟩
      (withDescs_named length length' names) check (withPanel_other other _ ds)
    exact ⟨t, _, (run g b s).trans next, c.isPush_command .., rfl, by rw [eng]; exact leaves⟩
  case mma =>
    intro g b s c l taken a sa sb pa psa psb tag pres h kind on confirmed acq ops f lease room limits window names far panel check
      scaleA scaleB x
    have here := State.cur_s h.cur
    have room : ((s.tile c.die c.tile).eng.queues.get [] (8 * EngOp.mma.eng + c.q % 4)).length < 16 := by
      rwa [show 8 * EngOp.mma.eng + c.q % 4 = c.q % 4 from Nat.zero_add _]
    obtain ⟨t, next, leaves⟩ := pushOp_leaves (o := .mma)
      ⟨h, kind, on, confirmed, acq, ops, rfl, fun _ => lease, room, limits, window, far, fun sys => nomatch sys⟩
      (fun k => withDescs_cons names [] k) rfl (withPanel_mma panel (here.symm ▸ check) scaleA scaleB)
    exact ⟨t, _, next, c.isPush_command .., rfl, rfl, rfl, leaves⟩

end Sys2Proof.Machine
end

section
/-! # What a step runs (O37)

A stream that comes to issue its word fetches it from a page that is held, and the step runs what its bytes decode to. The other
branches of the step say what they run. -/

namespace Sys2Proof.Machine

/-! ## The word at the PC -/

/-- A page that is held, of this module and without an error in the word, gives the word that its bytes decode to. -/
theorem Cur.fetch_eq_word {c : Cur} {pa : Nat} (held : c.s.translate c.die c.asid c.pc.toNat .fetch = .ok pa)
    (home : isSpan pa = false) (sound : c.s.badAt pa
      (if isCmdWord (BitVec.ofNat 64 (c.s.readPa pa 8)) = true ∧ c.pc.toNat % 32 = 0 then 32 else 8) = false) :
    c.fetch = .word (c.s.decodeAt c.die c.pc.toNat pa (BitVec.ofNat 64 (c.s.readPa pa 8))) := by
  simp [Cur.fetch, held, home, sound]

/-- A stream that comes to issue its word fetches it. -/
theorem State.fetch_of_due {s : State} {c : Cur} (due : Claims.due s c) : s.fetch = c.fetch := by
  obtain ⟨-, cur, -, join, park, prologue⟩ := due
  have limit : (c.i.who.kind == .prologue && decide (4096 ≤ c.i.ctx.issued)) = false := by
    rw [Bool.and_eq_false_imp, beq_iff_eq]
    intro kind
    exact decide_eq_false (Nat.not_le.2 (prologue kind))
  simp [State.fetch, cur, join, park, limit]

theorem State.issueNext_of_first {s : State} (h : s.before [s.focus.1] (s.seq s.focus.1 s.focus.2).clk s.focus.2 = none) :
    s.issueNext = s.issueWord := by
  simp [State.issueNext, h]

theorem step_of_idle {s : State} (h : s.agenda = []) : step s = s.issueNext := by
  simp [step, h]

theorem step_of_event {s : State} {i : Instr} {l : List Move} (h : s.agenda = .event i :: l) : step s = s.issueEvent i l := by
  simp [step, h]

/-- The step of a stream that comes to issue its word runs what the bytes at its PC decode to. -/
theorem step_of_due {s : State} {c : Cur} {pa : Nat} (due : Claims.due s c)
    (held : s.translate c.die c.asid c.pc.toNat .fetch = .ok pa) (home : isSpan pa = false) (sound : s.badAt pa
      (if isCmdWord (BitVec.ofNat 64 (s.readPa pa 8)) = true ∧ c.pc.toNat % 32 = 0 then 32 else 8) = false) :
    step s = exec (s.decodeAt c.die c.pc.toNat pa (BitVec.ofNat 64 (s.readPa pa 8))) s := by
  have fetched := State.fetch_of_due due
  obtain ⟨idle, cur, first, -⟩ := due
  have here := State.cur_s cur
  rw [Cur.fetch_eq_word (by rw [here]; exact held) home (by rw [here]; exact sound), here] at fetched
  rw [step_of_idle idle, State.issueNext_of_first first, State.issueWord, fetched]

/-! ## Decoding at an address -/

section DecodeAt
variable {s : State} {d pc pa : Nat} {w : BitVec 64}

theorem State.decodeAt_control (kind : isCmdWord w = false) {i : Instr} (h : decodeWords w 0 0 0 = .ok i) :
    s.decodeAt d pc pa w = i := by
  rw [State.decodeAt, if_neg (by simp [kind]), h]

theorem State.decodeAt_control_undefined (kind : isCmdWord w = false) (h : ∀ i, decodeWords w 0 0 0 ≠ .ok i) :
    s.decodeAt d pc pa w = .undefinedInstruction w := by
  cases r : decodeWords w 0 0 0 with
  | ok i => exact absurd r (h i)
  | error e => rw [State.decodeAt, if_neg (by simp [kind]), r]

theorem State.decodeAt_command (kind : isCmdWord w = true) (aligned : pc % 32 = 0)
    (allowed : ¬ (isAtt d = true ∧ majorOf w = 0xF8)) {i : Instr}
    (h : decodeWords w (BitVec.ofNat 64 (s.readPa (pa + 8) 8)) (BitVec.ofNat 64 (s.readPa (pa + 16) 8))
      (BitVec.ofNat 64 (s.readPa (pa + 24) 8)) = .ok i) :
    s.decodeAt d pc pa w = i := by
  simp [State.decodeAt, kind, aligned, allowed, h]

theorem State.decodeAt_command_undefined (kind : isCmdWord w = true)
    (h : pc % 32 ≠ 0 ∨ (isAtt d = true ∧ majorOf w = 0xF8) ∨ ∀ i, decodeWords w (BitVec.ofNat 64 (s.readPa (pa + 8) 8))
      (BitVec.ofNat 64 (s.readPa (pa + 16) 8)) (BitVec.ofNat 64 (s.readPa (pa + 24) 8)) ≠ .ok i) :
    s.decodeAt d pc pa w = .undefinedInstruction w := by
  cases r : decodeWords w (BitVec.ofNat 64 (s.readPa (pa + 8) 8)) (BitVec.ofNat 64 (s.readPa (pa + 16) 8))
      (BitVec.ofNat 64 (s.readPa (pa + 24) 8)) with
  | ok i =>
    have refused : pc % 32 ≠ 0 ∨ isAtt d = true ∧ majorOf w = 0xF8 := h.imp_right (·.resolve_right fun no => no i r)
    by_cases aligned : pc % 32 = 0
    · simp [State.decodeAt, kind, aligned, refused.resolve_left (not_not.2 aligned)]
    · simp [State.decodeAt, kind, aligned]
  | error e =>
    by_cases aligned : pc % 32 = 0 <;> by_cases barred : isAtt d = true ∧ majorOf w = 0xF8 <;>
      simp [State.decodeAt, kind, aligned, barred, r]

end DecodeAt

/-! ## The obligation -/

/-- Settles O37, by the branches of the step. -/
theorem stepRuns : Obligations.StepRuns := by
  unfold Obligations.StepRuns
  refine ⟨fun s c pa due held home sound => ?word, fun s i l agenda => ?event, fun s agenda => ?idle, fun s d q l agenda => ?issue⟩
  case word =>
    have run := step_of_due due held home sound
    refine ⟨fun kind i h => run.trans (congrArg (exec · s) (State.decodeAt_control kind h)),
      fun kind aligned allowed i h => run.trans (congrArg (exec · s) (State.decodeAt_command kind aligned allowed h)), ?_⟩
    rintro (⟨kind, h⟩ | ⟨kind, h⟩)
    · exact run.trans (congrArg (exec · s) (State.decodeAt_control_undefined kind h))
    · exact run.trans (congrArg (exec · s) (State.decodeAt_command_undefined kind h))
  case event =>
    rw [step_of_event agenda, State.issueEvent]
    refine ⟨fun first order => ?_, fun d q h => ?_, fun k h => ?_, fun k h => ?_⟩
    · rw [first]
      exact if_pos order
    · rw [h]
    · rw [h]
      rfl
    · rw [h]
  case idle =>
    rw [step_of_idle agenda, State.issueNext]
    refine ⟨fun d q h => ?_, fun k h => ?_, fun k h => ?_⟩
    · rw [h]
    · rw [h]
      rfl
    · rw [h]
  case issue => simp [step, agenda]

end Sys2Proof.Machine
end

section
/-! # K-steps of an `MMA` and granules of a `TMCAST` (O45)

First what the small operations of the two commands do: a block of accumulator elements written row by row, an element
written to tile memory, an increment of a semaphore. Then one K-step on integers and one granule of one element. -/

namespace Sys2Proof.Machine

/-! ## Tiles -/

/-- What `f` keeps of a tile, an update of any tile by `f` keeps of every tile. -/
theorem State.updTile_keeps {β : Type} (g : Tile → β) {f : Tile → Tile} (keeps : ∀ x, g (f x) = g x) (s : State)
    (d t e p : Nat) : g ((s.updTile d t f).tile e p) = g (s.tile e p) := by
  unfold State.updTile State.setTile State.tile
  dsimp only
  rw [FMap.get_set]
  split
  next same => rw [keeps, same]
  next => rfl

@[simp] theorem State.mem_updEng (s : State) (d t : Nat) (f : Engines → Engines) (e p : Nat) :
    ((s.updEng d t f).tile e p).mem = (s.tile e p).mem := s.updTile_keeps Tile.mem (by intros; rfl) d t e p
@[simp] theorem State.decq_updEng (s : State) (d t : Nat) (f : Engines → Engines) (e p : Nat) :
    ((s.updEng d t f).tile e p).decq = (s.tile e p).decq := s.updTile_keeps Tile.decq (by intros; rfl) d t e p
@[simp] theorem State.sem_updEng (s : State) (d t : Nat) (f : Engines → Engines) (e p i : Nat) :
    (s.updEng d t f).sem e p i = s.sem e p i := s.updTile_keeps (·.sems.get 0 i) (by intros; rfl) d t e p
@[simp] theorem State.eng_updEng (s : State) (d t : Nat) (f : Engines → Engines) :
    ((s.updEng d t f).tile d t).eng = f (s.tile d t).eng := by simp [State.updEng]

/-! ## Tile memory -/

theorem Tile.read_congr {t u : Tile} (same : t.mem = u.mem) (a n : Nat) : t.read a n = u.read a n := by
  induction n generalizing a with
  | zero => rfl
  | succ n ih => rw [Tile.read, Tile.read, same, ih]

/-- A write of tile memory changes nothing but bytes. -/
theorem Tile.write_eq (t : Tile) (a n v : Nat) : t.write a n v = { t with mem := (t.write a n v).mem } := by
  induction n generalizing t a v with
  | zero => rfl
  | succ n ih => exact ih ..

/-- The bytes that a write leaves alone. -/
theorem Tile.write_mem_out (t : Tile) {a n b : Nat} (v : Nat) (out : b < a ∨ a + n ≤ b) :
    (t.write a n v).mem.get 0 b = t.mem.get 0 b := by
  induction n generalizing t a v with
  | zero => rfl
  | succ n ih =>
    rw [Tile.write, ih _ _ (by omega)]
    exact FMap.get_set_ne (by omega) ..

/-- A read after a write of the same bytes gives the value written (R1). -/
theorem Tile.read_write (t : Tile) (a n v : Nat) : (t.write a n v).read a n = v % 256 ^ n := by
  induction n generalizing t a v with
  | zero => simp [Tile.read, Nat.mod_one]
  | succ n ih =>
    have low : ({ t with mem := t.mem.set 0 a (BitVec.ofNat 8 v) }.write (a + 1) n (v / 256)).mem.get 0 a = BitVec.ofNat 8 v :=
      (Tile.write_mem_out _ _ (.inl (Nat.lt_succ_self a))).trans (FMap.get_set_same ..)
    rw [Tile.write, Tile.read, ih, low, BitVec.toNat_ofNat, show 256 ^ (n + 1) = 256 * 256 ^ n from Nat.pow_succ' .., Nat.mod_mul]

theorem State.tileWrite_keeps {β : Type} (g : Tile → β) (keeps : ∀ x m b, g { x with mem := m, bad := b } = g x) (s : State)
    (d t a n v e p : Nat) : g ((s.tileWrite d t a n v).tile e p) = g (s.tile e p) := by
  refine s.updTile_keeps g (fun x => ?_) d t e p
  rw [Tile.write_eq]
  exact keeps x (x.write a n v).mem _

theorem State.tileWrite_mem (s : State) (d t a n v : Nat) :
    ((s.tileWrite d t a n v).tile d t).mem = ((s.tile d t).write a n v).mem := by simp [State.tileWrite]

/-! ## An increment of a semaphore (R208, R209, R220) -/

/-- `t` has the physical side of `s`, and tiles with the same memory and the same engines. -/
structure State.SemsOnly (s t : State) : Prop where
  phys : t.phys = s.phys
  mem (e p : Nat) : (t.tile e p).mem = (s.tile e p).mem
  eng (e p : Nat) : (t.tile e p).eng = (s.tile e p).eng

theorem State.SemsOnly.refl (s : State) : s.SemsOnly s := ⟨rfl, fun _ _ => rfl, fun _ _ => rfl⟩
theorem State.SemsOnly.trans {s t u : State} (h : s.SemsOnly t) (k : t.SemsOnly u) : s.SemsOnly u :=
  ⟨k.phys.trans h.phys, fun e p => (k.mem e p).trans (h.mem e p), fun e p => (k.eng e p).trans (h.eng e p)⟩
theorem State.semsOnly_of_tiles {s t : State} (phys : t.phys = s.phys) (tiles : t.tiles = s.tiles) : s.SemsOnly t :=
  ⟨phys, fun e p => by rw [State.tile, State.tile, tiles], fun e p => by rw [State.tile, State.tile, tiles]⟩
theorem State.semsOnly_updTile {f : Tile → Tile} (mem : ∀ x, (f x).mem = x.mem) (eng : ∀ x, (f x).eng = x.eng) (s : State)
    (d t : Nat) : s.SemsOnly (s.updTile d t f) :=
  ⟨rfl, s.updTile_keeps Tile.mem mem d t, s.updTile_keeps Tile.eng eng d t⟩

theorem State.checkReady_keeps (s : State) (d : Nat) : (s.checkReady d).phys = s.phys ∧ (s.checkReady d).tiles = s.tiles := by
  have one (s : State) (n : Nat) : (s.checkRec d n).phys = s.phys ∧ (s.checkRec d n).tiles = s.tiles := by
    unfold State.checkRec
    split
    next => exact ⟨rfl, rfl⟩
    next r _ =>
      split
      next => exact ⟨rfl, rfl⟩
      next => exact ⟨State.foldl_keeps State.phys (fun _ _ => State.updInst_phys ..) ..,
        State.foldl_keeps State.tiles (fun _ _ => State.updInst_tiles ..) ..⟩
  exact ⟨State.foldl_keeps State.phys (fun s n => (one s n).1) .., State.foldl_keeps State.tiles (fun s n => (one s n).2) ..⟩

theorem State.semsOnly_grantDec (s : State) (d t idx n : Nat) : s.SemsOnly (s.grantDec d t idx n) := by
  induction n generalizing s with
  | zero => exact .refl s
  | succ n ih =>
    unfold State.grantDec
    extract_lets x
    split
    next => exact .refl s
    next w _ =>
      extract_lets s1 s2
      split
      next =>
        have granted : s.SemsOnly s1 :=
          State.semsOnly_updTile (f := fun x => { x with
            sems := x.sems.set 0 idx ((s.tile d t).sems.get 0 idx - w.2.2), decq := x.decq.erase w })
            (fun _ => rfl) (fun _ => rfl) s d t
        have woken : s1.SemsOnly s2 := State.semsOnly_of_tiles (State.updInst_phys ..) (State.updInst_tiles ..)
        exact (granted.trans woken).trans (ih s2)
      next => exact .refl s

/-- The state in which a semaphore has its new value and plain waiters and start conditions have seen it (R209). -/
def State.semSeen (s : State) (d t idx : Nat) (v : Word) : State :=
  let s := s.updTile d t fun x => { x with sems := x.sems.set 0 idx v }
  ((s.instsOn d).foldl (fun s p => s.updInst p.1 (plainWake t idx v (s.semHeads d t idx))) s).checkReady d

theorem State.semStep_eq (s : State) (d t idx : Nat) (v : Word) :
    s.semStep d t idx v = (s.semSeen d t idx v).grantDec d t idx ((s.semSeen d t idx v).tile d t).decq.length := rfl

theorem State.semSeen_keeps (s : State) (d t idx : Nat) (v : Word) : (s.semSeen d t idx v).phys = s.phys ∧
    (s.semSeen d t idx v).tiles = (s.updTile d t fun x => { x with sems := x.sems.set 0 idx v }).tiles := by
  unfold State.semSeen
  extract_lets s1
  obtain ⟨phys, tiles⟩ := State.checkReady_keeps
    ((s1.instsOn d).foldl (fun s p => s.updInst p.1 (plainWake t idx v (s.semHeads d t idx))) s1) d
  exact ⟨phys.trans (State.foldl_keeps State.phys (fun _ _ => State.updInst_phys ..) ..),
    tiles.trans (State.foldl_keeps State.tiles (fun _ _ => State.updInst_tiles ..) ..)⟩

theorem State.semsOnly_semStep (s : State) (d t idx : Nat) (v : Word) : s.SemsOnly (s.semStep d t idx v) := by
  obtain ⟨phys, tiles⟩ := s.semSeen_keeps d t idx v
  have written := State.semsOnly_updTile (f := fun x => { x with sems := x.sems.set 0 idx v }) (fun _ => rfl) (fun _ => rfl) s d t
  rw [State.semStep_eq]
  exact (written.trans (State.semsOnly_of_tiles phys tiles)).trans (State.semsOnly_grantDec ..)

/-- Without `.DEC` waiters of the semaphore, a step of it leaves the value written (R209). -/
theorem State.sem_semStep {s : State} {d t idx : Nat} (alone : ∀ w ∈ (s.tile d t).decq, w.1 ≠ idx) (v : Word) :
    (s.semStep d t idx v).sem d t idx = v := by
  have seen : (s.semSeen d t idx v).tile d t = { s.tile d t with sems := (s.tile d t).sems.set 0 idx v } := by
    rw [State.tile, (s.semSeen_keeps d t idx v).2]
    exact State.tile_updTile ..
  have stay (n : Nat) : (s.semSeen d t idx v).grantDec d t idx n = s.semSeen d t idx v := by
    cases n with
    | zero => rfl
    | succ n =>
      have none : ((s.semSeen d t idx v).tile d t).decq.find? (fun w => w.1 == idx) = none := by
        rw [seen]
        exact List.find?_eq_none.2 fun w hw => by simpa using alone w hw
      simp only [State.grantDec, none]
  rw [State.semStep_eq, stay, State.sem, seen]
  exact FMap.get_set_same ..

theorem State.semRelease_keeps (s : State) (d t i : Nat) (l : List Head) :
    s.SemsOnly (s.semRelease d t i l) ∧ ((s.semRelease d t i l).tile d t).decq = (s.tile d t).decq ∧
      (s.semRelease d t i l).sem d t i = s.sem d t i := by
  unfold State.semRelease
  split
  next => exact ⟨.refl s, rfl, rfl⟩
  next =>
    exact ⟨State.semsOnly_updTile (by intros; rfl) (by intros; rfl) .., s.updTile_keeps Tile.decq (by intros; rfl) d t d t,
      s.updTile_keeps (·.sems.get 0 i) (by intros; rfl) d t d t⟩

theorem State.semsOnly_cmdSignal (s : State) (d t : Nat) (c : Cmd) : s.SemsOnly (s.cmdSignal d t c) :=
  (s.semRelease_keeps d t c.sidx _).1.trans (State.semsOnly_semStep ..)

/-- The signal of a command raises its semaphore by the word's increment (R220). -/
theorem State.sem_cmdSignal {s : State} {d t : Nat} {c : Cmd} (alone : ∀ w ∈ (s.tile d t).decq, w.1 ≠ c.sidx) :
    (s.cmdSignal d t c).sem d t c.sidx = s.sem d t c.sidx + BitVec.ofNat 32 c.sinc := by
  obtain ⟨-, decq, sem⟩ := s.semRelease_keeps d t c.sidx (headOf c.pos (cmdScope c.op c.f) c.view)
  rw [State.cmdSignal, State.semAdd, State.sem_semStep (decq ▸ alone), sem]

/-! ## What a command meets (R252, R253) -/

@[simp] theorem State.tile_unmet (s : State) (d t : Nat) : s.unmet.tile d t = s.tile d t := rfl

/-- A step that has met no old value carries nothing to its command. -/
theorem Cmd.meets_of_none (c : Cmd) {s : State} (none : s.phys.relaxed.met = []) : c.meets s = c := by
  unfold Cmd.meets
  rw [none]
  rfl

theorem State.sameMem_of_unmet {s t : State} (phys : t.phys = s.unmet.phys) : Claims.sameMem s t := by
  unfold Claims.sameMem
  rw [phys]
  rfl

/-! ## One K-step on integers (R111, R124, R227) -/

/-- A row of `n` elements, written element by element. -/
theorem FMap.get_foldl_set_row {α : Type} [DecidableEq α] (d : α) (b : Nat) (f : Nat → α) (n : Nat) (t : FMap α) (j : Nat) :
    ((List.range n).foldl (fun x k => x.set d (b + k) (f k)) t).get d j = if b ≤ j ∧ j < b + n then f (j - b) else t.get d j := by
  induction n with
  | zero => rw [if_neg (by omega)]; rfl
  | succ n ih =>
    rw [List.range_succ, List.foldl_append, List.foldl_cons, List.foldl_nil, FMap.get_set, ih]
    split
    next e => rw [if_pos (by omega), e, Nat.add_sub_cancel_left]
    next => exact if_congr (by omega) rfl rfl

/-- A block of rows of 256 elements, written row by row. -/
theorem FMap.get_foldl_set_rows {α : Type} [DecidableEq α] (d : α) (row : Nat) (f : Nat → Nat → α) (rows : Nat) (t : FMap α)
    (j : Nat) :
    ((List.range rows).foldl (fun x m => (List.range 256).foldl (fun x n => x.set d (256 * (row + m) + n) (f m n)) x) t).get d j =
      if 256 * row ≤ j ∧ j < 256 * (row + rows) then f (j / 256 - row) (j % 256) else t.get d j := by
  induction rows with
  | zero => rw [if_neg (by omega)]; rfl
  | succ rows ih =>
    rw [List.range_succ (n := rows), List.foldl_append, List.foldl_cons, List.foldl_nil, FMap.get_foldl_set_row, ih]
    split
    next here =>
      rw [if_pos (by omega), show j / 256 - row = rows by omega, show j - 256 * (row + rows) = j % 256 by omega]
    next => exact if_congr (by omega) rfl rfl

/-- The accumulator element of a sliced integer (R6, R111) is the integer modulo the element's size. -/
theorem ofNat_wrapN (n : Nat) (v : Int) : BitVec.ofNat n (wrapN n v) = BitVec.ofInt n v := by
  apply BitVec.eq_of_toNat_eq
  have pos : (0 : Int) < 2 ^ n := by positivity
  have low := Int.emod_lt_of_pos v pos
  have nonneg := Int.emod_nonneg v pos.ne'
  rw [BitVec.toNat_ofNat, BitVec.toNat_ofInt, wrapN]
  push_cast
  exact Nat.mod_eq_of_lt (by zify; rwa [Int.toNat_of_nonneg nonneg])

section KStep
variable {s : State} {die tile : Nat} {c : Cmd} {tag : PanelTag}

/-- The sum of the products of the operands' elements over the K indices from `lo` up to `hi` for row `m` and column `n` (R124). -/
def State.products (s : State) (die tile : Nat) (c : Cmd) (tag : PanelTag) (lo hi m n : Nat) : Int :=
  let a := c.descs.getD 0 noDesc
  ((List.range (hi - lo)).map fun j =>
    ivalOf a.fmt ((s.tile die tile).aElem a (lo + j) (uf c.f 2 + m)) *
      ivalOf tag.fmt ((s.tile die tile).lp.get 0 ((uf c.f 1 % 16 * 2048 + (lo + j)) * 256 + n))).sum

theorem ofNat_kValue (int : 5 ≤ (c.descs.getD 0 noDesc).fmt) (panel : c.tag = some tag) (loc : c.pres = none)
    (lo hi base m n : Nat) (sa sb : Val) : BitVec.ofNat 96 (kValue s die tile c lo hi base m n sa sb) =
      BitVec.ofInt 96 ((base : Int) + s.products die tile c tag lo hi m n) := by
  have acc (f : Nat → Int) (l : List Nat) (b : Int) : l.foldl (fun x k => x + f k) b = b + (l.map f).sum := by
    induction l generalizing b with
    | nil => simp
    | cons k l ih => rw [List.foldl_cons, ih, List.map_cons, List.sum_cons, add_assoc]
  have elem (k : Nat) : s.panelElem die tile c k n = (s.tile die tile).lp.get 0 ((uf c.f 1 % 16 * 2048 + k) * 256 + n) := by
    simp [State.panelElem, loc]
  unfold kValue
  simp only [if_pos int, panel, elem, ofNat_wrapN, acc, List.map_map]
  rfl

theorem State.scalesAt_none {d : Desc} (none : d.handle = 0) (s : State) (die tile asid sbw : Nat) (k : Int) (n : Nat) (j : Int) :
    ∃ l, s.scalesAt die tile asid d sbw k n j = .ok s l := by
  induction n generalizing j with
  | zero => exact ⟨_, rfl⟩
  | succ n ih =>
    obtain ⟨l, rest⟩ := ih (j + 1)
    exact ⟨_, by rw [State.scalesAt, State.scaleAt, if_pos none, Go.bind, rest, Go.bind]⟩

/-- The accumulators after the promotions of a K-step (R229), with the scales of its rows and columns. -/
def State.promoted (s : State) (die tile : Nat) (c : Cmd) (lo hi : Nat) (fresh : Bool) (sas sbs : List Val) : FMap (BitVec 96) :=
  (List.range (uf c.f 3)).foldl (fun x m => (List.range 256).foldl (fun x n =>
    x.set 0 (256 * (uf c.f 6 + m) + n) (BitVec.ofNat 96 (kValue s die tile c lo hi
      (if fresh then 0 else ((s.tile die tile).acc.get 0 (256 * (uf c.f 6 + m) + n)).toNat) m n (sas.getD m .nan)
      (sbs.getD n .nan)))) x) (s.tile die tile).acc

theorem State.get_promoted (int : 5 ≤ (c.descs.getD 0 noDesc).fmt) (panel : c.tag = some tag) (loc : c.pres = none)
    (lo hi : Nat) (fresh : Bool) (sas sbs : List Val) (key : Nat) : (s.promoted die tile c lo hi fresh sas sbs).get 0 key =
      if 256 * uf c.f 6 ≤ key ∧ key < 256 * (uf c.f 6 + uf c.f 3) then
        BitVec.ofInt 96 (((if fresh then 0 else ((s.tile die tile).acc.get 0 key).toNat : Nat) : Int) +
          s.products die tile c tag lo hi (key / 256 - uf c.f 6) (key % 256))
      else (s.tile die tile).acc.get 0 key := by
  refine (FMap.get_foldl_set_rows ..).trans ?_
  split
  next => rw [ofNat_kValue int panel loc, show 256 * (uf c.f 6 + (key / 256 - uf c.f 6)) + key % 256 = key by omega]
  next => rfl

/-- A K-step that meets no memory error, on a local panel and without scale tensors, writes its promotions and nothing else. -/
theorem State.kStep_plain (clean : (s.tile die tile).bad = []) (panel : c.tag = some tag) (loc : c.pres = none)
    (sa : (c.descs.getD 1 noDesc).handle = 0) (sb : (c.descs.getD 2 noDesc).handle = 0) (single : uf c.f 7 / 2 % 2 = 0) (g : Nat) :
    let kg := kGroupOf (c.descs.getD 0 noDesc).fmt
    ∃ sas sbs, s.kStep die tile c g = .ok (s.updTile die tile fun t => { t with
      acc := s.promoted die tile c (groupSpan c.f kg g).1 (groupSpan c.f kg g).2 (freshRows c kg g) sas sbs, bad := [] }) () := by
  intro kg
  have sound (lo hi : Nat) (fresh : Bool) : s.kStepBad die tile c lo hi fresh = false := by
    simp [State.kStepBad, clean, Tile.badAt]
  have stay : s.segReread die tile c = s := by simp [State.segReread, loc]
  have one : (uf c.f 7 / 2 % 2 == 1) = false := by simp [single]
  obtain ⟨sas, hsas⟩ := State.scalesAt_none sa s die tile c.asid (c.descs.getD 0 noDesc).sbw ((groupSpan c.f kg g).1 : Nat)
    (uf c.f 3) (uf c.f 2 : Nat)
  obtain ⟨sbs, hsbs⟩ := State.scalesAt_none sb s die tile c.asid tag.sbw (tag.sx1 + ((groupSpan c.f kg g).1 : Nat)) 256 tag.sx0
  refine ⟨sas, sbs, ?_⟩
  unfold State.kStep
  simp only [sound, stay, one, panel, Bool.false_eq_true, if_false, Bool.false_and]
  rw [hsas, Go.bind, hsbs, Go.bind, State.updTile, clean]
  rfl

end KStep

/-- One K-step of the running `MMA` of a stream that is not to be pre-empted (R229, R230). -/
theorem execMmaDrain_one {s : State} {die tile : Nat} {r : Running} {f : Tile → Tile}
    (found : (s.tile die tile).eng.running.find? (fun x => x.cmd.op == .mma) = some r) (ready : r.page = none)
    (more : r.cmd.group ≤ lastGroup r.cmd.f (kGroupOf (r.cmd.descs.getD 0 noDesc).fmt))
    (step : s.unmet.kStep die tile r.cmd r.cmd.group = .ok (s.unmet.updTile die tile f) ())
    (stays : ∀ i, s.inst r.cmd.uid = some i → i.sched.preempt = false) :
    execMmaDrain die tile 1 s = .next ((s.unmet.updTile die tile f).updEng die tile fun e =>
      e.setRun { r with cmd := { r.cmd with group := r.cmd.group + 1 } }) := by
  have steps : s.unmet.kSteps die tile r.cmd 1 r.cmd.group = (.ok (s.unmet.updTile die tile f) (), r.cmd.group + 1) := by
    rw [State.kSteps, if_neg (Nat.not_lt.2 more), step]
    rfl
  have met : (s.unmet.updTile die tile f).phys.relaxed.met = [] := rfl
  have inst (g : Engines → Engines) : ((s.unmet.updTile die tile f).updEng die tile g).inst r.cmd.uid = s.inst r.cmd.uid := rfl
  unfold execMmaDrain
  simp only [found, ready, Option.isSome_none, Bool.false_eq_true, if_false, steps, Cmd.meets_of_none _ met, inst]
  split
  next i h => rw [if_neg fun p => absurd p.1 (by rw [stays i h]; decide)]
  next => rfl

/-! ## One granule of a `TMCAST` (R239, R240) -/

theorem receivers_eq (mask : Nat) : receivers mask = (List.range 16).filter mask.testBit := by
  refine List.filter_congr fun k _ => ?_
  rw [Nat.testBit_eq_decide_div_mod_eq]
  rfl

/-- A receiver stands behind the receivers of smaller number. -/
theorem idxOf?_receivers {mask rcv : Nat} (low : rcv < 16) (listed : mask.testBit rcv = true) :
    (receivers mask).idxOf? rcv = some ((List.range rcv).filter mask.testBit).length := by
  have before : ((List.range rcv).filter mask.testBit).idxOf? rcv = none :=
    List.idxOf?_eq_none_iff.2 fun h => Nat.lt_irrefl rcv (List.mem_range.1 (List.mem_filter.1 h).1)
  have cut : List.range 16 = List.range rcv ++ rcv :: (List.range (15 - rcv)).map (rcv + 1 + ·) := by
    rw [show (16 : Nat) = rcv + (15 - rcv + 1) by omega, List.range_add, List.range_succ_eq_map]
    simp [Function.comp_def, Nat.add_assoc, Nat.add_comm 1]
  rw [List.idxOf?] at before ⊢
  rw [receivers_eq, cut, List.filter_append, List.filter_cons_of_pos listed, List.findIdx?_append, before, Option.none_or,
    List.findIdx?_cons, if_pos (beq_self_eq_true rcv), Option.map_some, Nat.zero_add]

theorem castDst_eq {c : Cmd} {rcv : Nat} (low : rcv < 16) (listed : (uf c.f 8).testBit rcv = true) :
    castDst c rcv = c.descs.getD (((List.range rcv).filter (uf c.f 8).testBit).length + 1) noDesc := by
  rw [castDst, idxOf?_receivers low listed]

theorem one_le_granElems (d : Desc) : 1 ≤ granElems d := by
  have : fmtBytes d.fmt ≤ 64 ∧ 1 ≤ fmtBytes d.fmt := by
    unfold fmtBytes fmtBits
    split <;> decide
  exact (Nat.one_le_div_iff this.2).2 this.1

/-- Coordinates of element `k` in the destination of a `TMCAST` (R239). -/
def castAt (f : List Nat) (k : Nat) : List Int := [sf f 4 + (k % uf f 6 : Nat), sf f 5 + (k / uf f 6 : Nat), 0, 0]

/-- A granule that begins at the last element holds that element alone, and writes it (R222, R240). -/
theorem State.castGranule_last {s : State} {die tile rcv g : Nat} {c : Cmd} {data : List Nat}
    (last : data.length = g * granElems (c.descs.getD 0 noDesc) + 1) (space : (castDst c rcv).space = 1)
    (inside : (castDst c rcv).inBounds (castAt c.f (g * granElems (c.descs.getD 0 noDesc))) = true) :
    let d := castDst c rcv
    let k := g * granElems (c.descs.getD 0 noDesc)
    s.castGranule die tile c data rcv g 0 = (.ok (s.tileWrite die (castBase tile + rcv) (d.addr (castAt c.f k)) (fmtBytes d.fmt)
      (data.getD k 0 % 256 ^ fmtBytes d.fmt)) (), 1) := by
  intro d k
  have count : min (granElems (c.descs.getD 0 noDesc)) (data.length - k) - 0 = 1 := by
    have := one_le_granElems (c.descs.getD 0 noDesc)
    have : data.length = k + 1 := last
    omega
  have write : s.engWrite die (castBase tile + rcv) c d (castAt c.f k) (data.getD k 0) =
      .ok (s.tileWrite die (castBase tile + rcv) (d.addr (castAt c.f k)) (fmtBytes d.fmt) (data.getD k 0 % 256 ^ fmtBytes d.fmt))
        none := by
    simp only [State.engWrite, d, k, inside, space, Bool.not_true, Bool.false_eq_true, if_false, if_true]
  unfold State.castGranule
  extract_lets e x
  have run : x = (.ok (s.tileWrite die (castBase tile + rcv) (d.addr (castAt c.f k)) (fmtBytes d.fmt)
      (data.getD k 0 % 256 ^ fmtBytes d.fmt)) (), 1, []) := by
    have unit : x = runUnits (fun s i => s.engWrite die (castBase tile + rcv) c d (castAt c.f (k + i)) (data.getD (k + i) 0))
      1 0 [] s := congrArg (runUnits _ · 0 [] s) count
    rw [unit, runUnits, Nat.add_zero, write]
    rfl
  rw [run]

/-- The delivery of a granule, from its first element on, whose source has been read and whose elements can all be written (R222,
R239, R240). -/
theorem execTmcastGranuleDelivery_written {s t : State} {die tile idx rcv n : Nat} {r : Running}
    (runs : (s.tile die tile).eng.nth 1 idx = some r) (ready : r.page = none) (cast : r.cmd.op = .tmcast) (low : rcv < 16)
    (listed : (uf r.cmd.f 8).testBit rcv = true) (more : r.gran.get 0 rcv < granules r.cmd)
    (read : r.data.length = uf r.cmd.f 6 * uf r.cmd.f 7) (first : r.part.get 0 rcv = 0)
    (write : s.unmet.castGranule die tile r.cmd r.data rcv (r.gran.get 0 rcv) 0 = (.ok t (), n))
    (met : t.phys.relaxed.met = []) :
    let t' := t.updEng die tile fun e =>
      e.setRun { r with gran := r.gran.set 0 rcv (r.gran.get 0 rcv + 1), part := r.part.set 0 rcv 0 }
    execTmcastGranuleDelivery die tile idx rcv s =
      .next (if r.cmd.sinc = 0 then t' else t'.cmdSignal die (castBase tile + rcv) r.cmd) := by
  have source : s.unmet.castRead die tile r.cmd r.data = (.ok s.unmet (), r.data) := by
    rw [State.castRead, read, Nat.sub_self]
    rfl
  have named : hasNat (receivers (uf r.cmd.f 8)) rcv = true := by
    rw [hasNat, receivers_eq]
    exact List.any_eq_true.2 ⟨rcv, List.mem_filter.2 ⟨List.mem_range.2 low, listed⟩, beq_self_eq_true _⟩
  have enabled : ¬ (r.cmd.op ≠ .tmcast ∨ r.page.isSome ∨ !hasNat (receivers (uf r.cmd.f 8)) rcv ∨
      granules r.cmd ≤ r.gran.get 0 rcv) := by
    simp [cast, ready, named, more]
  unfold execTmcastGranuleDelivery
  simp only [runs]
  rw [if_neg enabled]
  simp only [source, first, write, Cmd.meets_of_none _ met]

/-! ## The obligation -/

/-- Settles O45: a K-step writes its promotions and a granule its element, and each of them keeps everything else. -/
theorem matrixStepsAndCasts : Obligations.MatrixStepsAndCasts := by
  unfold Obligations.MatrixStepsAndCasts
  refine ⟨fun s die tile r tag found ready panel loc clean => ?kstep,
    fun s die tile idx rcv r runs ready cast low listed => ?granule⟩
  case kstep =>
    intro f a kg g lo hi int named sa sb single more stays
    have group : kGroupOf a.fmt = kg := by
      simp only [kGroupOf, kg]
      split <;> split <;> omega
    obtain ⟨sas, sbs, step⟩ := State.kStep_plain (s := s.unmet) (die := die) (tile := tile) clean panel loc sa sb single g
    have value := State.get_promoted (s := s.unmet) (die := die) (tile := tile) int panel loc lo hi (freshRows r.cmd kg g) sas sbs
    rw [group] at step
    refine ⟨_, execMmaDrain_one found ready (by rw [group]; exact more) step stays, rfl, State.sameMem_of_unmet rfl,
      ?_, ?_, ?_, ?_⟩
    all_goals simp -zeta only [State.updEng, State.tile_updTile]
    · intro m n row column key old
      have block : 256 * f.getD 6 0 ≤ key ∧ key < 256 * (f.getD 6 0 + f.getD 3 0) := by omega
      have place : key / 256 - f.getD 6 0 = m ∧ key % 256 = n := by omega
      have first : (if freshRows r.cmd kg g then 0 else ((s.tile die tile).acc.get 0 key).toNat) = old := by
        simp [freshRows, old, f, uf]
      refine ((value key).trans (if_pos block)).trans ?_
      rw [State.tile_unmet, first, uf, place.1, place.2]
      rfl
    · exact fun key outside => (value key).trans (if_neg (not_and_or.2 (outside.imp Nat.not_le.2 Nat.not_lt.2)))
    · rfl
    · rfl
  case granule =>
    intro f src g k d x rt more read count fresh space inside
    have dst : castDst r.cmd rcv = d := castDst_eq low listed
    rw [← dst] at space inside
    have write := State.castGranule_last (s := s.unmet) (die := die) (tile := tile) (rcv := rcv) (g := g) read space inside
    rw [dst] at write
    have answer := execTmcastGranuleDelivery_written runs ready cast low listed more (read.trans count.symm) fresh write rfl
    extract_lets s1 at answer
    replace answer : _ = Host.Outcome.next (if r.cmd.sinc = 0 then s1 else s1.cmdSignal die rt r.cmd) := answer
    have memory : (s1.tile die rt).mem =
        ((s.tile die rt).write (d.addr x) (fmtBytes d.fmt) (r.data.getD k 0 % 256 ^ fmtBytes d.fmt)).mem :=
      (State.mem_updEng ..).trans (State.tileWrite_mem ..)
    have engine : (s1.tile die tile).eng = (s.tile die tile).eng.setRun
        { r with gran := r.gran.set 0 rcv (g + 1), part := r.part.set 0 rcv 0 } :=
      (State.eng_updEng ..).trans (congrArg (Engines.setRun · _) (s.unmet.tileWrite_keeps Tile.eng (by intros; rfl) ..))
    have keeps : s1.SemsOnly (if r.cmd.sinc = 0 then s1 else s1.cmdSignal die rt r.cmd) := by
      split
      next => exact .refl s1
      next => exact State.semsOnly_cmdSignal ..
    refine ⟨_, answer, ?_, fun a out => ?_, ?_, fun inc alone => ?_, ?_⟩
    · rw [Tile.read_congr ((keeps.mem die rt).trans memory), Tile.read_write, Nat.mod_mod]
    · rw [keeps.mem die rt, memory]
      exact Tile.write_mem_out _ _ out
    · rw [keeps.eng die tile, engine]
      rfl
    · have decq : (s1.tile die rt).decq = (s.tile die rt).decq :=
        (State.decq_updEng ..).trans (s.unmet.tileWrite_keeps Tile.decq (by intros; rfl) ..)
      have sem : s1.sem die rt r.cmd.sidx = s.sem die rt r.cmd.sidx :=
        (State.sem_updEng ..).trans (s.unmet.tileWrite_keeps (·.sems.get 0 r.cmd.sidx) (by intros; rfl) ..)
      rw [if_neg inc, State.sem_cmdSignal (decq ▸ alone), sem]
    · exact State.sameMem_of_unmet keeps.phys

end Sys2Proof.Machine
end

section
/-! # Scalar words (O1, O2, O3)

The results of the tables in the manual's form, then what a word answers that leaves a result on its way: in a register or queue, in
a pair, or in a pair of predicates. -/

namespace Sys2Proof.Machine

/-! ## Results (R129 to R131) -/

theorem aluRot_eq : aluRot = fun a b => a.rotateLeft (b.toNat % 32) := by
  funext a b
  rw [BitVec.rotateLeft_eq_rotateLeftAux_of_lt (Nat.mod_lt _ (by decide))]
  rfl

/-- Where the choice does not matter at equal values, `<` chooses as `≤` does. -/
theorem ite_lt_eq_ite_le {α β : Type} [LinearOrder α] {a b : α} {x y : β} (same : a = b → x = y) :
    (if a < b then x else y) = if a ≤ b then x else y := by
  rcases lt_trichotomy a b with lt | eq | gt
  · rw [if_pos lt, if_pos lt.le]
  · rw [if_neg eq.not_lt, if_pos eq.le, same eq]
  · rw [if_neg gt.not_gt, if_neg gt.not_ge]

theorem aluMin_eq : aluMin = fun a b => if a.toInt ≤ b.toInt then a else b := by
  funext a b
  simp only [aluMin, BitVec.slt_iff_toInt_lt]
  exact ite_lt_eq_ite_le BitVec.eq_of_toInt_eq

theorem aluMax_eq : aluMax = fun a b => if a.toInt ≤ b.toInt then b else a := by
  funext a b
  simp only [aluMax, BitVec.slt_iff_toInt_lt]
  exact ite_lt_eq_ite_le fun same => (BitVec.eq_of_toInt_eq same).symm

theorem aluMinn_eq : aluMinn = fun a b => if a.toNat ≤ b.toNat then a else b := by
  funext a b
  simp only [aluMinn, BitVec.ult_iff_toNat_lt]
  exact ite_lt_eq_ite_le BitVec.eq_of_toNat_eq

theorem aluMaxn_eq : aluMaxn = fun a b => if a.toNat ≤ b.toNat then b else a := by
  funext a b
  simp only [aluMaxn, BitVec.ult_iff_toNat_lt]
  exact ite_lt_eq_ite_le fun same => (BitVec.eq_of_toNat_eq same).symm

theorem aluMul_eq : aluMul = fun a b => BitVec.ofInt 32 (a.toInt * b.toInt) := by
  funext a b
  rw [BitVec.ofInt_mul, BitVec.ofInt_toInt, BitVec.ofInt_toInt]
  rfl

/-- In the corner that the manual names the quotient 2^31 wraps to itself. -/
theorem aluDiv_eq :
    aluDiv = fun a b => if b = 0 then BitVec.allOnes 32 else BitVec.ofInt 32 (a.toInt.tdiv b.toInt) := by
  funext a b
  unfold aluDiv
  split
  next => rfl
  next =>
    split
    next corner => rw [corner.1, corner.2]; rfl
    next => rfl

theorem aluDivn_eq : aluDivn = fun a b => if b = 0 then BitVec.allOnes 32 else a / b := by
  funext a b
  have small : a.toNat / b.toNat < 2 ^ 32 := Nat.lt_of_le_of_lt (Nat.div_le_self ..) a.isLt
  exact congrArg (ite _ _) (BitVec.eq_of_toNat_eq (by rw [BitVec.toNat_ofNat, BitVec.toNat_udiv, Nat.mod_eq_of_lt small]))

theorem aluRem_eq : aluRem = fun a b => if b = 0 then a else BitVec.ofInt 32 (a.toInt.tmod b.toInt) := by
  funext a b
  unfold aluRem
  split
  next => rfl
  next =>
    split
    next corner => rw [corner.1, corner.2]; rfl
    next => rw [Int.tmod_def]

theorem aluRemn_eq : aluRemn = fun a b => if b = 0 then a else a % b := by
  funext a b
  have small : a.toNat % b.toNat < 2 ^ 32 := Nat.lt_of_le_of_lt (Nat.mod_le ..) a.isLt
  exact congrArg (ite _ _) (BitVec.eq_of_toNat_eq (by
    rw [← Nat.mod_eq_sub_mul_div, BitVec.toNat_ofNat, BitVec.toNat_umod, Nat.mod_eq_of_lt small]))

/-! ## Counts and reductions (R129, R137) -/

theorem clzN_succ (v n : Nat) : clzN v (n + 1) = if v.testBit n then 0 else 1 + clzN v n := by
  simp only [clzN, Nat.testBit_eq_decide_div_mod_eq, decide_eq_true_iff]

/-- Both counts go down from the bit that they start at. -/
theorem clzAuxRec_eq_clzN (x : Word) {n : Nat} (h : n < 32) :
    x.clzAuxRec n = BitVec.ofNat 32 (31 - n + clzN x.toNat (n + 1)) := by
  induction n with
  | zero =>
    rw [BitVec.clzAuxRec_zero, clzN_succ, BitVec.getLsbD]
    split <;> rfl
  | succ n ih =>
    rw [BitVec.clzAuxRec_succ, clzN_succ, BitVec.getLsbD]
    split
    next => rfl
    next => rw [ih (by omega), ← Nat.add_assoc, show 31 - (n + 1) + 1 = 31 - n by omega]

theorem aluClz_eq : aluClz = fun a => BitVec.ofNat 32 a.clz.toNat := by
  funext a
  rw [BitVec.ofNat_toNat, BitVec.setWidth_eq]
  exact ((clzAuxRec_eq_clzN a (by decide)).trans (by rw [Nat.sub_self, Nat.zero_add]; rfl)).symm

theorem popBits_eq_countP (v n : Nat) : aluPopc.popBits v n = (List.range n).countP fun i => v.testBit i := by
  induction n with
  | zero => rfl
  | succ n ih =>
    rw [aluPopc.popBits, ih, List.range_succ, List.countP_append, List.countP_singleton, Nat.testBit_eq_decide_div_mod_eq,
      Nat.add_comm]
    simp only [decide_eq_true_iff]
    split <;> omega

theorem aluPopc_eq : aluPopc = fun a => BitVec.ofNat 32 ((List.range 32).countP fun i => a.getLsbD i) := by
  funext a
  rw [aluPopc, popBits_eq_countP]
  rfl

theorem aluBrev_eq : aluBrev = fun a => BitVec.ofNat 32 (BitVec.ofFnLE fun i : Fin 32 => a.getLsbD (31 - i)).toNat := by
  funext a
  rw [BitVec.ofNat_toNat, BitVec.setWidth_eq]
  ext i hi
  simp [aluBrev, BitVec.getElem_reverse, BitVec.getMsbD, hi]

theorem execPany_eq (g : Guard) (b : RBody) (s : State) : execPany g b s = predReduce s g b fun p =>
    BitVec.ofNat 32 (if (List.range 64).any fun i => p.getLsbD i then 1 else 0) := by
  refine congrArg (predReduce s g b) (funext fun p => ?_)
  have lanes : ((List.range 64).any fun i => p.getLsbD i) = true ↔ ¬ p = 0 := by
    rw [List.any_eq_true, BitVec.eq_of_getLsbD_eq_iff]
    simp
  simp only [lanes]
  split <;> rfl

theorem execPall_eq (g : Guard) (b : RBody) (s : State) : execPall g b s = predReduce s g b fun p =>
    BitVec.ofNat 32 (if (List.range 64).all fun i => p.getLsbD i then 1 else 0) := by
  refine congrArg (predReduce s g b) (funext fun p => ?_)
  have lanes : ((List.range 64).all fun i => p.getLsbD i) = true ↔ p = allLanes := by
    rw [List.all_eq_true, BitVec.eq_of_getLsbD_eq_iff]
    simp only [List.mem_range]
    refine forall₂_congr fun i hi => ?_
    rw [allLanes, BitVec.getLsbD_allOnes, decide_eq_true hi]
  simp only [lanes]
  split <;> rfl

theorem execPcnt_eq (g : Guard) (b : RBody) (s : State) : execPcnt g b s = predReduce s g b fun p =>
    BitVec.ofNat 32 ((List.range 64).countP fun i => p.getLsbD i) := by
  refine congrArg (predReduce s g b) (funext fun p => ?_)
  rw [popBits_eq_countP]
  rfl

/-! ## The tables -/

/-- Each register word of the table is one scalar operation with the table's latency and result. -/
theorem exec_scalar2 : ∀ e ∈ Claims.scalar2, ∀ g b s, exec (e.1 g b) s = scalarR2 s g b e.2.1 e.2.2 := by
  simp only [Claims.scalar2, List.forall_mem_cons, List.not_mem_nil, false_imp_iff, implies_true, and_true]
  refine ⟨fun _ _ _ => rfl, fun _ _ _ => rfl, fun _ _ _ => rfl, fun _ _ _ => rfl, fun _ _ _ => rfl, fun _ _ _ => rfl,
    fun _ _ _ => rfl, fun _ _ _ => rfl, fun _ _ _ => rfl, fun g b s => congrArg (scalarR2 s g b 1) aluRot_eq,
    fun g b s => congrArg (scalarR2 s g b 1) aluMin_eq, fun g b s => congrArg (scalarR2 s g b 1) aluMax_eq,
    fun g b s => congrArg (scalarR2 s g b 1) aluMinn_eq, fun g b s => congrArg (scalarR2 s g b 1) aluMaxn_eq,
    fun g b s => congrArg (scalarR2 s g b 3) aluMul_eq, fun _ _ _ => rfl, fun _ _ _ => rfl,
    fun g b s => congrArg (scalarR2 s g b 24) aluDiv_eq, fun g b s => congrArg (scalarR2 s g b 24) aluDivn_eq,
    fun g b s => congrArg (scalarR2 s g b 24) aluRem_eq, fun g b s => congrArg (scalarR2 s g b 24) aluRemn_eq⟩

/-- `MOVI.H` takes the low half of the immediate, which its sign does not reach (R131). -/
theorem execMoviH_eq (g : Guard) (b : IBody) (s : State) :
    execMoviH g b s = scalarI s g b 1 fun a b => b.extractLsb' 0 16 ++ a.extractLsb' 0 16 := by
  have low : (imm32 b).extractLsb' 0 16 = b.imm.extractLsb' 0 16 := by
    ext j hj
    have in24 : j < 24 := by omega
    have in32 : j < 32 := by omega
    simp [imm32, BitVec.getElem_signExtend, in24, in32]
  rw [scalarI, low]
  rfl

/-- Each immediate word of the table is one scalar operation with the table's latency and result. -/
theorem exec_scalarImm : ∀ e ∈ Claims.scalarImm, ∀ g b s, exec (e.1 g b) s = scalarI s g b e.2.1 e.2.2 := by
  simp only [Claims.scalarImm, List.forall_mem_cons, List.not_mem_nil, false_imp_iff, implies_true, and_true]
  refine ⟨fun _ _ _ => rfl, fun _ _ _ => rfl, fun _ _ _ => rfl, fun _ _ _ => rfl, fun _ _ _ => rfl, fun _ _ _ => rfl,
    fun _ _ _ => rfl, fun _ _ _ => rfl, fun _ _ _ => rfl, fun g b s => congrArg (scalarI s g b 1) aluRot_eq,
    fun g b s => congrArg (scalarI s g b 1) aluMin_eq, fun g b s => congrArg (scalarI s g b 1) aluMax_eq,
    fun g b s => congrArg (scalarI s g b 1) aluMinn_eq, fun g b s => congrArg (scalarI s g b 1) aluMaxn_eq,
    fun g b s => congrArg (scalarI s g b 3) aluMul_eq, fun g b s => congrArg (scalarI s g b 24) aluDiv_eq,
    fun g b s => congrArg (scalarI s g b 24) aluDivn_eq, fun g b s => congrArg (scalarI s g b 24) aluRem_eq,
    fun g b s => congrArg (scalarI s g b 24) aluRemn_eq, execMoviH_eq⟩

/-- Each word of one operand is one scalar operation with the table's result. -/
theorem exec_scalar1 : ∀ e ∈ Claims.scalar1, ∀ g b s,
    exec (e.1 g b) s = scalarR1 s g b 1 fun a => BitVec.ofNat 32 (e.2 a) := by
  simp only [Claims.scalar1, List.forall_mem_cons, List.not_mem_nil, false_imp_iff, implies_true, and_true]
  exact ⟨fun g b s => congrArg (scalarR1 s g b 1) aluClz_eq, fun g b s => congrArg (scalarR1 s g b 1) aluPopc_eq,
    fun g b s => congrArg (scalarR1 s g b 1) aluBrev_eq⟩

/-- Each word that reduces a predicate does so with the table's result. -/
theorem exec_reduce : ∀ e ∈ Claims.reduce, ∀ g b s,
    exec (e.1 g b) s = predReduce s g b fun p => BitVec.ofNat 32 (e.2 p) := by
  simp only [Claims.reduce, List.forall_mem_cons, List.not_mem_nil, false_imp_iff, implies_true, and_true]
  exact ⟨execPany_eq, execPall_eq, execPcnt_eq⟩

/-- `ADDP` adds as `LEAP` does with no shift (R132). -/
theorem execAddp_eq (g : Guard) (b : RBody) (s : State) : execAddp g b s =
    addressOp s g b.a.toNat b.dst.toNat [opB b] fun p l => p + ((nth l 0).signExtend 64 <<< 0) := by
  simp only [BitVec.shiftLeft_zero]
  rfl

/-! ## Words that leave a result on its way -/

section
variable {s : State} {c : Cur} {pro hand : Bool} {len : Nat} {f : Cur → Eff} (h : s.Issues c) (hm : c.May pro hand)
include h hm

/-- A word that leaves a 32-bit result on its way. -/
theorem word_putS {dst lat : Nat} {v : Word} {t : Bool} {tk : FMap Nat}
    (hf : f c = .ok ((c.putS dst lat v t).mapRegs fun r => r.eat tk)) : ∃ t', issueLen len pro hand s f = .next t' ∧
      c.Leaves s ((c.i.withCtx (c.scalarResult tk dst lat v t)).past c.pc len) t' :=
  word_ok h hm hf ((c.same_putS ..).trans (Cur.same_mapRegs ..)) ((Cur.putS_s ..).trans (State.cur_s h.cur)) (Cur.putS_ctx ..)

/-- A word that leaves a 64-bit result on its way to a pair. -/
theorem word_putPair {dst : Nat} {v : Word64} {t : Bool} {tk : FMap Nat}
    (hf : f c = .ok ((c.putPair dst 1 v t).mapRegs fun r => r.eat tk)) : ∃ t', issueLen len pro hand s f = .next t' ∧
      c.Leaves s ((c.i.withCtx (c.pairResult tk dst (v.extractLsb' 0 32) (v.extractLsb' 32 32) t)).past c.pc len) t' :=
  word_ok h hm hf ((c.same_putPair ..).trans (Cur.same_mapRegs ..)) (State.cur_s (c := c) h.cur) rfl

/-- A word that leaves a pair of predicates on its way. -/
theorem word_putPredPair {j : Nat} {p0 p1 mask : Pred} {t : Bool} {tk : FMap Nat}
    (hf : f c = .ok ((c.putPredPair j p0 p1 mask t).mapRegs fun r => r.eat tk)) : ∃ t', issueLen len pro hand s f = .next t' ∧
      c.Leaves s ((c.i.withCtx (c.predResult tk j p0 p1 mask t)).past c.pc len) t' :=
  word_ok h hm hf ((c.same_putPredPair ..).trans (Cur.same_mapRegs ..)) (State.cur_s (c := c) h.cur) rfl

/-- A word that changes its stream's context alone. -/
theorem word_mapCtx {x : Ctx → Ctx} (pc : (x c.i.ctx).pc = c.pc) (hf : f c = .ok (c.mapCtx x)) :
    ∃ t, issueLen len pro hand s f = .next t ∧ c.Leaves s ((c.i.withCtx (x c.i.ctx)).past c.pc len) t :=
  word_ok h hm hf ⟨rfl, rfl, rfl, rfl, pc⟩ (State.cur_s (c := c) h.cur) rfl

end

/-! ## The obligations -/

/-- Settles O1, by what a scalar operation answers. -/
theorem scalarRegisterForms : Obligations.ScalarRegisterForms := by
  unfold Obligations.ScalarRegisterForms
  intro e he g b s c x y tx ty taken h on ops room
  have answer := scalarOp_leaves (lat := e.2.1) (fun l => e.2.2 (nth l 0) (nth l 1)) h on ops room
  rw [List.any_cons, List.any_cons, List.any_nil, Bool.or_false] at answer
  rw [exec_scalar2 e he]
  exact answer

/-- Settles O2, by what a scalar operation answers. -/
theorem scalarImmediateForms : Obligations.ScalarImmediateForms := by
  unfold Obligations.ScalarImmediateForms
  refine ⟨?table, fun g b s c h on room => scalarOp_leaves (fun _ => imm32 b) h on (reads_nil c.regs) room⟩
  intro e he g b s c x tx taken h on ops room
  have answer := scalarOp_leaves (lat := e.2.1) (fun l => e.2.2 (nth l 0) (imm32 b)) h on ops room
  rw [List.any_cons, List.any_nil, Bool.or_false] at answer
  rw [exec_scalarImm e he]
  exact answer

/-- Settles O3: each word by the result that it leaves on its way. -/
theorem reductionsAndAddressForms : Obligations.ReductionsAndAddressForms := by
  unfold Obligations.ReductionsAndAddressForms
  refine ⟨⟨?one, ?sel, ?reduce, ?plive⟩, ?addresses, ?addpi⟩
  case one =>
    intro e he g b s c x tx taken h on ops room
    have answer := scalarOp_leaves (lat := 1) (fun l => BitVec.ofNat 32 (e.2 (nth l 0))) h on ops room
    rw [List.any_cons, List.any_nil, Bool.or_false] at answer
    rw [exec_scalar1 e he]
    exact answer
  case sel =>
    intro g b s c x y tx ty taken h on ops room
    refine word_putS h c.may_all ?_
    simp only [guarded_true on, withOps_vals ops, needRoom_true room, List.any_cons, List.any_nil, Bool.or_false]
    rfl
  case reduce =>
    intro e he g b s c h on room
    rw [exec_reduce e he]
    exact word_putS h c.may_all ((guarded_true on _).trans (needRoom_true room _))
  case plive =>
    intro g b s c h on
    exact word_mapCtx h c.may_all (x := fun x => { x with regs := { x.regs with plive := b.imm.extractLsb' 0 16 } }) rfl
      (guarded_true on _)
  case addresses =>
    intro e he g b s c y ty taken h on ops v
    have word : exec (e.1 g b) s = addressOp s g b.a.toNat b.dst.toNat [opB b] fun p l =>
        p + ((nth l 0).signExtend 64 <<< e.2 b) := by
      rcases List.mem_pair.1 he with rfl | rfl
      · exact execAddp_eq g b s
      · rfl
    rw [word]
    refine word_putPair h c.may_all ?_
    simp only [guarded_true on, withOps_vals ops, List.any_cons, List.any_nil, Bool.or_false]
    rfl
  case addpi =>
    intro g b s c h on
    exact word_putPair h c.may_all (guarded_true on _)

end Sys2Proof.Machine
end

section
/-! # Compares and moves of predicates (O4)

The conditions and lane tables in the manual's form, then what each word writes: a pair of predicates or one of them. -/

namespace Sys2Proof.Machine

theorem condTrue_eq (k : Nat) (a b : Word) : condTrue k a b = Claims.cond k a b := by
  unfold condTrue Claims.cond
  split
  case h_2 => exact (decide_not ..).symm
  all_goals rfl

/-- The pair that a compare with this outcome writes. -/
theorem pairOf_eq (v : Bool) : Claims.pairOf v = (if v then allLanes else 0, if v then 0 else allLanes) := by
  cases v <;> rfl

/-- The table of `PLOG`, lane by lane (R135). -/
theorem getLsbD_plogLanes (tt : BitVec 8) (x y z : Pred) {i : Nat} (lane : i < 64) : (plogLanes tt x y z).getLsbD i =
    tt.getLsbD (4 * (x.getLsbD i).toNat + 2 * (y.getLsbD i).toNat + (z.getLsbD i).toNat) := by
  have bit (p : Pred) : (if bitAt p i then 1 else 0) = (p.getLsbD i).toNat := by
    unfold bitAt
    cases p.getLsbD i <;> rfl
  obtain ⟨-, bits⟩ := testBit_foldl_add_two_pow (fun i => bitAt tt (4 * (if bitAt x i then 1 else 0) +
    2 * (if bitAt y i then 1 else 0) + (if bitAt z i then 1 else 0))) 64
  rw [plogLanes, BitVec.getLsbD_ofNat, bits]
  simp only [lane, decide_true, Bool.true_and, bit]
  rfl

section
variable {s : State} {c : Cur} {g : Guard} (h : s.Issues c)
include h

/-- A compare under a true guard writes its outcome and the complement in every lane (R133). -/
theorem compareOp_on {j : Nat} {zk : Bool} {ops : List Opnd} {l : List (Word × Bool)} {taken : FMap Nat} (f : List Word → Bool)
    (on : guardAt c.regs g 0 = true) (vals : c.regs.reads ops = .vals l taken) :
    ∃ t, compareOp s g j zk ops f = .next t ∧ c.Leaves s ((c.i.withCtx (c.predResult taken j
      (Claims.pairOf (f (l.map (·.1)))).1 (Claims.pairOf (f (l.map (·.1)))).2 (BitVec.allOnes 64) (l.any (·.2)))).past c.pc 8) t := by
  rw [pairOf_eq]
  exact word_putPredPair h c.may_all ((if_pos on).trans (withOps_vals vals _))

/-- Under a false guard `.k` does nothing and `.z` writes untainted zeros (R134). -/
theorem compareOp_off {j : Nat} {zk : Bool} {ops : List Opnd} (f : List Word → Bool) (off : guardAt c.regs g 0 = false) :
    ∃ t, compareOp s g j zk ops f = .next t ∧ c.Leaves s ((c.i.withCtx (if zk then c.i.ctx
      else c.predResult .empty j 0 0 (BitVec.allOnes 64) false)).past c.pc 8) t := by
  have no : ¬ guardAt c.regs g 0 = true := by rw [off]; decide
  cases zk with
  | true => exact guarded_off h c.may_all ((if_neg no).trans (if_pos rfl))
  | false => exact word_putPredPair h c.may_all ((if_neg no).trans (if_neg Bool.false_ne_true))

/-- `PLOG` writes the lanes of its guard, or all of them with zeros outside it (R135). -/
theorem execPlog_writes (b : PBody) {v m : Pred} {taint : Bool}
    (value : v = plogLanes (b.rest.extractLsb' 8 8) (c.regs.getP (b.a.toNat % 16)) (c.regs.getP (b.b.toNat % 16))
      (c.regs.getP b.cond.toNat)) (mask : m = guardMask c.regs g)
    (tainted : taint = (c.regs.ptaint.getLsbD (b.a.toNat % 16) || c.regs.ptaint.getLsbD (b.b.toNat % 16) ||
      c.regs.ptaint.getLsbD b.cond.toNat)) :
    ∃ t, execPlog g b s = .next t ∧ c.Leaves s ((c.i.withCtx (
      if b.zk then (if m = 0 then c.i.ctx else c.predResult .empty b.pair.toNat v (~~~v) m taint)
      else c.predResult .empty b.pair.toNat (v &&& m) (~~~v &&& m) (BitVec.allOnes 64) (decide (m ≠ 0) && taint))).past c.pc 8)
        t := by
  subst value mask tainted
  by_cases keep : b.zk = true
  · by_cases nowhere : guardMask c.regs g = 0
    · simp only [keep, nowhere, if_true]
      exact guarded_off h c.may_all ((if_pos keep).trans (if_pos nowhere))
    · simp only [keep, nowhere, if_true, if_false]
      exact word_putPredPair h c.may_all ((if_pos keep).trans (if_neg nowhere))
  · rw [if_neg keep, decide_not]
    exact word_putPredPair h c.may_all (if_neg keep)

/-- `PMOV` between predicates moves the lanes of its guard (R136). -/
theorem execPmovPred_moves (b : RBody) {m : Pred} (mask : m = guardMask c.regs g) :
    ∃ t, execPmovPred g b s = .next t ∧ c.Leaves s ((c.i.withCtx (if m = 0 then c.i.ctx else c.i.ctx.fly c.clk 1
      (.p (b.dst.toNat % 16) (c.regs.getP (b.a.toNat % 16)) m (c.regs.ptaint.getLsbD (b.a.toNat % 16))))).past c.pc 8) t := by
  subst mask
  by_cases nowhere : guardMask c.regs g = 0
  · rw [if_pos nowhere]
    exact guarded_off h c.may_all (if_pos nowhere)
  · rw [if_neg nowhere]
    exact word_mapCtx h c.may_all (x := fun x => x.fly c.clk 1 _) rfl (if_neg nowhere)

end

/-! ## The obligation -/

/-- Settles O4: each word by the pair of predicates, or the predicate, that it leaves on its way. -/
theorem comparesAndPredicateMoves : Obligations.ComparesAndPredicateMoves := by
  unfold Obligations.ComparesAndPredicateMoves
  refine ⟨⟨?cmp, ?cmpi, ?off⟩, ?plog, fun g b s c h => execPmovPred_moves h b rfl, ?fromPair, ?toPair⟩
  case cmp =>
    intro g b s c x y tx ty taken h on _ ops
    have answer := compareOp_on h (j := b.pair.toNat) (zk := b.zk) (fun l => condTrue b.cond.toNat (nth l 0) (nth l 1)) on ops
    rw [List.any_cons, List.any_cons, List.any_nil, Bool.or_false, condTrue_eq] at answer
    exact answer
  case cmpi =>
    intro g b s c x tx taken h on _ ops
    have answer := compareOp_on h (j := b.pair.toNat) (zk := b.zk) (fun l => condTrue b.cond.toNat (nth l 0) (imm22 b)) on ops
    rw [List.any_cons, List.any_nil, Bool.or_false, condTrue_eq] at answer
    exact answer
  case off =>
    intro mk hmk g b s c h off
    rcases List.mem_pair.1 hmk with rfl | rfl
    · exact compareOp_off h _ off
    · exact compareOp_off h _ off
  case plog =>
    intro g b s c h
    obtain ⟨t, step, leaves⟩ := execPlog_writes h (g := g) b rfl rfl rfl
    exact ⟨t, _, step, fun i lane => getLsbD_plogLanes _ _ _ _ lane, leaves⟩
  case fromPair =>
    intro g b s c h on
    exact word_mapCtx h c.may_all (x := fun x => x.fly c.clk 1 _) rfl (guarded_true on _)
  case toPair =>
    intro g b s c h on
    exact word_putPair h c.may_all (guarded_true on _)

end Sys2Proof.Machine
end

section
/-! # Control words (O5, O6, O7, O8)

A word that transfers control first checks its target. A call or return then works on the return stack, which spills and refills
through memory; a loop word works on the loop stack. `YIELD` and `EXIT` leave the sequencer. -/

namespace Sys2Proof.Machine

/-! ## Targets (R85, R139) -/

theorem farTarget_iff (t : Word64) : farTarget t = true ↔ ¬ t.toNat < 2 ^ 55 := by
  simp only [farTarget, bne_iff_ne]
  omega

theorem badTarget_iff (t : Word64) : badTarget t = true ↔ ¬ (t.toNat % 8 = 0 ∧ t.toNat < 2 ^ 55) := by
  simp only [badTarget, Bool.or_eq_true, farTarget_iff, bne_iff_ne]
  omega

theorem not_farTarget {t : Word64} (near : t.toNat < 2 ^ 55) : ¬ farTarget t = true := fun far => (farTarget_iff t).1 far near
theorem not_badTarget {t : Word64} (aligned : t.toNat % 8 = 0) (near : t.toNat < 2 ^ 55) : ¬ badTarget t = true :=
  fun bad => (badTarget_iff t).1 bad ⟨aligned, near⟩

/-! ## The return stack (R140 to R142) -/

section
variable {c : Cur} {t : Word64}

theorem callTo_room (room : c.i.ctx.st.rets.length < 4) : callTo c t = .jump (c.mapCtx fun _ => Claims.pushed c) t false :=
  if_pos room

theorem callTo_end (full : ¬ c.i.ctx.st.rets.length < 4) (last : c.i.ctx.st.rsd = 0xFFFF_FFFF) : callTo c t = .trap 8 c.pc :=
  (if_neg full).trans (if_pos last)

end

theorem exec_call_callTo {c : Cur} {g : Guard} {off : BitVec 32} (s : State) (on : guardAt c.regs g 0 = true)
    (near : (Claims.target c.pc off).toNat < 2 ^ 55) :
    ∃ f, exec (.call g off) s = issue true true s f ∧ f c = callTo c (Claims.target c.pc off) :=
  ⟨_, rfl, (guarded_true on _).trans (if_neg (not_farTarget near))⟩

theorem exec_calli_callTo {c : Cur} {g : Guard} {b : RBody} (s : State) (on : guardAt c.regs g 0 = true)
    (aligned : (c.regs.getPair b.a.toNat).toNat % 8 = 0) (near : (c.regs.getPair b.a.toNat).toNat < 2 ^ 55) :
    ∃ f, exec (.calli g b) s = issue true true s f ∧ f c = callTo c (c.regs.getPair b.a.toNat) :=
  ⟨_, rfl, (guarded_true on _).trans (if_neg (not_badTarget aligned near))⟩

/-- A call whose return stack has room pushes the return PC (R140). -/
theorem issue_callTo_room {s : State} {c : Cur} {f : Cur → Eff} {t : Word64} (h : s.Issues c) (eff : f c = callTo c t)
    (room : c.i.ctx.st.rets.length < 4) :
    ∃ t', issue true true s f = .next t' ∧ c.Leaves s ((c.i.withCtx (Claims.pushed c)).jumped t false) t' :=
  word_jump h c.may_all (eff.trans (callTo_room room)) ⟨rfl, rfl, rfl, rfl, rfl⟩ (State.cur_s (c := c) h.cur) rfl

/-- Settles O5, by the target of each word. -/
theorem branchesAndCalls : Obligations.BranchesAndCalls := by
  unfold Obligations.BranchesAndCalls
  refine ⟨⟨?br, ?bri⟩, ?call, ?calli, ?ret⟩
  case br =>
    intro g off s c h on a
    split
    next near =>
      exact word_jump h c.may_all ((guarded_true on _).trans (if_neg (not_farTarget near))) (.refl c) (State.cur_s (c := c) h.cur) rfl
    next far => exact issueLen_trap h.cur c.may_all ((guarded_true on _).trans (if_pos ((farTarget_iff a).2 far)))
  case bri =>
    intro g b s c h on a
    split
    next good =>
      exact word_jump h c.may_all ((guarded_true on _).trans (if_neg (not_badTarget good.1 good.2))) (.refl c)
        (State.cur_s (c := c) h.cur) rfl
    next bad => exact issueLen_trap h.cur c.may_all ((guarded_true on _).trans (if_pos ((badTarget_iff a).2 bad)))
  case call =>
    intro g off s c h on near room
    obtain ⟨f, word, eff⟩ := exec_call_callTo s on near
    rw [word]
    exact issue_callTo_room h eff room
  case calli =>
    intro g b s c h on aligned near room
    obtain ⟨f, word, eff⟩ := exec_calli_callTo s on aligned near
    rw [word]
    exact issue_callTo_room h eff room
  case ret =>
    intro g b s c a rest h on rets
    split
    next good =>
      refine word_jump (c' := c.mapCtx fun x => { x with st := { x.st with rets := rest } }) h c.may_all ?_
        ⟨rfl, rfl, rfl, rfl, rfl⟩ (State.cur_s (c := c) h.cur) rfl
      simp only [guarded_true on, rets, if_neg (not_badTarget good.1 good.2)]
    next bad =>
      refine issueLen_trap h.cur c.may_all ?_
      simp only [guarded_true on, rets, if_pos ((badTarget_iff a).2 bad)]

/-! ## Spill and refill (R140 to R142) -/

/-- The oldest entry of a full stack is stored below `%sp` (R140). -/
theorem callTo_spills {c : Cur} {t a b2 b3 b4 : Word64} {pa : Nat} (stack : c.i.ctx.st.rets = [b4, b3, b2, a])
    (more : c.i.ctx.st.rsd ≠ 0xFFFF_FFFF) (acq : c.i.ctx.acqOpen = false) (aligned : (c.i.ctx.st.sp - 8).toNat % 8 = 0)
    (held : c.s.translate c.die c.asid (c.i.ctx.st.sp - 8).toNat .write = .ok pa) (home : isSpan pa = false)
    (may : c.mayStore pa = true) :
    callTo c t = .jump ((c.write pa 8 a.toNat c.i.ctx.ord.rels).mapCtx fun x => { x with st := { c.i.ctx.st with
      rets := [c.pc + 8, b4, b3, b2], sp := c.i.ctx.st.sp - 8, rsd := c.i.ctx.st.rsd + 1 } }) t false := by
  have full : ¬ c.i.ctx.st.rets.length < 4 := by simp [stack]
  have store : c.store (c.i.ctx.st.sp - 8).toNat pa 8 a.toNat = c.write pa 8 a.toNat c.i.ctx.ord.rels := by
    simp [Cur.store, Cur.storeAs, may, home]
  have oldest : c.i.ctx.st.rets.getLastD 0 = a := by rw [stack]; rfl
  have others : (c.write pa 8 a.toNat c.i.ctx.ord.rels).i.ctx.st.rets.dropLast = [b4, b3, b2] := congrArg List.dropLast stack
  unfold callTo
  rw [if_neg full, if_neg more, afterAcquire_of_none acq, access_held aligned held]
  simp only [oldest, store, Cur.mapCtx, others]
  rfl

/-- An empty stack is refilled from `%sp` (R141, R142). -/
theorem exec_ret_refills {c : Cur} {g : Guard} (b : RBody) {pa : Nat} (on : guardAt c.regs g 0 = true)
    (empty : c.i.ctx.st.rets = []) (more : c.i.ctx.st.rsd ≠ 0) (acq : c.i.ctx.acqOpen = false)
    (aligned : c.i.ctx.st.sp.toNat % 8 = 0) (held : c.s.translate c.die c.asid c.i.ctx.st.sp.toNat .read = .ok pa)
    (home : isSpan pa = false) (sound : c.s.badAt pa 8 = false) (target : c.s.readPa pa 8 % 8 = 0)
    (near : c.s.readPa pa 8 < 2 ^ 55) : ∃ f, exec (.ret g b) c.s = issue true true c.s f ∧
      f c = .jump (((c.reads pa 8 none).mapS State.tick).mapCtx fun x => { x with st := { x.st with
        sp := c.i.ctx.st.sp + 8, rsd := c.i.ctx.st.rsd - 1 } }) (BitVec.ofNat 64 (c.s.readPa pa 8)) false := by
  have entry : c.refill pa = BitVec.ofNat 64 (c.s.readPa pa 8) := by simp [Cur.refill, home]
  have value : (BitVec.ofNat 64 (c.s.readPa pa 8)).toNat = c.s.readPa pa 8 := by
    rw [BitVec.toNat_ofNat, Nat.mod_eq_of_lt (Nat.lt_trans near (by decide))]
  have good := not_badTarget (value.symm ▸ target) (value.symm ▸ near)
  refine ⟨_, rfl, (guarded_true on _).trans ?_⟩
  simp only [empty, more, afterAcquire_of_none acq, access_held aligned held, sound, entry, home, good, if_false, Bool.false_eq_true]

/-- Settles O6, by what the spill and the refill do. -/
theorem spillAndRefill : Obligations.SpillAndRefill := by
  unfold Obligations.SpillAndRefill
  refine ⟨?spill, ?refill⟩
  case spill =>
    intro e he g off r s c a b2 b3 b4 pa h on aligned near stack st m
    have full : ¬ c.i.ctx.st.rets.length < 4 := by simp [stack]
    obtain ⟨f, word, eff⟩ : ∃ f, exec (e.1 g off r) s = issue true true s f ∧ f c = callTo c (e.2 c off r) := by
      rcases List.mem_pair.1 he with rfl | rfl
      · exact exec_call_callTo s on near
      · exact exec_calli_callTo s on aligned near
    rw [word]
    refine ⟨fun last => issueLen_trap h.cur c.may_all (eff.trans (callTo_end full last)), fun more acq aligned held home may => ?_⟩
    obtain rfl := State.cur_s h.cur
    exact word_jump h c.may_all (eff.trans (callTo_spills stack more acq aligned held home may)) ⟨rfl, rfl, rfl, rfl, rfl⟩ rfl rfl
  case refill =>
    intro g b s c pa h on empty st
    refine ⟨fun last => issueLen_trap h.cur c.may_all ?_, fun more acq aligned held home sound target near => ?_⟩
    · simp only [guarded_true on, empty]
      exact if_pos last
    · obtain rfl := State.cur_s h.cur
      obtain ⟨f, word, eff⟩ := exec_ret_refills b on empty more acq aligned held home sound target near
      obtain ⟨t, step, leaves⟩ := word_jump h c.may_all eff ⟨rfl, rfl, rfl, rfl, rfl⟩ rfl rfl
      exact ⟨t, word.trans step, (c.reads pa 8 none).i.ctx.ord, c.s.phys.relaxed, leaves⟩

/-! ## Loops (R143 to R147) -/

section
variable {s : State} {c : Cur} {g : Guard} {b : IBody} {n : Word} {tn : Bool} {taken : FMap Nat} (h : s.Issues c)
  (on : guardAt c.regs g 0 = true) (ops : c.regs.reads [opI b] = .vals [(n, tn)] taken)
include h on ops

/-- A count of zero skips the body, past the end word (R143). -/
theorem execLoop_skips {k : Nat} (zero : n = 0) (word : c.instrLen (c.pc + (imm64 b <<< 3)) = some k) :
    ∃ t, execLoop g b s = .next t ∧ c.Leaves s ((c.i.withCtx { c.i.ctx with regs := c.regs.eat taken }).jumped
      (c.pc + (imm64 b <<< 3) + BitVec.ofNat 64 k) false) t := by
  refine word_jump (c' := c.mapRegs fun r => r.eat taken) h c.may_all ?_ (c.same_mapRegs _) (State.cur_s (c := c) h.cur) rfl
  rw [guarded_true on, withOps_vals ops]
  simp only [List.map_cons, List.map_nil, nth, List.getD_cons_zero, zero, word, if_true]

/-- Another count pushes an entry (R143). -/
theorem execLoop_pushes (count : n ≠ 0) (room : c.i.ctx.st.loops.length < 6) :
    ∃ t, execLoop g b s = .next t ∧ c.Leaves s ((c.i.withCtx { c.i.ctx with
      regs := c.regs.eat taken
      st := { c.i.ctx.st with loops := ⟨n, c.pc + 8, c.pc + (imm64 b <<< 3)⟩ :: c.i.ctx.st.loops } }).past c.pc 8) t := by
  refine word_mapCtx (x := fun x => { x with
    regs := x.regs.eat taken
    st := { x.st with loops := ⟨n, c.pc + 8, c.pc + (imm64 b <<< 3)⟩ :: x.st.loops } }) h c.may_all rfl ?_
  rw [guarded_true on, withOps_vals ops]
  exact (if_neg count).trans (if_neg (Nat.not_le.2 room))

/-- A seventh entry overflows (R143). -/
theorem execLoop_overflows (count : n ≠ 0) (full : 6 ≤ c.i.ctx.st.loops.length) :
    execLoop g b s = .next (State.takeTrap c 6 0 0 c.pc c.pc) := by
  refine issueLen_trap h.cur c.may_all ?_
  rw [guarded_true on, withOps_vals ops]
  exact (if_neg count).trans (if_pos full)

end

/-! ## The step of a loop (R144) -/

section
variable {pc : Word64} {len : Nat} {next : Word64} {e : LoopEntry} {rest : List LoopEntry}

theorem loopStep_other (other : e.stop ≠ pc) : loopStep pc len next (e :: rest) = (next, e :: rest, false) := if_neg other

theorem loopStep_again (last : e.stop = pc) (more : e.count ≠ 1) :
    loopStep pc len next (e :: rest) = (e.start, { e with count := e.count - 1 } :: rest, true) :=
  (if_pos last).trans (if_neg fun zero => more (sub_eq_zero.1 zero))

/-- After the last iteration the entry below steps at the same word. -/
theorem loopStep_leaves (last : e.stop = pc) (one : e.count = 1) : loopStep pc len next (e :: rest) =
    let r := loopStep pc len (e.stop + BitVec.ofNat 64 len) rest
    (r.1, r.2.1, true) :=
  (if_pos last).trans (if_pos (by rw [one]; rfl))

theorem loopStep_below (other : rest.head?.map LoopEntry.stop ≠ some pc) : loopStep pc len next rest = (next, rest, false) := by
  cases rest with
  | nil => rfl
  | cons f t => exact loopStep_other fun same => other (congrArg some same)

end

/-- Settles O7: each word by the lemma on what it does, and the step of a loop by the cases of its top entry. -/
theorem loops : Obligations.Loops := by
  unfold Obligations.Loops
  refine ⟨⟨?loop, ?lbrk, ?lidx⟩, ?step⟩
  case loop =>
    intro g b s c n tn taken h on ops st e x
    exact ⟨fun k zero word => execLoop_skips h on ops zero word, execLoop_pushes h on ops, execLoop_overflows h on ops⟩
  case lbrk =>
    intro g b s c h on
    refine ⟨fun empty => issueLen_trap h.cur c.may_all ?_, fun e rest k entry word => ?_⟩
    · simp only [guarded_true on, empty]
    · refine word_jump (c' := c.mapCtx fun x => { x with st := { x.st with loops := rest } }) h c.may_all ?_
        ⟨rfl, rfl, rfl, rfl, rfl⟩ (State.cur_s (c := c) h.cur) rfl
      simp only [guarded_true on, entry, word]
  case lidx =>
    intro g b s c h on room
    refine word_putS h c.may_all ((guarded_true on _).trans ((needRoom_true room _).trans ?_))
    rw [List.getD_eq_getElem?_getD, List.getElem?_map]
    cases c.i.ctx.st.loops[b.imm.toNat]? <;> rfl
  case step =>
    intro pc next len e rest
    refine ⟨rfl, loopStep_other, loopStep_again, fun last one => ?_⟩
    rw [loopStep_leaves last one]
    exact ⟨fun other => by rw [loopStep_below other], fun _ => ⟨rfl, rfl⟩⟩

/-! ## YIELD and EXIT (R44 to R49, R148) -/

theorem leaves_eq (u : Nat) (x : Ctx) : leaves u x = if x.prods = [] then none else some u := by
  simp only [leaves, List.isEmpty_iff]

/-- What a switch delivers first leaves the PC, and around the stream error counters at most. -/
theorem Cur.deliverAll_keeps (c : Cur) : c.s.CountsOnly c.deliverAll.s ∧ c.deliverAll.i.ctx.pc = c.pc := by
  obtain ⟨counts, pc, -⟩ := c.s.deliverSome_keeps (fun _ => true) c.i.ctx.prods.length c.i.ctx.landAll
  exact ⟨counts, pc⟩

/-- The stream that yields: past the word, what this module gives delivered, ready with this cycle as its age (R45, R46). -/
def Cur.yielded (c : Cur) : Cur :=
  (c.fallThrough 8).deliverAll.mapSched fun x => { x with status := .ready, age := c.clk, waited := 0, since := c.clk, byAge := false }

/-- The state once the stream is written back and has left its sequencer (R45). -/
def Cur.handsOver (c : Cur) : State :=
  ((c.save.updSeq c.die c.q fun x =>
    { x with clk := c.clk + 8, running := none, slice := c.clk + 8, left := leaves c.uid c.i.ctx }).endLease c.die c.tile c.uid).advance
      c.die c.clk

theorem Cur.seq_handsOver (c : Cur) : c.handsOver.seq c.die c.q = { c.s.seq c.die c.q with
    clk := c.clk + 8, running := none, slice := c.clk + 8, left := if c.i.ctx.prods = [] then none else some c.uid } := by
  simp only [Cur.handsOver, State.seq_advance, State.endLease, State.seq_updEng, State.seq_updSeq, Cur.save, State.seq_setInst,
    leaves_eq]

section
variable {s : State} {c : Cur} {g : Guard} {b : IBody} (h : s.Issues c) (o : c.Ordinary) (on : guardAt c.regs g 0 = true)
include h o on

/-- A stream that yields is ready again in its slot, and its sequencer is free after the switch (R45, R46). -/
theorem execYieldI_yields : ∃ t j, execYieldI g b s = .next t ∧ t.inst c.uid = some j ∧
    j.sched.status = .ready ∧ j.sched.age = c.clk ∧ j.ctx.pc = (c.i.past c.pc 8).ctx.pc ∧
    t.seq c.die c.q = { s.seq c.die c.q with
      clk := c.clk + 8, running := none, slice := c.clk + 8, left := if j.ctx.prods = [] then none else some c.uid } ∧
    t.phys = s.phys ∧ t.host = s.host := by
  obtain rfl := State.cur_s h.cur
  obtain ⟨⟨around, -⟩, pc⟩ := (c.fallThrough 8).deliverAll_keeps
  have around : c.yielded.s = { c.s with dies := c.yielded.s.dies } := around
  have eff : execYieldI g b c.s = .next c.yielded.handsOver := issueLen_done h (o.may ..) (guarded_true on _)
  refine ⟨_, c.yielded.i, eff, State.inst_setInst .., rfl, rfl, pc, c.yielded.seq_handsOver.trans ?_, ?_, ?_⟩
  · rw [around]
    rfl
  · show c.yielded.s.phys = _
    rw [around]
  · show c.yielded.s.host = _
    rw [around]

/-- With an undeliverable posted store the stream takes the abort (R267). -/
theorem execExit_aborts (lost : c.i.ctx.undeliv = true) : execExit g b s = .next (State.takeTrap c 0x41 1 0 c.pc c.pc) := by
  refine (issueLen_eq h.cur (o.may ..) _ _).trans ?_
  rw [guarded_true on, if_pos lost]
  simp [Cur.finish, h.cmdErr, h.check]

/-- With an access or a producer outstanding the word stays at issue (R44). -/
theorem execExit_waits (fine : c.i.ctx.undeliv = false) (pending : c.i.ctx.prods ≠ [] ∨ c.i.ctx.posted ≠ []) :
    execExit g b s = .next (c.after 1) := by
  have waits : (!c.i.ctx.prods.isEmpty || !c.i.ctx.posted.isEmpty) = true := by
    simpa [← not_and_or] using pending
  exact issueLen_stall h.cur (o.may ..) ((guarded_true on _).trans
    ((if_neg (Bool.eq_false_iff.1 fine)).trans (if_pos waits)))

/-- With nothing outstanding the instance is gone (R44). -/
theorem execExit_gone (fine : c.i.ctx.undeliv = false) (prods : c.i.ctx.prods = []) (posted : c.i.ctx.posted = []) :
    ∃ t, execExit g b s = .next t ∧ t.inst c.uid = none := by
  refine ⟨_, issueLen_done (t := State.gone ?before c.uid) h (o.may ..) ?eff, State.inst_gone ..⟩
  case eff =>
    rw [guarded_true on, if_neg (Bool.eq_false_iff.1 fine), if_neg (by rw [prods, posted]; decide)]
    dsimp only
    split
    next prologue => exact absurd prologue o.2
    next => rfl

end

/-- Settles O8: each word by the lemma on what it does. -/
theorem nopYieldExitTrap : Obligations.NopYieldExitTrap := by
  unfold Obligations.NopYieldExitTrap
  refine ⟨⟨?nop, ?trap, ?undefined⟩, ?yield, ?exit⟩
  case nop => exact fun g b s c h => guarded_off h c.may_all rfl
  case trap =>
    intro g b s c h on
    refine (issueLen_eq h.cur c.may_all _ _).trans ?_
    rw [guarded_true on]
    simp [Cur.finish, h.cmdErr, h.check]
  case undefined => exact fun w s c h => issueLen_trap h.cur c.may_all rfl
  case yield =>
    intro g b s c h o on
    obtain ⟨t, j, step, inst, status, age, pc, seq, phys, host⟩ := execYieldI_yields (b := b) h o on
    exact ⟨t, j, step, inst, status, age, pc, by rw [seq], by rw [seq], by rw [seq], by rw [seq], phys, host⟩
  case exit => exact fun g b s c h o on => 
    ⟨execExit_aborts (b := b) h o on, execExit_waits (b := b) h o on, execExit_gone (b := b) h o on⟩

end Sys2Proof.Machine
end

section
/-! # Launches and arena shares (O19)

A `LAUNCH` performs the loads before it, whose values do not depend on what is carried to the stream, and then enters its record or
stays at issue. `RALLOC` maps pages only where one is out. -/

namespace Sys2Proof.Machine

/-! ## Loads performed early -/

theorem State.perform_ord (s : State) (o o' : Ledger) (p : Producer) : (s.perform o p).2 = (s.perform o' p).2 := by
  unfold State.perform
  split <;> rfl

theorem State.performAll_ord (s : State) (sel : Producer → Bool) (l : List Producer) (o o' : Ledger) :
    (s.performAll sel l o).2 = (s.performAll sel l o').2 := by
  induction l generalizing o o' with
  | nil => rfl
  | cons p t ih =>
    simp only [State.performAll]
    refine congrArg₂ _ ?_ (ih ..)
    split
    next => exact s.perform_ord o o' p
    next => rfl

/-- What is carried to a stream does not change what its loads read. -/
theorem State.captureAll_ord (s : State) (x : Ctx) (o : Ledger) :
    s.captureAll { x with ord := o } = { s.captureAll x with ord := (s.captureAll { x with ord := o }).ord } := by
  have prods : (s.captureAll { x with ord := o }).prods = (s.captureAll x).prods := s.performAll_ord _ x.prods o x.ord
  exact congrArg (fun l => { s.captureAll { x with ord := o } with prods := l }) prods

/-! ## Launches (R150, R151) -/

/-- The record image of a launch by the stream. -/
def Cur.launchImage (c : Cur) (va : Word64) (byP : Bool) (bits : BitVec 256) (rel : Option Head) : Image :=
  ⟨bits, c.asid, c.i.who.queue, none, byP, va.toNat, none, rel⟩

section
variable {c : Cur} {va : Word64} {byP : Bool} {bits : BitVec 256} (far : c.i.ctx.remoteOpen = false)
include far

/-- With room in the launch queue the record enters it (R150). -/
theorem launchRecord_enters (room : (c.s.die c.die).sch.launchq.length < 256) (tails : (c.s.die c.die).sch.tails = []) :
    ∃ rel, launchRecord va byP bits c = .ok ((c.mapCtx fun x => { c.s.captureAll x with image := none }).mapS fun s =>
      s.enqueue c.die (c.launchImage va byP bits rel)) := by
  have free : ¬ c.s.launchFull c.die = true := by simp [State.launchFull, tails, room]
  exact ⟨_, (release_open (c := c.mapCtx fun x => { x with image := some bits }) (sys := false) far (fun h => nomatch h) _).trans
    (if_neg free)⟩

/-- With a full launch queue the word stays at issue with the image that it has read (R150). -/
theorem launchRecord_stalls (full : 256 ≤ (c.s.die c.die).sch.launchq.length) :
    launchRecord va byP bits c = .stall (c.mapCtx fun x => { c.s.captureAll x with image := some bits }) := by
  have held : c.s.launchFull c.die = true := by simp [State.launchFull, full]
  exact (release_open (c := c.mapCtx fun x => { x with image := some bits }) (sys := false) far (fun h => nomatch h) _).trans
    (if_pos held)

end

/-- The stream once a launch has read its image: committed, with the loads before the read performed. -/
def Cur.launchRead (c : Cur) (t : Bool) (pa : Nat) : Cur :=
  (c.mapCtx fun x => Claims.ordered c.s x t).commit.reads pa 32 none

theorem Cur.launchRead_remoteOpen (c : Cur) (t : Bool) (pa : Nat) :
    (c.launchRead t pa).i.ctx.remoteOpen = c.i.ctx.remoteOpen :=
  (State.remoteOpen_capture ..).trans (Claims.ordered_remoteOpen ..)

theorem Cur.same_launchRead (c : Cur) (t : Bool) (pa : Nat) : c.Same (c.launchRead t pa) :=
  ⟨rfl, rfl, rfl, rfl, Claims.ordered_pc ..⟩

/-- The instance after a launch has read its image and performed the release, with some image kept. -/
theorem Cur.launchRead_released (c : Cur) (t : Bool) (pa : Nat) (image : Option (BitVec 256)) : ∃ o,
    ((c.launchRead t pa).mapCtx fun x => { c.s.captureAll x with image := image }).i =
      (c.i.withCtx { (c.s.captureAll (c.s.captureFor (Claims.ordered c.s c.i.ctx t) pa 32)) with image := image, ord := o }).committed :=
  ⟨(c.s.captureAll (c.launchRead t pa).i.ctx).ord, congrArg (fun x : Ctx => (c.i.withCtx { x with image := image }).committed)
    (c.s.captureAll_ord (c.s.captureFor (Claims.ordered c.s c.i.ctx t) pa 32) (c.launchRead t pa).i.ctx.ord)⟩

section
variable {s : State} {c : Cur} {g : Guard} {b : IBody} (byP : Bool) (h : s.Issues c) (kind : c.i.who.kind ≠ .prologue)
  (on : guardAt c.regs g 0 = true) (far : c.i.ctx.remoteOpen = false)
include h kind on far

/-- A launch that has stalled enters the image that it has kept. -/
theorem launchOp_kept {v : BitVec 256} (kept : c.i.ctx.image = some v) (room : (s.die c.die).sch.launchq.length < 256)
    (tails : (s.die c.die).sch.tails = []) : ∃ t rel, launchOp g b byP s = .next t ∧
      Claims.Leaves c (s.enqueue c.die (c.launchImage (c.regs.getPair b.a.toNat) byP v rel))
        ((c.i.withCtx { (s.captureAll c.i.ctx) with image := none }).past c.pc 8) t := by
  obtain rfl := State.cur_s h.cur
  obtain ⟨rel, enters⟩ := launchRecord_enters (va := c.regs.getPair b.a.toNat) (byP := byP) (bits := v) far room tails
  obtain ⟨f, word, eff⟩ : ∃ f, launchOp g b byP c.s = issue false true c.s f ∧
      f c = launchRecord (c.regs.getPair b.a.toNat) byP v c := by
    refine ⟨_, rfl, (guarded_true on _).trans ?_⟩
    simp only [kept]
  obtain ⟨t, step, leaves⟩ := word_ok h (Cur.may_hand kind) (eff.trans enters) ⟨rfl, rfl, rfl, rfl, rfl⟩ rfl rfl
  exact ⟨t, rel, word.trans step, (c.s.captureAll c.i.ctx).ord, c.s.phys.relaxed, leaves⟩

variable {pa : Nat} (confirmed : c.i.ex.unconf = false) (acq : c.i.ctx.acqOpen = false) (fresh : c.i.ctx.image = none)
include confirmed acq fresh

omit far in
/-- A launch at an address that is not a multiple of 32 takes the alignment fault (R187). -/
theorem launchOp_misaligned (odd : (c.regs.getPair b.a.toNat).toNat % 32 ≠ 0) :
    launchOp g b byP s = .next (State.takeTrap c 0x0A 0 0 c.pc (c.regs.getPair b.a.toNat)) := by
  refine issueLen_trap h.cur (Cur.may_hand kind) ?_
  rw [guarded_true on]
  simp only [fresh, commitStall_of_confirmed confirmed, afterAcquire_of_none acq]
  exact if_pos odd

variable (aligned : (c.regs.getPair b.a.toNat).toNat % 32 = 0)
  (held : s.translate c.die c.asid (c.regs.getPair b.a.toNat).toNat .read = .ok pa) (home : isSpan pa = false)
  (sound : s.badAt pa 32 = false)
include aligned held home sound

omit kind far in
/-- A launch reads its image in full before it performs the release (R150). -/
theorem launchOp_launchRecord : ∃ f, launchOp g b byP s = issue false true s f ∧ f c =
    launchRecord (c.regs.getPair b.a.toNat) byP (BitVec.ofNat 256 (s.readPa pa 32))
      (c.launchRead (c.regs.taintPair b.a.toNat) pa) := by
  obtain rfl := State.cur_s h.cur
  have state : (c.mapCtx fun x => Claims.ordered c.s x (c.regs.taintPair b.a.toNat)).s = c.s := rfl
  refine ⟨_, rfl, (guarded_true on _).trans ?_⟩
  simp only [fresh, commitStall_of_confirmed confirmed, afterAcquire_of_none acq, access_held aligned held, Cur.orderTaint_eq, state,
    home, sound, Bool.false_eq_true, if_false]
  rfl

/-- With room in the launch queue the record enters it (R150). -/
theorem launchOp_enters (room : (s.die c.die).sch.launchq.length < 256) (tails : (s.die c.die).sch.tails = []) :
    ∃ t rel, launchOp g b byP s = .next t ∧
      Claims.Leaves c (s.enqueue c.die (c.launchImage (c.regs.getPair b.a.toNat) byP (BitVec.ofNat 256 (s.readPa pa 32)) rel))
        ((c.i.withCtx { (s.captureAll (s.captureFor (Claims.ordered s c.i.ctx (c.regs.taintPair b.a.toNat)) pa 32)) with
          image := none }).past c.pc 8).committed t := by
  obtain ⟨f, word, eff⟩ := launchOp_launchRecord byP h on confirmed acq fresh aligned held home sound
  obtain rfl := State.cur_s h.cur
  obtain ⟨rel, enters⟩ := launchRecord_enters (c := c.launchRead (c.regs.taintPair b.a.toNat) pa)
    (va := c.regs.getPair b.a.toNat) (byP := byP) (bits := BitVec.ofNat 256 (c.s.readPa pa 32))
    ((c.launchRead_remoteOpen ..).trans far) room tails
  obtain ⟨o, inst⟩ := c.launchRead_released (c.regs.taintPair b.a.toNat) pa none
  obtain ⟨t, step, leaves⟩ := word_ok (len := 8) h (Cur.may_hand kind) (eff.trans enters)
    ((c.same_launchRead (c.regs.taintPair b.a.toNat) pa).trans ⟨rfl, rfl, rfl, rfl, rfl⟩) rfl inst
  exact ⟨t, rel, word ▸ step, o, c.s.phys.relaxed, leaves⟩

/-- With a full launch queue the word stays at issue past its commit point, with the image that it has read (R150). -/
theorem launchOp_stalls (full : 256 ≤ (s.die c.die).sch.launchq.length) :
    ∃ t, launchOp g b byP s = .next t ∧ Claims.Leaves c s
      (c.i.withCtx { (s.captureAll (s.captureFor (Claims.ordered s c.i.ctx (c.regs.taintPair b.a.toNat)) pa 32)) with
        image := some (BitVec.ofNat 256 (s.readPa pa 32)) }).committed t := by
  obtain ⟨f, word, eff⟩ := launchOp_launchRecord byP h on confirmed acq fresh aligned held home sound
  obtain rfl := State.cur_s h.cur
  have stalls := launchRecord_stalls (c := c.launchRead (c.regs.taintPair b.a.toNat) pa)
    (va := c.regs.getPair b.a.toNat) (byP := byP) (bits := BitVec.ofNat 256 (c.s.readPa pa 32))
    ((c.launchRead_remoteOpen ..).trans far) full
  obtain ⟨o, inst⟩ := c.launchRead_released (c.regs.taintPair b.a.toNat) pa (some (BitVec.ofNat 256 (c.s.readPa pa 32)))
  have leaves := Cur.leaves_after ((c.same_launchRead (c.regs.taintPair b.a.toNat) pa).trans ⟨rfl, rfl, rfl, rfl, rfl⟩ :
    c.Same ((c.launchRead (c.regs.taintPair b.a.toNat) pa).mapCtx fun x =>
      { c.s.captureAll x with image := some (BitVec.ofNat 256 (c.s.readPa pa 32)) }))
  rw [inst] at leaves
  exact ⟨_, word.trans (issueLen_stall h.cur (Cur.may_hand kind) (eff.trans stalls)), o, c.s.phys.relaxed, leaves⟩

end

/-! ## Arena shares (R302) -/

/-- Pages that are mapped stay as they are (R302). -/
theorem State.mapPages_mapped (s : State) (d asid : Nat) {p n : Nat}
    (mapped : ∀ k < n, ∃ epa, s.level3 asid (65536 * (p + k)) = some epa ∧ s.readPa epa 8 % 2 = 1) :
    s.mapPages d asid p n = .ok s := by
  induction n generalizing p with
  | zero => rfl
  | succ n ih =>
    obtain ⟨epa, entry, valid⟩ := mapped 0 (Nat.succ_pos n)
    rw [State.mapPages, show 65536 * p = 65536 * (p + 0) from rfl, entry]
    simp only [valid, if_true]
    exact ih fun k hk => by
      obtain ⟨epa, entry, valid⟩ := mapped (k + 1) (by omega)
      exact ⟨epa, by rw [Nat.add_right_comm]; exact entry, valid⟩

section
variable {s : State} {c : Cur} {g : Guard} {b : RBody} {w : Word} {tw : Bool} {taken : FMap Nat} (h : s.Issues c)
  (o : c.Ordinary) (on : guardAt c.regs g 0 = true) (ops : c.regs.reads [opB b] = .vals [(w, tw)] taken)
  (room : c.room b.dst.toNat 2 = true)
include h o on ops room

/-- A block that is not predicted, another arena, or a length that does not fit takes the shape fault (R302). -/
theorem execRalloc_faults (unfit : c.i.ex.pred = false ∨ c.i.ex.arena ≠ (c.regs.getPair b.a.toNat).toNat ∨
    c.i.ex.share.2 - c.i.ex.share.1 < w.toNat ∨ c.i.ex.beyond = true) :
    execRalloc g b s = .next (State.takeTrap c 0x18 0 0 c.pc c.pc) := by
  refine issueLen_trap h.cur (o.may ..) ?_
  rw [guarded_true on, withOps_vals ops, needRoom_true room]
  refine if_pos ?_
  simp only [Bool.or_eq_true, Bool.not_eq_true', decide_eq_true_iff, List.map_cons, nth, List.getD_cons_zero]
  rcases unfit with pred | arena | long | beyond
  · simp [pred]
  · simp [Ne.symm arena]
  · simp [long]
  · simp [beyond]

/-- With the pages of the share mapped, its address is on its way to the queue, the low half first (R302). -/
theorem execRalloc_delivers (pred : c.i.ex.pred = true) (arena : c.i.ex.arena ≠ 0)
    (own : (c.regs.getPair b.a.toNat).toNat = c.i.ex.arena) (fits : w.toNat ≤ c.i.ex.share.2 - c.i.ex.share.1)
    (inside : c.i.ex.beyond = false)
    (mapped : ∀ k < if w.toNat = 0 then 0 else (c.i.ex.share.1 + w.toNat - 1) / 65536 + 1 - c.i.ex.share.1 / 65536,
      ∃ epa, s.level3 c.asid (65536 * (c.i.ex.share.1 / 65536 + k)) = some epa ∧ s.readPa epa 8 % 2 = 1) :
    ∃ t, execRalloc g b s = .next t ∧
      let v := BitVec.ofNat 64 c.i.ex.share.1
      let x := c.i.ctx.reserves b.dst.toNat 2 (.known [v.extractLsb' 0 32, v.extractLsb' 32 32]) false false false
      c.Leaves s ((c.i.withCtx { x with regs := x.regs.eat taken }).past c.pc 8) t := by
  obtain rfl := State.cur_s h.cur
  refine word_ok (c' := (c.produce b.dst.toNat 2 (.known [(BitVec.ofNat 64 c.i.ex.share.1).extractLsb' 0 32,
    (BitVec.ofNat 64 c.i.ex.share.1).extractLsb' 32 32]) false false false).mapRegs fun r => r.eat taken) h (o.may ..) ?_
    ((c.same_produce ..).trans (Cur.same_mapRegs ..)) rfl rfl
  rw [guarded_true on, withOps_vals ops, needRoom_true room]
  simp only [List.map_cons, nth, List.getD_cons_zero, pred, arena, own, inside, Nat.not_lt.2 fits, c.s.mapPages_mapped c.die c.asid mapped,
    decide_false, Bool.not_true, Bool.or_self, ne_eq, not_true_eq_false, Bool.false_eq_true, if_false]

end

/-- Settles O19, by the lemmas on `LAUNCH` and `RALLOC`. -/
theorem launchesAndArenaShares : Obligations.LaunchesAndArenaShares := by
  unfold Obligations.LaunchesAndArenaShares
  refine ⟨?launch, ?ralloc⟩
  case launch =>
    intro e he g b s c pa h kind on confirmed acq va sch x v img enter far
    have word : exec (e.1 g b) s = launchOp g b e.2 s := by rcases List.mem_pair.1 he with rfl | rfl <;> rfl
    rw [word]
    exact ⟨fun v kept room tails => launchOp_kept e.2 h kind on far kept room tails, fun fresh =>
      ⟨launchOp_misaligned e.2 h kind on confirmed acq fresh,
        fun aligned held home sound room tails =>
          launchOp_enters e.2 h kind on far confirmed acq fresh aligned held home sound room tails,
        fun aligned held home sound full => launchOp_stalls e.2 h kind on far confirmed acq fresh aligned held home sound full⟩⟩
  case ralloc =>
    intro g b s c w tw taken h o on ops room a lo n
    exact ⟨execRalloc_faults h o on ops room, execRalloc_delivers h o on ops room⟩

end Sys2Proof.Machine
end

section
/-! # Vector words: elements, lanes and results (O22 to O26)

What the vector words share: the elements of a lane in the manual's form, what a lane of a result holds, and what a word answers
that leaves a vector on its way. -/

namespace Sys2Proof.Machine

/-! ## Elements (R156) -/

theorem isFloat_typeFmt (t : Nat) : isFloat (typeFmt t) = decide (typeFmt t ≤ 4) := by
  unfold typeFmt
  split <;> rfl

theorem widthOf_typeFmt (t : Nat) : widthOf (typeFmt t) = fmtBits (typeFmt t) := by
  unfold typeFmt
  split <;> rfl

theorem typedLat_typeFmt (t : Nat) : typedLat (typeFmt t) = if 5 ≤ typeFmt t then 2 else 4 := by
  unfold typeFmt
  split <;> rfl

theorem isFloat_typeFmt_of_int {t : Nat} (int : 5 ≤ typeFmt t) : isFloat (typeFmt t) = false := by
  rw [isFloat_typeFmt, decide_eq_false (Nat.not_le.2 int)]

theorem finVal_typeFmt (t : Nat) (fz : Bool) (x : Nat) :
    finVal (typeFmt t) fz x = decodeVal (typeFmt t) (flushBits (typeFmt t) fz (x % 2 ^ fmtBits (typeFmt t))) := by
  rw [finVal, widthOf_typeFmt]

/-- An FP32 element fills its lane. -/
theorem finVal_zero_toNat (fz : Bool) (x : Word) : finVal 0 fz x.toNat = decodeVal 0 (flushBits 0 fz x.toNat) :=
  congrArg (fun n => decodeVal 0 (flushBits 0 fz n)) (Nat.mod_eq_of_lt x.isLt)

theorem fmtBits_le (f : Nat) : fmtBits f ≤ 32 := by
  unfold fmtBits
  split <;> decide

theorem fmtSigned_iff (f : Nat) : fmtSigned f = true ↔ f = 5 ∨ f = 7 ∨ f = 9 := by
  simp [fmtSigned, or_assoc]

theorem ivalOf_eq (f x : Nat) : ivalOf f x = Claims.ival f x := by
  simp only [ivalOf, Claims.ival, fmtSigned_iff, sextN]

theorem fitInt_eq (f : Nat) (sat : Bool) (y : Int) : fitInt f sat y = Claims.fit f sat y := by
  simp only [fitInt, Claims.fit, wrapN, intMin, intMax, Claims.range, fmtSigned_iff, apply_ite Prod.fst, apply_ite Prod.snd]

theorem sextN_emod (w v : Nat) : sextN w v % 2 ^ w = ((v % 2 ^ w : Nat) : Int) := by
  have low : ((v % 2 ^ w : Nat) : Int) % 2 ^ w = ((v % 2 ^ w : Nat) : Int) := by norm_cast; exact Nat.mod_mod ..
  unfold sextN
  split
  · exact low
  · rw [Int.sub_emod_right, low]

theorem sextN_mod (w v : Nat) : sextN w (v % 2 ^ w) = sextN w v := by rw [sextN, Nat.mod_mod, sextN]

theorem sextN_inj {w x y : Nat} : sextN w x = sextN w y ↔ x % 2 ^ w = y % 2 ^ w := by
  constructor
  · intro same
    have low := congrArg (· % (2 : Int) ^ w) same
    simp only [sextN_emod] at low
    exact_mod_cast low
  · intro same
    rw [← sextN_mod w x, same, sextN_mod]

theorem ival_mod (f v : Nat) : Claims.ival f (v % 2 ^ fmtBits f) = Claims.ival f v := by
  simp only [Claims.ival, Nat.mod_mod]

/-- The bits of an element in its lane. -/
theorem toNat_putElem_mod (f v : Nat) : (putElem f v).toNat % 2 ^ fmtBits f = v % 2 ^ fmtBits f := by
  have inside : 2 ^ fmtBits f ∣ 2 ^ 32 := Nat.pow_dvd_pow 2 (fmtBits_le f)
  unfold putElem
  split
  · have low : ((v % 2 ^ fmtBits f : Nat) : Int) = sextN (fmtBits f) v % (2 ^ 32 : Nat) % (2 ^ fmtBits f : Nat) := by
      rw [Int.emod_emod_of_dvd _ (Int.natCast_dvd_natCast.2 inside), ← sextN_emod, Nat.cast_pow, Nat.cast_ofNat]
    apply Int.ofNat_inj.1
    rw [BitVec.toNat_ofInt, Int.natCast_emod, Int.toNat_of_nonneg (Int.emod_nonneg _ (by decide)), low]
  · rw [BitVec.toNat_ofNat, Nat.mod_mod_of_dvd _ inside, Nat.mod_mod]

theorem ival_putElem (f v : Nat) : Claims.ival f (putElem f v).toNat = Claims.ival f v := by
  rw [← ival_mod, toNat_putElem_mod, ival_mod]

/-! ## Lanes (R53) -/

/-- A word of a vector given by its words. -/
theorem toNat_extractLsb'_ofDigits {l : List Nat} (digits : ∀ x ∈ l, x < 2 ^ 32) {i : Nat} (hi : i < l.length) :
    ((BitVec.ofNat (32 * l.length) (Nat.ofDigits (2 ^ 32) l)).extractLsb' (32 * i) 32).toNat = l[i] := by
  have fits : Nat.ofDigits (2 ^ 32) l < 2 ^ (32 * l.length) := by
    rw [pow_mul]
    exact Nat.ofDigits_lt_base_pow_length (by decide) digits
  rw [BitVec.extractLsb'_toNat, BitVec.toNat_ofNat, Nat.mod_eq_of_lt fits, Nat.shiftRight_eq_div_pow, pow_mul,
    Nat.ofDigits_div_pow_eq_ofDigits_drop i (by decide) l digits, List.drop_eq_getElem_cons hi, Nat.ofDigits_cons,
    Nat.add_mul_mod_self_left, Nat.mod_eq_of_lt (digits _ (List.getElem_mem hi))]

theorem laneOf_ofLanes (f : Nat → Word) {i : Nat} (hi : i < 64) : laneOf (ofLanes f) i = f i := by
  let l := (List.range 64).map fun i => (f i).toNat
  have digits : ∀ x ∈ l, x < 2 ^ 32 := List.forall_mem_map.2 fun i _ => (f i).isLt
  have number : ofLanes f = BitVec.ofNat (32 * l.length) (Nat.ofDigits (2 ^ 32) l) := by
    rw [Nat.ofDigits_eq_foldr, List.foldr_map]
    rfl
  have inside : i < l.length := by rwa [List.length_map, List.length_range]
  have digit : l[i] = (f i).toNat := by rw [List.getElem_map, List.getElem_range]
  exact BitVec.eq_of_toNat_eq ((congrArg (fun v => (laneOf v i).toNat) number).trans
    ((toNat_extractLsb'_ofDigits digits inside).trans digit))

theorem laneOf_maskLanes {mask : Pred} (f : Nat → Word) {i : Nat} (hi : i < 64) (on : mask.getLsbD i = true) :
    laneOf (maskLanes mask f) i = f i := by
  rw [maskLanes, laneOf_ofLanes _ hi]
  exact if_pos on

/-! ## Operands -/

theorem laneB_eq (c : Cur) (b : VBody) (vs : List (VecReg × Bool)) (i : Nat) :
    laneB c b (vs.map Prod.fst) i = (Claims.laneB c.regs b vs i).toNat := by
  unfold laneB Claims.laneB
  split <;> rfl

theorem taint_scB (r : Regs) (b : VBody) : (scB b).any r.taintS = Claims.taintB r b := by
  unfold scB Claims.taintB
  by_cases variant : b.var.toNat = 0 <;> simp [variant]

theorem withVecs_vals {c : Cur} {ops : List Opnd} {l : List (VecReg × Bool)} {tk : FMap Nat} (h : c.regs.readsV ops = .vals l tk)
    (k : List VecReg → Bool → (Cur → Cur) → Eff) :
    withVecs c ops k = k (l.map Prod.fst) (l.any Prod.snd) fun x => x.mapRegs fun r => r.eatV tk := by
  rw [withVecs, h]

theorem taint_one (a : VecReg) (ta : Bool) : [(a, ta)].any Prod.snd = ta := Bool.or_false ta

theorem taint_two (x y : VecReg) (tx ty : Bool) : [(x, tx), (y, ty)].any Prod.snd = (tx || ty) :=
  congrArg (tx || ·) (Bool.or_false ty)

theorem needRoomV_true {c : Cur} {vd : Nat} (h : c.roomV vd = true) (e : Eff) : needRoomV c vd e = e := if_pos h

/-! ## Words that leave a result on its way -/

/-- A vector on its way, as the context that `Cur.vectorResult` names. -/
theorem Cur.putV_ctx (c : Cur) (tk : FMap Nat) (vd l : Nat) (v : VecReg) (mask : Pred) (t : Bool) :
    ((c.putV vd l v mask t).mapRegs fun r => r.eatV tk).i = c.i.withCtx (c.vectorResult tk vd l v mask t) := by
  unfold Cur.putV Cur.vectorResult isVq
  by_cases register : vd < 28
  · rw [decide_eq_false (Nat.not_le.2 register), if_pos register]
    rfl
  · rw [decide_eq_true (Nat.not_lt.1 register), if_neg register]
    rfl

/-- A scalar result to a register: the field of a vector word names no queue (R157). -/
theorem Cur.putS_register (c : Cur) (n : BitVec 5) (l : Nat) (v : Word) (t : Bool) :
    c.putS n.toNat l v t = c.mapCtx fun x => x.fly c.clk l (.s n.toNat v t) := by
  have register : isQ n.toNat = false := decide_eq_false (by have := n.isLt; omega)
  rw [Cur.putS, register]
  rfl

section
variable {s : State} {c : Cur} {pro hand : Bool} {len : Nat} {f : Cur → Eff} (h : s.Issues c) (hm : c.May pro hand)
include h hm

/-- A word that leaves a vector on its way. -/
theorem word_putV {vd lat : Nat} {v : VecReg} {mask : Pred} {t : Bool} {tk : FMap Nat}
    (hf : f c = .ok ((c.putV vd lat v mask t).mapRegs fun r => r.eatV tk)) : ∃ t', issueLen len pro hand s f = .next t' ∧
      c.Leaves s ((c.i.withCtx (c.vectorResult tk vd lat v mask t)).past c.pc len) t' :=
  word_ok h hm hf ((c.same_putV ..).trans (Cur.same_mapRegs ..)) ((Cur.putV_s ..).trans (State.cur_s h.cur)) (Cur.putV_ctx ..)

/-- A word that leaves the lanes of a mask on their way. -/
theorem word_putLanes {vd lat : Nat} {lane : Nat → Word} {mask : Pred} {t : Bool} {tk : FMap Nat}
    (hf : f c = .ok ((c.putV vd lat (maskLanes mask lane) mask t).mapRegs fun r => r.eatV tk)) :
    ∃ t' v, issueLen len pro hand s f = .next t' ∧
      c.Leaves s ((c.i.withCtx (c.vectorResult tk vd lat v mask t)).past c.pc len) t' ∧
      ∀ i < 64, mask.getLsbD i = true → laneOf v i = lane i := by
  obtain ⟨t', next, leaves⟩ := word_putV h hm hf
  exact ⟨t', _, next, leaves, fun i hi bit => laneOf_maskLanes _ hi bit⟩

end

section
variable {s : State} {c : Cur} {g : Guard} {b : VBody} (h : s.Issues c) (kind : c.i.who.kind ≠ .prologue)
include h kind

/-- A word with a guard per lane gives the lanes of its guard their result (R61, R68, R158). -/
theorem laneOp_leaves {ops : List Opnd} {sc : List Nat} {lat : Nat} {vs : List (VecReg × Bool)} {tk : FMap Nat}
    (f : Cur → List VecReg → Nat → Word) (on : guardMask c.regs g ≠ 0) (vals : c.regs.readsV ops = .vals vs tk)
    (room : c.roomV b.vd.toNat = true) : ∃ t v, laneOp s g b ops sc lat f = .next t ∧
      c.Leaves s ((c.i.withCtx (c.vectorResult tk b.vd.toNat lat v (guardMask c.regs g)
        (vs.any Prod.snd || sc.any c.regs.taintS))).past c.pc 8) t ∧
      ∀ i < 64, (guardMask c.regs g).getLsbD i = true → laneOf v i = f c (vs.map Prod.fst) i :=
  word_putLanes h (Cur.may_hand kind) ((if_neg on).trans ((withVecs_vals vals _).trans (needRoomV_true room _)))

end

end Sys2Proof.Machine
end

section
/-! # Vector arithmetic (O22)

Each word of the tables is one lane operation, with the table's result in every lane. -/

namespace Sys2Proof.Machine

/-! ## Two operands (R161 to R164) -/

/-- The element operation `r` gives what the table of typed words says: a fitted integer, one of two integers, or a rounded
value. -/
def TypedResult (f : Nat) (mode : RMode) (fz sat : Bool) (int : Int → Int → Int) (flt : Option (RMode → Val → Val → Val))
    (r : Nat → Nat → Nat) : Prop :=
  ∀ x y, (5 ≤ f → flt ≠ none → putElem f (r x y) = putElem f (Claims.fit f sat (int (Claims.ival f x) (Claims.ival f y)))) ∧
    (5 ≤ f → flt = none → Claims.ival f (putElem f (r x y)).toNat = int (Claims.ival f x) (Claims.ival f y)) ∧
    (f ≤ 4 → ∀ o, flt = some o → putElem f (r x y) = putElem f (flushBits f fz (roundFp f mode false
      (o mode (decodeVal f (flushBits f fz (x % 2 ^ fmtBits f))) (decodeVal f (flushBits f fz (y % 2 ^ fmtBits f)))))))

section
variable {t : Nat} {mode : RMode} {fz sat : Bool} {int : Int → Int → Int} {r : Nat → Nat → Nat}

/-- An operation that brings its exact result to the format once (R162, R163). -/
theorem typedResult_rounded {o : RMode → Val → Val → Val} (hr : ∀ x y, r x y = if isFloat (typeFmt t) then
      fout (typeFmt t) mode fz (o mode (finVal (typeFmt t) fz x) (finVal (typeFmt t) fz y))
      else fitInt (typeFmt t) sat (int (ivalOf (typeFmt t) x) (ivalOf (typeFmt t) y))) :
    TypedResult (typeFmt t) mode fz sat int (some o) r := by
  refine fun x y => ⟨fun isInt _ => ?_, fun _ absent => absurd absent (Option.some_ne_none o), fun flt o' same => ?_⟩
  · rw [hr, isFloat_typeFmt_of_int isInt, if_neg Bool.false_ne_true, fitInt_eq, ivalOf_eq, ivalOf_eq]
  · obtain rfl := Option.some.inj same
    rw [hr, isFloat_typeFmt, if_pos (decide_eq_true flt), finVal_typeFmt, finVal_typeFmt, fout]

/-- An operation that gives one of two integers (R164). -/
theorem typedResult_chosen (hr : ∀ x y, isFloat (typeFmt t) = false →
      Claims.ival (typeFmt t) (r x y) = int (Claims.ival (typeFmt t) x) (Claims.ival (typeFmt t) y)) :
    TypedResult (typeFmt t) mode fz sat int none r :=
  fun x y => ⟨fun _ present => absurd rfl present, fun isInt _ => (ival_putElem ..).trans (hr x y (isFloat_typeFmt_of_int isInt)),
    fun _ _ absent => absurd absent.symm (Option.some_ne_none _)⟩

end

theorem ival_elMin {f : Nat} (fz : Bool) (x y : Nat) (int : isFloat f = false) :
    Claims.ival f (elMin f fz x y) = Min.min (Claims.ival f x) (Claims.ival f y) := by
  rw [elMin, int, if_neg Bool.false_ne_true, ivalOf_eq, ivalOf_eq, apply_ite (Claims.ival f), ival_mod, ival_mod,
    min_comm, min_def_lt]

theorem ival_elMax {f : Nat} (fz : Bool) (x y : Nat) (int : isFloat f = false) :
    Claims.ival f (elMax f fz x y) = Max.max (Claims.ival f x) (Claims.ival f y) := by
  rw [elMax, int, if_neg Bool.false_ne_true, ivalOf_eq, ivalOf_eq, apply_ite (Claims.ival f), ival_mod, ival_mod, max_def_lt]

/-- Each word of the table is one typed operation with the table's result. -/
theorem exec_typed2 : ∀ e ∈ Claims.typed2, ∀ g b, ∃ r, (∀ s, exec (e.1 g b) s = typed2 s g b r) ∧
    TypedResult (typeFmt b.ty.toNat) (rmode b.rnd.toNat) b.fz b.sat e.2.1 e.2.2 r := by
  simp only [Claims.typed2, List.forall_mem_cons, List.not_mem_nil, false_imp_iff, implies_true, and_true]
  exact ⟨fun _ _ => ⟨_, fun _ => rfl, typedResult_rounded fun _ _ => rfl⟩,
    fun _ _ => ⟨_, fun _ => rfl, typedResult_rounded fun _ _ => rfl⟩,
    fun _ _ => ⟨_, fun _ => rfl, typedResult_rounded fun _ _ => rfl⟩,
    fun _ _ => ⟨_, fun _ => rfl, typedResult_chosen (ival_elMin _)⟩,
    fun _ _ => ⟨_, fun _ => rfl, typedResult_chosen (ival_elMax _)⟩⟩

/-- The result of `VFMA` is fitted, or rounded once (R162, R163). -/
theorem elFma_eq (t : Nat) (mode : RMode) (fz sat : Bool) (x y z : Nat) :
    (5 ≤ typeFmt t → elFma (typeFmt t) mode fz sat x y z = Claims.fit (typeFmt t) sat
      (Claims.ival (typeFmt t) x * Claims.ival (typeFmt t) y + Claims.ival (typeFmt t) z)) ∧
    (typeFmt t ≤ 4 → elFma (typeFmt t) mode fz sat x y z = flushBits (typeFmt t) fz (roundFp (typeFmt t) mode false
      (Val.add mode (Val.mul (finVal (typeFmt t) fz x) (finVal (typeFmt t) fz y)) (finVal (typeFmt t) fz z)))) := by
  constructor
  · intro int
    rw [elFma, isFloat_typeFmt_of_int int, if_neg Bool.false_ne_true, fitInt_eq, ivalOf_eq, ivalOf_eq, ivalOf_eq]
  · intro flt
    rw [elFma, isFloat_typeFmt, if_pos (decide_eq_true flt), fout]

/-! ## One operand (R165, R169 to R171, R176, R178) -/

theorem execVabs_eq (g : Guard) (b : VBody) (s : State) : execVabs g b s =
    laneOp s g b [vopA b] [] (if 5 ≤ typeFmt b.ty.toNat then 2 else 4) fun _ vs i =>
      putElem (typeFmt b.ty.toNat) (elAbs (typeFmt b.ty.toNat) b.fz b.sat (laneOf (vs.getD 0 0) i).toNat) := by
  rw [← typedLat_typeFmt]
  rfl

theorem execVneg_eq (g : Guard) (b : VBody) (s : State) : execVneg g b s =
    laneOp s g b [vopA b] [] (if 5 ≤ typeFmt b.ty.toNat then 2 else 4) fun _ vs i =>
      putElem (typeFmt b.ty.toNat) (elNeg (typeFmt b.ty.toNat) b.fz b.sat (laneOf (vs.getD 0 0) i).toNat) := by
  rw [← typedLat_typeFmt]
  rfl

theorem execVcvt_eq (g : Guard) (b : VBody) (s : State) : execVcvt g b s = laneOp s g b [vopA b] [] 4 fun _ vs i =>
    putElem (typeFmt b.ty.toNat) (convert (typeFmt (b.vc.toNat % 16)) (typeFmt b.ty.toNat)
      (if typeFmt b.ty.toNat ≤ 4 then rmode b.rnd.toNat else rmode b.var.toNat) b.sat b.nan b.fz
      (laneOf (vs.getD 0 0) i).toNat) := by
  have mode : (if isFloat (vfmt b) then vmode b else rmode b.var.toNat) =
      if typeFmt b.ty.toNat ≤ 4 then rmode b.rnd.toNat else rmode b.var.toNat := by
    simp only [vfmt, isFloat_typeFmt, decide_eq_true_iff, vmode]
  rw [execVcvt, mode]
  rfl

theorem transcOp_eq (s : State) (g : Guard) (b : VBody) (fn : Nat) : transcOp s g b fn =
    laneOp s g b [vopA b] [] 12 fun _ vs i => BitVec.ofNat 32 (flushBits 0 b.fz (transc fn (rmode b.rnd.toNat)
      (decodeVal 0 (flushBits 0 b.fz (laneOf (vs.getD 0 0) i).toNat)))) := by
  simp only [transcOp, laneBits, finVal_zero_toNat]
  rfl

/-- Each word of the table is one lane operation with the table's latency and result. -/
theorem exec_vec1 : ∀ e ∈ Claims.vec1, ∀ g b s, exec (e.1 g b) s =
    laneOp s g b [vopA b] [] (e.2.1 b) fun _ vs i => e.2.2 b (laneOf (vs.getD 0 0)) i := by
  simp only [Claims.vec1, List.forall_mem_cons, List.not_mem_nil, false_imp_iff, implies_true, and_true]
  exact ⟨execVabs_eq, execVneg_eq, execVcvt_eq, fun g b s => transcOp_eq s g b 0, fun g b s => transcOp_eq s g b 1,
    fun g b s => transcOp_eq s g b 2, fun g b s => transcOp_eq s g b 3, fun g b s => transcOp_eq s g b 4,
    fun _ _ _ => rfl, fun _ _ _ => rfl⟩

/-- No descriptor code of an integer format is one of a floating-point format. -/
theorem isFloat_eq_false {f : Nat} (low : 5 ≤ f) (high : f ≤ 10) : isFloat f = false := by
  have code : f ≠ xf96 := Nat.ne_of_lt (Nat.lt_succ_of_le high)
  simp [isFloat, Nat.not_le.2 low, code]

/-! ## The obligation -/

/-- Settles O22: each word is a lane operation, and its elements are the table's. -/
theorem vectorArithmetic : Obligations.VectorArithmetic := by
  unfold Obligations.VectorArithmetic
  refine ⟨⟨?two, ?fma⟩, ?one, ?integers⟩
  case two =>
    intro e he g b s c vs taken h kind on vals room f taint
    obtain ⟨r, word, result⟩ := exec_typed2 e he g b
    obtain ⟨t, v, next, leaves, lanes⟩ := laneOp_leaves h kind (sc := scB b) (lat := typedLat (vfmt b))
      (fun c vs i => putElem (vfmt b) (r (laneBits vs 0 i) (laneB c b vs i))) on vals room
    rw [taint_scB, vfmt, typedLat_typeFmt] at leaves
    refine ⟨t, v, (word s).trans next, leaves, fun i hi bit => ?_⟩
    rw [lanes i hi bit, laneB_eq]
    exact result ..
  case fma =>
    intro g b s c vs taken h kind on vals room f taint
    obtain ⟨t, v, next, leaves, lanes⟩ := laneOp_leaves h kind (sc := scB b) (lat := typedLat (vfmt b))
      (fun c vs i => putElem (vfmt b) (elFma (vfmt b) (vmode b) b.fz b.sat (laneBits vs 0 i) (laneB c b vs i)
        (laneBits vs (if b.var.toNat = 0 then 2 else 1) i))) on vals room
    rw [taint_scB, vfmt, typedLat_typeFmt] at leaves
    refine ⟨t, v, next, leaves, fun i hi bit => ?_⟩
    intro x y z fl m
    rw [lanes i hi bit, laneB_eq]
    obtain ⟨fitted, rounded⟩ := elFma_eq b.ty.toNat m b.fz b.sat x y z
    simp only [finVal_typeFmt] at rounded
    exact ⟨fun int => congrArg (putElem f) (fitted int), fun flt => congrArg (putElem f) (rounded flt)⟩
  case one =>
    intro e he g b s c a ta taken h kind on vals room
    obtain ⟨t, v, next, leaves, lanes⟩ := laneOp_leaves h kind (sc := []) (lat := e.2.1 b)
      (fun _ vs i => e.2.2 b (laneOf (vs.getD 0 0)) i) on vals room
    rw [taint_one, List.any_nil, Bool.or_false] at leaves
    exact ⟨t, v, (exec_vec1 e he g b s).trans next, leaves, lanes⟩
  case integers =>
    intro f fz sat x low high
    rw [elAbs, elNeg, isFloat_eq_false low high, if_neg Bool.false_ne_true, if_neg Bool.false_ne_true, fitInt_eq, fitInt_eq,
      ivalOf_eq]
    exact ⟨rfl, rfl⟩

end Sys2Proof.Machine
end

section
/-! # Vector logic, shifts and moves (O23, O24)

Each word of the tables is one lane operation; the words that the tables leave out by what they leave on its way. -/

namespace Sys2Proof.Machine

/-! ## Logic and shifts (R166, R167) -/

/-- Each word of the table is one operation on whole lanes. -/
theorem exec_vecLogic : ∀ e ∈ Claims.vecLogic, ∀ g b, ∃ r, (∀ s, exec (e.1 g b) s = lane2 s g b r) ∧
    ∀ x y : Word, BitVec.ofNat 32 (r x.toNat y.toNat) = e.2 x y := by
  simp only [Claims.vecLogic, List.forall_mem_cons, List.not_mem_nil, false_imp_iff, implies_true, and_true]
  refine ⟨fun _ _ => ⟨_, fun _ => rfl, fun x y => ?_⟩, fun _ _ => ⟨_, fun _ => rfl, fun x y => ?_⟩,
    fun _ _ => ⟨_, fun _ => rfl, fun x y => ?_⟩⟩
  · rw [← BitVec.toNat_and, BitVec.ofNat_toNat, BitVec.setWidth_eq]
  · rw [← BitVec.toNat_or, BitVec.ofNat_toNat, BitVec.setWidth_eq]
  · rw [← BitVec.toNat_xor, BitVec.ofNat_toNat, BitVec.setWidth_eq]

theorem execVshl_eq (g : Guard) (b : VBody) (s : State) : execVshl g b s = shiftOp s g b fun x n =>
    Claims.fit (typeFmt b.ty.toNat) b.sat (Claims.ival (typeFmt b.ty.toNat) x * 2 ^ n) := by
  simp only [execVshl, vfmt, fitInt_eq, ivalOf_eq]

/-- Each word of the table is one shift with the table's result. -/
theorem exec_vecShift : ∀ e ∈ Claims.vecShift, ∀ g b s,
    exec (e.1 g b) s = shiftOp s g b (e.2 (typeFmt b.ty.toNat) b.sat) := by
  simp only [Claims.vecShift, List.forall_mem_cons, List.not_mem_nil, false_imp_iff, implies_true, and_true]
  exact ⟨execVshl_eq, fun _ _ _ => rfl, fun _ _ _ => rfl⟩

/-- The scalar that a shift reads is the one of variant 1. -/
theorem taint_shift (r : Regs) (b : VBody) :
    (if b.var.toNat = 1 then [b.vb.toNat] else []).any r.taintS = (b.var.toNat == 1 && r.taintS b.vb.toNat) := by
  by_cases scalar : b.var.toNat = 1 <;> simp [scalar]

/-- Settles O23: each word is a lane operation with the table's result. -/
theorem vectorLogicAndShifts : Obligations.VectorLogicAndShifts := by
  unfold Obligations.VectorLogicAndShifts
  refine ⟨?logic, ?shift⟩
  case logic =>
    intro e he g b s c vs taken h kind on vals room
    obtain ⟨r, word, result⟩ := exec_vecLogic e he g b
    obtain ⟨t, v, next, leaves, lanes⟩ := laneOp_leaves h kind (sc := scB b) (lat := 2)
      (fun c vs i => BitVec.ofNat 32 (r (laneBits vs 0 i) (laneB c b vs i))) on vals room
    rw [taint_scB] at leaves
    refine ⟨t, v, (word s).trans next, leaves, fun i hi bit => ?_⟩
    rw [lanes i hi bit, laneB_eq]
    exact result ..
  case shift =>
    intro e he g b s c vs taken h kind on vals room int f n
    obtain ⟨t, v, next, leaves, lanes⟩ := laneOp_leaves h kind (sc := if b.var.toNat = 1 then [b.vb.toNat] else []) (lat := 2)
      (fun c vs i => putElem f (e.2 f b.sat (laneBits vs 0 i)
        (if b.var.toNat = 2 then b.vc.toNat else laneB c b vs i % fmtBits f))) on vals room
    rw [taint_shift] at leaves
    refine ⟨t, v, (exec_vecShift e he g b s).trans next, leaves, fun i hi bit => ?_⟩
    rw [lanes i hi bit, laneB_eq]
    rfl

/-! ## Moves (R175 to R180) -/

/-- Each word of the table is one lane operation with the table's source. -/
theorem exec_vecMoves : ∀ e ∈ Claims.vecMoves, ∀ g b, ∃ r,
    (∀ s, exec (e.1 g b) s = laneOp s g b ([vopA b, vopB b].take e.2.1) (e.2.2.1 b) 2 r) ∧
    ∀ (c : Cur) vs i, r c (vs.map Prod.fst) i = e.2.2.2 c.regs b vs i := by
  simp only [Claims.vecMoves, List.forall_mem_cons, List.not_mem_nil, false_imp_iff, implies_true, and_true]
  refine ⟨fun _ _ => ⟨_, fun _ => rfl, fun _ _ _ => rfl⟩, fun _ _ => ⟨_, fun _ => rfl, fun c vs i => ?rotate⟩,
    fun _ _ => ⟨_, fun _ => rfl, fun _ _ _ => rfl⟩, fun _ _ => ⟨_, fun _ => rfl, fun _ _ _ => rfl⟩,
    fun _ _ => ⟨_, fun _ => rfl, fun _ _ _ => rfl⟩, fun _ _ => ⟨_, fun _ => rfl, fun _ _ _ => rfl⟩,
    fun _ _ => ⟨_, fun _ => rfl, fun _ _ _ => rfl⟩, fun _ _ => ⟨_, fun _ => rfl, fun _ _ _ => rfl⟩,
    fun _ _ => ⟨_, fun _ => rfl, fun _ _ _ => rfl⟩, fun _ _ => ⟨_, fun _ => rfl, fun _ _ _ => rfl⟩⟩
  rw [Nat.add_mod_mod]
  rfl

/-- A fold over the places that a test selects adds up their values. -/
theorem foldl_ite_add {α M : Type} [AddMonoid M] (p : α → Bool) (v : α → M) (l : List α) (a : M) :
    l.foldl (fun a i => if p i then a + v i else a) a = a + ((l.filter p).map v).sum := by
  rw [← List.foldl_filter (f := fun a i => a + v i)]
  induction l.filter p generalizing a with
  | nil => simp
  | cons x xs ih => rw [List.foldl_cons, ih, List.map_cons, List.sum_cons, add_assoc]

theorem foldl_ite_succ {α : Type} (p : α → Bool) (l : List α) :
    l.foldl (fun a i => if p i then a + 1 else a) 0 = l.countP p := by
  rw [foldl_ite_add p (fun _ => 1), List.map_const', List.sum_replicate, List.countP_eq_length_filter]
  simp

section
variable {s : State} {c : Cur} {g : Guard} {b : VBody} (h : s.Issues c) (kind : c.i.who.kind ≠ .prologue)
include h kind

/-- `VIOTA.P` counts the lanes below that hold 1 (R180). -/
theorem execViotaP_leaves (on : guardMask c.regs g ≠ 0) (room : c.roomV b.vd.toNat = true) : ∃ t v,
    execViotaP g b s = .next t ∧ c.Leaves s ((c.i.withCtx (c.vectorResult .empty b.vd.toNat 2 v (guardMask c.regs g)
      (c.regs.ptaint.getLsbD (b.vc.toNat % 16)))).past c.pc 8) t ∧
    ∀ i < 64, (guardMask c.regs g).getLsbD i = true →
      laneOf v i = BitVec.ofNat 32 ((List.range i).countP fun j => (c.regs.getP (b.vc.toNat % 16)).getLsbD j) := by
  simp only [← foldl_ite_succ]
  exact word_putLanes h (Cur.may_hand kind) ((if_neg on).trans (needRoomV_true room _))

/-- `VSEL` takes the lanes that its predicate names from a, the others from b (R179). -/
theorem execVsel_leaves {x y : VecReg} {tx ty : Bool} {taken : FMap Nat} (on : guardMask c.regs g ≠ 0)
    (vals : c.regs.readsV [vopA b, vopB b] = .vals [(x, tx), (y, ty)] taken) (room : c.roomV b.vd.toNat = true) : ∃ t v,
    execVsel g b s = .next t ∧ c.Leaves s ((c.i.withCtx (c.vectorResult taken b.vd.toNat 2 v (guardMask c.regs g)
      (tx || ty || c.regs.ptaint.getLsbD (b.vc.toNat % 16)))).past c.pc 8) t ∧
    ∀ i < 64, (guardMask c.regs g).getLsbD i = true →
      laneOf v i = if (c.regs.getP (b.vc.toNat % 16)).getLsbD i then laneOf x i else laneOf y i := by
  rw [← taint_two x y tx ty]
  exact word_putLanes h (Cur.may_hand kind) ((if_neg on).trans ((withVecs_vals vals _).trans (needRoomV_true room _)))

/-- `VMOV.X` gives a scalar register the lane that a scalar picks (R178). -/
theorem execVmovX_leaves {a : VecReg} {ta : Bool} {taken : FMap Nat} (on : guardAt c.regs g 0 = true)
    (vals : c.regs.readsV [vopA b] = .vals [(a, ta)] taken) : ∃ t, execVmovX g b s = .next t ∧
      c.Leaves s ((c.i.withCtx { c.i.ctx with
        regs := c.regs.eatV taken
        flights := insertFlight ⟨c.clk + 2, .s b.vd.toNat (laneOf a ((c.regs.getS b.vb.toNat).toNat % 64))
          (ta || c.regs.taintS b.vb.toNat)⟩ c.i.ctx.flights }).past c.pc 8) t := by
  refine word_mapCtx h (Cur.may_hand kind) (x := fun x => { x with
    regs := x.regs.eatV taken
    flights := insertFlight ⟨c.clk + 2, .s b.vd.toNat (laneOf a ((c.regs.getS b.vb.toNat).toNat % 64))
      (ta || c.regs.taintS b.vb.toNat)⟩ x.flights }) rfl ?_
  rw [guarded_true on, withVecs_vals vals, taint_one]
  dsimp only
  rw [Cur.putS_register]
  rfl

/-- `VMOV.I` puts a scalar into the lane that another picks (R178). -/
theorem execVmovI_leaves (on : guardAt c.regs g 0 = true) (room : c.roomV b.vd.toNat = true) : ∃ t v,
    execVmovI g b s = .next t ∧ c.Leaves s ((c.i.withCtx (c.vectorResult .empty b.vd.toNat 2 v
      (1#64 <<< ((c.regs.getS b.vb.toNat).toNat % 64)) (c.regs.taintS b.va.toNat || c.regs.taintS b.vb.toNat))).past c.pc 8) t ∧
    laneOf v ((c.regs.getS b.vb.toNat).toNat % 64) = c.regs.getS b.va.toNat := by
  have lane : (c.regs.getS b.vb.toNat).toNat % 64 < 64 := Nat.mod_lt _ (by decide)
  have answer : ∃ t, execVmovI g b s = .next t ∧ c.Leaves s ((c.i.withCtx (c.vectorResult .empty b.vd.toNat 2
      (maskLanes (1#64 <<< ((c.regs.getS b.vb.toNat).toNat % 64)) fun _ => c.regs.getS b.va.toNat)
      (1#64 <<< ((c.regs.getS b.vb.toNat).toNat % 64)) (c.regs.taintS b.va.toNat || c.regs.taintS b.vb.toNat))).past c.pc 8) t :=
    word_putV h (Cur.may_hand kind) ((guarded_true on _).trans (needRoomV_true room _))
  obtain ⟨t, next, leaves⟩ := answer
  exact ⟨t, _, next, leaves, laneOf_maskLanes _ lane (by simp [lane])⟩

end

/-- Settles O24: the words of the table are lane operations, the others are taken one by one. -/
theorem vectorMovesAndShuffles : Obligations.VectorMovesAndShuffles := by
  unfold Obligations.VectorMovesAndShuffles
  refine ⟨⟨?table, fun g b s c h kind on room => execViotaP_leaves h kind on room,
    fun g b s c x y tx ty taken h kind on vals room => execVsel_leaves h kind on vals room⟩,
    fun g b s c a ta taken h kind on vals => execVmovX_leaves h kind on vals,
    fun g b s c h kind on room => execVmovI_leaves h kind on room⟩
  intro e he g b s c vs taken h kind on vals room
  obtain ⟨r, word, source⟩ := exec_vecMoves e he g b
  obtain ⟨t, v, next, leaves, lanes⟩ := laneOp_leaves h kind (sc := e.2.2.1 b) (lat := 2) r on vals room
  exact ⟨t, v, (word s).trans next, leaves, fun i hi bit => (lanes i hi bit).trans (source ..)⟩

end Sys2Proof.Machine
end

section
/-! # Vector compares, reductions and scans (O25)

The condition of a lane and the value of a reduction in the manual's form, then what the words answer. A tree of an associative
operation gives what a fold over the lanes does, and so does one over the lanes that are present. -/

namespace Sys2Proof.Machine

/-! ## Compares (R168) -/

theorem vcond_eq {f : Nat} (int : isFloat f = false) (cond : Nat) (fz : Bool) (x y : Nat) :
    vcond f cond fz x y = Claims.vcond f cond x y := by
  have beq : ((x % 2 ^ fmtBits f == y % 2 ^ fmtBits f) : Bool) = decide (sextN (fmtBits f) x = sextN (fmtBits f) y) := by
    rw [Bool.beq_eq_decide_eq, decide_eq_decide, sextN_inj]
  rw [vcond, int, if_neg Bool.false_ne_true]
  simp only [sextN_mod]
  unfold Claims.vcond
  split
  case h_1 => exact beq
  case h_2 => rw [bne, beq, ← decide_not]; rfl
  all_goals rfl

/-- The lanes of the guard in which the condition of `VCMP` holds. -/
def vcmpLanes (c : Cur) (g : Guard) (b : VBody) (vs : List VecReg) : Pred :=
  BitVec.ofNat 64 ((execVcmp.lanesOf (guardMask c.regs g)).foldl (fun a i =>
    if vcond (vfmt b) (b.vc.toNat % 16) b.fz (laneBits vs 0 i) (laneB c b vs i) then a + 2 ^ i else a) 0)

theorem getLsbD_vcmpLanes (c : Cur) (g : Guard) (b : VBody) (vs : List VecReg) {i : Nat} (hi : i < 64) :
    (vcmpLanes c g b vs).getLsbD i = ((guardMask c.regs g).getLsbD i &&
      vcond (vfmt b) (b.vc.toNat % 16) b.fz (laneBits vs 0 i) (laneB c b vs i)) := by
  have both (m k : Nat → Bool) : (fun (a i : Nat) => if m i then (if k i then a + 2 ^ i else a) else a) =
      fun a i => if m i && k i then a + 2 ^ i else a := by
    funext a i
    cases m i <;> rfl
  obtain ⟨-, bits⟩ := testBit_foldl_add_two_pow (fun i => bitAt (guardMask c.regs g) i &&
    vcond (vfmt b) (b.vc.toNat % 16) b.fz (laneBits vs 0 i) (laneB c b vs i)) 64
  rw [vcmpLanes, execVcmp.lanesOf, List.foldl_filter, both, BitVec.getLsbD_ofNat, bits, decide_eq_true hi]
  rfl

/-! ## Reductions (R172, R173) -/

section
variable {f : Nat → Nat → Nat} (assoc : ∀ a b c, f (f a b) c = f a (f b c))
include assoc

theorem combine_assoc (a b c : Option Nat) : combine f (combine f a b) c = combine f a (combine f b c) :=
  match a, b, c with
  | none, _, _ => rfl
  | some _, none, _ => rfl
  | some _, some _, none => rfl
  | some _, some _, some _ => congrArg some (assoc ..)

/-- A level of the tree keeps what the fold gives. -/
theorem foldl_treeLevel (l : List (Option Nat)) (a : Option Nat) :
    (treeLevel f l).foldl (combine f) a = l.foldl (combine f) a := by
  induction l using treeLevel.induct generalizing a with
  | case1 x y t ih => rw [treeLevel, List.foldl_cons, ih, ← combine_assoc assoc, List.foldl_cons, List.foldl_cons]
  | case2 l short => rw [treeLevel.eq_2 f l short]

end

theorem length_treeLevel (f : Nat → Nat → Nat) (l : List (Option Nat)) : 2 * (treeLevel f l).length ≤ l.length + 1 := by
  induction l using treeLevel.induct with
  | case1 x y t ih => simp only [treeLevel, List.length_cons]; omega
  | case2 l short =>
    match l, short with
    | [], _ => simp [treeLevel]
    | [_], _ => simp [treeLevel]
    | a :: b :: t, short => exact absurd rfl (short a b t)

theorem redTree_eq_foldl {f : Nat → Nat → Nat} (assoc : ∀ a b c, f (f a b) c = f a (f b c)) (n : Nat) (l : List (Option Nat))
    (fits : l.length ≤ 2 ^ n) : redTree f n l = l.foldl (combine f) none := by
  induction n generalizing l with
  | zero =>
    match l, fits with
    | [], _ => rfl
    | [x], _ => rfl
  | succ n ih =>
    have half := length_treeLevel f l
    rw [redTree, ih _ (by omega), foldl_treeLevel assoc]

section
variable (f : Nat → Nat → Nat) (p : Nat → Bool) (g : Nat → Nat)

/-- Lanes that are absent pass their partner on. -/
theorem foldl_combine_some (l : List Nat) (a : Nat) :
    (l.map fun i => if p i then some (g i) else none).foldl (combine f) (some a) =
      some (((l.filter p).map g).foldl f a) := by
  induction l generalizing a with
  | nil => rfl
  | cons x xs ih =>
    rw [List.map_cons, List.foldl_cons]
    cases on : p x
    · rw [List.filter_cons_of_neg (by simp [on])]
      exact ih a
    · rw [List.filter_cons_of_pos on]
      exact ih (f a (g x))

theorem foldl_combine_none {e : Nat} (unit : ∀ i, f e (g i) = g i) {l : List Nat} (some_on : ∃ i ∈ l, p i = true) :
    (l.map fun i => if p i then some (g i) else none).foldl (combine f) none =
      some (((l.filter p).map g).foldl f e) := by
  induction l with
  | nil => simp at some_on
  | cons x xs ih =>
    rw [List.map_cons, List.foldl_cons]
    cases on : p x
    · rw [List.filter_cons_of_neg (by simp [on])]
      exact ih (by simpa [on] using some_on)
    · rw [List.filter_cons_of_pos on, List.map_cons, List.foldl_cons, unit]
      exact foldl_combine_some f p g xs (g x)

/-- The tree over 64 lanes of which some is present, for an associative operation with a unit. -/
theorem redTree64_eq_foldl (assoc : ∀ a b c, f (f a b) c = f a (f b c)) {e : Nat} (unit : ∀ i, f e (g i) = g i)
    (some_on : ∃ i < 64, p i = true) : redTree64 f (fun i => if p i then some (g i) else none) =
      (((List.range 64).filter p).map g).foldl f e := by
  obtain ⟨i, hi, on⟩ := some_on
  rw [redTree64, redTree_eq_foldl assoc 6 _ (by simp),
    foldl_combine_none f p g unit ⟨i, List.mem_range.2 hi, on⟩, Option.getD_some]

end

theorem bits_assoc {v : Nat} (bitwise : v = 3 ∨ v = 4 ∨ v = 5) (a b c : Nat) :
    Claims.bits v (Claims.bits v a b) c = Claims.bits v a (Claims.bits v b c) := by
  rcases bitwise with rfl | rfl | rfl
  · exact Nat.and_assoc ..
  · exact Nat.or_assoc ..
  · exact Nat.xor_assoc ..

/-- The unit of each bitwise operation on elements of `w` bits. -/
theorem bits_unit {v : Nat} (bitwise : v = 3 ∨ v = 4 ∨ v = 5) (w n : Nat) :
    Claims.bits v (if v = 3 then 2 ^ w - 1 else 0) (n % 2 ^ w) = n % 2 ^ w := by
  rcases bitwise with rfl | rfl | rfl
  · rw [if_pos rfl, Claims.bits, Nat.and_comm, Nat.and_two_pow_sub_one_eq_mod, Nat.mod_mod]
  · exact Nat.zero_or _
  · exact Nat.zero_xor _

theorem redOp_bits (f : Nat) {v : Nat} (mode : RMode) (fz : Bool) (bitwise : v = 3 ∨ v = 4 ∨ v = 5) :
    redOp f v mode fz = Claims.bits v := by
  rcases bitwise with rfl | rfl | rfl <;> rfl

theorem exists_lane_of_ne_zero {mask : Pred} (on : mask ≠ 0) : ∃ i < 64, bitAt mask i = true := by
  by_contra! none
  refine on (BitVec.eq_of_getLsbD_eq fun i hi => ?_)
  simpa [bitAt] using none i hi

/-- What `VRED` writes to every lane of its guard (R172, R173). -/
def vredValue (b : VBody) (mask : Pred) (a : VecReg) : Nat :=
  if b.var.toNat = 0 && !isFloat (vfmt b) then fitInt (vfmt b) b.sat ((List.range 64).foldl
    (fun x i => if bitAt mask i then x + ivalOf (vfmt b) (laneOf a i).toNat else x) 0)
  else redTree64 (redOp (vfmt b) b.var.toNat (vmode b) b.fz) fun i =>
    if bitAt mask i then some (redIn (vfmt b) b.fz (laneOf a i).toNat) else none

/-- What `VSCAN` writes to each lane of its guard (R174). -/
def vscanValue (b : VBody) (mask : Pred) (a : VecReg) : Nat → Nat :=
  if b.var.toNat = 0 && !isFloat (vfmt b) then fun i => fitInt (vfmt b) b.sat ((List.range (i + 1)).foldl
    (fun x k => if bitAt mask k then x + ivalOf (vfmt b) (laneOf a k).toNat else x) 0)
  else fun i => ((scan64 (redOp (vfmt b) b.var.toNat (vmode b) b.fz) fun i =>
    if bitAt mask i then some (redIn (vfmt b) b.fz (laneOf a i).toNat) else none).getD i none).getD 0

/-- The sum of the lanes that a list of places has under the mask. -/
theorem foldl_ivalOf (f : Nat) (mask : Pred) (a : VecReg) (l : List Nat) :
    l.foldl (fun x i => if bitAt mask i then x + ivalOf f (laneOf a i).toNat else x) 0 =
      ((l.filter fun i => mask.getLsbD i).map fun i => Claims.ival f (laneOf a i).toNat).sum := by
  simp only [ivalOf_eq]
  rw [foldl_ite_add, zero_add]
  rfl

theorem vredValue_sum {b : VBody} (mask : Pred) (a : VecReg) (int : 5 ≤ typeFmt b.ty.toNat) (add : b.var.toNat = 0) :
    vredValue b mask a = Claims.fit (typeFmt b.ty.toNat) b.sat (((List.range 64).filter fun i => mask.getLsbD i).map
      fun i => Claims.ival (typeFmt b.ty.toNat) (laneOf a i).toNat).sum := by
  rw [vredValue, vfmt, isFloat_typeFmt_of_int int, add, foldl_ivalOf, fitInt_eq]
  rfl

theorem vredValue_bits {b : VBody} {mask : Pred} (a : VecReg) (on : mask ≠ 0) (int : 5 ≤ typeFmt b.ty.toNat)
    (bitwise : b.var.toNat = 3 ∨ b.var.toNat = 4 ∨ b.var.toNat = 5) :
    vredValue b mask a = ((((List.range 64).filter fun i => mask.getLsbD i).map
      fun i => (laneOf a i).toNat % 2 ^ fmtBits (typeFmt b.ty.toNat)).foldl (Claims.bits b.var.toNat)
        (if b.var.toNat = 3 then 2 ^ fmtBits (typeFmt b.ty.toNat) - 1 else 0)) := by
  have notAdd : (decide (b.var.toNat = 0) && !isFloat (vfmt b)) = false := by
    rw [decide_eq_false (by omega), Bool.false_and]
  have whole (x : Nat) : redIn (vfmt b) b.fz x = x % 2 ^ fmtBits (typeFmt b.ty.toNat) := by
    rw [redIn, vfmt, isFloat_typeFmt_of_int int, if_neg Bool.false_ne_true]
  rw [vredValue, notAdd, if_neg Bool.false_ne_true, redOp_bits _ _ _ bitwise]
  simp only [whole]
  exact redTree64_eq_foldl _ _ _ (bits_assoc bitwise) (fun i => bits_unit bitwise ..) (exists_lane_of_ne_zero on)

/-- The places below 64 that are at most `i`. -/
theorem filter_range_le (p : Nat → Bool) {i : Nat} (hi : i < 64) :
    ((List.range 64).filter p).filter (fun j => decide (j ≤ i)) = (List.range (i + 1)).filter p := by
  have cut : 64 = (i + 1) + (63 - i) := by omega
  have low : (List.range (i + 1)).filter (fun j => decide (j ≤ i)) = List.range (i + 1) :=
    List.filter_eq_self.2 fun j hj => decide_eq_true (Nat.lt_succ_iff.1 (List.mem_range.1 hj))
  have high : ((List.range (63 - i)).map (i + 1 + ·)).filter (fun j => decide (j ≤ i)) = [] :=
    List.filter_eq_nil_iff.2 (List.forall_mem_map.2 fun j _ => by simp; omega)
  rw [List.filter_comm, cut, List.range_add, List.filter_append, low, high, List.append_nil]

theorem vscanValue_sum {b : VBody} (mask : Pred) (a : VecReg) {i : Nat} (hi : i < 64) (int : 5 ≤ typeFmt b.ty.toNat)
    (add : b.var.toNat = 0) : vscanValue b mask a i = Claims.fit (typeFmt b.ty.toNat) b.sat
      ((((List.range 64).filter fun i => mask.getLsbD i).filter fun j => decide (j ≤ i)).map
        fun i => Claims.ival (typeFmt b.ty.toNat) (laneOf a i).toNat).sum := by
  rw [vscanValue, vfmt, isFloat_typeFmt_of_int int, add, filter_range_le _ hi, ← foldl_ivalOf, ← fitInt_eq]
  rfl

/-! ## Words -/

section
variable {s : State} {c : Cur} {g : Guard} {b : VBody} (h : s.Issues c) (kind : c.i.who.kind ≠ .prologue)
include h kind

/-- `VCMP` writes the condition and its complement in the lanes of its guard; with `.z` zeros follow in the others (R168). -/
theorem execVcmp_on {vs : List (VecReg × Bool)} {taken : FMap Nat} {p m : Pred} {taint : Bool} (mask : m = guardMask c.regs g)
    (lanes : p = vcmpLanes c g b (vs.map Prod.fst)) (tainted : taint = (vs.any Prod.snd || (scB b).any c.regs.taintS))
    (on : m ≠ 0) (vals : c.regs.readsV (opsAB b) = .vals vs taken) : ∃ t, execVcmp g b s = .next t ∧
      let x := c.predResult .empty (b.vd.toNat / 4) p (m &&& ~~~p) m taint
      let y := if b.vd.toNat / 2 % 2 = 0
        then Cur.predResult { c with i := c.i.withCtx x } .empty (b.vd.toNat / 4) 0 0 (~~~m) false else x
      c.Leaves s ((c.i.withCtx { y with regs := c.regs.eatV taken }).past c.pc 8) t := by
  subst mask lanes tainted
  by_cases zero : b.vd.toNat / 2 % 2 = 0
  · simp only [if_pos zero]
    refine word_ok (c' := ((c.putPredPair (b.vd.toNat / 4) _ _ _ _).putPredPair (b.vd.toNat / 4) 0 0 _ false).mapRegs
      fun r => r.eatV taken) h (Cur.may_hand kind) ((if_neg on).trans ((withVecs_vals vals _).trans ?_))
      (((c.same_putPredPair ..).trans (Cur.same_putPredPair ..)).trans (Cur.same_mapRegs ..)) (State.cur_s (c := c) h.cur) rfl
    exact congrArg (fun x : Cur => Eff.ok (x.mapRegs fun r => r.eatV taken)) (if_pos (beq_iff_eq.2 zero))
  · simp only [if_neg zero]
    refine word_ok (c' := (c.putPredPair (b.vd.toNat / 4) _ _ _ _).mapRegs fun r => r.eatV taken) h (Cur.may_hand kind)
      ((if_neg on).trans ((withVecs_vals vals _).trans ?_))
      ((c.same_putPredPair ..).trans (Cur.same_mapRegs ..)) (State.cur_s (c := c) h.cur) rfl
    exact congrArg (fun x : Cur => Eff.ok (x.mapRegs fun r => r.eatV taken)) (if_neg (mt beq_iff_eq.1 zero))

/-- `VCMP` with every lane off: `.z` writes an untainted zero pair, the other form does nothing (R168). -/
theorem execVcmp_off (off : guardMask c.regs g = 0) : ∃ t, execVcmp g b s = .next t ∧
    c.Leaves s ((c.i.withCtx (if b.vd.toNat / 2 % 2 = 0
      then c.predResult .empty (b.vd.toNat / 4) 0 0 (BitVec.allOnes 64) false else c.i.ctx)).past c.pc 8) t := by
  by_cases zero : b.vd.toNat / 2 % 2 = 0
  · rw [if_pos zero]
    exact word_putPredPair h (Cur.may_hand kind) ((if_pos off).trans (if_pos (beq_iff_eq.2 zero)))
  · rw [if_neg zero]
    exact guarded_off h (Cur.may_hand kind) ((if_pos off).trans (if_neg (mt beq_iff_eq.1 zero)))

/-- `VRED` gives every lane of its guard one value (R172). -/
theorem execVred_leaves {a : VecReg} {ta : Bool} {taken : FMap Nat} (on : guardMask c.regs g ≠ 0)
    (vals : c.regs.readsV [vopA b] = .vals [(a, ta)] taken) (room : c.roomV b.vd.toNat = true) : ∃ t v,
    execVred g b s = .next t ∧ c.Leaves s ((c.i.withCtx (c.vectorResult taken b.vd.toNat
      (if 5 ≤ typeFmt b.ty.toNat then 2 else 4) v (guardMask c.regs g) ta)).past c.pc 8) t ∧
    ∀ i < 64, (guardMask c.regs g).getLsbD i = true →
      laneOf v i = putElem (typeFmt b.ty.toNat) (vredValue b (guardMask c.regs g) a) := by
  rw [← typedLat_typeFmt, ← taint_one a ta]
  exact word_putLanes h (Cur.may_hand kind) ((if_neg on).trans ((withVecs_vals vals _).trans (needRoomV_true room _)))

/-- `VSCAN` gives each lane of its guard its running result (R174). -/
theorem execVscan_leaves {a : VecReg} {ta : Bool} {taken : FMap Nat} (on : guardMask c.regs g ≠ 0)
    (vals : c.regs.readsV [vopA b] = .vals [(a, ta)] taken) (room : c.roomV b.vd.toNat = true) : ∃ t v,
    execVscan g b s = .next t ∧ c.Leaves s ((c.i.withCtx (c.vectorResult taken b.vd.toNat
      (if 5 ≤ typeFmt b.ty.toNat then 2 else 4) v (guardMask c.regs g) ta)).past c.pc 8) t ∧
    ∀ i < 64, (guardMask c.regs g).getLsbD i = true →
      laneOf v i = putElem (typeFmt b.ty.toNat) (vscanValue b (guardMask c.regs g) a i) := by
  rw [← typedLat_typeFmt, ← taint_one a ta]
  exact word_putLanes h (Cur.may_hand kind) ((if_neg on).trans ((withVecs_vals vals _).trans (needRoomV_true room _)))

end

/-! ## The obligation -/

/-- Settles O25: `VCMP` by its lanes, `VRED` and `VSCAN` by the value that they write. -/
theorem vectorComparesAndReductions : Obligations.VectorComparesAndReductions := by
  unfold Obligations.VectorComparesAndReductions
  refine ⟨?compare, fun g b s c h kind off => execVcmp_off h kind off, ?reductions⟩
  case compare =>
    intro g b s c vs taken h kind on vals m f taint
    obtain ⟨t, next, leaves⟩ := execVcmp_on h kind rfl rfl rfl on vals
    rw [taint_scB] at leaves
    refine ⟨t, _, next, leaves, fun i hi off => ?_, fun i hi bit int _ => ?_⟩
    · rw [getLsbD_vcmpLanes _ _ _ _ hi, off, Bool.false_and]
    · rw [getLsbD_vcmpLanes _ _ _ _ hi, bit, Bool.true_and, vfmt, vcond_eq (isFloat_typeFmt_of_int int), laneB_eq]
      rfl
  case reductions =>
    intro g b s c a ta taken h kind on vals room m f lanes sum res
    obtain ⟨t, v, next, leaves, value⟩ := execVred_leaves h kind on vals room
    obtain ⟨t', v', next', leaves', value'⟩ := execVscan_leaves h kind on vals room
    refine ⟨⟨t, v, next, leaves, ⟨_, value⟩, fun int add i hi bit => ?_, fun int bitwise i hi bit => ?_⟩,
      t', v', next', leaves', fun int add i hi bit => ?_⟩
    · rw [value i hi bit, vredValue_sum _ _ int add]
    · rw [value i hi bit, vredValue_bits _ on int bitwise]
    · rw [value' i hi bit, vscanValue_sum _ _ hi int add]

end Sys2Proof.Machine
end

section
/-! # Condensing streams (O26)

Who owns a stream as a word finds it, then what `PUSHC` and the three forms of `POPC` answer. -/

namespace Sys2Proof.Machine

/-! ## Ownership (R182) -/

theorem Stream.foreign_iff (x : Stream) (asid : Nat) : x.foreign asid = true ↔ x.items ≠ [] ∧ x.owner ≠ some asid := by
  simp [Stream.foreign]

theorem Stream.not_foreign {x : Stream} {asid : Nat} (own : x.items = [] ∨ x.owner = some asid) : ¬ x.foreign asid = true := by
  rw [Stream.foreign_iff]
  tauto

theorem Stream.claim_eq {x : Stream} {asid : Nat} (own : x.items = [] ∨ x.owner = some asid) :
    x.claim asid = ⟨x.items, if x.items = [] ∧ x.owner ≠ some asid then 0 else x.pos, some asid⟩ := by
  obtain ⟨items, pos, owner⟩ := x
  by_cases mine : owner = some asid
  · subst mine
    simp [Stream.claim]
  · obtain rfl : items = [] := own.resolve_right mine
    simp [Stream.claim, mine]

theorem Cur.same_setStream (c : Cur) (k : Nat) (x : Stream) : c.Same (c.setStream k x) := c.same_mapS _

/-! ## The front of a stream (R184) -/

theorem laneOf_frontVec (l : List (Word × Bool)) {i : Nat} (hi : i < 64) :
    laneOf (frontVec (l.take 64)).1 i = (l[i]?.map Prod.fst).getD 0 := by
  rw [frontVec, laneOf_ofLanes _ hi, List.getD_eq_getElem?_getD, List.getElem?_take, if_pos hi]
  cases l[i]? <;> rfl

/-! ## Words -/

section
variable {s : State} {c : Cur} {g : Guard} {b : VBody} (h : s.Issues c) (kind : c.i.who.kind ≠ .prologue)
include h kind

section
variable {a : VecReg} {ta : Bool} {taken : FMap Nat} (on : guardMask c.regs g ≠ 0)
  (vals : c.regs.readsV [vopA b] = .vals [(a, ta)] taken)
include on vals

/-- `PUSHC` to a stream that holds another ASID's elements (R182). -/
theorem execPushc_foreign (foreign : (c.stream (b.vb.toNat % 8)).foreign c.asid = true) :
    execPushc g b s = .next (State.takeTrap c 0x15 0 0 c.pc c.pc) :=
  issueLen_trap h.cur (Cur.may_hand kind) ((if_neg on).trans ((withVecs_vals vals _).trans (if_pos foreign)))

/-- `PUSHC` of more elements than the stream has room for (R183). -/
theorem execPushc_full (own : ¬ (c.stream (b.vb.toNat % 8)).foreign c.asid = true)
    (full : 128 < (c.stream (b.vb.toNat % 8)).items.length +
      ((List.range 64).filter (bitAt (guardMask c.regs g))).length) :
    execPushc g b s = .next (State.takeTrap c 0x13 0 0 c.pc c.pc) :=
  issueLen_trap h.cur (Cur.may_hand kind)
    ((if_neg on).trans ((withVecs_vals vals _).trans ((if_neg own).trans (if_pos full))))

/-- `PUSHC` appends the lanes of its guard and gives the position of the first (R183). -/
theorem execPushc_appends {x z : Stream} {l : List Nat} {p : Word} (stream : x = c.stream (b.vb.toNat % 8))
    (lanes : l = (List.range 64).filter (bitAt (guardMask c.regs g)))
    (position : p = if x.items = [] ∧ x.owner ≠ some c.asid then 0 else x.pos)
    (pushed : z = ⟨x.items ++ l.map (fun i => (laneOf a i, ta)), p + BitVec.ofNat 32 l.length, some c.asid⟩)
    (own : x.items = [] ∨ x.owner = some c.asid) (fits : x.items.length + l.length ≤ 128) :
    ∃ t, execPushc g b s = .next t ∧
      c.Leaves (s.updTile c.die c.tile fun y => { y with streams := y.streams.set Stream.init (b.vb.toNat % 8) z })
        ((c.i.withCtx { c.i.ctx with
          regs := c.regs.eatV taken
          flights := insertFlight ⟨c.clk + 2, .s b.vd.toNat p false⟩ c.i.ctx.flights }).past c.pc 8) t := by
  subst stream lanes position pushed
  obtain rfl := State.cur_s h.cur
  refine word_ok (c' := ((c.setStream (b.vb.toNat % 8) _).mapCtx fun x => x.fly c.clk 2 _).mapRegs fun r => r.eatV taken) h
    (Cur.may_hand kind) ((if_neg on).trans ((withVecs_vals vals _).trans ((if_neg (Stream.not_foreign own)).trans
      ((if_neg (Nat.not_lt.2 fits)).trans ?_)))) ⟨rfl, rfl, rfl, rfl, rfl⟩ rfl rfl
  dsimp only
  rw [Cur.putS_register, taint_one, Stream.claim_eq own]
  rfl

end

section
variable (on : guardAt c.regs g 0 = true)
include on

/-- The forms of `POPC` on a stream that holds another ASID's elements (R182, R184). -/
theorem execPopc_foreign (room : c.roomV b.vd.toNat = true) (foreign : (c.stream (b.va.toNat % 8)).foreign c.asid = true) :
    ∀ mk ∈ [Instr.popcV, .popcD, .popcClr], exec (mk g b) s = .next (State.takeTrap c 0x15 0 0 c.pc c.pc) := by
  simp only [List.forall_mem_cons, List.not_mem_nil, false_imp_iff, implies_true, and_true]
  exact ⟨issueLen_trap h.cur (Cur.may_hand kind) ((guarded_true on _).trans ((needRoomV_true room _).trans (if_pos foreign))),
    issueLen_trap h.cur (Cur.may_hand kind) ((guarded_true on _).trans ((needRoomV_true room _).trans (if_pos foreign))),
    issueLen_trap h.cur (Cur.may_hand kind) ((guarded_true on _).trans (if_pos foreign))⟩

/-- `POPC` of a stream with fewer than 64 elements (R184). -/
theorem execPopcV_empty (room : c.roomV b.vd.toNat = true) (own : ¬ (c.stream (b.va.toNat % 8)).foreign c.asid = true)
    (few : (c.stream (b.va.toNat % 8)).items.length < 64) :
    execPopcV g b s = .next (State.takeTrap c 0x14 0 0 c.pc c.pc) :=
  issueLen_trap h.cur (Cur.may_hand kind)
    ((guarded_true on _).trans ((needRoomV_true room _).trans ((if_neg own).trans (if_pos few))))

/-- `POPC` takes the 64 oldest elements (R184). -/
theorem execPopcV_takes {x : Stream} (stream : x = c.stream (b.va.toNat % 8)) (room : c.roomV b.vd.toNat = true)
    (own : ¬ x.foreign c.asid = true) (enough : 64 ≤ x.items.length) : ∃ t, execPopcV g b s = .next t ∧
      c.Leaves (s.updTile c.die c.tile fun y => { y with
          streams := y.streams.set Stream.init (b.va.toNat % 8) { x with items := x.items.drop 64 } })
        ((c.i.withCtx (c.vectorResult .empty b.vd.toNat 2 (frontVec (x.items.take 64)).1 (BitVec.allOnes 64)
          ((x.items.take 64).any Prod.snd))).past c.pc 8) t := by
  subst stream
  obtain rfl := State.cur_s h.cur
  exact word_ok h (Cur.may_hand kind) ((guarded_true on _).trans ((needRoomV_true room _).trans ((if_neg own).trans
      (if_neg (Nat.not_lt.2 enough))))) ((c.same_setStream ..).trans (Cur.same_putV ..)) (Cur.putV_s ..)
    ((c.setStream (b.va.toNat % 8) _).putV_ctx .empty ..)

/-- `POPC.D` takes as many elements as there are, at most 64, and gives their number (R184). -/
theorem execPopcD_takes {x : Stream} {y : Ctx} (stream : x = c.stream (b.va.toNat % 8))
    (result : y = c.vectorResult .empty b.vd.toNat 2 (frontVec (x.items.take 64)).1 (BitVec.allOnes 64)
      ((x.items.take 64).any Prod.snd)) (room : c.roomV b.vd.toNat = true) (own : ¬ x.foreign c.asid = true) :
    ∃ t, execPopcD g b s = .next t ∧
      c.Leaves (s.updTile c.die c.tile fun y => { y with
          streams := y.streams.set Stream.init (b.va.toNat % 8) { x with items := x.items.drop 64 } })
        ((c.i.withCtx { y with flights := insertFlight ⟨c.clk + 2, .s b.vb.toNat
          (BitVec.ofNat 32 (Nat.min x.items.length 64)) false⟩ y.flights }).past c.pc 8) t := by
  obtain rfl := State.cur_s h.cur
  let c1 := (c.setStream (b.va.toNat % 8) { x with items := x.items.drop 64 }).putV b.vd.toNat 2 (frontVec (x.items.take 64)).1
    (BitVec.allOnes 64) ((x.items.take 64).any Prod.snd)
  let count : Write := .s b.vb.toNat (BitVec.ofNat 32 (Nat.min x.items.length 64)) false
  have same : c.Same c1 := (c.same_setStream ..).trans (Cur.same_putV ..)
  have front : c1.i = c.i.withCtx y :=
    ((c.setStream (b.va.toNat % 8) _).putV_ctx .empty ..).trans (congrArg c.i.withCtx result.symm)
  refine word_ok (c' := c1.mapCtx fun y => y.fly c.clk 2 count) h (Cur.may_hand kind) ?_
    ⟨same.uid, same.q, same.clk, same.who, same.pc⟩ (Cur.putV_s ..)
    (congrArg (fun i : Inst => i.withCtx (i.ctx.fly c.clk 2 count)) front)
  rw [← same.clk, ← Cur.putS_register]
  subst stream
  exact (guarded_true on _).trans ((needRoomV_true room _).trans (if_neg own))

/-- `POPC.CLR` empties the stream and makes it the stream of the issuing ASID (R184). -/
theorem execPopcClr_clears (own : ¬ (c.stream (b.va.toNat % 8)).foreign c.asid = true) : ∃ t, execPopcClr g b s = .next t ∧
    c.Leaves (s.updTile c.die c.tile fun y => { y with
        streams := y.streams.set Stream.init (b.va.toNat % 8) ⟨[], 0, some c.asid⟩ }) (c.i.past c.pc 8) t := by
  obtain rfl := State.cur_s h.cur
  exact word_ok h (Cur.may_hand kind) ((guarded_true on _).trans (if_neg own)) (c.same_setStream ..) rfl rfl

end

end

/-- Settles O26: each word by the cases of its stream. -/
theorem condensingStreams : Obligations.CondensingStreams := by
  unfold Obligations.CondensingStreams
  refine ⟨?push, ?pop⟩
  case push =>
    intro g b s c a ta taken h kind on vals x lanes pos
    refine ⟨fun some_in other => execPushc_foreign h kind on vals ((Stream.foreign_iff ..).2 ⟨some_in, other⟩),
      fun own full => execPushc_full h kind on vals (Stream.not_foreign own) full, fun own fits => ?_⟩
    exact execPushc_appends h kind on vals rfl rfl rfl rfl own fits
  case pop =>
    intro g b s c h kind on k x rest
    refine ⟨fun room some_in other => execPopc_foreign h kind on room ((Stream.foreign_iff ..).2 ⟨some_in, other⟩),
      fun own => ?_⟩
    have own := Stream.not_foreign own
    refine ⟨fun room few => execPopcV_empty h kind on room own few, fun room enough => ?_, fun room => ?_,
      execPopcClr_clears h kind on own⟩
    · obtain ⟨t, next, leaves⟩ := execPopcV_takes h kind on rfl room own enough
      refine ⟨t, _, next, fun i hi => ?_, leaves⟩
      rw [laneOf_frontVec _ hi, List.getElem?_eq_getElem (Nat.lt_of_lt_of_le hi enough)]
      rfl
    · obtain ⟨t, next, leaves⟩ := execPopcD_takes h kind on rfl rfl room own
      exact ⟨t, _, next, fun i hi => laneOf_frontVec _ hi, leaves⟩

end Sys2Proof.Machine
end

section
/-! # Loads and stores (O9, O10)

What the words that access memory share: an address that is misaligned or has no translation takes its fault, a load reads this module
when it is delivered or sends a message, and a store leaves the state and the context that `Claims.stores` names. -/

namespace Sys2Proof.Machine

/-! ## Addresses (R187) -/

theorem access_misaligned {c : Cur} {va : Word64} {n : Nat} (odd : va.toNat % n ≠ 0) (k : Acc) (f : Nat → Eff) :
    access c va n k f = .trap 0x0A va := if_pos odd

theorem access_transFault {c : Cur} {va : Word64} {n : Nat} {k : Acc} (aligned : va.toNat % n = 0)
    (fails : c.s.translate c.die c.asid va.toNat k = .transFault) (f : Nat → Eff) : access c va n k f = .trap 0x0B va := by
  simp [access, aligned, fails]

theorem access_accFault {c : Cur} {va : Word64} {n : Nat} {k : Acc} (aligned : va.toNat % n = 0)
    (fails : c.s.translate c.die c.asid va.toNat k = .accFault) (f : Nat → Eff) : access c va n k f = .trap 0x0C va := by
  simp [access, aligned, fails]

@[simp] theorem Claims.ordered_away (s : State) (x : Ctx) (t : Bool) : (Claims.ordered s x t).away = x.away := by
  cases t <;> rfl

/-! ## Loads (R190, R193) -/

/-- A load of another module goes out as a message, which what the stream has stored there is laid over (R192, R383). -/
theorem Cur.load_span {pa : Nat} (away : isSpan pa = true) (c : Cur) (va n : Nat) (form : LoadForm) :
    c.load va pa n form = (c.ask va pa n 2 0, .span c.s.ports.nextMsg form (c.ownBytes pa n)) := if_pos away

theorem Cur.load_home {pa : Nat} (home : isSpan pa = false) (c : Cur) (va n : Nat) (form : LoadForm) :
    c.load va pa n form = (c, .mem pa n form) := by
  simp [Cur.load, home]

/-- The instance that a load leaves: its queue entries are reserved. -/
theorem Cur.produceAs_i (c : Cur) (dst k : Nat) (src : ProdSrc) (taint acq ldc : Bool) (scope : Option Nat) (byTaint : Bool) :
    (c.produceAs dst k src taint acq ldc scope byTaint).i =
      c.i.withCtx (c.i.ctx.reserves dst k src taint acq ldc scope byTaint) := rfl

theorem Cur.same_produceAs (c : Cur) (dst k : Nat) (src : ProdSrc) (taint acq ldc : Bool) (scope : Option Nat)
    (byTaint : Bool) : c.Same (c.produceAs dst k src taint acq ldc scope byTaint) := ⟨rfl, rfl, rfl, rfl, rfl⟩

theorem Cur.same_ordered (c : Cur) (t : Bool) : c.Same (c.mapCtx fun x => Claims.ordered c.s x t) :=
  ⟨rfl, rfl, rfl, rfl, Claims.ordered_pc ..⟩

section
variable {s : State} {c : Cur} {g : Guard} {b : IBody} {n k : Nat} {form : LoadForm} {ldc : Bool} (h : s.Issues c)
  (on : guardAt c.regs g 0 = true) (room : c.room b.dst.toNat k = true) (acq : c.i.ctx.acqOpen = false)
include h on room acq

omit h in
/-- A load comes to its access. -/
theorem plainLoad_access : ∃ f, plainLoad g b n k form ldc s = issue true true s f ∧ f c = access c (c.ea b) n .read fun pa =>
    .ok (((c.orderTaint (c.regs.taintPair b.a.toNat)).load (c.ea b).toNat pa n form).1.produceAs b.dst.toNat k
      ((c.orderTaint (c.regs.taintPair b.a.toNat)).load (c.ea b).toNat pa n form).2 ldc false ldc none
      (c.regs.taintPair b.a.toNat)) :=
  ⟨_, rfl, (guarded_true on _).trans ((needRoom_true room _).trans (afterAcquire_of_none acq _))⟩

theorem plainLoad_misaligned (odd : (c.ea b).toNat % n ≠ 0) :
    plainLoad g b n k form ldc s = .next (State.takeTrap c 0x0A 0 0 c.pc (c.ea b)) := by
  obtain ⟨f, word, eff⟩ := plainLoad_access (s := s) (n := n) (form := form) (ldc := ldc) on room acq
  exact word.trans (issueLen_trap h.cur c.may_all (eff.trans (access_misaligned odd ..)))

variable (aligned : (c.ea b).toNat % n = 0)
include aligned

theorem plainLoad_transFault (fails : s.translate c.die c.asid (c.ea b).toNat .read = .transFault) :
    plainLoad g b n k form ldc s = .next (State.takeTrap c 0x0B 0 0 c.pc (c.ea b)) := by
  obtain rfl := State.cur_s h.cur
  obtain ⟨f, word, eff⟩ := plainLoad_access (s := c.s) (n := n) (form := form) (ldc := ldc) on room acq
  exact word.trans (issueLen_trap h.cur c.may_all (eff.trans (access_transFault aligned fails _)))

variable {pa : Nat} (held : s.translate c.die c.asid (c.ea b).toNat .read = .ok pa)
include held

/-- A load of this module is read when it is delivered. -/
theorem plainLoad_home (home : isSpan pa = false) : ∃ t, plainLoad g b n k form ldc s = .next t ∧
    c.Leaves s ((c.i.withCtx ((Claims.ordered s c.i.ctx (c.regs.taintPair b.a.toNat)).reserves b.dst.toNat k (.mem pa n form) ldc
      false ldc none (c.regs.taintPair b.a.toNat))).past c.pc 8) t := by
  obtain rfl := State.cur_s h.cur
  obtain ⟨f, word, eff⟩ := plainLoad_access (s := c.s) (n := n) (form := form) (ldc := ldc) on room acq
  rw [access_held aligned held, Cur.load_home home, Cur.orderTaint_eq] at eff
  rw [word]
  exact word_ok h c.may_all eff ((c.same_ordered _).trans (Cur.same_produceAs ..)) rfl rfl

/-- A load of another module goes out as a message. -/
theorem plainLoad_span (away : isSpan pa = true) : ∃ t, plainLoad g b n k form ldc s = .next t ∧
    c.Leaves (s.sendSpan (c.spanMsg (c.ea b).toNat pa n 2 0)) ((c.i.withCtx
      ((Claims.ordered s c.i.ctx (c.regs.taintPair b.a.toNat)).reserves b.dst.toNat k
        (.span s.ports.nextMsg form (c.ownBytes pa n)) ldc false ldc none (c.regs.taintPair b.a.toNat))).past c.pc 8) t := by
  obtain rfl := State.cur_s h.cur
  obtain ⟨f, word, eff⟩ := plainLoad_access (s := c.s) (n := n) (form := form) (ldc := ldc) on room acq
  have own : (c.mapCtx fun x => Claims.ordered c.s x (c.regs.taintPair b.a.toNat)).ownBytes pa n = c.ownBytes pa n := by
    simp [Cur.ownBytes, Cur.mapCtx]
  rw [access_held aligned held, Cur.load_span away, Cur.orderTaint_eq, own] at eff
  rw [word]
  exact word_ok h c.may_all eff ((c.same_ordered _).trans ⟨rfl, rfl, rfl, rfl, rfl⟩) rfl rfl

end

/-- Each word of the table is a plain load of its size, entries and form (R190, R193). -/
theorem exec_load : ∀ e ∈ Claims.loads, ∀ g b s, exec (e.1 g b) s = plainLoad g b e.2.1 e.2.2.1 e.2.2.2.1 e.2.2.2.2 s := by
  simp only [Claims.loads, List.forall_mem_cons, List.not_mem_nil, false_imp_iff, implies_true, and_true]
  and_intros <;> intros <;> rfl

/-- Settles O9, by the lemmas on `plainLoad`. -/
theorem loads : Obligations.Loads := by
  unfold Obligations.Loads
  intro e he g b s c h on room acq va tainted x n
  rw [exec_load e he g b s]
  refine ⟨plainLoad_misaligned h on room acq, fun aligned => ⟨plainLoad_transFault h on room acq aligned, fun pa held => ?_⟩⟩
  split
  next away => exact plainLoad_span h on room acq aligned held away
  next home => exact plainLoad_home h on room acq aligned held (Bool.not_eq_true _ ▸ home)

/-! ## Stores (R191) -/

/-- A store of the stream leaves what `Claims.stores` says. -/
theorem Cur.store_eq (c : Cur) (va pa n v : Nat) : c.store va pa n v =
    { c with s := (Claims.stores c.s c c.i.ctx va pa n v).1, i := c.i.withCtx (Claims.stores c.s c c.i.ctx va pa n v).2 } := by
  unfold Cur.store Cur.storeAs Claims.stores
  by_cases may : c.mayStore pa = true
  · by_cases away : isSpan pa = true
    · simp only [may, away]; rfl
    · simp only [may, away]; rfl
  · simp only [Bool.not_eq_true] at may
    simp only [may]; rfl

theorem Claims.stores_keeps (s : State) (c : Cur) (x : Ctx) (va pa n v : Nat) :
    (Claims.stores s c x va pa n v).2.regs = x.regs ∧ (Claims.stores s c x va pa n v).2.pc = x.pc := by
  unfold Claims.stores
  repeat' split
  all_goals exact ⟨rfl, rfl⟩

theorem Cur.same_store (c : Cur) (va pa n v : Nat) : c.Same (c.store va pa n v) := by
  rw [Cur.store_eq]
  exact ⟨rfl, rfl, rfl, rfl, (Claims.stores_keeps ..).2⟩

theorem Cur.same_storeCommit (c : Cur) (va n : Nat) : c.Same (c.storeCommit va n) := by
  unfold Cur.storeCommit
  split <;> exact ⟨rfl, rfl, rfl, rfl, rfl⟩

theorem storeStall_of_confirmed {c : Cur} (h : c.i.ex.unconf = false) (va n : Nat) (e : Eff) : storeStall c va n e = e := by
  unfold storeStall
  split
  · rfl
  · exact commitStall_of_confirmed h e

/-- The stream as a store of a word leaves it: the address orders it after the loads that it depends on, it may be a commit point, and
the operands are consumed. -/
def Cur.stores (c : Cur) (t : Bool) (va pa n v : Nat) (taken : FMap Nat) : Cur :=
  (((c.orderTaint t).storeCommit va n).store va pa n v).mapRegs fun r => r.eat taken

theorem Cur.same_stores (c : Cur) (t : Bool) (va pa n v : Nat) (taken : FMap Nat) : c.Same (c.stores t va pa n v taken) :=
  (((c.same_orderTaint t).trans (Cur.same_storeCommit ..)).trans (Cur.same_store ..)).trans (Cur.same_mapRegs ..)

/-- What such a store leaves. -/
theorem Cur.stores_parts (c : Cur) (t : Bool) (va pa n v : Nat) (taken : FMap Nat) (pc : Word64) (len : Nat) :
    (c.stores t va pa n v taken).s = (Claims.stores c.s c (Claims.ordered c.s c.i.ctx t) va pa n v).1 ∧
    (c.stores t va pa n v taken).i.past pc len = Claims.stored c va n ((c.i.withCtx
      { (Claims.stores c.s c (Claims.ordered c.s c.i.ctx t) va pa n v).2 with regs := c.regs.eat taken }).past pc len) := by
  have regs : (Claims.stores c.s c (Claims.ordered c.s c.i.ctx t) va pa n v).2.regs = c.regs :=
    (Claims.stores_keeps ..).1.trans (Claims.ordered_regs ..)
  rw [← regs, Cur.stores, Cur.store_eq, Cur.orderTaint_eq, Cur.storeCommit, Claims.stored]
  by_cases retracts : c.retracts va n = true
  · have kept : (c.mapCtx fun x => Claims.ordered c.s x t).retracts va n = true := retracts
    rw [if_pos kept, if_pos retracts]
    exact ⟨rfl, rfl⟩
  · have kept : ¬ (c.mapCtx fun x => Claims.ordered c.s x t).retracts va n = true := retracts
    rw [if_neg kept, if_neg retracts]
    exact ⟨rfl, rfl⟩

/-- A word whose effect is such a store. -/
theorem word_stores {s : State} {c : Cur} {pro hand : Bool} {len : Nat} {f : Cur → Eff} {t : Bool} {va pa n v : Nat}
    {taken : FMap Nat} (h : s.Issues c) (hm : c.May pro hand) (hf : f c = .ok (c.stores t va pa n v taken)) :
    ∃ u, issueLen len pro hand s f = .next u ∧
      c.Leaves (Claims.stores s c (Claims.ordered s c.i.ctx t) va pa n v).1 (Claims.stored c va n ((c.i.withCtx
        { (Claims.stores s c (Claims.ordered s c.i.ctx t) va pa n v).2 with regs := c.regs.eat taken }).past c.pc len)) u := by
  obtain rfl := State.cur_s h.cur
  obtain ⟨state, inst⟩ := c.stores_parts t va pa n v taken c.pc len
  obtain ⟨u, next, leaves⟩ := issueLen_leaves (len := len) h hm hf (c.same_stores t va pa n v taken)
  rw [state, inst] at leaves
  exact ⟨u, next, leaves⟩

section
variable {s : State} {c : Cur} {g : Guard} {b : IBody} (h : s.Issues c) (on : guardAt c.regs g 0 = true)
  (confirmed : c.i.ex.unconf = false) (acq : c.i.ctx.acqOpen = false)
include on confirmed acq

/-- A store of a register or queue entry comes to its access. -/
theorem plainStore_access {n : Nat} {v : Word} {tv : Bool} {taken : FMap Nat}
    (ops : c.regs.reads [⟨b.dst.toNat, false⟩] = .vals [(v, tv)] taken) : ∃ f, plainStore g b n s = issue true true s f ∧
      f c = access c (c.ea b) n .write fun pa =>
        .ok (c.stores (c.regs.taintPair b.a.toNat) (c.ea b).toNat pa n (v.toNat % 256 ^ n) taken) :=
  ⟨_, rfl, (guarded_true on _).trans ((storeStall_of_confirmed confirmed ..).trans ((withOps_vals ops _).trans
    (afterAcquire_of_none acq _)))⟩

/-- A store of a pair comes to its access. -/
theorem execSt64_access : ∃ f, execSt64 g b s = issue true true s f ∧ f c = access c (c.ea b) 8 .write fun pa =>
    .ok (c.stores (c.regs.taintPair b.a.toNat) (c.ea b).toNat pa 8 (c.regs.getPair b.dst.toNat).toNat .empty) :=
  ⟨_, rfl, (guarded_true on _).trans ((storeStall_of_confirmed confirmed ..).trans (afterAcquire_of_none acq _))⟩

end

/-- Each word of the list is a plain store of its size (R191). -/
theorem exec_store : ∀ e ∈ ([(.st8, 1), (.st16, 2), (.st32, 4)] : List ((Guard → IBody → Instr) × Nat)), ∀ g b s,
    exec (e.1 g b) s = plainStore g b e.2 s := by
  simp only [List.forall_mem_cons, List.not_mem_nil, false_imp_iff, implies_true, and_true]
  and_intros <;> intros <;> rfl

/-- Settles O10: each word comes to its access, which faults or stores. -/
theorem stores : Obligations.Stores := by
  unfold Obligations.Stores
  refine ⟨?narrow, ?wide⟩
  case narrow =>
    intro e he g b s c v tv taken h on confirmed acq ops va x
    obtain rfl := State.cur_s h.cur
    obtain ⟨f, word, eff⟩ := plainStore_access (s := c.s) (n := e.2) on confirmed acq ops
    rw [exec_store e he g b c.s, word]
    refine ⟨fun odd => ?_, fun aligned fails => ?_, fun pa aligned held => ?_⟩
    · exact issueLen_trap h.cur c.may_all (eff.trans (access_misaligned odd ..))
    · exact issueLen_trap h.cur c.may_all (eff.trans (access_accFault aligned fails _))
    · exact word_stores h c.may_all (eff.trans (access_held aligned held _))
  case wide =>
    intro g b s c h on confirmed acq va x
    obtain rfl := State.cur_s h.cur
    obtain ⟨f, word, eff⟩ := execSt64_access (s := c.s) (b := b) on confirmed acq
    have word : exec (.st64 g b) c.s = issue true true c.s f := word
    rw [word]
    refine ⟨fun odd => issueLen_trap h.cur c.may_all (eff.trans (access_misaligned odd ..)), fun pa aligned held => ?_⟩
    obtain ⟨u, next, leaves⟩ := word_stores (len := 8) h c.may_all (eff.trans (access_held aligned held _))
    have regs : (Claims.stores c.s c x va.toNat pa 8 (c.regs.getPair b.dst.toNat).toNat).2.regs = c.regs.eat .empty :=
      (Claims.stores_keeps ..).1.trans (Claims.ordered_regs ..)
    refine ⟨u, next, ?_⟩
    rw [← regs] at leaves
    exact leaves

end Sys2Proof.Machine
end

section
/-! # The state after reset (O39) -/

namespace Sys2Proof.Machine

/-- The power blocks after reset hold floor, cap, demand 0, grant and duty 0 (R413). -/
theorem powerInit_fields : ∀ i < 22, let b := powerInit i
    let f := if i < 16 then 80 else if i < 20 then 60 else if i = 20 then 140 else 90
    fieldOf b 15 0 = f ∧ fieldOf b 31 16 = (if i < 16 then 265 else if i < 20 then 180 else if i = 20 then 280 else 150) ∧
      fieldOf b 47 32 = 0 ∧ fieldOf b 63 48 = f ∧ fieldOf b 69 64 = 0 := by decide

/-- Settles O39: every table is empty after reset, so each entry reads as its default. -/
theorem resetState : Obligations.ResetState := by
  unfold Obligations.ResetState
  refine ⟨State.memWf_reset, fun u => rfl, fun d q => ?seq, fun d => ⟨rfl, rfl, rfl, rfl⟩, fun d t k => ⟨rfl, rfl⟩,
    fun d k => ⟨rfl, rfl⟩, fun q => ⟨rfl, rfl, rfl, rfl⟩, fun n => ⟨rfl, rfl, rfl⟩, powerInit_fields, rfl, rfl⟩
  case seq => exact ⟨rfl, rfl, rfl, fun k => rfl, rfl, rfl, rfl, rfl, rfl, rfl⟩

end Sys2Proof.Machine
end

section
/-! # A command that enters its engine (O43)

What a command does to its tile when it enters, then whose turn it is. -/

namespace Sys2Proof.Machine

/-! ## Entering (R218) -/

/-- `t` is `s` but for its tiles. -/
def State.TilesOnly (s t : State) : Prop := t = { s with tiles := t.tiles }

theorem State.tilesOnly_updTile (s : State) (d t : Nat) (f : Tile → Tile) : s.TilesOnly (s.updTile d t f) := rfl
theorem State.tilesOnly_updEng (s : State) (d t : Nat) (f : Engines → Engines) : s.TilesOnly (s.updEng d t f) := rfl
theorem State.TilesOnly.refl (s : State) : s.TilesOnly s := rfl
theorem State.TilesOnly.trans {a b c : State} (h : a.TilesOnly b) (k : b.TilesOnly c) : a.TilesOnly c := by
  rw [State.TilesOnly, k, h]
theorem State.TilesOnly.dies {s t : State} (h : s.TilesOnly t) : t.dies = s.dies := by rw [h]

/-- `t` is `s` but for its tiles, of which each has the engines and the window copies that it had. -/
structure State.EnginesKept (s t : State) : Prop where
  only : s.TilesOnly t
  eng (d p : Nat) : (t.tile d p).eng = (s.tile d p).eng
  held (d p : Nat) : (t.tile d p).held = (s.tile d p).held

theorem State.EnginesKept.refl (s : State) : s.EnginesKept s := ⟨.refl s, fun _ _ => rfl, fun _ _ => rfl⟩
theorem State.EnginesKept.trans {a b c : State} (h : a.EnginesKept b) (k : b.EnginesKept c) : a.EnginesKept c :=
  ⟨h.only.trans k.only, fun d p => (k.eng d p).trans (h.eng d p), fun d p => (k.held d p).trans (h.held d p)⟩
theorem State.enginesKept_updTile {f : Tile → Tile} (eng : ∀ x, (f x).eng = x.eng) (held : ∀ x, (f x).held = x.held) (s : State)
    (d t : Nat) : s.EnginesKept (s.updTile d t f) :=
  ⟨s.tilesOnly_updTile d t f, s.updTile_keeps Tile.eng eng d t, s.updTile_keeps Tile.held held d t⟩

theorem State.enginesKept_touchAllocs (s : State) (die tile : Nat) (c : Cmd) (f : Alloc → Alloc) :
    s.EnginesKept (s.touchAllocs die tile c f) := by
  unfold State.touchAllocs
  induction c.dests tile generalizing s with
  | nil => exact .refl s
  | cons p l ih => exact (State.enginesKept_updTile (by intros; rfl) (by intros; rfl) ..).trans (ih _)

/-- The command as it stands in its engine: it acquires what the semaphore of its wait carries (R258). -/
def State.entered (s : State) (die tile : Nat) (c : Cmd) : Cmd :=
  let c := { c with rows := [] }
  if c.wthr = 0 then c else { c with view := joinView c.view (gives (s.semHeads die tile c.widx) c.pos 2) }

theorem State.entered_eq (s : State) (die tile : Nat) (c : Cmd) :
    s.entered die tile c = { c with view := (s.entered die tile c).view, rows := [] } ∧
      (c.wthr = 0 → s.entered die tile c = { c with rows := [] }) := by
  unfold State.entered
  extract_lets c1
  split
  next => exact ⟨rfl, fun _ => rfl⟩
  next waits => exact ⟨rfl, fun zero => absurd zero waits⟩

/-- The saved rows of a command are back in accumulator memory (R125, R352). -/
def State.rowsBack (s : State) (die tile : Nat) (c : Cmd) : State :=
  if c.rows.isEmpty then s else s.restoreRows die tile (uf c.f 6) c.rows

theorem State.enginesKept_rowsBack (s : State) (die tile : Nat) (c : Cmd) : s.EnginesKept (s.rowsBack die tile c) := by
  unfold State.rowsBack
  split
  · exact .refl s
  · exact State.enginesKept_updTile (by intros; rfl) (by intros; rfl) ..

/-- A command whose window copy is there and whose sequence passes R324 runs in its engine. -/
theorem State.enterCmd_runs {s : State} {die tile : Nat} {c : Cmd} (window : ∀ k, c.pres = some k → k ∈ (s.tile die tile).held)
    (sequence : c.op.eng = 3 → kvStart c (s.seqRec die c.f) = none) : ∃ (u : State) (x : Cmd), s.EnginesKept u ∧
      s.enterCmd die tile c = (u.updEng die tile fun e => { e with entries := e.entries + 1 }).updEng die tile (fun e =>
        { e with running := e.running ++ [⟨c.op.eng, x, 0, none, .empty, [], [], e.entries, .empty⟩] }) ∧
      x = { c with view := x.view, rows := [] } ∧ (c.wthr = 0 → x = { c with rows := [] }) := by
  obtain ⟨eq, plain⟩ := (s.rowsBack die tile c).entered_eq die tile c
  have kept := (s.enginesKept_rowsBack die tile c).trans (State.enginesKept_touchAllocs _ die tile
    ((s.rowsBack die tile c).entered die tile c) fun a => { a with writers := a.writers + 1 })
  refine ⟨_, (s.rowsBack die tile c).entered die tile c, kept, ?_, eq, plain⟩
  unfold State.enterCmd
  extract_lets s1 c1 c2 s2 lost s3 kv
  have kept : s.EnginesKept s2 := kept
  obtain ⟨view, eq⟩ : ∃ v, c2 = { c with view := v, rows := [] } := ⟨c2.view, eq⟩
  have there : lost = false := by
    simp only [lost, eq]
    split
    next k pres =>
      have : k ∈ (s2.tile die tile).held := kept.held die tile ▸ window k pres
      simpa [hasNat] using this
    next => rfl
  have record : s3.seqRec die c.f = s.seqRec die c.f :=
    congrArg (fun l : FMap Die => parseSeq ((l.get Die.init (attOf die)).seqTab.get 0 (uf c.f 2))) kept.only.dies
  have passes : kv = none := by
    simp only [kv, eq]
    split
    next att => exact (congrArg (kvStart c) record).trans (sequence att)
    next => rfl
  rw [there, passes]
  exact congrArg (fun o : EngOp => s3.updEng die tile fun e =>
    { e with running := e.running ++ [⟨o.eng, c2, 0, none, .empty, [], [], e.entries, .empty⟩] }) (show c2.op = c.op by rw [eq])

/-! ## Whose turn it is (R213, R218) -/

theorem State.headReady_iff (s : State) (die tile : Nat) (c : Cmd) :
    s.headReady die tile c = true ↔ Claims.headOk s die tile c := by
  simp [State.headReady, Claims.headOk, or_assoc]

theorem engCap_eq {eng : Nat} (small : eng < 4) : engCap eng = Claims.engLimit eng := by
  interval_cases eng <;> rfl

theorem Claims.inEngine_eq (s : State) (die tile eng : Nat) :
    (s.tile die tile).eng.busy eng = Claims.inEngine s die tile eng := rfl

/-- The next pusher in rotation is the first whose head may enter (R218). -/
theorem State.nextPusher_eq {s : State} {die tile eng last p : Nat} {c : Cmd} {rest : List Cmd}
    (turn : Claims.inTurn s die tile eng last p) (head : (s.tile die tile).eng.queues.get [] (8 * eng + p) = c :: rest)
    (ready : Claims.headOk s die tile c) : s.nextPusher die tile eng last = some p := by
  obtain ⟨k, small, place, first⟩ := turn
  unfold State.nextPusher
  refine List.find?_eq_some_iff_getElem.2 ⟨?_, k, ?_, ?_, fun j before => ?_⟩
  · simp only [queueKey, head]
    exact (s.headReady_iff ..).2 ready
  · simpa using small
  · simpa using place
  · simp only [List.getElem_map, List.getElem_range, queueKey]
    split
    next c' rest' other =>
      rw [Bool.not_eq_true', ← Bool.not_eq_true, s.headReady_iff]
      exact first j before c' rest' other
    next => rfl

theorem Engines.served_of {e : Engines} {p : Nat} (lease : ∃ l, e.lease = some l ∧ l.pos = p ∧ 0 < l.pushed) :
    e.served p = true := by
  obtain ⟨l, has, pos, pushed⟩ := lease
  simp [Engines.served, has, pos, pushed]

/-! ## The event -/

/-- The engines of a tile once the head of a pusher's queue has left it, with its place in the rotation or under its lease. -/
def Engines.taken (e : Engines) (eng p : Nat) (rest : List Cmd) : Engines :=
  { e with
    queues := e.queues.set [] (queueKey eng p) rest
    lease := if eng = 0 then e.lease.bind Lease.enter else e.lease
    ceLast := if eng = 1 then p else e.ceLast
    saeLast := if eng = 2 then p else e.saeLast }

/-- An engine at its limit takes nothing (R219). -/
theorem execEngineCommandStart_full {s : State} {die tile eng p : Nat} (small : eng < 4) (pusher : p < 5)
    (full : Claims.engLimit eng ≤ Claims.inEngine s die tile eng) :
    execEngineCommandStart die tile eng p s = .refused (.notEnabled "ENGINE_COMMAND_START") := by
  have full : engCap eng ≤ (s.tile die tile).eng.busy eng := engCap_eq small ▸ full
  unfold execEngineCommandStart
  rw [if_neg (by omega)]
  exact if_pos full

/-- The head whose turn it is leaves its queue and enters. -/
theorem execEngineCommandStart_enters {s : State} {die tile eng p : Nat} {c : Cmd} {rest : List Cmd} (small : eng < 4)
    (pusher : p < 5) (free : Claims.inEngine s die tile eng < Claims.engLimit eng)
    (fresh : eng = 0 → (s.tile die tile).eng.restored = [])
    (head : (s.tile die tile).eng.queues.get [] (8 * eng + p) = c :: rest) (ready : Claims.headOk s die tile c)
    (lease : eng = 0 → ∃ l, (s.tile die tile).eng.lease = some l ∧ l.pos = p ∧ 0 < l.pushed)
    (copy : eng = 1 → Claims.inTurn s die tile 1 (s.tile die tile).eng.ceLast p)
    (scatter : eng = 2 → Claims.inTurn s die tile 2 (s.tile die tile).eng.saeLast p) :
    execEngineCommandStart die tile eng p s =
      .next ((s.updEng die tile fun e => e.taken eng p rest).enterCmd die tile c) := by
  have free : ¬ engCap eng ≤ (s.tile die tile).eng.busy eng := by
    rw [engCap_eq small, Claims.inEngine_eq]
    exact Nat.not_le.2 free
  have no : (if eng = 0 then s.restoredHead die tile p else none) = none := by
    split
    next zero => simp [State.restoredHead, fresh zero]
    next => rfl
  have ahead : (eng == 0 && ((s.tile die tile).eng.behind p c ||
      (s.tile die tile).eng.restored.any (s.restoredReady die tile))) = false := by
    rw [Bool.and_eq_false_imp, beq_iff_eq]
    intro zero
    simp [Engines.behind, fresh zero]
  have ready' : s.headReady die tile c = true := (s.headReady_iff ..).2 ready
  have key : queueKey eng p = 8 * eng + p := rfl
  unfold execEngineCommandStart
  rw [if_neg (by omega)]
  dsimp only
  rw [if_neg free, no]
  dsimp only
  rw [key, head]
  dsimp only
  rw [ahead, ready']
  refine if_neg ?_
  rw [Bool.not_true, Bool.or_false, Bool.or_false, Bool.not_eq_true', Bool.not_eq_false]
  interval_cases eng
  · exact Engines.served_of (lease rfl)
  · exact beq_iff_eq.2 (State.nextPusher_eq (copy rfl) head ready)
  · exact beq_iff_eq.2 (State.nextPusher_eq (scatter rfl) head ready)
  · exact rfl

/-- Settles O43, by the lemmas on the event and on the command that enters. -/
theorem engineStarts : Obligations.EngineStarts := by
  unfold Obligations.EngineStarts
  intro s die tile eng p small pusher e n
  refine ⟨execEngineCommandStart_full small pusher, fun c rest free fresh head op ready window sequence lease copy scatter => ?_⟩
  let s1 := s.updEng die tile fun e => e.taken eng p rest
  have taken : (s1.tile die tile).eng = e.taken eng p rest := State.eng_updEng ..
  have window : ∀ k, c.pres = some k → k ∈ (s1.tile die tile).held := fun k pres => by
    exact (s.updTile_keeps Tile.held (f := fun y => { y with eng := y.eng.taken eng p rest }) (by intros; rfl)
      die tile die tile).symm ▸ window k pres
  obtain ⟨u, x, kept, enters, eq, plain⟩ := State.enterCmd_runs window (fun att => sequence (op.symm.trans att))
  refine ⟨s1.enterCmd die tile c,
    execEngineCommandStart_enters small pusher free fresh head ready lease copy scatter, ?_⟩
  have engine : ((s1.enterCmd die tile c).tile die tile).eng = { e.taken eng p rest with
      entries := e.entries + 1, running := e.running ++ [⟨c.op.eng, x, 0, none, .empty, [], [], e.entries + 1, .empty⟩] } := by
    rw [enters, State.eng_updEng, State.eng_updEng, kept.eng, taken]
    rfl
  have only : s.TilesOnly (s1.enterCmd die tile c) := by
    rw [enters]
    exact ((s.tilesOnly_updEng ..).trans kept.only).trans ((State.tilesOnly_updEng ..).trans (State.tilesOnly_updEng ..))
  rw [engine]
  refine ⟨⟨FMap.get_set_same .., fun k other => FMap.get_set_ne other .., ⟨_, rfl, eq, plain, op, rfl, rfl, rfl⟩,
    fun one => if_pos one, fun two => if_pos two⟩, ?_⟩
  rw [only]
  exact ⟨rfl, rfl, rfl, rfl, rfl⟩

end Sys2Proof.Machine
end

section
/-! # What stands beside memory

The release sequences and the sc fences of the memory model (R250, R255) stand beside memory, and nothing that a word does to the rest
of the state depends on them. Two states that differ in them alone stay so through every operation of the memory words. -/

namespace Sys2Proof.Machine

/-- `t` is `s` but for the release sequences and sc fences that stand beside memory. -/
def State.Beside (s t : State) : Prop := ∃ heads scs, t = s.updRelaxed fun x => { x with heads := heads, scs := scs }

theorem State.beside_updRelaxed {f : Relaxed → Relaxed} (s : State)
    (f_eq : f s.phys.relaxed = { s.phys.relaxed with heads := (f s.phys.relaxed).heads, scs := (f s.phys.relaxed).scs }) :
    s.Beside (s.updRelaxed f) :=
  ⟨(f s.phys.relaxed).heads, (f s.phys.relaxed).scs, congrArg (fun r => s.updRelaxed fun _ => r) f_eq⟩

theorem State.Beside.refl (s : State) : s.Beside s := ⟨s.phys.relaxed.heads, s.phys.relaxed.scs, rfl⟩
theorem State.Beside.trans {a b c : State} (h : a.Beside b) (k : b.Beside c) : a.Beside c := by
  obtain ⟨_, _, rfl⟩ := h
  obtain ⟨heads, scs, rfl⟩ := k
  exact ⟨heads, scs, rfl⟩
theorem State.Beside.symm {a b : State} (h : a.Beside b) : b.Beside a := by
  obtain ⟨_, _, rfl⟩ := h
  exact ⟨a.phys.relaxed.heads, a.phys.relaxed.scs, rfl⟩

/-- An operation that does not look beside memory. -/
def BesideBlind (op : State → State) : Prop := ∀ s f, op (s.updRelaxed f) = (op s).updRelaxed f

theorem State.Beside.map {op : State → State} (blind : BesideBlind op) {s t : State} (h : s.Beside t) : (op s).Beside (op t) := by
  obtain ⟨heads, scs, rfl⟩ := h
  exact ⟨heads, scs, blind s _⟩

/-- A fold of such operations. -/
theorem updRelaxed_foldl {α : Type} {op : State → α → State} (blind : ∀ a, BesideBlind fun s => op s a) (l : List α) :
    BesideBlind fun s => l.foldl op s := by
  intro s f
  induction l generalizing s with
  | nil => rfl
  | cons a l ih => exact (congrArg (fun t => l.foldl op t) (blind a s f)).trans (ih (op s a))

/-- A choice between operations on a state. -/
theorem updRelaxed_ite {p : Prop} [Decidable p] (s t : State) (r : Relaxed → Relaxed) :
    (if p then s.updRelaxed r else t.updRelaxed r) = (if p then s else t).updRelaxed r :=
  (apply_ite (fun u : State => u.updRelaxed r) p s t).symm

/-! ## What is read -/

@[simp] theorem State.ctlValue_updRelaxed (s : State) (f : Relaxed → Relaxed) (c : Ctl) :
    (s.updRelaxed f).ctlValue c = s.ctlValue c := (s.memOnly_updRelaxed f).ctlValue c
@[simp] theorem State.byteAt_updRelaxed (s : State) (f : Relaxed → Relaxed) (a : Nat) : (s.updRelaxed f).byteAt a = s.byteAt a :=
  (s.memOnly_updRelaxed f).byteAt_eq rfl
@[simp] theorem State.readPa_updRelaxed (s : State) (f : Relaxed → Relaxed) (a n : Nat) :
    (s.updRelaxed f).readPa a n = s.readPa a n := by
  induction n generalizing a with
  | zero => rfl
  | succ n ih => rw [State.readPa, State.readPa, ih, State.byteAt_updRelaxed]

theorem State.walkFrom_updRelaxed (s : State) (f : Relaxed → Relaxed) (asid va : Nat) (k : Acc) (n t : Nat) :
    (s.updRelaxed f).walkFrom asid va k n t = s.walkFrom asid va k n t := by
  induction n generalizing t with
  | zero => rfl
  | succ n ih =>
    unfold State.walkFrom
    simp only [ih, State.readPa_updRelaxed, State.homeOf_updRelaxed]
    rfl
@[simp] theorem State.walk_updRelaxed (s : State) (f : Relaxed → Relaxed) (asid va : Nat) (k : Acc) :
    (s.updRelaxed f).walk asid va k = s.walk asid va k := by
  unfold State.walk
  rw [State.walkFrom_updRelaxed]
  rfl

@[simp] theorem State.inErrorRing_updRelaxed (s : State) (f : Relaxed → Relaxed) (pa : Nat) :
    (s.updRelaxed f).inErrorRing pa = s.inErrorRing pa := by
  unfold State.inErrorRing
  simp only [State.walk_updRelaxed]
  rfl

/-- What the egress filter lets through does not depend on what stands beside memory (R368). -/
@[simp] theorem State.egress_updRelaxed (s : State) (f : Relaxed → Relaxed) (pa : Nat) :
    (s.updRelaxed f).egress pa = s.egress pa := by
  unfold State.egress
  rw [State.inErrorRing_updRelaxed]
  rfl

/-! ## What is written -/

@[simp] theorem State.updInst_updRelaxed (s : State) (r : Relaxed → Relaxed) (u : Nat) (f : Inst → Inst) :
    (s.updRelaxed r).updInst u f = (s.updInst u f).updRelaxed r := by
  simp only [State.updInst, State.inst_updRelaxed]
  split <;> rfl

@[simp] theorem State.commitQcb_updRelaxed (s : State) (r : Relaxed → Relaxed) (q gen : Nat) :
    (s.updRelaxed r).commitQcb q gen = (s.commitQcb q gen).updRelaxed r := by
  unfold State.commitQcb
  rw [show (s.updRelaxed r).queue q = s.queue q from rfl]
  split <;> rfl

@[simp] theorem State.resumeOn_updRelaxed (s : State) (r : Relaxed → Relaxed) (no d : Nat) :
    (s.updRelaxed r).resumeOn no d = (s.resumeOn no d).updRelaxed r :=
  updRelaxed_foldl (fun u s r => s.updInst_updRelaxed r u _) _
    (s.updSch d fun x => { x with parks := x.parks.filter fun p => p.1 != no }) r

@[simp] theorem State.resumePage_updRelaxed (s : State) (r : Relaxed → Relaxed) (d no : Nat) :
    (s.updRelaxed r).resumePage d no = (s.resumePage d no).updRelaxed r := by
  unfold State.resumePage
  extract_lets own t own' t'
  have all := updRelaxed_foldl (op := fun s k => s.resumeOn no k) (fun k s r => s.resumeOn_updRelaxed r no k) (List.range 20) s r
  have resumed : t = t'.updRelaxed r :=
    (congrArg₂ (fun a b : State => if own' = true then a else b) all (s.resumeOn_updRelaxed r no d)).trans (updRelaxed_ite ..)
  rw [resumed]
  rfl

theorem State.updHost_updRelaxed (s : State) (r : Relaxed → Relaxed) (f : HostDie → HostDie) :
    (s.updRelaxed r).updHost f = (s.updHost f).updRelaxed r := by cases s; rfl
theorem State.updQueue_updRelaxed (s : State) (r : Relaxed → Relaxed) (q : Nat) (f : GQueue → GQueue) :
    (s.updRelaxed r).updQueue q f = (s.updQueue q f).updRelaxed r := by cases s; rfl
theorem State.updDie_updRelaxed (s : State) (r : Relaxed → Relaxed) (d : Nat) (f : Die → Die) :
    (s.updRelaxed r).updDie d f = (s.updDie d f).updRelaxed r := by cases s; rfl

theorem State.floors_updRelaxed (s : State) (r : Relaxed → Relaxed) : (s.updRelaxed r).floors = s.floors := rfl

/-- A number of which bytes `k` to `k + n - 1` are replaced. -/
def putBytesAt (old k n v : Nat) : Nat := old - (old / 256 ^ k % 256 ^ n) * 256 ^ k + (v % 256 ^ n) * 256 ^ k

/-- What a store to a queue's base fields leaves (R358). -/
def GQueue.liveStore (g : GQueue) (v : Nat) : GQueue :=
  let w := BitVec.ofNat 1024 v
  { g with live := setField (setField g.live 78 0 (fieldOf w 78 0)) 127 96 (fieldOf w 127 96) }
/-- What a store to a queue's reset bit leaves (R366). -/
def GQueue.resetStore (g : GQueue) : GQueue := { g with shadow := setField g.shadow 232 232 1 }
/-- What a store to a queue's control block leaves (R358). -/
def State.qcbStore (s : State) (q k n v : Nat) : State :=
  let hit (lo hi : Nat) : Bool := decide (k < hi) && decide (lo < k + n)
  let w := putBytesAt (s.ctlValue (.qcb q)) k n v
  let t := if hit 0 16 then s.updQueue q fun g => g.liveStore w else s
  let t := if hit 16 20 then t.commitQcb q (w / 2 ^ 128 % 2 ^ 32) else t
  if hit 29 30 && w / 2 ^ 232 % 2 == 1 then t.updQueue q GQueue.resetStore else t
/-- What a store to an error ring's block leaves (R362). -/
def HostDie.ringStore (h : HostDie) (i v : Nat) : HostDie :=
  let b := h.rings.get 0 i
  let w := BitVec.ofNat 256 v
  let b := setField (setField b 67 0 (fieldOf w 67 0)) 159 128 (fieldOf w 159 128)
  { h with rings := h.rings.set 0 i (setField b 200 192 (fieldOf w 200 192)) }
/-- What a store to an ASID record leaves (R371). -/
def HostDie.asidStore (h : HostDie) (a v : Nat) : HostDie :=
  { h with asids := h.asids.set 0 a (setField (setField (h.asids.get 0 a) 66 0 v) 207 128 (v / 2 ^ 128)) }
/-- What a store to a landing ring's block leaves of the ports (R385). -/
def Ports.lrStore (p : Ports) (i k n v old : Nat) : Ports :=
  let hit (lo hi : Nat) : Bool := decide (k < hi) && decide (lo < k + n)
  let p := if hit 0 16 then p.writeLow i (putBytesAt old k n v) else p
  let b := p.lrcb.get 0 i
  let b := if hit 24 32 then setField b 255 192 (putBytesAt old k n v / 2 ^ 192) else b
  let b := if hit 80 81 && v / 256 ^ (80 - k) % 2 == 1 then setField b 640 640 0 else b
  let p := { p with lrcb := p.lrcb.set 0 i b }
  if hit 80 81 && v / 256 ^ (80 - k) / 2 % 2 == 1 && !hasNat p.snapReq i then { p with snapReq := p.snapReq ++ [i] } else p

theorem State.ctlStore_qcb (s : State) (q k n v : Nat) : s.ctlStore (.qcb q) k n v = s.qcbStore q k n v := rfl
theorem State.ctlStore_ring (s : State) (i k n v : Nat) : s.ctlStore (.ring i) k n v =
    s.updHost fun h => h.ringStore i (putBytesAt (s.ctlValue (.ring i)) k n v) := rfl
theorem State.ctlStore_asid (s : State) (a k n v : Nat) : s.ctlStore (.asid a) k n v =
    s.updHost fun h => h.asidStore a (putBytesAt (s.ctlValue (.asid a)) k n v) := rfl
theorem State.ctlStore_lrcb (s : State) (i k n v : Nat) :
    s.ctlStore (.lrcb i) k n v = { s with ports := s.ports.lrStore i k n v (s.ctlValue (.lrcb i)) } := by
  simp only [State.ctlStore, Ports.lrStore, putBytesAt]
  split_ifs <;> rfl

/-- A store to a control structure does not look beside memory. -/
@[simp] theorem State.ctlStore_updRelaxed (s : State) (r : Relaxed → Relaxed) (c : Ctl) (k n v : Nat) :
    (s.updRelaxed r).ctlStore c k n v = (s.ctlStore c k n v).updRelaxed r := by
  cases c with
  | ring i =>
    rw [State.ctlStore_ring, State.ctlStore_ring, State.ctlValue_updRelaxed]
    exact State.updHost_updRelaxed ..
  | asid a =>
    rw [State.ctlStore_asid, State.ctlStore_asid, State.ctlValue_updRelaxed]
    exact State.updHost_updRelaxed ..
  | lrcb i =>
    rw [State.ctlStore_lrcb, State.ctlStore_lrcb, State.ctlValue_updRelaxed]
    rfl
  | qcb q => simp only [State.ctlStore_qcb, State.qcbStore, State.ctlValue_updRelaxed, State.updQueue_updRelaxed, updRelaxed_ite,
      State.commitQcb_updRelaxed]
  | resume d => simp only [State.ctlStore, State.ctlValue_updRelaxed, State.resumePage_updRelaxed]
  | ras i => simp only [State.ctlStore, State.updHost_updRelaxed, State.updDie_updRelaxed, updRelaxed_ite]
  | power i => simp only [State.ctlStore, State.ctlValue_updRelaxed, State.updHost_updRelaxed]
  | budget => simp only [State.ctlStore, State.ctlValue_updRelaxed, State.setBudget, State.floors_updRelaxed,
      State.updHost_updRelaxed]
  | zero => rfl
  | doorbell q => rfl
  | part => rfl
  | phase => rfl

theorem State.pokePa_updRelaxed (s : State) (r : Relaxed → Relaxed) (a n v : Nat) :
    (s.updRelaxed r).pokePa a n v = (s.pokePa a n v).updRelaxed r := by
  induction n generalizing s a v with
  | zero => rfl
  | succ n ih => exact ih (s.setByte a (BitVec.ofNat 8 v)) ..
theorem State.clearBad_updRelaxed (s : State) (r : Relaxed → Relaxed) (a n : Nat) :
    (s.updRelaxed r).clearBad a n = (s.clearBad a n).updRelaxed r := by
  unfold State.clearBad
  rw [State.updRelaxed_bad]
  split <;> rfl

/-- A write outdates the same values whatever sequences stand there. -/
theorem State.Beside.outdate {s t : State} (h : s.Beside t) (pa n : Nat) : (s.outdate pa n).Beside (t.outdate pa n) := by
  obtain ⟨heads, scs, rfl⟩ := h
  exact ⟨⟨heads.cells.filter fun h => !meetBytes pa n h.1 h.2.1⟩, scs, rfl⟩

theorem State.Beside.ctlStore {s t : State} (h : s.Beside t) (c : Ctl) (k n v : Nat) :
    (s.ctlStore c k n v).Beside (t.ctlStore c k n v) :=
  h.map (op := fun s => s.ctlStore c k n v) fun s r => s.ctlStore_updRelaxed r c k n v

/-- A store of this module does the same whatever sequences stand there. -/
theorem State.Beside.writePa {s t : State} (h : s.Beside t) (pa n v : Nat) : (s.writePa pa n v).Beside (t.writePa pa n v) := by
  have ctl : t.ctlAt pa = s.ctlAt pa := by obtain ⟨_, _, rfl⟩ := h; rfl
  unfold State.writePa
  rw [ctl]
  split
  · split
    · split
      · exact (h.ctlStore ..).ctlStore ..
      · exact h.ctlStore ..
    · exact h.ctlStore ..
  · exact ((h.outdate pa n).map (op := fun s => s.clearBad pa n) fun s r => s.clearBad_updRelaxed r pa n).map
      (op := fun s => s.pokePa pa n v) fun s r => s.pokePa_updRelaxed r pa n v

theorem State.beside_heads (s : State) (heads : FMap (Nat × List Head)) :
    s.Beside (s.updRelaxed fun x => { x with heads := heads }) := s.beside_updRelaxed rfl

theorem State.beside_putHeads (s : State) (pa n : Nat) (l : List Head) : s.Beside (s.putHeads pa n l) := by
  unfold State.putHeads
  split
  · exact .refl s
  · exact s.beside_updRelaxed rfl

theorem State.beside_awayWrite (s : State) (pa n : Nat) (l : List Head) : s.Beside (s.awayWrite pa n l) :=
  (s.beside_updRelaxed rfl).trans (State.beside_putHeads ..)
theorem State.beside_awayRmw (s : State) (pa n : Nat) (l : List Head) : s.Beside (s.awayRmw pa n l) := s.beside_putHeads ..
theorem State.beside_scFence (s : State) (o : Ledger) (n : Nat) : s.Beside (s.scFence o n).1 :=
  ⟨s.phys.relaxed.heads, _, rfl⟩

theorem State.Beside.oldsAt {s t : State} (h : s.Beside t) (pa n : Nat) : t.oldsAt pa n = s.oldsAt pa n := by
  obtain ⟨_, _, rfl⟩ := h; rfl

/-- A write by an agent carries the same to it. -/
theorem State.Beside.writeAs {s t : State} (h : s.Beside t) (o : Ledger) (pa n v : Nat) (l l' : List Head) :
    (s.writeAs o pa n v l).1.Beside (t.writeAs o pa n v l').1 ∧ (t.writeAs o pa n v l').2 = (s.writeAs o pa n v l).2 :=
  ⟨((State.beside_putHeads ..).symm.trans (h.writePa pa n v)).trans (State.beside_putHeads ..),
    congrArg o.meet (h.oldsAt pa n)⟩

theorem State.Beside.rmwPa {s t : State} (h : s.Beside t) (pa n v : Nat) : (s.rmwPa pa n v).Beside (t.rmwPa pa n v) :=
  ((State.beside_heads ..).symm.trans (h.writePa pa n v)).trans (State.beside_heads ..)

end Sys2Proof.Machine
end

section
/-! # Streams that differ in what the memory model keeps

Two streams that differ only in what is carried to them and in what stands beside memory do the same with every memory word. So the
frame of a word is shown on a stream without fences and sequences. -/

namespace Sys2Proof.Machine

/-! ## Loads performed early -/

theorem State.Beside.readPa {s t : State} (h : s.Beside t) (a n : Nat) : t.readPa a n = s.readPa a n := by
  obtain ⟨_, _, rfl⟩ := h
  exact s.readPa_updRelaxed ..
theorem State.Beside.badAt {s t : State} (h : s.Beside t) (a n : Nat) : t.badAt a n = s.badAt a n := by
  obtain ⟨_, _, rfl⟩ := h; rfl
theorem State.Beside.egress {s t : State} (h : s.Beside t) (pa : Nat) : t.egress pa = s.egress pa := by
  obtain ⟨_, _, rfl⟩ := h
  exact s.egress_updRelaxed ..
theorem State.Beside.ports {s t : State} (h : s.Beside t) : t.ports = s.ports := by obtain ⟨_, _, rfl⟩ := h; rfl
theorem State.Beside.dies {s t : State} (h : s.Beside t) : t.dies = s.dies := by obtain ⟨_, _, rfl⟩ := h; rfl

theorem State.Beside.loadNow {s t : State} (h : s.Beside t) (src : ProdSrc) : t.loadNow src = s.loadNow src := by
  cases src with
  | mem pa n form => cases form <;> simp [State.loadNow, h.readPa]
  | _ => rfl

/-- The loads that a stream performs read the same (R253). -/
theorem State.Beside.perform {s t : State} (h : s.Beside t) (o o' : Ledger) (p : Producer) :
    (t.perform o' p).2 = (s.perform o p).2 := by
  simp only [State.perform, h.readPa, h.badAt, h.loadNow]
  split <;> rfl

theorem State.Beside.performAll {s t : State} (h : s.Beside t) (sel : Producer → Bool) (l : List Producer) (o o' : Ledger) :
    (t.performAll sel l o').2 = (s.performAll sel l o).2 := by
  induction l generalizing o o' with
  | nil => rfl
  | cons p l ih =>
    simp only [State.performAll]
    refine congrArg₂ _ ?_ (ih ..)
    split
    next => exact h.perform ..
    next => rfl

/-- Loads performed early do not depend on what the memory model keeps. -/
theorem State.Beside.capture {s t : State} (h : s.Beside t) (x : Ctx) (o : Ledger) (sel : Producer → Bool) :
    t.capture { x with ord := o } sel = { s.capture x sel with ord := (t.capture { x with ord := o } sel).ord } := by
  have prods : (t.capture { x with ord := o } sel).prods = (s.capture x sel).prods := h.performAll sel x.prods x.ord o
  exact congrArg (fun l => { t.capture { x with ord := o } sel with prods := l }) prods

/-! ## Streams alike -/

/-- The instance `i` with `o` carried to its stream. -/
def Inst.withOrd (i : Inst) (o : Ledger) : Inst := { i with ctx := { i.ctx with ord := o } }

/-- `c'` is the stream `c` but for what the memory model keeps: what is carried to it, and what stands beside memory. -/
structure Cur.Alike (c c' : Cur) : Prop where
  uid : c'.uid = c.uid
  q : c'.q = c.q
  clk : c'.clk = c.clk
  state : c.s.Beside c'.s
  inst : ∃ o, c'.i = c.i.withOrd o

namespace Cur.Alike
variable {a b c : Cur}

protected theorem refl (c : Cur) : c.Alike c := ⟨rfl, rfl, rfl, .refl _, c.i.ctx.ord, rfl⟩
protected theorem trans (h : a.Alike b) (k : b.Alike c) : a.Alike c := by
  obtain ⟨o, inst⟩ := h.inst
  obtain ⟨o', inst'⟩ := k.inst
  exact ⟨k.uid.trans h.uid, k.q.trans h.q, k.clk.trans h.clk, h.state.trans k.state, o', by rw [inst', inst]; rfl⟩

theorem who (h : a.Alike b) : b.i.who = a.i.who := by
  obtain ⟨o, inst⟩ := h.inst
  rw [inst]
  rfl
theorem die (h : a.Alike b) : b.die = a.die := by rw [Cur.die, Cur.die, h.who]
theorem asid (h : a.Alike b) : b.asid = a.asid := by
  unfold Cur.asid
  rw [h.who, h.die]
  split
  · rw [State.die, State.die, h.state.dies]
  · rfl
theorem mayStore (h : a.Alike b) (pa : Nat) : b.mayStore pa = a.mayStore pa := by
  rw [Cur.mayStore, Cur.mayStore, h.who, h.state.egress]
theorem spanMsg (h : a.Alike b) (va pa n op v : Nat) : b.spanMsg va pa n op v = a.spanMsg va pa n op v := by
  rw [Cur.spanMsg, Cur.spanMsg, h.uid, h.asid, h.who, h.die, h.clk]
theorem away (h : a.Alike b) : b.i.ctx.away = a.i.ctx.away := by
  obtain ⟨o, inst⟩ := h.inst
  rw [inst]
  rfl

/-- A change of the context that does not look at what is carried. -/
theorem mapCtx {f f' : Ctx → Ctx} (blind : ∀ x o, ∃ o', f' { x with ord := o } = { f x with ord := o' }) (h : a.Alike b) :
    (a.mapCtx f).Alike (b.mapCtx f') := by
  obtain ⟨o, inst⟩ := h.inst
  obtain ⟨o', ctx⟩ := blind a.i.ctx o
  refine ⟨h.uid, h.q, h.clk, h.state, o', ?_⟩
  rw [Cur.mapCtx, inst]
  exact congrArg a.i.withCtx ctx

/-- A change of the state that is the same beside memory. -/
theorem mapS {f f' : State → State} (same : (f a.s).Beside (f' b.s)) (h : a.Alike b) : (a.mapS f).Alike (b.mapS f') :=
  ⟨h.uid, h.q, h.clk, same, h.inst⟩

theorem mapRegs (h : a.Alike b) (f : Regs → Regs) : (a.mapRegs f).Alike (b.mapRegs f) := h.mapCtx fun _ o => ⟨o, rfl⟩
theorem commit (h : a.Alike b) : a.commit.Alike b.commit := by
  obtain ⟨o, inst⟩ := h.inst
  exact ⟨h.uid, h.q, h.clk, h.state, o, by rw [Cur.commit, Cur.mapSched, inst]; rfl⟩
theorem produceAs (h : a.Alike b) (dst k : Nat) (src : ProdSrc) (taint acq ldc : Bool) (scope : Option Nat) (byTaint : Bool) :
    (a.produceAs dst k src taint acq ldc scope byTaint).Alike (b.produceAs dst k src taint acq ldc scope byTaint) := by
  obtain ⟨o, inst⟩ := h.inst
  exact ⟨h.uid, h.q, h.clk, h.state, o, by rw [Cur.produceAs_i, Cur.produceAs_i, inst]; rfl⟩

/-- Loads performed early. -/
theorem capture (h : a.Alike b) (sel : Producer → Bool) :
    (a.mapCtx fun x => a.s.capture x sel).Alike (b.mapCtx fun x => b.s.capture x sel) :=
  h.mapCtx fun x o => ⟨_, h.state.capture x o sel⟩

/-- A change of what is carried. -/
theorem ord (h : a.Alike b) (f : Ledger → Ledger) : a.Alike (b.mapOrd f) :=
  h.trans ⟨rfl, rfl, rfl, .refl _, f b.i.ctx.ord, rfl⟩

/-- An sc fence changes nothing else (R255). -/
theorem fenceSc (h : a.Alike b) (n : Nat) : a.Alike (b.fenceSc n) :=
  h.trans ⟨rfl, rfl, rfl, b.s.beside_scFence b.i.ctx.ord n, _, rfl⟩
theorem fenceIf (h : a.Alike b) (m : MemSpec) : a.Alike (b.fenceIf m) := by
  unfold Cur.fenceIf
  split
  · exact h.fenceSc _
  · exact h

/-- An acquire makes later accesses wait (R194). -/
theorem acquire (h : a.Alike b) (n : Nat) : (a.mapCtx fun x => Claims.acquired x n).Alike (b.acquire n) :=
  h.mapCtx fun _ o => ⟨o.acqFence n, rfl⟩

theorem acquireIf (h : a.Alike b) (n : Nat) (p : Prop) [Decidable p] :
    (a.mapCtx fun x => if p then Claims.acquired x n else x).Alike (if p then b.acquire n else b) := by
  by_cases hp : p
  · simp only [if_pos hp]; exact h.acquire n
  · simp only [if_neg hp]; exact h

/-- A read of this module performs the earlier loads of its bytes (R253). -/
theorem reads (h : a.Alike b) (pa n : Nat) (acq : Option Nat) :
    (a.mapCtx fun x => a.s.captureFor x pa n).Alike (b.reads pa n acq) :=
  (h.capture fun p => p.src.meets pa n).trans ⟨rfl, rfl, rfl, .refl _, _, rfl⟩

theorem filtered (h : a.Alike b) : a.filtered.Alike b.filtered := by
  refine h.mapS ?_
  obtain ⟨heads, scs, e⟩ := h.state
  exact ⟨heads, scs, by rw [e]; rfl⟩

theorem ask (h : a.Alike b) (va pa n op v : Nat) : (a.ask va pa n op v).Alike (b.ask va pa n op v) := by
  refine h.mapS ?_
  rw [h.spanMsg]
  obtain ⟨heads, scs, e⟩ := h.state
  exact ⟨heads, scs, by rw [e]; rfl⟩

/-- A load asks for the same and is to deliver the same. -/
theorem load (h : a.Alike b) (va pa n : Nat) (form : LoadForm) :
    (a.load va pa n form).1.Alike (b.load va pa n form).1 ∧ (b.load va pa n form).2 = (a.load va pa n form).2 := by
  unfold Cur.load
  split
  · refine ⟨h.ask .., ?_⟩
    rw [h.state.ports, Cur.ownBytes, Cur.ownBytes, h.away]
  · exact ⟨h, rfl⟩

theorem write (h : a.Alike b) (pa n v : Nat) (l l' : List Head) : (a.write pa n v l).Alike (b.write pa n v l') := by
  obtain ⟨o, inst⟩ := (h.capture fun p => p.src.meets pa n).inst
  have inst : b.i.withCtx (b.s.captureFor b.i.ctx pa n) = (a.i.withCtx (a.s.captureFor a.i.ctx pa n)).withOrd o := inst
  refine ⟨h.uid, h.q, h.clk, ?_, _, congrArg (fun i : Inst => i.withOrd _) inst⟩
  exact ((State.beside_putHeads ..).symm.trans (h.state.writePa pa n v)).trans (State.beside_putHeads ..)

theorem post (h : a.Alike b) (va pa n v : Nat) (l l' : List Head) : (a.post va pa n v l).Alike (b.post va pa n v l') := by
  unfold Cur.post
  rw [h.state.ports]
  refine (h.mapS ?_).mapCtx fun x o => ⟨o, rfl⟩
  rw [h.spanMsg]
  have sent : (a.s.sendSpan (a.spanMsg va pa n 0 v)).Beside (b.s.sendSpan (a.spanMsg va pa n 0 v)) := by
    obtain ⟨heads, scs, e⟩ := h.state
    exact ⟨heads, scs, by rw [e]; rfl⟩
  exact ((State.beside_awayWrite ..).symm.trans sent).trans (State.beside_awayWrite ..)

/-- A store changes the same, whatever sequences it heads. -/
theorem storeAs (h : a.Alike b) (va pa n v : Nat) (l l' : List Head) :
    (a.storeAs va pa n v l).Alike (b.storeAs va pa n v l') := by
  unfold Cur.storeAs
  rw [h.mayStore]
  split
  · exact h.filtered
  · split
    · exact h.post ..
    · exact h.write ..

end Cur.Alike

/-- The completion of a word, up to what the memory model keeps: `c'` is alike the stream that the effect leaves. -/
theorem word_alike {s b : State} {c a c' : Cur} {i : Inst} {pro hand : Bool} {len : Nat} {f : Cur → Eff} (h : s.Issues c)
    (hm : c.May pro hand) (hf : f c = .ok c') (alike : a.Alike c') (hs : c.Same a) (hb : a.s = b) (hi : a.i = i) :
    ∃ t, issueLen len pro hand s f = .next t ∧ Claims.Leaves c b (i.past c.pc len) t := by
  subst hb hi
  obtain ⟨uid, q, clk, ⟨heads, scs, state⟩, ⟨o, inst⟩⟩ := alike
  have same : c.Same c' := ⟨uid.trans hs.uid, q.trans hs.q, clk.trans hs.clk, by rw [inst]; exact hs.who, by rw [inst]; exact hs.pc⟩
  obtain ⟨t, next, leaves⟩ := issueLen_leaves (len := len) h hm hf same
  refine ⟨t, next, o, c'.s.phys.relaxed, ?_⟩
  rw [inst] at leaves
  have beside : a.s.updRelaxed (fun _ => c'.s.phys.relaxed) = c'.s := by rw [state]; rfl
  rw [beside]
  exact leaves

/-! ## Releases (R194, R195) -/

theorem ordRel_eq (o : Order) : ordRel o = Claims.rel o := by cases o <;> rfl
theorem ordAcq_eq (o : Order) : ordAcq o = Claims.acq o := by cases o <;> rfl

@[simp] theorem Claims.released_regs (s : State) (x : Ctx) (o : Order) : (Claims.released s x o).regs = x.regs := by
  unfold Claims.released; split <;> rfl
@[simp] theorem Claims.released_pc (s : State) (x : Ctx) (o : Order) : (Claims.released s x o).pc = x.pc := by
  unfold Claims.released; split <;> rfl
@[simp] theorem Claims.released_away (s : State) (x : Ctx) (o : Order) : (Claims.released s x o).away = x.away := by
  unfold Claims.released; split <;> rfl

/-- The stream when an access with the address taint `t` and this order is performed. -/
def Cur.releasedFor (c : Cur) (t : Bool) (o : Order) : Cur := c.mapCtx fun x => Claims.released c.s (Claims.ordered c.s x t) o

theorem Cur.same_releasedFor (c : Cur) (t : Bool) (o : Order) : c.Same (c.releasedFor t o) :=
  ⟨rfl, rfl, rfl, rfl, (Claims.released_pc ..).trans (Claims.ordered_pc ..)⟩

/-- The release side of an access whose stream is settled goes on. -/
theorem releaseIf_settled {c : Cur} {m : MemSpec} (settled : Claims.settled c.i.ctx m) (t : Bool) (k : Cur → Eff) :
    releaseIf (c.orderTaint t) m k = k (c.releasedFor t m.ord) := by
  unfold releaseIf
  rw [ordRel_eq]
  by_cases rel : Claims.rel m.ord = true
  · obtain ⟨far, stores⟩ := settled rel
    have sys : (m.scope == .sys) = true → c.i.ctx.undeliv = false ∧ c.i.ctx.posted = [] := fun h =>
      stores (beq_iff_eq.1 h)
    rw [if_pos rel, release_orderTaint t far sys]
    refine congrArg k (congrArg (fun x => { c with i := c.i.withCtx x }) ?_)
    simp [Claims.released, rel]
  · rw [if_neg rel, Cur.orderTaint_eq]
    refine congrArg k (congrArg (fun x => { c with i := c.i.withCtx x }) ?_)
    simp [Claims.released, rel]

end Sys2Proof.Machine
end

section
/-! # Ordered accesses, fences and prefetches (O12)

What the memory model shuts out, then the words: an ordered access performs what its order asks for and is otherwise a load or a
store. -/

namespace Sys2Proof.Machine

/-! ## What an acquire shuts out (R249, R252, R253) -/

theorem Know.covers_iff (a b : Know) : a.covers b = true ↔ a.old = b.old ∧ a.pos = b.pos ∧ b.scope ≤ a.scope := by
  simp [Know.covers, and_assoc]

theorem Know.covers_refl (a : Know) : a.covers a = true := (a.covers_iff a).2 ⟨rfl, rfl, Nat.le_refl _⟩
theorem Know.covers_trans {a b c : Know} (h : a.covers b = true) (k : b.covers c = true) : a.covers c = true := by
  rw [Know.covers_iff] at h k ⊢
  exact ⟨h.1.trans k.1, h.2.1.trans k.2.1, Nat.le_trans k.2.2 h.2.2⟩

/-- What a view knows is known at least as widely. -/
def Knows (v : List Know) (k : Know) : Prop := ∃ x ∈ v, x.covers k = true

/-- A view that learns something knows it, and what it knew. -/
theorem knows_joinView {a b : List Know} {k : Know} (h : Knows a k ∨ k ∈ b) : Knows (joinView a b) k := by
  unfold joinView
  induction b generalizing a with
  | nil => exact h.resolve_right List.not_mem_nil
  | cons y b ih =>
    refine ih (or_iff_not_imp_right.2 fun later => ?_)
    have old : Knows a k ∨ k = y := h.imp_right fun mem => (List.mem_cons.1 mem).resolve_right later
    dsimp only
    split
    next known =>
      rcases old with old | rfl
      · exact old
      · exact List.any_eq_true.1 known
    next =>
      have mine : Knows (a.filter (fun x => !y.covers x) ++ [y]) y :=
        ⟨y, List.mem_append_right _ (List.mem_singleton_self y), y.covers_refl⟩
      rcases old with ⟨x, mem, covers⟩ | rfl
      · by_cases wider : y.covers x = true
        · exact ⟨y, List.mem_append_right _ (List.mem_singleton_self y), Know.covers_trans wider covers⟩
        · exact ⟨x, List.mem_append_left _ (List.mem_filter.2 ⟨mem, by simpa using wider⟩), covers⟩
      · exact mine

/-- An old value of which a newer one is known to reach the agent can no longer be read (R253). -/
theorem Ledger.not_mayRead {o : Ledger} {k : Know} (known : Knows o.view k) (reaches : ncs k.pos o.pos ≤ k.scope) (byTaint : Bool) :
    o.mayRead k.old byTaint = false := by
  have knows : Knows (if byTaint then joinView o.view (gives o.cons o.pos 4) else o.view) k := by
    split
    · exact knows_joinView (.inl known)
    · exact known
  obtain ⟨x, mem, covers⟩ := knows
  obtain ⟨old, pos, scope⟩ := (x.covers_iff k).1 covers
  refine List.all_eq_false.2 ⟨x, mem, ?_⟩
  have : x.reaches o.pos = true := decide_eq_true (pos ▸ Nat.le_trans reaches scope)
  simp [old, this]

/-- An agent that has itself met a newer value (R252, R253). -/
theorem Ledger.meet_mayRead {o : Ledger} {l : List Nat} {k : Nat} (mem : k ∈ l) (byTaint : Bool) :
    (o.meet l).mayRead k byTaint = false := by
  have reaches : ncs o.pos o.pos ≤ 5 := by simp [ncs]
  exact Ledger.not_mayRead (o := o.meet l) (k := ⟨k, o.pos, 5⟩)
    (knows_joinView (.inr (List.mem_map.2 ⟨k, mem, rfl⟩))) reaches byTaint

/-- An acquire that is wide enough shuts out what is carried to the release over edges as wide (R249, R252). -/
theorem Ledger.acquire_mayRead {o : Ledger} {h : Head} {n : Nat} (release : ncs h.pos o.pos ≤ h.scope) (acquire : ncs h.pos o.pos ≤ n)
    {x : Know} (mem : x ∈ h.view) (own : ncs x.pos o.pos ≤ x.scope) (wide : ncs x.pos o.pos ≤ h.scope) (wide' : ncs x.pos o.pos ≤ n)
    (byTaint : Bool) : (o.acquire [h] n).mayRead x.old byTaint = false := by
  have gives_eq : gives [h] o.pos n = joinView [] (narrow (Nat.min h.scope n) h.view) :=
    congrArg (joinView []) (if_pos ⟨release, acquire⟩)
  have given : Knows (gives [h] o.pos n) { x with scope := Nat.min x.scope (Nat.min h.scope n) } :=
    gives_eq ▸ knows_joinView (.inr (List.mem_map.2 ⟨x, mem, rfl⟩))
  obtain ⟨y, there, covers⟩ := given
  obtain ⟨z, known, covers'⟩ := knows_joinView (a := o.view) (.inr there)
  exact Ledger.not_mayRead (o := o.acquire [h] n) ⟨z, known, Know.covers_trans covers' covers⟩
    (Nat.le_min.2 ⟨own, Nat.le_min.2 ⟨wide, wide'⟩⟩) byTaint

/-- An acquire for which either scope falls short carries nothing (R249). -/
theorem Ledger.acquire_short {o : Ledger} {h : Head} {n : Nat} (short : h.scope < ncs h.pos o.pos ∨ n < ncs h.pos o.pos)
    (k : Nat) (byTaint : Bool) : (o.acquire [h] n).mayRead k byTaint = o.mayRead k byTaint := by
  have none : h.give o.pos n = [] := if_neg (by omega)
  unfold Ledger.acquire Ledger.sync Ledger.learn gives
  rw [List.foldl_cons, List.foldl_nil, none]
  rfl

/-! ## Ordered loads (R194, R255) -/

/-- 64 bits are two entries, the low half first (R190). -/
theorem loadEntries_wide (v : Nat) :
    loadEntries .w64 v = [(BitVec.ofNat 64 v).extractLsb' 0 32, (BitVec.ofNat 64 v).extractLsb' 32 32] := by
  refine congrArg₂ (fun a b => [a, b]) ?_ ?_ <;> refine BitVec.eq_of_toNat_eq ?_ <;>
    simp only [BitVec.toNat_ofNat, BitVec.extractLsb'_toNat, Nat.shiftRight_eq_div_pow] <;> omega

theorem loadEntries_narrow (v : Nat) : loadEntries .w32 v = [(BitVec.ofNat 64 v).extractLsb' 0 32] := by
  refine congrArg (fun a => [a]) (BitVec.eq_of_toNat_eq ?_)
  simp only [BitVec.toNat_ofNat, BitVec.extractLsb'_toNat, Nat.shiftRight_eq_div_pow]
  omega

/-- The entries that a sc load reads at its issue. -/
def scEntries (wide : Bool) (v : Word64) : List Word :=
  if wide then [v.extractLsb' 0 32, v.extractLsb' 32 32] else [v.extractLsb' 0 32]

theorem State.loadNow_form (s : State) (pa n : Nat) (wide : Bool) :
    s.loadNow (.mem pa n (if wide then .w64 else .w32)) = some (scEntries wide (BitVec.ofNat 64 (s.readPa pa n))) := by
  cases wide
  · exact congrArg some (loadEntries_narrow _)
  · exact congrArg some (loadEntries_wide _)

/-- A sc load of this module is performed at its issue: every earlier load is waited for, and those of its bytes are performed. -/
theorem Cur.alike_scLoad {c : Cur} {pa n : Nat} (sound : c.s.badAt pa n = false) (scope : Nat) (form : LoadForm) :
    ((c.mapCtx fun x => Claims.acquired x scope).mapCtx fun x => c.s.captureFor x pa n).Alike (c.scLoad pa n scope form).1 ∧
      (c.scLoad pa n scope form).2 = .known ((c.s.loadNow (.mem pa n form)).getD []) := by
  have read := (((Cur.Alike.refl c).acquire scope).fenceSc scope).reads pa n (some scope)
  have clean : ¬ (((c.acquire scope).fenceSc scope).reads pa n (some scope)).s.badAt pa n = true :=
    Bool.eq_false_iff.1 ((read.state.badAt pa n).trans sound)
  unfold Cur.scLoad
  dsimp only
  rw [if_neg clean]
  exact ⟨read.fenceSc scope, rfl⟩

/-- What an ordered load is performed as: a sc load of this module at once, any other as a load (R194, R255). -/
def Cur.orderedLoad (c : Cur) (m : MemSpec) (va pa : Nat) : Cur × ProdSrc :=
  let n := if m.wide then 8 else 4
  let form : LoadForm := if m.wide then .w64 else .w32
  if m.ord = .sc ∧ !isSpan pa then c.scLoad pa n (scopeOf m) form
  else (if m.ord = .sc then (c.acquire (scopeOf m)).fenceSc (scopeOf m) else c).load va pa n form

/-- The stream that a load of this order leaves, but for what the memory model keeps: a sc load makes every earlier one be waited for,
and in this module performs those of its bytes. -/
def Cur.orderedFor (c : Cur) (m : MemSpec) (pa n : Nat) : Cur :=
  (c.mapCtx fun x => if m.ord = .sc then Claims.acquired x (scopeOf m) else x).mapCtx fun x =>
    if m.ord = .sc ∧ isSpan pa = false then c.s.captureFor x pa n else x

theorem Cur.alike_orderedLoad_span {c : Cur} {m : MemSpec} {pa : Nat} (away : isSpan pa = true) (va : Nat) :
    ((c.orderedFor m pa (if m.wide then 8 else 4)).ask va pa (if m.wide then 8 else 4) 2 0).Alike (c.orderedLoad m va pa).1 ∧
      (c.orderedLoad m va pa).2 =
        .span c.s.ports.nextMsg (if m.wide then .w64 else .w32) (c.ownBytes pa (if m.wide then 8 else 4)) := by
  have here : c.orderedFor m pa (if m.wide then 8 else 4) =
      c.mapCtx fun x => if m.ord = .sc then Claims.acquired x (scopeOf m) else x := by
    simp [Cur.orderedFor, away, Cur.mapCtx]
  have alike : (c.mapCtx fun x => if m.ord = .sc then Claims.acquired x (scopeOf m) else x).Alike
      (if m.ord = .sc then (c.acquire (scopeOf m)).fenceSc (scopeOf m) else c) := by
    by_cases sc : m.ord = .sc
    · simp only [if_pos sc]; exact ((Cur.Alike.refl c).acquire _).fenceSc _
    · simp only [if_neg sc]; exact .refl c
  have own : (if m.ord = .sc then (c.acquire (scopeOf m)).fenceSc (scopeOf m) else c).i.ctx.away = c.i.ctx.away := by
    split <;> rfl
  have away' : ¬ (m.ord = .sc ∧ (!isSpan pa) = true) := by simp [away]
  unfold Cur.orderedLoad
  dsimp only
  rw [if_neg away', here, Cur.load_span away, alike.state.ports, Cur.ownBytes, Cur.ownBytes, own]
  exact ⟨alike.ask .., rfl⟩

theorem Cur.alike_orderedLoad_home {c : Cur} {m : MemSpec} {pa : Nat} (home : isSpan pa = false)
    (sound : m.ord = .sc → c.s.badAt pa (if m.wide then 8 else 4) = false) (va : Nat) :
    (c.orderedFor m pa (if m.wide then 8 else 4)).Alike (c.orderedLoad m va pa).1 ∧
      (c.orderedLoad m va pa).2 = if m.ord = .sc then
          .known (scEntries m.wide (BitVec.ofNat 64 (c.s.readPa pa (if m.wide then 8 else 4))))
        else .mem pa (if m.wide then 8 else 4) (if m.wide then .w64 else .w32) := by
  unfold Cur.orderedLoad Cur.orderedFor
  by_cases sc : m.ord = .sc
  · obtain ⟨left, src⟩ := c.alike_scLoad (sound sc) (scopeOf m) (if m.wide then .w64 else .w32)
    rw [State.loadNow_form] at src
    simp only [sc, home, Bool.not_false, and_self, if_true]
    exact ⟨left, src⟩
  · simp only [sc, false_and, if_false, Cur.load_home home, and_true]
    exact .refl c

section
variable {s : State} {c : Cur} {g : Guard} {b : RBody} {m : MemSpec} {pa : Nat} (h : s.Issues c)
  (on : guardAt c.regs g 0 = true) (acq : c.i.ctx.acqOpen = false) (settled : Claims.settled c.i.ctx m)
include h on acq settled

/-- An ordered load completes as the load that its order asks for. -/
theorem execLdOrdered_effect (room : c.room b.dst.toNat (if m.wide then 2 else 1) = true)
    (aligned : (c.regs.getPair b.a.toNat).toNat % (if m.wide then 8 else 4) = 0)
    (held : s.translate c.die c.asid (c.regs.getPair b.a.toNat).toNat .read = .ok pa) : ∃ f,
      execLdOrdered g b m s = issue true true s f ∧
      f c = .ok (((c.releasedFor (c.regs.taintPair b.a.toNat) m.ord).orderedLoad m (c.regs.getPair b.a.toNat).toNat pa).1.produceAs
        b.dst.toNat (if m.wide then 2 else 1)
        ((c.releasedFor (c.regs.taintPair b.a.toNat) m.ord).orderedLoad m (c.regs.getPair b.a.toNat).toNat pa).2 false true false
        (some (scopeOf m)) (c.regs.taintPair b.a.toNat)) := by
  obtain rfl := State.cur_s h.cur
  exact ⟨_, rfl, (guarded_true on _).trans ((needRoom_true room _).trans ((afterAcquire_of_none acq _).trans
    ((access_held aligned held _).trans (releaseIf_settled settled _ _))))⟩

end

theorem Cur.same_acquiredIf (c : Cur) (p : Prop) [Decidable p] (n : Nat) :
    c.Same (c.mapCtx fun x => if p then Claims.acquired x n else x) := by
  by_cases hp : p <;> simp only [hp, if_true, if_false] <;> exact ⟨rfl, rfl, rfl, rfl, rfl⟩

theorem Cur.same_orderedFor (c : Cur) (m : MemSpec) (pa n : Nat) : c.Same (c.orderedFor m pa n) := by
  refine (c.same_acquiredIf (m.ord = .sc) (scopeOf m)).trans ?_
  by_cases here : m.ord = .sc ∧ isSpan pa = false <;> simp only [Cur.orderedFor, here, if_true, if_false] <;>
    exact ⟨rfl, rfl, rfl, rfl, rfl⟩

/-! ## Ordered stores (R194, R255) -/

/-- The stream that a store of this order leaves, but for what the memory model keeps. -/
def Cur.orderedStore (c : Cur) (m : MemSpec) (t : Bool) (va pa n v : Nat) (taken : FMap Nat) : Cur :=
  ((((c.releasedFor t m.ord).mapCtx fun x => if m.ord = .sc then Claims.acquired x (scopeOf m) else x).commit).store va pa n v).mapRegs
    fun r => r.eat taken

theorem execStOrdered_effect {s : State} {c : Cur} {g : Guard} {b : RBody} {m : MemSpec} {pa : Nat} {l : List (Word × Bool)}
    {taken : FMap Nat} (h : s.Issues c) (on : guardAt c.regs g 0 = true) (confirmed : c.i.ex.unconf = false)
    (acq : c.i.ctx.acqOpen = false) (settled : Claims.settled c.i.ctx m)
    (ops : c.regs.reads (if m.wide then [] else [opB b]) = .vals l taken)
    (aligned : (c.regs.getPair b.a.toNat).toNat % (if m.wide then 8 else 4) = 0)
    (held : s.translate c.die c.asid (c.regs.getPair b.a.toNat).toNat .write = .ok pa) : ∃ f c',
      execStOrdered g b m s = issue true true s f ∧ f c = .ok c' ∧
      (c.orderedStore m (c.regs.taintPair b.a.toNat) (c.regs.getPair b.a.toNat).toNat pa (if m.wide then 8 else 4)
        (if m.wide then (c.regs.getPair b.b.toNat).toNat else (nth (l.map (·.1)) 0).toNat) taken).Alike c' := by
  obtain rfl := State.cur_s h.cur
  have regs : (c.releasedFor (c.regs.taintPair b.a.toNat) m.ord).regs = c.regs :=
    (Claims.released_regs ..).trans (Claims.ordered_regs ..)
  refine ⟨_, _, rfl, (guarded_true on _).trans ((commitStall_of_confirmed confirmed _).trans ((withOps_vals ops _).trans
    ((afterAcquire_of_none acq _).trans ((access_held aligned held _).trans (releaseIf_settled settled _ _))))), ?_⟩
  rw [regs]
  have before := (((Cur.Alike.refl (c.releasedFor (c.regs.taintPair b.a.toNat) m.ord)).acquireIf (scopeOf m) (m.ord = .sc)).fenceIf
    m).commit
  exact ((before.storeAs _ _ _ _ _ _).fenceIf m).mapRegs _

theorem Cur.same_orderedStore (c : Cur) (m : MemSpec) (t : Bool) (va pa n v : Nat) (taken : FMap Nat) :
    c.Same (c.orderedStore m t va pa n v taken) :=
  (((((c.same_releasedFor t m.ord).trans (Cur.same_acquiredIf _ (m.ord = .sc) (scopeOf m))).trans (Cur.same_commit _)).trans
    (Cur.same_store ..)).trans (Cur.same_mapRegs ..))

/-- What an ordered store leaves is what `Claims.stores` says of its context. -/
theorem Cur.orderedStore_parts (c : Cur) (m : MemSpec) (t : Bool) (va pa n v : Nat) (taken : FMap Nat) (pc : Word64) (len : Nat) :
    let x := Claims.released c.s (Claims.ordered c.s c.i.ctx t) m.ord
    let r := Claims.stores c.s c (if m.ord = .sc then Claims.acquired x (scopeOf m) else x) va pa n v
    (c.orderedStore m t va pa n v taken).s = r.1 ∧
    (c.orderedStore m t va pa n v taken).i.past pc len =
      ((c.i.withCtx { r.2 with regs := c.regs.eat taken }).past pc len).committed := by
  intro x r
  have released : x.regs = c.regs := (Claims.released_regs ..).trans (Claims.ordered_regs ..)
  have regs : r.2.regs = c.regs := by
    refine (Claims.stores_keeps ..).1.trans ?_
    split <;> exact released
  rw [← regs, Cur.orderedStore, Cur.store_eq]
  exact ⟨rfl, rfl⟩

/-! ## Fences (R195) -/

/-- The stream that a fence of this order leaves, but for what the memory model keeps. -/
def Cur.fenced (c : Cur) (m : MemSpec) : Cur :=
  (c.releasedFor false m.ord).mapCtx fun x => if Claims.acq m.ord then Claims.acquired x (scopeOf m) else x

theorem Cur.same_fenced (c : Cur) (m : MemSpec) : c.Same (c.fenced m) :=
  (c.same_releasedFor false m.ord).trans (Cur.same_acquiredIf ..)

theorem execFence_effect {s : State} {c : Cur} {g : Guard} {b : RBody} {m : MemSpec}
    (on : guardAt c.regs g 0 = true) (acq : c.i.ctx.acqOpen = false) (settled : Claims.settled c.i.ctx m) : ∃ f c',
      execFence g b m s = issue true true s f ∧ f c = .ok c' ∧ (c.fenced m).Alike c' := by
  refine ⟨_, _, rfl, (guarded_true on _).trans ((afterAcquire_of_none acq _).trans (releaseIf_settled settled false _)), ?_⟩
  have acquired := (Cur.Alike.refl (c.releasedFor false m.ord)).acquireIf (scopeOf m) (ordAcq m.ord = true)
  rw [ordAcq_eq] at acquired ⊢
  split
  · exact acquired.fenceSc _
  · split
    · exact acquired.ord _
    · exact acquired

/-! ## The obligation -/

/-- Settles O12: what the memory model shuts out, then each word by the stream that it leaves. -/
theorem orderedAccesses : Obligations.OrderedAccesses := by
  unfold Obligations.OrderedAccesses
  refine ⟨fun o l k byTaint mem => Ledger.meet_mayRead mem byTaint, fun o h n => ⟨fun release acquire x mem own wide wide' =>
    Ledger.acquire_mayRead release acquire mem own wide wide', Ledger.acquire_short⟩, ?load, ?store, ?fence, ?pref⟩
  case load =>
    intro g b m s c pa h on acq settled n k va room aligned held sound tainted x z y v form src
    obtain rfl := State.cur_s h.cur
    obtain ⟨f, word, eff⟩ := execLdOrdered_effect h on acq settled room aligned held
    have word : exec (.ldOrdered g b m) c.s = issue true true c.s f := word
    have same : c.Same ((c.releasedFor tainted m.ord).orderedFor m pa n) := (c.same_releasedFor ..).trans (Cur.same_orderedFor ..)
    rw [word]
    by_cases away : isSpan pa = true
    · obtain ⟨alike, from_⟩ := (c.releasedFor tainted m.ord).alike_orderedLoad_span (m := m) away va.toNat
      have own : (c.releasedFor tainted m.ord).ownBytes pa n = c.ownBytes pa n := by
        simp [Cur.ownBytes, Cur.releasedFor, Cur.mapCtx]
      have src_eq : .span c.s.ports.nextMsg form (c.ownBytes pa n) = src := (if_pos away).symm
      rw [from_.trans ((congrArg _ own).trans src_eq)] at eff
      rw [if_pos away]
      exact word_alike h c.may_all eff (alike.produceAs ..) (same.trans ⟨rfl, rfl, rfl, rfl, rfl⟩) rfl rfl
    · have home : isSpan pa = false := by simpa using away
      obtain ⟨alike, from_⟩ := (c.releasedFor tainted m.ord).alike_orderedLoad_home (m := m) home (fun sc => sound sc home) va.toNat
      have src_eq : (if m.ord = .sc then .known (scEntries m.wide v) else .mem pa n form) = src := (if_neg away).symm
      rw [from_.trans src_eq] at eff
      rw [if_neg away]
      exact word_alike h c.may_all eff (alike.produceAs ..) (same.trans ⟨rfl, rfl, rfl, rfl, rfl⟩) rfl rfl
  case store =>
    intro g b m s c pa v taken h on confirmed acq settled data n va aligned held x r
    obtain rfl := State.cur_s h.cur
    obtain ⟨l, ops, value⟩ : ∃ l, c.regs.reads (if m.wide then [] else [opB b]) = .vals l taken ∧
        v = if m.wide then (c.regs.getPair b.b.toNat).toNat else (nth (l.map (·.1)) 0).toNat := by
      cases wide : m.wide
      · obtain ⟨w, tw, ops, value⟩ : ∃ w tw, c.regs.reads [opB b] = .vals [(w, tw)] taken ∧ v = w.toNat := by simpa [wide] using data
        exact ⟨[(w, tw)], ops, value⟩
      · obtain ⟨value, none⟩ : v = (c.regs.getPair b.b.toNat).toNat ∧ taken = .empty := by simpa [wide] using data
        exact ⟨[], none ▸ rfl, value⟩
    obtain ⟨f, c', word, eff, alike⟩ := execStOrdered_effect h on confirmed acq settled ops aligned held
    rw [← value] at alike
    have word : exec (.stOrdered g b m) c.s = issue true true c.s f := word
    rw [word]
    obtain ⟨state, inst⟩ := c.orderedStore_parts m (c.regs.taintPair b.a.toNat) va.toNat pa n v taken c.pc 8
    obtain ⟨u, next, leaves⟩ := word_alike (len := 8) h c.may_all eff alike (Cur.same_orderedStore ..) rfl rfl
    rw [state, inst] at leaves
    exact ⟨u, next, leaves⟩
  case fence =>
    intro g b m s c h on acq settled x
    obtain rfl := State.cur_s h.cur
    obtain ⟨f, c', word, eff, alike⟩ := execFence_effect (b := b) on acq settled
    have word : exec (.fence g b m) c.s = issue true true c.s f := word
    rw [word]
    exact word_alike h c.may_all eff alike (Cur.same_fenced ..) rfl rfl
  case pref =>
    intro g b s c h on va
    obtain rfl := State.cur_s h.cur
    obtain ⟨f, word, eff⟩ : ∃ f, exec (.pref g b) c.s = issue true true c.s f ∧ f c =
        match c.s.translate c.die c.asid va.toNat .read with
        | .ok pa => .ok (c.mapS fun s => s.updDie c.die fun d => { d with prefetch := d.prefetch ++ [(c.asid, pa / 64 * 64)] })
        | _ => .ok c := ⟨_, rfl, guarded_true on _⟩
    rw [word]
    cases held : c.s.translate c.die c.asid va.toNat .read with
    | ok pa =>
      rw [held] at eff
      exact word_ok h c.may_all eff ⟨rfl, rfl, rfl, rfl, rfl⟩ rfl rfl
    | _ =>
      rw [held] at eff
      exact word_ok h c.may_all eff (.refl c) rfl rfl

end Sys2Proof.Machine
end

section
/-! # Atomics (O13)

An atomic of this module performs the earlier loads of its cell, changes it once and is to deliver the old value; one of another module
sends the message that does so there. -/

namespace Sys2Proof.Machine

/-! ## Earlier loads of the same bytes are performed once (R253) -/

/-- A load that has been performed reads no byte any more. -/
theorem State.meets_perform (s : State) (o : Ledger) (p : Producer) (pa n : Nat) : (s.perform o p).2.src.meets pa n = false := by
  cases src : p.src with
  | mem a k f => simp only [State.perform, src]; split <;> rfl
  | lanes f ls =>
    simp only [State.perform, src, ProdSrc.meets, List.any_map, List.any_eq_false]
    intro l _
    cases l with
    | mem a => by_cases bad : s.badAt a (fmtBytes f) = true <;> simp [bad]
    | _ => simp
  | _ => simp [State.perform, src, ProdSrc.meets]

theorem State.performAll_meets (s : State) (pa n : Nat) (l : List Producer) (o : Ledger) :
    ∀ p ∈ (s.performAll (fun p => p.src.meets pa n) l o).2, p.src.meets pa n = false := by
  induction l generalizing o with
  | nil => simp [State.performAll]
  | cons p l ih =>
    simp only [State.performAll, List.forall_mem_cons]
    refine ⟨?_, ih _⟩
    by_cases meets : p.src.meets pa n = true
    · rw [if_pos meets]; exact s.meets_perform ..
    · rw [if_neg meets]; exact Bool.not_eq_true _ ▸ meets

/-- Nothing is performed where nothing is named. -/
theorem State.performAll_of_none (s : State) {sel : Producer → Bool} {l : List Producer} (none : ∀ p ∈ l, sel p = false) (o : Ledger) :
    s.performAll sel l o = (o, l) := by
  induction l with
  | nil => rfl
  | cons p l ih =>
    obtain ⟨first, rest⟩ := List.forall_mem_cons.1 none
    simp [State.performAll, first, ih rest]

/-- Loads of the same bytes are performed once: what comes again after a change of what is carried performs nothing. -/
theorem State.captureFor_again (s t : State) (x : Ctx) (pa n : Nat) (o : Ledger) :
    t.captureFor { s.captureFor x pa n with ord := o } pa n = { s.captureFor x pa n with ord := o } := by
  unfold State.captureFor State.capture
  rw [t.performAll_of_none (s.performAll_meets pa n x.prods x.ord)]

/-! ## The value of an atomic (R197) -/

theorem State.readPa_lt (s : State) (pa n : Nat) : s.readPa pa n < 256 ^ n := by
  induction n generalizing pa with
  | zero => exact Nat.one_pos
  | succ n ih =>
    have byte := (s.byteAt pa).isLt
    have rest := ih (pa + 1)
    rw [State.readPa, Nat.pow_succ]
    omega

/-- The operation of the word of number `k`. -/
def atomOpOf (k : Nat) (sg : Bool) : AtomOp :=
  match k with
  | 0 => .add
  | 1 => .and
  | 2 => .or
  | 3 => .xor
  | 4 => .min sg
  | 5 => .max sg
  | 6 => .xchg
  | _ => .cas

/-- Each word of the table is the atomic of its number. -/
theorem exec_atomic : ∀ e ∈ Claims.atomics, ∀ g b m s, exec (e.1 g b m) s = atomicOp g b m (atomOpOf e.2 m.sgn) s := by
  simp only [Claims.atomics, List.forall_mem_cons, List.not_mem_nil, false_imp_iff, implies_true, and_true]
  and_intros <;> intros <;> rfl

theorem atomOpOf_eq_cas : ∀ e ∈ Claims.atomics, ∀ sg, atomOpOf e.2 sg = .cas ↔ e.2 = 7 := by
  simp [Claims.atomics, atomOpOf]

/-- Both descriptions of the operation agree. -/
theorem atomNew_atomOpOf {w : Nat} (o x y : BitVec w) (k : Nat) (sg : Bool) :
    atomNew (atomOpOf k sg) w o.toNat x.toNat y.toNat = (Claims.atomic w o x y k sg).map BitVec.toNat := by
  unfold atomOpOf Claims.atomic
  split
  case h_1 => simp [atomNew]
  case h_2 => simp [atomNew]
  case h_3 => simp [atomNew]
  case h_4 => simp [atomNew]
  case h_5 => cases sg <;> simp [atomNew, sextN_toNat, apply_ite BitVec.toNat, -ite_eq_left_iff, -ite_eq_right_iff]
  case h_6 => cases sg <;> simp [atomNew, sextN_toNat, apply_ite BitVec.toNat, -ite_eq_left_iff, -ite_eq_right_iff]
  case h_7 => rfl
  case h_8 =>
    by_cases eq : o = y <;> simp [atomNew, eq, BitVec.toNat_inj]

/-- The value compared with matters to ACAS alone. -/
theorem atomNew_cmp {op : AtomOp} (other : op ≠ .cas) (w old b cmp cmp' : Nat) : atomNew op w old b cmp = atomNew op w old b cmp' := by
  cases op with
  | cas => exact absurd rfl other
  | _ => rfl

/-! ## The cell and the stream -/

/-- The stream at the cell: sc makes every earlier load one that is waited for, and the instance is committed (R255, R42). -/
def Cur.atCell (c : Cur) (m : MemSpec) : Cur := (c.mapCtx fun x => if m.ord = .sc then Claims.acquired x (scopeOf m) else x).commit

theorem Cur.alike_atCell (c : Cur) (m : MemSpec) :
    (c.atCell m).Alike ((if m.ord = .sc then c.acquire (scopeOf m) else c).fenceIf m).commit :=
  (((Cur.Alike.refl c).acquireIf _ _).fenceIf m).commit

/-- A change beside memory. -/
theorem Cur.Alike.besides {a b : Cur} (h : a.Alike b) {f : State → State} (side : b.s.Beside (f b.s)) : a.Alike (b.mapS f) :=
  h.trans ⟨rfl, rfl, rfl, side, b.i.ctx.ord, rfl⟩

/-- The message that an atomic of another module sends: where its write is dropped, it only reads (R368, R383). -/
def Cur.atomicAway (c : Cur) (va pa n v : Nat) : Cur :=
  if c.mayStore pa then (c.ask va pa n 1 v).mapCtx fun x => { x with away := dropBytes x.away pa n }
  else c.filtered.ask va pa n 2 0

theorem Cur.Alike.atomicAway {a b : Cur} (h : a.Alike b) (va pa n v : Nat) (l : List Head) :
    (a.atomicAway va pa n v).Alike
      (if b.mayStore pa then (b.ask va pa n 1 v).rmwAway pa n l else b.filtered.ask va pa n 2 0) := by
  unfold Cur.atomicAway
  rw [h.mayStore]
  split
  · exact ((h.ask va pa n 1 v).besides (f := fun s => s.awayRmw pa n l) (State.beside_awayRmw ..)).mapCtx fun _ o => ⟨o, rfl⟩
  · exact h.filtered.ask ..

/-- The cell of this module after an atomic that is to write `new`, if anything. -/
def Cur.atomicHome (c : Cur) (pa n : Nat) (new : Option Nat) : Cur :=
  (c.mapCtx fun x => c.s.captureFor x pa n).mapS fun s =>
    match new with
    | some w => if c.mayStore pa then s.writePa pa n w else Claims.filtered s
    | none => s

/-- The write of an atomic performs no load again. -/
theorem Cur.Alike.rmw {a b : Cur} {pa n : Nat} (h : (a.mapCtx fun x => a.s.captureFor x pa n).Alike b) (w : Nat) (l : List Head) :
    ((a.mapCtx fun x => a.s.captureFor x pa n).mapS fun s => s.writePa pa n w).Alike (b.rmw pa n w l) := by
  obtain ⟨o, inst⟩ := h.inst
  have ctx : b.s.captureFor b.i.ctx pa n = { a.s.captureFor a.i.ctx pa n with ord := o } := by
    rw [inst]
    exact a.s.captureFor_again b.s a.i.ctx pa n o
  refine ⟨h.uid, h.q, h.clk, (h.state.writePa pa n w).trans (State.beside_putHeads ..),
    (b.s.writeAs o pa n w (joinHeads (b.s.headsAt pa n) l)).2, ?_⟩
  unfold Cur.rmw Cur.write
  dsimp only
  rw [ctx, inst]
  rfl

theorem Cur.Alike.atomicHome {a b : Cur} {pa n : Nat} {new : Option Nat}
    (h : (a.mapCtx fun x => a.s.captureFor x pa n).Alike b) (l l' : List Head) :
    (a.atomicHome pa n new).Alike
      (match new with
        | some w => if b.mayStore pa then b.rmw pa n w l else b.filtered
        | none => b.mapS fun s => s.putHeads pa n l') := by
  unfold Cur.atomicHome
  cases new with
  | none => exact h.besides (State.beside_putHeads ..)
  | some w =>
    have may : b.mayStore pa = a.mayStore pa := h.mayStore pa
    dsimp only
    rw [may]
    cases a.mayStore pa
    · exact h.filtered
    · exact h.rmw w l

/-- The stream that an atomic leaves, but for what the memory model keeps: `c` is the stream at the cell. -/
def Cur.atomic (c : Cur) (m : MemSpec) (va pa n v : Nat) (new : Option Nat) (dst k : Nat) (old : List Word) (taken : FMap Nat) : Cur :=
  (if isSpan pa then
    (c.atomicAway va pa n v).produceAs dst k (.span c.s.ports.nextMsg (if m.wide then .w64 else .w32) []) false (Claims.acq m.ord)
      false (if Claims.acq m.ord then some (scopeOf m) else none) false
  else (c.atomicHome pa n new).produce dst k (.known old) false (Claims.acq m.ord) false).mapRegs fun r => r.eat taken

/-- What it leaves is the cell and the context of the claim. -/
theorem Cur.atomic_parts (c : Cur) (m : MemSpec) (va pa n v : Nat) (new : Option Nat) (dst k : Nat) (old : List Word)
    (taken : FMap Nat) (pc : Word64) (len : Nat) :
    ((c.atCell m).atomic m va pa n v new dst k old taken).s = Claims.atomicCell c.s c va pa n v new ∧
    ((c.atCell m).atomic m va pa n v new dst k old taken).i.past pc len =
      ((c.i.withCtx (Claims.atomicCtx c.s c.i.ctx pa n dst k old m taken (c.mayStore pa))).past pc len).committed := by
  unfold Cur.atomic Claims.atomicCell Claims.atomicCtx Cur.atomicAway Cur.atomicHome
  have may : (c.atCell m).mayStore pa = c.mayStore pa := rfl
  rw [may]
  cases isSpan pa <;> cases c.mayStore pa <;> exact ⟨rfl, rfl⟩

theorem Cur.same_atomic (c : Cur) (m : MemSpec) (va pa n v : Nat) (new : Option Nat) (dst k : Nat) (old : List Word)
    (taken : FMap Nat) : c.Same (c.atomic m va pa n v new dst k old taken) := by
  unfold Cur.atomic Cur.atomicAway
  split
  · split <;> exact ⟨rfl, rfl, rfl, rfl, rfl⟩
  · exact ⟨rfl, rfl, rfl, rfl, rfl⟩

/-- What an atomic does when its address is translated and its release side has passed. -/
def atomicAt (m : MemSpec) (op : AtomOp) (va pa n v cmp dst k : Nat) (eat : Cur → Cur) (c : Cur) : Eff :=
  let form : LoadForm := if m.wide then .w64 else .w32
  let begun := ((if m.ord = .sc then c.acquire (scopeOf m) else c).fenceIf m).commit
  if isSpan pa then
    let c1 := if begun.mayStore pa then (begun.ask va pa n 1 v).rmwAway pa n (begun.headsOf m)
      else begun.filtered.ask va pa n 2 0
    .ok (eat (c1.produceAs dst k (.span c.s.ports.nextMsg form []) false (ordAcq m.ord) false (acqScope m) false))
  else if c.s.badAt pa n then eccAbort c pa
  else
    let c1 := begun.reads pa n (acqScope m)
    let c1 := match atomNew op (8 * n) (c.s.readPa pa n) v cmp with
      | some x => if c1.mayStore pa then c1.rmw pa n x (c1.headsOf m) else c1.filtered
      | none => c1.mapS fun s => s.putHeads pa n (joinHeads (s.headsAt pa n) (c1.headsOf m))
    .ok (eat ((c1.fenceIf m).produce dst k (.known (loadEntries form (c.s.readPa pa n))) false (ordAcq m.ord) false))

/-- It leaves what `Cur.atomic` says, but for what the memory model keeps. -/
theorem atomicAt_effect {c : Cur} {m : MemSpec} {op : AtomOp} {va pa n v cmp dst k : Nat} {taken : FMap Nat}
    (sound : isSpan pa = false → c.s.badAt pa n = false) : ∃ c',
      atomicAt m op va pa n v cmp dst k (fun x => x.mapRegs fun r => r.eat taken) c = .ok c' ∧
      ((c.atCell m).atomic m va pa n v (atomNew op (8 * n) (c.s.readPa pa n) v cmp) dst k
        (loadEntries (if m.wide then .w64 else .w32) (c.s.readPa pa n)) taken).Alike c' := by
  have cell := c.alike_atCell m
  unfold Cur.atomic
  by_cases away : isSpan pa = true
  · refine ⟨_, if_pos away, ?_⟩
    rw [if_pos away, acqScope, ordAcq_eq]
    exact ((cell.atomicAway ..).produceAs ..).mapRegs _
  · have clean : ¬ c.s.badAt pa n = true := by simpa using sound (by simpa using away)
    refine ⟨_, (if_neg away).trans (if_neg clean), ?_⟩
    rw [if_neg away, ordAcq_eq]
    exact ((((cell.reads pa n (acqScope m)).atomicHome ..).fenceIf m).produceAs ..).mapRegs _

/-- An atomic whose needs are met does so. -/
theorem atomicOp_effect {s : State} {c : Cur} {g : Guard} {b : RBody} {m : MemSpec} {op : AtomOp} {pa : Nat}
    {l : List (Word × Bool)} {taken : FMap Nat} (h : s.Issues c) (on : guardAt c.regs g 0 = true) (confirmed : c.i.ex.unconf = false)
    (acq : c.i.ctx.acqOpen = false) (settled : Claims.settled c.i.ctx m)
    (ops : c.regs.reads (if m.wide then [] else if op = .cas then [opB b, opC b] else [opB b]) = .vals l taken)
    (room : c.room b.dst.toNat (if m.wide then 2 else 1) = true)
    (aligned : (c.regs.getPair b.a.toNat).toNat % (if m.wide then 8 else 4) = 0)
    (held : s.translate c.die c.asid (c.regs.getPair b.a.toNat).toNat .both = .ok pa) : ∃ f,
      atomicOp g b m op s = issue true true s f ∧ f c = atomicAt m op (c.regs.getPair b.a.toNat).toNat pa (if m.wide then 8 else 4)
        (if m.wide then (c.regs.getPair b.b.toNat).toNat else (nth (l.map (·.1)) 0).toNat)
        (if m.wide then (c.regs.getPair b.c.toNat).toNat else (nth (l.map (·.1)) 1).toNat)
        b.dst.toNat (if m.wide then 2 else 1) (fun x => x.mapRegs fun r => r.eat taken)
        (c.releasedFor (c.regs.taintPair b.a.toNat) m.ord) := by
  obtain rfl := State.cur_s h.cur
  have regs : (c.releasedFor (c.regs.taintPair b.a.toNat) m.ord).regs = c.regs :=
    (Claims.released_regs ..).trans (Claims.ordered_regs ..)
  refine ⟨_, rfl, (guarded_true on _).trans ((commitStall_of_confirmed confirmed _).trans ((withOps_vals ops _).trans
    ((needRoom_true room _).trans ((afterAcquire_of_none acq _).trans ((access_held aligned held _).trans
      ((releaseIf_settled settled _ _).trans ?_))))))⟩
  dsimp only
  rw [regs]
  rfl

theorem Cur.releasedFor_s (c : Cur) (t : Bool) (o : Order) : (c.releasedFor t o).s = c.s := rfl

/-- So it leaves the cell and the stream of the claim. -/
theorem word_atomic {s : State} {c : Cur} {m : MemSpec} {op : AtomOp} {t : Bool} {va pa n v cmp dst k : Nat} {taken : FMap Nat}
    {f : Cur → Eff} (h : s.Issues c) (sound : isSpan pa = false → s.badAt pa n = false)
    (eff : f c = atomicAt m op va pa n v cmp dst k (fun x => x.mapRegs fun r => r.eat taken) (c.releasedFor t m.ord)) :
    let x := Claims.released s (Claims.ordered s c.i.ctx t) m.ord
    ∃ u, issue true true s f = .next u ∧
      Claims.Leaves c (Claims.atomicCell s c va pa n v (atomNew op (8 * n) (s.readPa pa n) v cmp))
        ((c.i.withCtx (Claims.atomicCtx s x pa n dst k (loadEntries (if m.wide then .w64 else .w32) (s.readPa pa n)) m taken
          (c.mayStore pa))).past c.pc 8).committed u := by
  obtain rfl := State.cur_s h.cur
  obtain ⟨c', done, alike⟩ := atomicAt_effect (c := c.releasedFor t m.ord) (m := m) (op := op) (va := va) (v := v) (cmp := cmp)
    (dst := dst) (k := k) (taken := taken) sound
  rw [Cur.releasedFor_s] at alike
  obtain ⟨state, inst⟩ := (c.releasedFor t m.ord).atomic_parts m va pa n v (atomNew op (8 * n) (c.s.readPa pa n) v cmp) dst k
    (loadEntries (if m.wide then .w64 else .w32) (c.s.readPa pa n)) taken c.pc 8
  have same := (((c.same_releasedFor t m.ord).trans (Cur.same_acquiredIf _ (m.ord = .sc) (scopeOf m))).trans
    (Cur.same_commit _)).trans (Cur.same_atomic _ m va pa n v (atomNew op (8 * n) (c.s.readPa pa n) v cmp) dst k
      (loadEntries (if m.wide then .w64 else .w32) (c.s.readPa pa n)) taken)
  obtain ⟨u, next, leaves⟩ := word_alike (len := 8) h c.may_all (eff.trans done) alike same rfl rfl
  rw [inst, state] at leaves
  exact ⟨u, next, leaves⟩

/-! ## The obligation -/

/-- Settles O13: each word comes to its cell with its operands, of 32 bits or of 64. -/
theorem atomics : Obligations.Atomics := by
  unfold Obligations.Atomics
  refine ⟨?narrow, ?wide⟩
  case narrow =>
    intro e he g b m s c pa v w l taken narrow h on confirmed acq settled ops vals room va aligned held sound x old
    have cas : (if m.wide then [] else if atomOpOf e.2 m.sgn = .cas then [opB b, opC b] else [opB b]) =
        if e.2 = 7 then [opB b, opC b] else [opB b] := by
      simp [narrow, atomOpOf_eq_cas e he]
    obtain ⟨f, word, eff⟩ := atomicOp_effect (op := atomOpOf e.2 m.sgn) (b := b) (pa := pa) h on confirmed acq settled
      ((congrArg c.regs.reads cas).trans ops) (by simpa [narrow] using room) (by simpa [narrow] using aligned) held
    simp only [narrow, Bool.false_eq_true, if_false] at eff
    obtain ⟨u, next, leaves⟩ := word_atomic h sound eff
    have old_eq : s.readPa pa 4 = old.toNat := (Nat.mod_eq_of_lt (s.readPa_lt pa 4)).symm
    have new : atomNew (atomOpOf e.2 m.sgn) (8 * 4) (s.readPa pa 4) (nth (l.map (·.1)) 0).toNat (nth (l.map (·.1)) 1).toNat =
        (Claims.atomic 32 old v w e.2 m.sgn).map BitVec.toNat := by
      rw [← atomNew_atomOpOf, old_eq, vals]
      split
      next => rfl
      next other => exact atomNew_cmp (fun cas => other ((atomOpOf_eq_cas e he m.sgn).1 cas)) ..
    have first : nth (l.map (·.1)) 0 = v := by rw [vals]; split <;> rfl
    have entry : loadEntries .w32 (s.readPa pa 4) = [old] := by rw [loadEntries, old_eq, BitVec.ofNat_toNat, BitVec.setWidth_eq]
    rw [new, first, narrow, if_neg Bool.false_ne_true, entry] at leaves
    exact ⟨u, (exec_atomic e he g b m s).trans (word.trans next), leaves⟩
  case wide =>
    intro e he g b m s c pa wide h on confirmed acq settled room va aligned held sound x old
    obtain ⟨f, word, eff⟩ := atomicOp_effect (op := atomOpOf e.2 m.sgn) (b := b) (l := []) (taken := .empty) (pa := pa) h on confirmed acq
      settled (by rw [if_pos wide]; rfl) (by simpa [wide] using room) (by simpa [wide] using aligned) held
    simp only [wide, if_true] at eff
    obtain ⟨u, next, leaves⟩ := word_atomic h sound eff
    have old_eq : s.readPa pa 8 = old.toNat := (Nat.mod_eq_of_lt (s.readPa_lt pa 8)).symm
    rw [old_eq, show 8 * 8 = 64 from rfl, atomNew_atomOpOf, ← old_eq, wide, if_pos rfl, loadEntries_wide] at leaves
    exact ⟨u, (exec_atomic e he g b m s).trans (word.trans next), leaves⟩

end Sys2Proof.Machine
end

section
/-! # Elements through handles (O14)

A handle that names a descriptor leads to its element: in tile memory, in memory, or out of bounds. -/

namespace Sys2Proof.Machine

/-! ## States that read the same -/

/-- Reads of this module give the same, and carry the same, in both states. -/
structure State.ReadsAs (s t : State) : Prop where
  value : ∀ a n, t.readPa a n = s.readPa a n
  bad : ∀ a n, t.badAt a n = s.badAt a n
  carried : ∀ o a n acq ldc, t.reads o a n acq ldc = s.reads o a n acq ldc

namespace State.ReadsAs
variable {s t : State} (h : s.ReadsAs t)
include h

theorem readLanes (n : Nat) (acq : Option Nat) (ldc : Bool) (ls : List LaneSrc) (o : Ledger) :
    t.readLanes o n acq ldc ls = s.readLanes o n acq ldc ls := by
  induction ls generalizing o with
  | nil => rfl
  | cons l ls ih => cases l <;> simp only [State.readLanes, h.carried, ih]

theorem perform (o : Ledger) (p : Producer) : t.perform o p = s.perform o p := by
  have now (a n : Nat) (f : LoadForm) : t.loadNow (.mem a n f) = s.loadNow (.mem a n f) := by
    cases f <;> simp only [State.loadNow, h.value]
  simp only [State.perform, h.readLanes, h.value, h.bad, h.carried, now]

theorem performAll (sel : Producer → Bool) (l : List Producer) (o : Ledger) : t.performAll sel l o = s.performAll sel l o := by
  induction l generalizing o with
  | nil => rfl
  | cons p l ih => simp only [State.performAll, h.perform, ih]

theorem capture (x : Ctx) (sel : Producer → Bool) : t.capture x sel = s.capture x sel := by
  simp only [State.capture, h.performAll]

theorem ordered (x : Ctx) (tainted : Bool) : Claims.ordered t x tainted = Claims.ordered s x tainted := by
  simp only [Claims.ordered, State.captureLdc, h.capture]

end State.ReadsAs

theorem State.readPa_sendSpan (s : State) (m : SpanMsg) (a n : Nat) : (s.sendSpan m).readPa a n = s.readPa a n := by
  induction n generalizing a with
  | zero => rfl
  | succ n ih => rw [State.readPa, State.readPa, ih]; rfl

/-- A message that is sent changes nothing that is read here. -/
theorem State.readsAs_sendSpan (s : State) (m : SpanMsg) : s.ReadsAs (s.sendSpan m) :=
  ⟨s.readPa_sendSpan m, fun _ _ => rfl, fun _ _ _ _ _ => rfl⟩

/-! ## The descriptor of a handle (R77) -/

/-- A handle that names a descriptor is read and passes its checks. -/
theorem withDesc_named {c : Cur} {h : Word} {d : Desc} {pa : Nat} (names : c.Names h d pa) (k : Desc → Nat → Eff) :
    withDesc c h k = k d pa := by
  obtain ⟨⟨nonzero, small⟩, aligned, held, home, sound, read, ok⟩ := names
  have num : ¬ (h.toNat % 2 ^ 16 = 0 ∨ h.toNat % 2 ^ 16 = 0xFFFF) := by omega
  subst read
  simp only [withDesc, if_neg num, access_held aligned held, sound, Cur.readAny, home, Bool.false_eq_true, if_false, ok, if_true]

/-! ## LDT (R200) -/

/-- The stream that is to deliver one entry of the source `src` with the taint `t`. -/
def Cur.delivers (c : Cur) (dst : Nat) (src : ProdSrc) (t : Bool) (taken : FMap Nat) : Cur :=
  ((c.orderTaint t).produceAs dst 1 src t false false none t).mapRegs fun r => r.eat taken

theorem Cur.same_delivers (c : Cur) (dst : Nat) (src : ProdSrc) (t : Bool) (taken : FMap Nat) :
    c.Same (c.delivers dst src t taken) :=
  ((c.same_orderTaint t).trans (Cur.same_produceAs ..)).trans (Cur.same_mapRegs ..)

theorem Cur.delivers_s (c : Cur) (dst : Nat) (src : ProdSrc) (t : Bool) (taken : FMap Nat) : (c.delivers dst src t taken).s = c.s := by
  unfold Cur.delivers
  rw [Cur.orderTaint_eq]
  rfl

theorem Cur.delivers_i (c : Cur) (dst : Nat) (src : ProdSrc) (t : Bool) (taken : FMap Nat) :
    (c.delivers dst src t taken).i = c.i.withCtx
      { (Claims.ordered c.s c.i.ctx t).reserves dst 1 src t false false none t with
        regs := ((Claims.ordered c.s c.i.ctx t).reserves dst 1 src t false false none t).regs.eat taken } := by
  unfold Cur.delivers
  rw [Cur.orderTaint_eq]
  rfl

/-- What `LDT` does with its descriptor. -/
def ldtAt (c : Cur) (dst : Nat) (d : Desc) (x : List Int) (t : Bool) (taken : FMap Nat) : Eff :=
  let n := fmtBytes d.fmt
  if !d.inBounds x then .ok (c.delivers dst (.known [putElem d.fmt d.pad]) t taken)
  else if d.space = 1 then
    if (c.s.tile c.die c.tile).badAt (d.addr x) n then .abort (c.mapS fun s => s.rasBump c.die 1) 0x42
    else .ok (c.delivers dst (.known [putElem d.fmt ((c.s.tile c.die c.tile).read (d.addr x) n)]) t taken)
  else access c (BitVec.ofNat 64 (d.addr x)) n .read fun pa =>
    .ok ((c.load (d.addr x) pa n (.elem d.fmt)).1.delivers dst (c.load (d.addr x) pa n (.elem d.fmt)).2 t taken)

/-- `LDT` comes to its descriptor. -/
theorem execLdt_effect {s : State} {c : Cur} {g : Guard} {b : RBody} {h x y : Word} {th tx ty : Bool} {taken : FMap Nat} {d : Desc}
    {dpa : Nat} (on : guardAt c.regs g 0 = true) (acq : c.i.ctx.acqOpen = false)
    (ops : c.regs.reads [opA b, opB b, opC b] = .vals [(h, th), (x, tx), (y, ty)] taken) (room : c.room b.dst.toNat 1 = true)
    (names : c.Names h d dpa) : ∃ f, exec (.ldt g b) s = issue false true s f ∧
      f c = ldtAt c b.dst.toNat d [x.toInt, y.toInt, 0, 0] (th || tx || ty) taken := by
  have taint : [(h, th), (x, tx), (y, ty)].any Prod.snd = (th || tx || ty) := by simp [Bool.or_assoc]
  rw [← taint]
  exact ⟨_, rfl, (guarded_true on _).trans ((withOps_vals ops _).trans ((needRoom_true room _).trans
    ((afterAcquire_of_none acq _).trans (withDesc_named names _))))⟩

/-! ## STT (R200) -/

theorem sttStall_of_confirmed {c : Cur} {b : RBody} (h : c.i.ex.unconf = false) (e : Eff) : sttStall c b e = e :=
  if_pos (by simp [h])

/-- The stream that counts `n` elements out of bounds in its descriptor and takes its operands. -/
def Cur.counts (c : Cur) (dpa n : Nat) (take : Regs → Regs) : Cur :=
  (c.mapS fun s => s.addOobw c.die c.asid dpa n).mapRegs take

/-- What `STT` does with its descriptor, on a stream that its address has ordered. -/
def sttAt (c : Cur) (d : Desc) (dpa : Nat) (x : List Int) (v : Nat) (taken : FMap Nat) : Eff :=
  let n := fmtBytes d.fmt
  if !d.inBounds x then
    if d.strict then .trap 0x0E c.pc
    else
      .ok ((if d.space = 0 && !c.i.ex.pred then c.commit else c).counts dpa 1 fun r => r.eat taken)
  else if d.space = 1 then .ok ((c.mapS fun s => s.tileWrite c.die c.tile (d.addr x) n v).mapRegs fun r => r.eat taken)
  else access c (BitVec.ofNat 64 (d.addr x)) n .write fun pa =>
    .ok (((c.storeCommit (d.addr x) n).store (d.addr x) pa n v).mapRegs fun r => r.eat taken)

/-- `STT` comes to its descriptor. -/
theorem execStt_effect {s : State} {c : Cur} {g : Guard} {b : RBody} {h x y v : Word} {th tx ty tv : Bool} {taken : FMap Nat} {d : Desc}
    {dpa : Nat} (on : guardAt c.regs g 0 = true) (acq : c.i.ctx.acqOpen = false) (confirmed : c.i.ex.unconf = false)
    (ops : c.regs.reads [opA b, opB b, opC b, ⟨b.dst.toNat, false⟩] = .vals [(h, th), (x, tx), (y, ty), (v, tv)] taken)
    (names : c.Names h d dpa) : ∃ f, exec (.stt g b) s = issue false true s f ∧
      f c = sttAt (c.orderTaint (c.taintOf [opA b, opB b, opC b])) d dpa [x.toInt, y.toInt, 0, 0]
        (v.toNat % 256 ^ fmtBytes d.fmt) taken :=
  ⟨_, rfl, (guarded_true on _).trans ((sttStall_of_confirmed confirmed _).trans ((withOps_vals ops _).trans
    ((afterAcquire_of_none acq _).trans (withDesc_named names _))))⟩

/-! ## The obligation -/

/-- Settles O14: each word comes to its descriptor, and from there to the pad, tile memory or memory. -/
theorem elementAccesses : Obligations.ElementAccesses := by
  unfold Obligations.ElementAccesses
  refine ⟨?load, ?store⟩
  case load =>
    intro g b s c h x y th tx ty taken d dpa issues kind on acq ops room names at_ n taint give
    obtain rfl := State.cur_s issues.cur
    obtain ⟨f, word, eff⟩ := execLdt_effect (s := c.s) on acq ops room names
    rw [word]
    have known {src : ProdSrc} (done : f c = .ok (c.delivers b.dst.toNat src taint taken)) :
        ∃ t, issue false true c.s f = .next t ∧ c.Leaves c.s (give src) t :=
      word_ok issues (Cur.may_hand kind) done (Cur.same_delivers ..) (Cur.delivers_s ..) (Cur.delivers_i ..)
    refine ⟨fun out => ?pad, fun within tile sound => ?tile, fun pa within memory aligned held => ?memory⟩
    case pad => exact known (eff.trans (if_pos (by simpa using out)))
    case tile =>
      exact known (eff.trans ((if_neg (by simpa using within)).trans ((if_pos tile).trans (if_neg (by simpa using sound)))))
    case memory =>
      have come := eff.trans ((if_neg (by simpa using within)).trans ((if_neg (by simp [memory])).trans (access_held aligned held _)))
      by_cases away : isSpan pa = true
      · rw [Cur.load_span away] at come
        simp only [if_pos away]
        have same : c.Same (c.ask (d.addr at_) pa n 2 0) := ⟨rfl, rfl, rfl, rfl, rfl⟩
        refine word_ok issues (Cur.may_hand kind) come (same.trans (Cur.same_delivers ..))
          (Cur.delivers_s ..) ((Cur.delivers_i ..).trans ?_)
        rw [show (c.ask (d.addr at_) pa n 2 0).s = c.s.sendSpan (c.spanMsg (d.addr at_) pa n 2 0) from rfl,
          (c.s.readsAs_sendSpan _).ordered]
        rfl
      · rw [Cur.load_home (by simpa using away)] at come
        simp only [if_neg away]
        exact known come
  case store =>
    intro g b s c h x y v th tx ty tv taken d dpa issues kind on acq confirmed ops names at_ a n z gone
    obtain rfl := State.cur_s issues.cur
    obtain ⟨f, word, eff⟩ := execStt_effect (s := c.s) on acq confirmed ops names
    rw [word]
    rw [Cur.orderTaint_eq] at eff
    have regs : (c.i.withCtx { z with regs := z.regs.eat taken }) = c.i.withCtx { z with regs := c.regs.eat taken } := by
      rw [show z.regs = c.regs from Claims.ordered_regs ..]
    refine ⟨fun out strict => ?strict, fun out counted => ?counted, fun within tile => ?tile, fun pa within memory aligned held => ?memory⟩
    case strict =>
      have trap := eff.trans ((if_pos (by simpa using out)).trans (if_pos strict))
      have pc : (c.mapCtx fun x => Claims.ordered c.s x (c.taintOf [opA b, opB b, opC b])).pc = c.pc := Claims.ordered_pc ..
      rw [pc] at trap
      exact issueLen_trap issues.cur (Cur.may_hand kind) trap
    case counted =>
      have done := eff.trans ((if_pos (by simpa using out)).trans (if_neg (by simp [counted])))
      by_cases commits : (d.space = 0 && !c.i.ex.pred) = true
      · have done := done.trans (congrArg (fun x : Cur => Eff.ok (x.counts dpa 1 fun r => r.eat taken)) (if_pos commits))
        simp only [if_pos commits]
        exact word_ok (i := (c.i.withCtx { z with regs := c.regs.eat taken }).committed) issues (Cur.may_hand kind) done
          ((c.same_ordered _).trans ⟨rfl, rfl, rfl, rfl, rfl⟩) rfl (congrArg Inst.committed regs)
      · have done := done.trans (congrArg (fun x : Cur => Eff.ok (x.counts dpa 1 fun r => r.eat taken)) (if_neg commits))
        simp only [if_neg commits]
        exact word_ok issues (Cur.may_hand kind) done ((c.same_ordered _).trans ⟨rfl, rfl, rfl, rfl, rfl⟩) rfl regs
    case tile =>
      have done := eff.trans ((if_neg (by simpa using within)).trans (if_pos tile))
      exact word_ok issues (Cur.may_hand kind) done ((c.same_ordered _).trans ⟨rfl, rfl, rfl, rfl, rfl⟩) rfl regs
    case memory =>
      have come := eff.trans ((if_neg (by simpa using within)).trans ((if_neg (by simp [memory])).trans
        (access_held (c := c.mapCtx _) aligned held _)))
      rw [← Cur.orderTaint_eq] at come
      exact word_stores issues (Cur.may_hand kind) come

end Sys2Proof.Machine
end

section
/-! # Vectors through handles (O15)

Each lane of LDV and STV has its indices; those in bounds are accessed in ascending order. -/

namespace Sys2Proof.Machine

/-! ## Lanes -/

theorem laneIdx_eq (var : Nat) (x y : Word) (v : VecReg) : laneIdx var x y v = Claims.laneAt var x y v := by
  funext i
  unfold laneIdx Claims.laneAt
  split <;> rfl

/-- Lanes whose addresses are aligned and translated go on with their physical addresses. -/
theorem laneAccess_held {c : Cur} {k : Acc} {n : Nat} {va pa : Nat → Nat} {l : List Nat}
    (held : ∀ i ∈ l, (BitVec.ofNat 64 (va i)).toNat % n = 0 ∧
      c.s.translate c.die c.asid (BitVec.ofNat 64 (va i)).toNat k = .ok (pa i)) (f : List (Nat × Nat × Nat) → Eff) :
    laneAccess c k n (l.map fun i => (i, va i)) f = f (l.map fun i => (i, va i, pa i)) := by
  induction l generalizing f with
  | nil => rfl
  | cons i l ih =>
    obtain ⟨⟨aligned, translated⟩, rest⟩ := List.forall_mem_cons.1 held
    exact (access_held aligned translated _).trans (ih rest _)

/-- The entry of a lane among the lanes that are accessed. -/
theorem find_lane (l : List Nat) (va pa : Nat → Nat) (i : Nat) :
    (l.map fun i => (i, va i, pa i)).find? (fun e => e.1 == i) = if i ∈ l then some (i, va i, pa i) else none := by
  rw [List.find?_map]
  by_cases mem : i ∈ l
  · have found : l.find? ((fun e : Nat × Nat × Nat => e.1 == i) ∘ fun i => (i, va i, pa i)) = some i := by
      induction l with
      | nil => exact absurd mem List.not_mem_nil
      | cons j l ih =>
        by_cases eq : j = i
        · subst eq; simp
        · simp only [List.find?_cons, Function.comp_apply, beq_false_of_ne eq]
          exact ih ((List.mem_cons.1 mem).resolve_left (Ne.symm eq))
    rw [found, if_pos mem]
    rfl
  · rw [if_neg mem, Option.map_eq_none_iff, List.find?_eq_none]
    rintro j there eq
    exact mem (beq_iff_eq.1 eq ▸ there)

theorem zipIdx_map_range {α : Type} (f : Nat → α) (n : Nat) : ((List.range n).map f).zipIdx = (List.range n).map fun i => (f i, i) := by
  refine List.ext_getElem (by simp) fun i _ _ => ?_
  simp

/-- What a lane is to read: an address of memory, or what is known without it. -/
def laneSrcOf (x : (Nat × Nat) ⊕ LaneSrc) : LaneSrc := x.elim (fun e => .mem e.2) id

/-- One lane of a global load: it is asked for where it reads another module (R383). -/
def askLane (c : Cur) (n : Nat) (a : State × List LaneSrc) (x : (Nat × Nat) ⊕ LaneSrc) : State × List LaneSrc :=
  match x with
  | .inr l => (a.1, a.2 ++ [l])
  | .inl e =>
    if isSpan e.2 then (a.1.sendSpan (c.spanMsg e.1 e.2 n 2 0),
      a.2 ++ [.span a.1.ports.nextMsg (Cur.ownBytes { c with s := a.1 } e.2 n)])
    else (a.1, a.2 ++ [.mem e.2])

theorem Claims.loadAll_eq (s : State) (c : Cur) (n : Nat) (at_ : Nat → (Nat × Nat) ⊕ LaneSrc) :
    Claims.loadAll s c n at_ = (List.range 64).foldl (fun a i => askLane c n a (at_ i)) (s, []) := rfl

theorem askLane_dies (c : Cur) (n : Nat) (a : State × List LaneSrc) (x : (Nat × Nat) ⊕ LaneSrc) :
    (askLane c n a x).1.dies = a.1.dies := by
  unfold askLane
  repeat' split
  all_goals rfl

theorem Cur.spanMsg_dies (c : Cur) {s : State} (dies : s.dies = c.s.dies) (va pa n op v : Nat) :
    Cur.spanMsg { c with s := s } va pa n op v = c.spanMsg va pa n op v := by
  have asid : Cur.asid { c with s := s } = c.asid := by
    simp only [Cur.asid, State.die, dies]
    rfl
  simp only [Cur.spanMsg, asid]
  rfl

/-- The lanes of a global load are asked for one after the other, as the claim says. -/
theorem askLanes_eq (c : Cur) (n : Nat) (at_ : Nat → (Nat × Nat) ⊕ LaneSrc) (known : ∀ i l, at_ i = .inr l → ∀ pa, l ≠ .mem pa)
    (va : Nat → Nat) (address : ∀ i e, at_ i = .inl e → e.1 = va i) :
    askLanes n ((List.range 64).map fun i => laneSrcOf (at_ i)) va c =
      ({ c with s := (Claims.loadAll c.s c n at_).1 }, (Claims.loadAll c.s c n at_).2) := by
  unfold askLanes
  rw [zipIdx_map_range, List.foldl_map, Claims.loadAll_eq]
  suffices all : ∀ (l : List Nat) (a : State × List LaneSrc), a.1.dies = c.s.dies →
      l.foldl _ (({ c with s := a.1 } : Cur), a.2) = ({ c with s := (l.foldl (fun a i => askLane c n a (at_ i)) a).1 },
        (l.foldl (fun a i => askLane c n a (at_ i)) a).2) from all (List.range 64) (c.s, []) rfl
  intro l
  induction l with
  | nil => exact fun _ _ => rfl
  | cons i l ih =>
    intro a dies
    refine Eq.trans (congrArg (fun x : Cur × List LaneSrc => l.foldl _ x) ?_) (ih (askLane c n a (at_ i)) ((askLane_dies ..).trans dies))
    dsimp only
    cases lane : at_ i with
    | inl e =>
      by_cases away : isSpan e.2 = true
      · simp only [laneSrcOf, Sum.elim_inl, if_pos away, askLane, ← address i e lane, Cur.ask, c.spanMsg_dies dies, Cur.mapS]
      · simp only [laneSrcOf, Sum.elim_inl, if_neg away, askLane]
    | inr x => cases x with
      | mem pa => exact absurd rfl (known i _ lane pa)
      | _ => rfl

theorem Cur.orderTaint_s (c : Cur) (t : Bool) : (c.orderTaint t).s = c.s := by rw [Cur.orderTaint_eq]; rfl

/-! ## LDV (R201, R202) -/

/-- Each word of the table is the vector load of its variant. -/
theorem exec_vecLoad : ∀ e ∈ Claims.vecLoads, ∀ g b s, exec (e.1 g b) s = vectorLoad g b e.2 s := by
  simp only [Claims.vecLoads, List.forall_mem_cons, List.not_mem_nil, false_imp_iff, implies_true, and_true]
  and_intros <;> intros <;> rfl

/-- Each word of the table is the vector store of its variant. -/
theorem exec_vecStore : ∀ e ∈ Claims.vecStores, ∀ g b s, exec (e.1 g b) s = vectorStore g b e.2 s := by
  simp only [Claims.vecStores, List.forall_mem_cons, List.not_mem_nil, false_imp_iff, implies_true, and_true]
  and_intros <;> intros <;> rfl

/-- With no lane on, a vector load does nothing. -/
theorem vectorLoad_off {s : State} {c : Cur} {g : Guard} {b : VBody} {var : Nat} (h : s.Issues c) (kind : c.i.who.kind ≠ .prologue)
    (off : guardMask c.regs g = 0) : ∃ t, vectorLoad g b var s = .next t ∧ c.Leaves s (c.i.past c.pc 8) t :=
  guarded_off h (Cur.may_hand kind) (if_pos off)

/-- With no lane on, a vector store does nothing. -/
theorem vectorStore_off {s : State} {c : Cur} {g : Guard} {b : VBody} {var : Nat} (h : s.Issues c) (kind : c.i.who.kind ≠ .prologue)
    (off : guardMask c.regs g = 0) : ∃ t, vectorStore g b var s = .next t ∧ c.Leaves s (c.i.past c.pc 8) t :=
  guarded_off h (Cur.may_hand kind) (if_pos off)

/-- What a vector load does with its descriptor. -/
def vectorLoadAt (c : Cur) (vd : Nat) (d : Desc) (mask : Pred) (at_ : Nat → List Int) (t : Bool) (taken : FMap Nat) : Eff :=
  let n := fmtBytes d.fmt
  if d.space = 1 then
    let tile := c.s.tile c.die c.tile
    if (lanesOf mask).any fun i => d.inBounds (at_ i) && tile.badAt (d.addr (at_ i)) n then
      .abort (c.mapS fun s => s.rasBump c.die 1) 0x42
    else .ok (((c.orderTaint t).putV vd 8 (ofLanes fun i => if bitAt mask i then
      (if d.inBounds (at_ i) then putElem d.fmt (tile.read (d.addr (at_ i)) n) else putElem d.fmt d.pad) else 0) mask t).mapRegs
        fun r => r.eatV taken)
  else laneAccess c .read n (((lanesOf mask).filter fun i => d.inBounds (at_ i)).map fun i => (i, d.addr (at_ i))) fun l =>
    let r := askLanes n ((List.range 64).map fun i =>
      if !bitAt mask i then .off
      else match l.find? fun e => e.1 == i with
        | none => .val (putElem d.fmt d.pad)
        | some e => .mem e.2.2) (fun i => d.addr (at_ i)) (c.orderTaint t)
    .ok ((r.1.produceV vd (.lanes d.fmt r.2) t t).mapRegs fun r => r.eatV taken)

/-- A vector load comes to its descriptor. -/
theorem vectorLoad_effect {s : State} {c : Cur} {g : Guard} {b : VBody} {var : Nat} {vs : List (VecReg × Bool)} {taken : FMap Nat}
    {d : Desc} {dpa : Nat} (on : guardMask c.regs g ≠ 0) (acq : c.i.ctx.acqOpen = false)
    (ops : c.regs.readsV (if var = 2 then [⟨b.vb.toNat, b.kb⟩] else []) = .vals vs taken) (room : c.roomV b.vd.toNat = true)
    (names : c.Names (c.regs.getS b.va.toNat) d dpa) (type : typeFmt b.ty.toNat = d.fmt) (dest : d.space = 0 → 28 ≤ b.vd.toNat) :
    ∃ f, vectorLoad g b var s = issue false true s f ∧
      f c = vectorLoadAt c b.vd.toNat d (guardMask c.regs g)
        (Claims.laneAt var (c.regs.getS b.vb.toNat) (c.regs.getS b.vc.toNat) ((vs.map Prod.fst).getD 0 0))
        (vs.any Prod.snd || c.regs.taintS b.va.toNat || (var != 2 && c.regs.taintS b.vb.toNat) || c.regs.taintS b.vc.toNat)
        taken := by
  have allowed : ¬ (decide (typeFmt b.ty.toNat ≠ d.fmt) || (d.space == 0 && !isVq b.vd.toNat)) = true := by
    simp only [type, isVq]
    simp
    omega
  rw [← laneIdx_eq]
  exact ⟨_, rfl, (if_neg on).trans ((withVecs_vals ops _).trans ((needRoomV_true room _).trans
    ((afterAcquire_of_none acq _).trans ((withDesc_named names _).trans (if_neg allowed)))))⟩

/-- What lane `i` of a global load is to read. -/
def vecLane (d : Desc) (mask : Pred) (at_ : Nat → List Int) (pa : Nat → Nat) (i : Nat) : (Nat × Nat) ⊕ LaneSrc :=
  if mask.getLsbD i = false then .inr .off
  else if d.inBounds (at_ i) then .inl (d.addr (at_ i), pa i) else .inr (.val (putElem d.fmt d.pad))

theorem vecLane_known {d : Desc} {mask : Pred} {at_ : Nat → List Int} {pa : Nat → Nat} {i : Nat} {l : LaneSrc}
    (h : vecLane d mask at_ pa i = .inr l) (a : Nat) : l ≠ .mem a := by
  unfold vecLane at h
  split at h
  · cases h; exact fun e => nomatch e
  · split at h
    · cases h
    · cases h; exact fun e => nomatch e

theorem vecLane_address {d : Desc} {mask : Pred} {at_ : Nat → List Int} {pa : Nat → Nat} {i : Nat} {e : Nat × Nat}
    (h : vecLane d mask at_ pa i = .inl e) : e.1 = d.addr (at_ i) := by
  unfold vecLane at h
  split at h
  · cases h
  · split at h
    · cases h; rfl
    · cases h

theorem mem_lanesOf {mask : Pred} {i : Nat} : i ∈ lanesOf mask ↔ i < 64 ∧ mask.getLsbD i = true := by
  simp [lanesOf, bitAt]

/-- The lanes accessed with their addresses are the lanes as the claim lists them. -/
theorem laneSrcOf_vecLane (d : Desc) (mask : Pred) (at_ : Nat → List Int) (pa : Nat → Nat) {i : Nat} (hi : i < 64) :
    laneSrcOf (vecLane d mask at_ pa i) = if !bitAt mask i then .off
      else match (((lanesOf mask).filter fun i => d.inBounds (at_ i)).map fun i => (i, d.addr (at_ i), pa i)).find?
          fun e => e.1 == i with
        | none => .val (putElem d.fmt d.pad)
        | some e => .mem e.2.2 := by
  rw [find_lane]
  unfold vecLane
  by_cases on : mask.getLsbD i = true
  · have lane : i ∈ (lanesOf mask).filter (fun i => d.inBounds (at_ i)) ↔ d.inBounds (at_ i) = true := by
      simp [List.mem_filter, mem_lanesOf, hi, on]
    by_cases within : d.inBounds (at_ i) = true
    · simp [on, bitAt, within, lane, laneSrcOf]
    · simp [on, bitAt, within, lane, laneSrcOf]
  · simp [on, bitAt, laneSrcOf]

/-- The stream that a vector load from memory leaves: one pending entry. -/
theorem vectorLoadAt_memory {c : Cur} {vd : Nat} {d : Desc} {mask : Pred} {at_ : Nat → List Int} {t : Bool} {taken : FMap Nat}
    {pa : Nat → Nat} (memory : d.space = 0) (held : ∀ i < 64, mask.getLsbD i = true → d.inBounds (at_ i) = true →
      (BitVec.ofNat 64 (d.addr (at_ i))).toNat % fmtBytes d.fmt = 0 ∧
      c.s.translate c.die c.asid (BitVec.ofNat 64 (d.addr (at_ i))).toNat .read = .ok (pa i)) :
    let r := Claims.loadAll c.s (c.orderTaint t) (fmtBytes d.fmt) (vecLane d mask at_ pa)
    vectorLoadAt c vd d mask at_ t taken =
      .ok ((Cur.produceV { c.orderTaint t with s := r.1 } vd (.lanes d.fmt r.2) t t).mapRegs fun r => r.eatV taken) := by
  have all : ∀ i ∈ (lanesOf mask).filter (fun i => d.inBounds (at_ i)), (BitVec.ofNat 64 (d.addr (at_ i))).toNat % fmtBytes d.fmt = 0 ∧
      c.s.translate c.die c.asid (BitVec.ofNat 64 (d.addr (at_ i))).toNat .read = .ok (pa i) := by
    intro i mem
    obtain ⟨lane, within⟩ := List.mem_filter.1 mem
    obtain ⟨hi, on⟩ := mem_lanesOf.1 lane
    exact held i hi on within
  have lanes := askLanes_eq (c.orderTaint t) (fmtBytes d.fmt) (vecLane d mask at_ pa) (fun _ _ h => vecLane_known h)
    (fun i => d.addr (at_ i)) fun _ _ h => vecLane_address h
  rw [List.map_congr_left fun i mem => laneSrcOf_vecLane d mask at_ pa (List.mem_range.1 mem), Cur.orderTaint_s] at lanes
  refine (if_neg (by simp [memory])).trans ((laneAccess_held all _).trans ?_)
  dsimp only
  rw [lanes]

/-- Taint of the address changes neither the messages nor what the stream has stored elsewhere. -/
theorem Claims.loadAll_orderTaint (s : State) (c : Cur) (t : Bool) (n : Nat) (at_ : Nat → (Nat × Nat) ⊕ LaneSrc) :
    Claims.loadAll s (c.orderTaint t) n at_ = Claims.loadAll s c n at_ := by
  have lane (a : State × List LaneSrc) (x : (Nat × Nat) ⊕ LaneSrc) : askLane (c.orderTaint t) n a x = askLane c n a x := by
    rw [Cur.orderTaint_eq]
    cases x with
    | inr l => rfl
    | inl e => simp only [askLane, Cur.ownBytes, Cur.mapCtx, Claims.ordered_away]; rfl
  simp only [Claims.loadAll_eq, lane]

/-- The result on its way on a stream that its address has ordered. -/
theorem Cur.vectorResult_orderTaint (c : Cur) (t : Bool) (tk : FMap Nat) (vd lat : Nat) (v : VecReg) (mask : Pred) (t' : Bool) :
    (c.orderTaint t).vectorResult tk vd lat v mask t' = { c.vectorResult tk vd lat v mask t' with
      prods := (Claims.ordered c.s c.i.ctx t).prods
      ord := (Claims.ordered c.s c.i.ctx t).ord } := by
  rw [Cur.orderTaint_eq]
  cases t <;> unfold Cur.vectorResult <;> split <;> rfl

section
variable {s : State} {c : Cur} {f : Cur → Eff} {vd : Nat} {d : Desc} {mask : Pred} {at_ : Nat → List Int} {t : Bool} {taken : FMap Nat}
  (h : s.Issues c) (kind : c.i.who.kind ≠ .prologue) (eff : f c = vectorLoadAt c vd d mask at_ t taken)
include h kind eff

/-- A vector load from tile memory leaves its lanes on their way. -/
theorem vectorLoadAt_tile (tile : d.space = 1) (sound : ∀ i < 64, mask.getLsbD i = true → d.inBounds (at_ i) = true →
      (s.tile c.die c.tile).badAt (d.addr (at_ i)) (fmtBytes d.fmt) = false) :
    let x := Claims.ordered s c.i.ctx t
    ∃ u v, issue false true s f = .next u ∧
      (∀ i < 64, mask.getLsbD i = true → laneOf v i = if d.inBounds (at_ i) then
        putElem d.fmt ((s.tile c.die c.tile).read (d.addr (at_ i)) (fmtBytes d.fmt)) else putElem d.fmt d.pad) ∧
      c.Leaves s ((c.i.withCtx { c.vectorResult taken vd 8 v mask t with prods := x.prods, ord := x.ord }).past c.pc 8) u := by
  obtain rfl := State.cur_s h.cur
  have clean : ¬ ((lanesOf mask).any fun i => d.inBounds (at_ i) &&
      (c.s.tile c.die c.tile).badAt (d.addr (at_ i)) (fmtBytes d.fmt)) = true := by
    simp only [List.any_eq_true, Bool.and_eq_true, not_exists, not_and]
    intro i lane within
    obtain ⟨hi, bit⟩ := mem_lanesOf.1 lane
    simp [sound i hi bit within]
  have done := eff.trans ((if_pos tile).trans (if_neg clean))
  obtain ⟨u, next, leaves⟩ := word_ok (len := 8) h (Cur.may_hand kind) done (((c.same_orderTaint _).trans (Cur.same_putV ..)).trans
    (Cur.same_mapRegs ..)) ((Cur.putV_s ..).trans (c.orderTaint_s _)) (Cur.putV_ctx ..)
  rw [Cur.vectorResult_orderTaint, Cur.orderTaint_eq] at leaves
  refine ⟨u, _, next, fun i hi bit => ?_, leaves⟩
  rw [laneOf_ofLanes _ hi]
  exact if_pos bit

/-- A vector load from memory leaves one pending entry. -/
theorem vectorLoadAt_leaves {pa : Nat → Nat} (memory : d.space = 0)
    (held : ∀ i < 64, mask.getLsbD i = true → d.inBounds (at_ i) = true →
      (BitVec.ofNat 64 (d.addr (at_ i))).toNat % fmtBytes d.fmt = 0 ∧
      s.translate c.die c.asid (BitVec.ofNat 64 (d.addr (at_ i))).toNat .read = .ok (pa i)) :
    let r := Claims.loadAll s c (fmtBytes d.fmt) (vecLane d mask at_ pa)
    let q := c.regs.getVq (vd - 28)
    let p : Producer := ⟨true, vd - 28, q.tailPos, 1, .lanes d.fmt r.2, t, false, false, none, t⟩
    let x := Claims.ordered s c.i.ctx t
    ∃ u, issue false true s f = .next u ∧
      c.Leaves r.1 ((c.i.withCtx { x with
        regs := (c.regs.setVq (vd - 28) (q.reserve 1)).eatV taken
        prods := x.prods ++ [p] }).past c.pc 8) u := by
  obtain rfl := State.cur_s h.cur
  have done := eff.trans (vectorLoadAt_memory memory held)
  have regs : (Claims.ordered c.s c.i.ctx t).regs = c.regs := Claims.ordered_regs ..
  rw [Claims.loadAll_orderTaint, Cur.orderTaint_eq] at done
  rw [← regs]
  exact word_ok h (Cur.may_hand kind) done ((c.same_ordered _).trans ⟨rfl, rfl, rfl, rfl, rfl⟩) rfl rfl

end

/-! ## STV (R201, R202) -/

theorem stvStall_of_confirmed {c : Cur} {b : VBody} {var : Nat} {mask : Pred} (h : c.i.ex.unconf = false) (e : Eff) :
    stvStall c b var mask e = e :=
  if_pos (by simp [h])

/-- What a vector store does with its descriptor: `ins` are its lanes in bounds and `out` counts the others. -/
def vectorStoreAt (c : Cur) (d : Desc) (dpa : Nat) (ins : List Nat) (out : Nat) (va val : Nat → Nat) (t : Bool) (taken : FMap Nat) :
    Eff :=
  let n := fmtBytes d.fmt
  if d.space = 1 then
    if d.strict && out != 0 then .trap 0x0E c.pc
    else .ok (Cur.mapRegs (Cur.mapS ((c.orderTaint t).mapS fun s =>
        ins.foldl (fun s i => s.tileWrite (c.orderTaint t).die (c.orderTaint t).tile (va i) n (val i)) s)
      fun s => s.addOobw (c.orderTaint t).die (c.orderTaint t).asid dpa out) fun r => r.eatV taken)
  else if d.strict && out != 0 then .trap 0x0E c.pc
  else laneAccess (c.orderTaint t) .write n (ins.map fun i => (i, va i)) fun l =>
    .ok ((l.foldl (fun c e => c.store e.2.1 e.2.2 n (val e.1))
      (if c.i.ex.pred && ins.all fun i => c.retracts (va i) n then c.orderTaint t else (c.orderTaint t).commit)).counts dpa out
        fun r => r.eatV taken)

/-- A vector store comes to its descriptor. -/
theorem vectorStore_effect {s : State} {c : Cur} {g : Guard} {b : VBody} {var : Nat} {vs : List (VecReg × Bool)} {taken : FMap Nat}
    {d : Desc} {dpa : Nat} (on : guardMask c.regs g ≠ 0) (acq : c.i.ctx.acqOpen = false) (confirmed : c.i.ex.unconf = false)
    (ops : c.regs.readsV ((if var = 2 then [(⟨b.vb.toNat, b.kb⟩ : Opnd)] else []) ++ [⟨b.vd.toNat, false⟩]) = .vals vs taken)
    (names : c.Names (c.regs.getS b.va.toNat) d dpa) (type : typeFmt b.ty.toNat = d.fmt) (variant : var < 3) :
    let at_ := Claims.laneAt var (c.regs.getS b.vb.toNat) (c.regs.getS b.vc.toNat) ((vs.map Prod.fst).getD 0 0)
    let ins := (lanesOf (guardMask c.regs g)).filter fun i => d.inBounds (at_ i)
    ∃ f, vectorStore g b var s = issue false true s f ∧
      f c = vectorStoreAt c d dpa ins ((lanesOf (guardMask c.regs g)).length - ins.length) (fun i => d.addr (at_ i))
        (fun i => (laneOf ((vs.map Prod.fst).getD (if var = 2 then 1 else 0) 0) i).toNat % 256 ^ fmtBytes d.fmt)
        (c.regs.taintS b.va.toNat || c.regs.taintS b.vc.toNat ||
          (if var = 2 then c.taintOfV [⟨b.vb.toNat, b.kb⟩] else c.regs.taintS b.vb.toNat)) taken := by
  have index : laneIdx var (c.regs.getS b.vb.toNat) (c.regs.getS b.vc.toNat) (if var = 2 then (vs.map Prod.fst).getD 0 0 else 0) =
      Claims.laneAt var (c.regs.getS b.vb.toNat) (c.regs.getS b.vc.toNat) ((vs.map Prod.fst).getD 0 0) := by
    rw [laneIdx_eq]
    funext i
    match var, variant with
    | 0, _ => simp only [Claims.laneAt]
    | 1, _ => simp only [Claims.laneAt]
    | 2, _ => rw [if_pos rfl]
  rw [← index]
  exact ⟨_, rfl, (if_neg on).trans ((stvStall_of_confirmed confirmed _).trans ((withVecs_vals ops _).trans
    ((afterAcquire_of_none acq _).trans ((withDesc_named names _).trans (if_neg (not_not.2 type))))))⟩

/-- Stores in a row leave what `Claims.storeAll` says. -/
theorem Cur.foldl_store (c : Cur) (n : Nat) (val : Nat → Nat) (l : List (Nat × Nat × Nat)) :
    let r := Claims.storeAll c.s c c.i.ctx n (l.map fun e => (e.2.1, e.2.2, val e.1))
    l.foldl (fun c e => c.store e.2.1 e.2.2 n (val e.1)) c = { c with s := r.1, i := c.i.withCtx r.2 } := by
  unfold Claims.storeAll
  rw [List.foldl_map]
  exact List.foldl_hom (fun a : State × Ctx => ({ c with s := a.1, i := c.i.withCtx a.2 } : Cur)) (init := (c.s, c.i.ctx))
    fun a e => Cur.store_eq ..

theorem Claims.storeAll_regs (s : State) (c : Cur) (x : Ctx) (n : Nat) (l : List (Nat × Nat × Nat)) :
    (Claims.storeAll s c x n l).2.regs = x.regs ∧ (Claims.storeAll s c x n l).2.pc = x.pc :=
  List.foldlRecOn (motive := fun a : State × Ctx => a.2.regs = x.regs ∧ a.2.pc = x.pc) l _ ⟨rfl, rfl⟩ fun a h e _ => by
    obtain ⟨regs, pc⟩ := Claims.stores_keeps a.1 { c with s := a.1 } a.2 e.1 e.2.1 n e.2.2
    exact ⟨regs.trans h.1, pc.trans h.2⟩

/-- Stores leave the shared registers of every die. -/
theorem Claims.sameSides_stores (s : State) (c : Cur) (x : Ctx) (va pa n v : Nat) : s.SameSides (Claims.stores s c x va pa n v).1 := by
  unfold Claims.stores
  split
  · exact State.sameSides_of_fields rfl rfl rfl
  · split
    · simp [State.awayWrite]
    · simp [Claims.wrote]

theorem Claims.sameSides_storeAll (s : State) (c : Cur) (x : Ctx) (n : Nat) (l : List (Nat × Nat × Nat)) :
    s.SameSides (Claims.storeAll s c x n l).1 :=
  List.foldlRecOn (motive := fun a : State × Ctx => s.SameSides a.1) l _ (.refl s) fun _ h _ _ => h.trans (Claims.sameSides_stores ..)

theorem Cur.asid_sameSides {c : Cur} {t : State} (same : c.s.SameSides t) (i : Inst) (who : i.who = c.i.who) :
    Cur.asid { c with s := t, i := i } = c.asid := by
  simp only [Cur.asid, who, Cur.die, same.regs]

/-- A vector store to tile memory. -/
theorem vectorStoreAt_tile {s : State} {c : Cur} {f : Cur → Eff} {d : Desc} {dpa out : Nat} {ins : List Nat} {va val : Nat → Nat} {t : Bool}
    {taken : FMap Nat} (h : s.Issues c) (kind : c.i.who.kind ≠ .prologue) (eff : f c = vectorStoreAt c d dpa ins out va val t taken)
    (tile : d.space = 1) (stored : (d.strict && out != 0) = false) : ∃ u, issue false true s f = .next u ∧
      c.Leaves ((ins.foldl (fun s i => s.tileWrite c.die c.tile (va i) (fmtBytes d.fmt) (val i)) s).addOobw c.die c.asid dpa out)
        ((c.i.withCtx { Claims.ordered s c.i.ctx t with regs := c.regs.eatV taken }).past c.pc 8) u := by
  obtain rfl := State.cur_s h.cur
  have done := eff.trans ((if_pos tile).trans (if_neg (by simp [stored])))
  have regs : (Claims.ordered c.s c.i.ctx t).regs = c.regs := Claims.ordered_regs ..
  rw [Cur.orderTaint_eq] at done
  rw [← regs]
  exact word_ok h (Cur.may_hand kind) done ((c.same_ordered _).trans ⟨rfl, rfl, rfl, rfl, rfl⟩) rfl rfl

/-- A vector store to memory: its lanes in bounds are stored in a row. -/
theorem vectorStoreAt_memory {s : State} {c : Cur} {f : Cur → Eff} {d : Desc} {dpa out : Nat} {ins : List Nat} {va val pa : Nat → Nat}
    {t : Bool} {taken : FMap Nat} (h : s.Issues c) (kind : c.i.who.kind ≠ .prologue)
    (eff : f c = vectorStoreAt c d dpa ins out va val t taken) (memory : d.space = 0) (stored : (d.strict && out != 0) = false)
    (held : ∀ i ∈ ins, (BitVec.ofNat 64 (va i)).toNat % fmtBytes d.fmt = 0 ∧
      s.translate c.die c.asid (BitVec.ofNat 64 (va i)).toNat .write = .ok (pa i)) :
    let r := Claims.storeAll s c (Claims.ordered s c.i.ctx t) (fmtBytes d.fmt) (ins.map fun i => (va i, pa i, val i))
    let j := (c.i.withCtx { r.2 with regs := c.regs.eatV taken }).past c.pc 8
    ∃ u, issue false true s f = .next u ∧ c.Leaves (r.1.addOobw c.die c.asid dpa out)
      (if c.i.ex.pred && ins.all fun i => c.retracts (va i) (fmtBytes d.fmt) then j else j.committed) u := by
  intro r j
  obtain rfl := State.cur_s h.cur
  have done := eff.trans ((if_neg (by simp [memory])).trans ((if_neg (by simp [stored])).trans
    (laneAccess_held (c := c.orderTaint t) (by rw [Cur.orderTaint_eq]; exact held) _)))
  have regs : r.2.regs = c.regs := (Claims.storeAll_regs ..).1.trans (Claims.ordered_regs ..)
  have pc : r.2.pc = c.pc := (Claims.storeAll_regs ..).2.trans (Claims.ordered_pc ..)
  have asid : Cur.asid { c with s := r.1, i := c.i.withCtx r.2 } = c.asid := Cur.asid_sameSides (Claims.sameSides_storeAll ..) _ rfl
  rw [Cur.foldl_store, List.map_map, Cur.orderTaint_eq] at done
  rw [← asid]
  by_cases retracts : (c.i.ex.pred && ins.all fun i => c.retracts (va i) (fmtBytes d.fmt)) = true
  · simp only [if_pos retracts] at done ⊢
    refine word_ok (i := c.i.withCtx { r.2 with regs := c.regs.eatV taken }) h (Cur.may_hand kind) done ⟨rfl, rfl, rfl, rfl, pc⟩ rfl ?_
    rw [← regs]; rfl
  · simp only [if_neg retracts] at done ⊢
    refine word_ok (i := (c.i.withCtx { r.2 with regs := c.regs.eatV taken }).committed) h (Cur.may_hand kind) done
      ⟨rfl, rfl, rfl, rfl, pc⟩ rfl ?_
    rw [← regs]; rfl

/-- A strict descriptor takes the bounds fault where some lane is out of bounds. -/
theorem vectorStoreAt_strict {c : Cur} {d : Desc} {dpa out : Nat} {ins : List Nat} {va val : Nat → Nat} {t : Bool} {taken : FMap Nat}
    (strict : d.strict = true) (some : out ≠ 0) : vectorStoreAt c d dpa ins out va val t taken = .trap 0x0E c.pc := by
  have faults : (d.strict && out != 0) = true := by simp [strict, some]
  unfold vectorStoreAt
  simp only [if_pos faults, ite_self]

/-! ## The obligation -/

/-- Settles O15: each word comes to its descriptor, and from there to the lanes that it names. -/
theorem vectorAccesses : Obligations.VectorAccesses := by
  unfold Obligations.VectorAccesses
  refine ⟨⟨?loadOff, ?load⟩, ?storeOff, ?store⟩
  case loadOff =>
    intro e he g b s c h kind off
    rw [exec_vecLoad e he]
    exact vectorLoad_off h kind off
  case storeOff =>
    intro e he g b s c h kind off
    rw [exec_vecStore e he]
    exact vectorStore_off h kind off
  case load =>
    intro e he g b s c vs taken d dpa h kind on acq ops room names type m at_ n taint
    rw [exec_vecLoad e he]
    refine ⟨fun tile sound => ?tile, fun pa memory dest held => ?memory⟩
    case tile =>
      obtain ⟨f, word, eff⟩ := vectorLoad_effect (s := s) on acq ops room names type (by omega)
      rw [word]
      exact vectorLoadAt_tile h kind eff tile sound
    case memory =>
      obtain ⟨f, word, eff⟩ := vectorLoad_effect (s := s) on acq ops room names type (fun _ => dest)
      rw [word]
      exact vectorLoadAt_leaves h kind eff memory held
  case store =>
    intro e he g b s c vs taken d dpa h kind on acq confirmed ops names type m at_ data n lanes ins val taint x
    have variant : e.2 < 3 := by
      revert e
      simp [Claims.vecStores]
    rw [exec_vecStore e he]
    obtain ⟨f, word, eff⟩ := vectorStore_effect (s := s) on acq confirmed ops names type variant
    rw [word]
    have fewer : ins.length ≤ lanes.length := List.length_filter_le ..
    have none (stored : d.strict = false ∨ ins.length = lanes.length) : (d.strict && lanes.length - ins.length != 0) = false := by
      rcases stored with strict | all
      · rw [strict, Bool.false_and]
      · rw [all, Nat.sub_self, bne_self_eq_false, Bool.and_false]
    refine ⟨fun strict some => ?trap, fun stored => ⟨fun tile => ?tile, fun pa memory held => ?memory⟩⟩
    case trap =>
      have out : lanes.length - ins.length ≠ 0 := by omega
      exact issueLen_trap h.cur (Cur.may_hand kind) (eff.trans (vectorStoreAt_strict strict out))
    case tile => exact vectorStoreAt_tile h kind eff tile (none stored)
    case memory => exact vectorStoreAt_memory h kind eff memory (none stored) held

end Sys2Proof.Machine
end

section
/-! # Semaphores (O17)

A good reference leads to the semaphore, a bad one to the fault; then each word by the stream that it leaves or blocks, and what a step of
a semaphore leaves of the others. -/

namespace Sys2Proof.Machine

/-! ## References (R207) -/

theorem refTile_eq (w : Word) : refTile w = w.toNat / 2 ^ 8 % 32 := rfl
theorem refIdx_eq (w : Word) : refIdx w = w.toNat % 256 := congrArg (· % 256) (Nat.div_one _)

theorem refOk_iff (c : Cur) (w : Word) : c.s.refOk c.die c.asid w = true ↔ Claims.goodRef c.s c w := by
  have reserved : fieldOf w 31 13 = w.toNat / 2 ^ 13 := by
    have := w.isLt
    exact Nat.mod_eq_of_lt (by omega)
  simp only [State.refOk, Claims.goodRef, Bool.and_eq_true, beq_iff_eq, decide_eq_true_eq, and_assoc, reserved, refIdx_eq]
  rfl

theorem semOf_eq (c : Cur) (w : Word) : c.semOf w = Claims.semAt c.s c w := by rw [Cur.semOf, Claims.semAt, refTile_eq, refIdx_eq]

theorem withRef_good {c : Cur} {w : Word} (good : Claims.goodRef c.s c w) (e : Eff) : withRef c w e = e :=
  if_pos ((refOk_iff c w).2 good)
theorem withRef_bad {c : Cur} {w : Word} (bad : ¬ Claims.goodRef c.s c w) (e : Eff) : withRef c w e = .trap 0x12 c.pc :=
  if_neg fun ok => bad ((refOk_iff c w).1 ok)

/-! ## Tiles of a stream that blocks -/

/-- A stream that blocks leaves of every tile all but the engines, of which it gives back its lease (R213). -/
theorem Cur.tile_block {β : Type} (g : Tile → β) (keeps : ∀ x e, g { x with eng := e } = g x) (c : Cur) (w : Wait) (d t : Nat) :
    g ((c.block w).tile d t) = g (c.s.tile d t) := by
  obtain ⟨⟨around, -⟩, -, -⟩ := c.s.deliverSome_keeps (fun _ => true) c.i.ctx.prods.length c.i.ctx.landAll
  have around : c.deliverAll.s = { c.s with dies := c.deliverAll.s.dies } := around
  have tiles : c.deliverAll.s.tiles = c.s.tiles := by rw [around]
  unfold Cur.block
  extract_lets c1 s1
  refine (State.updTile_keeps g (fun x => keeps x _) s1 c1.die c1.tile d t).trans ?_
  exact congrArg (fun l => g (FMap.get Tile.init l (tileKey d t))) tiles

/-! ## One step of a semaphore (R209) -/

/-- A semaphore for which no `.DEC` waiter stands grants nothing. -/
theorem State.semStep_alone {s : State} {d t idx : Nat} (alone : ∀ w ∈ (s.tile d t).decq, w.1 ≠ idx) (v : Word) :
    s.semStep d t idx v = s.semSeen d t idx v := by
  have seen : (s.semSeen d t idx v).tile d t = { s.tile d t with sems := (s.tile d t).sems.set 0 idx v } := by
    rw [State.tile, (s.semSeen_keeps d t idx v).2]
    exact State.tile_updTile ..
  have none : ((s.semSeen d t idx v).tile d t).decq.find? (fun w => w.1 == idx) = none := by
    rw [seen]
    exact List.find?_eq_none.2 fun w hw => by simpa using alone w hw
  rw [State.semStep_eq]
  cases ((s.semSeen d t idx v).tile d t).decq.length with
  | zero => rfl
  | succ n => simp only [State.grantDec, none]

/-- Tiles of one die have keys of their own. -/
theorem tileKey_inj {d t t' : Nat} (same : tileKey d t' = tileKey d t) : t' = t := by
  unfold tileKey at same
  omega

/-- A step for which no `.DEC` waiter stands writes one semaphore of the die. -/
theorem State.sem_semStep_ne {s : State} {d t idx : Nat} (alone : ∀ w ∈ (s.tile d t).decq, w.1 ≠ idx) (v : Word) {t' k' : Nat}
    (other : t' ≠ t ∨ k' ≠ idx) : (s.semStep d t idx v).sem d t' k' = s.sem d t' k' := by
  have tiles := (s.semSeen_keeps d t idx v).2
  rw [State.semStep_alone alone, State.sem, State.tile, tiles]
  by_cases tile : t' = t
  · subst tile
    refine (congrArg (fun x : Tile => x.sems.get 0 k') (State.tile_updTile ..)).trans ?_
    exact FMap.get_set_ne (other.resolve_left (fun h => h rfl)) ..
  · exact congrArg (fun x : Tile => x.sems.get 0 k') (FMap.get_set_ne (fun key => tile (tileKey_inj key)) ..)

/-! ## The words (R208) -/

/-- A word that writes a semaphore leaves its release and the step `op`, after which its operands are consumed. -/
theorem semWrite_leaves {s : State} {c : Cur} {r : Word} {taken : FMap Nat} {f : Cur → Eff} {op : State → State} (h : s.Issues c)
    (kind : c.i.who.kind ≠ .prologue)
    (eff : f c = .ok ((((c.mapCtx fun x => c.s.captureAll x).commit.semRelease r).mapS op).mapRegs fun x => x.eat taken)) :
    ∃ t, issue false true s f = .next t ∧
      c.Leaves (op (s.semRelease c.die (refTile r) (refIdx r) ((s.captureAll c.i.ctx).ord.release 2)))
        ((c.i.withCtx { (s.captureAll c.i.ctx) with regs := c.regs.eat taken }).past c.pc 8).committed t := by
  obtain rfl := State.cur_s h.cur
  have same : c.Same ((((c.mapCtx fun x => c.s.captureAll x).commit.semRelease r).mapS op).mapRegs fun x => x.eat taken) :=
    ⟨rfl, rfl, rfl, rfl, rfl⟩
  exact issueLen_leaves h (Cur.may_hand kind) eff same

section
variable {s : State} {c : Cur} {g : Guard} {b : RBody} {r v : Word} {tr tv : Bool} {taken : FMap Nat} (h : s.Issues c)
  (kind : c.i.who.kind ≠ .prologue) (on : guardAt c.regs g 0 = true) (acq : c.i.ctx.acqOpen = false)
include h kind on acq

theorem execSemrd_bad (ops : c.regs.reads [opA b] = .vals [(r, tr)] taken) (room : c.room b.dst.toNat 1 = true)
    (bad : ¬ Claims.goodRef s c r) : execSemrd g b s = .next (State.takeTrap c 0x12 0 0 c.pc c.pc) := by
  obtain rfl := State.cur_s h.cur
  exact issueLen_trap h.cur (Cur.may_hand kind) ((guarded_true on _).trans ((withOps_vals ops _).trans ((needRoom_true room _).trans
    ((afterAcquire_of_none acq _).trans (withRef_bad bad _)))))

/-- `SEMRD` delivers the value. -/
theorem execSemrd_reads (ops : c.regs.reads [opA b] = .vals [(r, tr)] taken) (room : c.room b.dst.toNat 1 = true)
    (good : Claims.goodRef s c r) :
    let x : Ctx := { c.i.ctx with ord := s.semAcquire c.i.ctx.ord c.die (r.toNat / 2 ^ 8 % 32) (r.toNat % 256) }
    let z := x.reserves b.dst.toNat 1 (.known [Claims.semAt s c r]) false true false
    ∃ t, execSemrd g b s = .next t ∧ c.Leaves s ((c.i.withCtx { z with regs := z.regs.eat taken }).past c.pc 8) t := by
  obtain rfl := State.cur_s h.cur
  rw [← semOf_eq, ← refTile_eq, ← refIdx_eq]
  exact word_ok h (Cur.may_hand kind) ((guarded_true on _).trans ((withOps_vals ops _).trans ((needRoom_true room _).trans
    ((afterAcquire_of_none acq _).trans (withRef_good good _))))) ⟨rfl, rfl, rfl, rfl, rfl⟩ rfl rfl

variable (ops : c.regs.reads [opA b, opB b] = .vals [(r, tr), (v, tv)] taken)
include ops

theorem execWaits_bad (bad : ¬ Claims.goodRef s c r) : execWaits g b s = .next (State.takeTrap c 0x12 0 0 c.pc c.pc) := by
  obtain rfl := State.cur_s h.cur
  exact issueLen_trap h.cur (Cur.may_hand kind) ((guarded_true on _).trans ((withOps_vals ops _).trans
    ((afterAcquire_of_none acq _).trans (withRef_bad bad _))))

/-- `WAITS` goes on when the value meets the threshold. -/
theorem execWaits_passes (good : Claims.goodRef s c r) (met : v.toNat ≤ (Claims.semAt s c r).toNat) :
    let x : Ctx := { c.i.ctx with regs := c.regs.eat taken }
    ∃ t, execWaits g b s = .next t ∧ c.Leaves s
      ((c.i.withCtx { x with ord := s.semAcquire x.ord c.die (r.toNat / 2 ^ 8 % 32) (r.toNat % 256) }).past c.pc 8) t := by
  obtain rfl := State.cur_s h.cur
  rw [← refTile_eq, ← refIdx_eq]
  rw [← semOf_eq] at met
  exact word_ok h (Cur.may_hand kind) ((guarded_true on _).trans ((withOps_vals ops _).trans
    ((afterAcquire_of_none acq _).trans ((withRef_good good _).trans (if_pos met))))) ⟨rfl, rfl, rfl, rfl, rfl⟩ rfl rfl

/-- And blocks past the word otherwise. -/
theorem execWaits_blocks (good : Claims.goodRef s c r) (short : (Claims.semAt s c r).toNat < v.toNat) :
    ∃ t, execWaits g b s = .next t ∧
      c.Blocks s (.waits r v false) ((c.i.withCtx { c.i.ctx with regs := c.regs.eat taken }).past c.pc 8).ctx.pc t := by
  obtain rfl := State.cur_s h.cur
  rw [← semOf_eq] at short
  have blocked := ((c.mapRegs fun x => x.eat taken).fallThrough 8).blocks_block (.waits r v false)
  exact ⟨_, issueLen_done h (Cur.may_hand kind) ((guarded_true on _).trans ((withOps_vals ops _).trans
    ((afterAcquire_of_none acq _).trans ((withRef_good good _).trans (if_neg (Nat.not_le.2 short)))))),
    blocked.of_stream rfl rfl rfl rfl⟩

variable (confirmed : c.i.ex.unconf = false)
include confirmed

omit h kind in
/-- A word that writes a semaphore comes to its reference. -/
theorem semWrite_ref (k : List Word → (Cur → Cur) → Eff) :
    (guarded c g <| commitStall c <| withOps c [opA b, opB b] fun l _ eat => afterAcquire c <| withRef c (nth l 0) (k l eat)) =
      withRef c r (k [r, v] fun x => x.mapRegs fun y => y.eat taken) :=
  (guarded_true on _).trans ((commitStall_of_confirmed confirmed _).trans ((withOps_vals ops _).trans (afterAcquire_of_none acq _)))

/-- A bad reference makes each word take the semaphore fault. -/
theorem semWord_bad (bad : ¬ Claims.goodRef s c r) : ∀ mk ∈ [Instr.waits, .waitsDec, .sig, .semset],
    exec (mk g b) s = .next (State.takeTrap c 0x12 0 0 c.pc c.pc) := by
  have waits := execWaits_bad h kind on acq ops bad
  obtain rfl := State.cur_s h.cur
  simp only [List.forall_mem_cons, List.not_mem_nil, false_imp_iff, implies_true, and_true]
  exact ⟨waits, issueLen_trap h.cur (Cur.may_hand kind) ((semWrite_ref on acq ops confirmed _).trans (withRef_bad bad _)),
    issueLen_trap h.cur (Cur.may_hand kind) ((semWrite_ref on acq ops confirmed _).trans (withRef_bad bad _)),
    issueLen_trap h.cur (Cur.may_hand kind) ((semWrite_ref on acq ops confirmed _).trans (withRef_bad bad _))⟩

variable (good : Claims.goodRef s c r)
include good

/-- `WAITS.DEC` takes the threshold off the value, where no other waiter of its kind stands. -/
theorem execWaitsDec_passes (met : v.toNat ≤ (Claims.semAt s c r).toNat)
    (alone : ∀ w ∈ (s.tile c.die (r.toNat / 2 ^ 8 % 32)).decq, w.1 ≠ r.toNat % 256) :
    let t0 := r.toNat / 2 ^ 8 % 32
    let k := r.toNat % 256
    let x : Ctx := { c.i.ctx with regs := c.regs.eat taken }
    ∃ t, execWaitsDec g b s = .next t ∧
      c.Leaves (s.updTile c.die t0 fun y => { y with sems := y.sems.set 0 k (Claims.semAt s c r - v) })
        ((c.i.withCtx { x with ord := s.semAcquire x.ord c.die t0 k }).past c.pc 8).committed t := by
  obtain rfl := State.cur_s h.cur
  rw [← refTile_eq, ← refIdx_eq] at alone ⊢
  rw [← semOf_eq] at met ⊢
  have free : v.toNat ≤ (c.semOf r).toNat ∧ ((c.s.tile c.die (refTile r)).decq.all fun w => w.1 != refIdx r) = true :=
    ⟨met, List.all_eq_true.2 fun w mem => bne_iff_ne.2 (alone w mem)⟩
  exact word_ok (i := (c.i.withCtx _).committed) h (Cur.may_hand kind) ((semWrite_ref on acq ops confirmed _).trans
    ((withRef_good good _).trans (if_pos free))) ⟨rfl, rfl, rfl, rfl, rfl⟩ rfl rfl

/-- And blocks otherwise, the last of its kind (R209). -/
theorem execWaitsDec_blocks (short : (Claims.semAt s c r).toNat < v.toNat ∨
      ∃ w ∈ (s.tile c.die (r.toNat / 2 ^ 8 % 32)).decq, w.1 = r.toNat % 256) :
    let t0 := r.toNat / 2 ^ 8 % 32
    let k := r.toNat % 256
    ∃ t, execWaitsDec g b s = .next t ∧
      c.Blocks s (.waitsDec r v false) ((c.i.withCtx { c.i.ctx with regs := c.regs.eat taken }).past c.pc 8).ctx.pc t ∧
      (t.tile c.die t0).decq = (s.tile c.die t0).decq ++ [(k, c.uid, v)] ∧ (t.tile c.die t0).sems = (s.tile c.die t0).sems := by
  obtain rfl := State.cur_s h.cur
  rw [← refTile_eq, ← refIdx_eq] at short ⊢
  rw [← semOf_eq] at short
  have busy : ¬ (v.toNat ≤ (c.semOf r).toNat ∧ ((c.s.tile c.die (refTile r)).decq.all fun w => w.1 != refIdx r) = true) := by
    rintro ⟨met, alone⟩
    rcases short with short | ⟨w, mem, same⟩
    · omega
    · exact bne_iff_ne.1 (List.all_eq_true.1 alone w mem) same
  let queued : Cur := ((c.mapRegs fun x => x.eat taken).fallThrough 8).mapS fun s => s.updTile c.die (refTile r) fun x =>
    { x with decq := x.decq ++ [(refIdx r, c.uid, v)] }
  have blocked := (queued.blocks_block (.waitsDec r v false)).of_stream (c := c) rfl rfl rfl rfl
  have tile : queued.s.tile c.die (refTile r) = { c.s.tile c.die (refTile r) with
      decq := (c.s.tile c.die (refTile r)).decq ++ [(refIdx r, c.uid, v)] } := State.tile_updTile ..
  refine ⟨queued.block (.waitsDec r v false), issueLen_done h (Cur.may_hand kind) ((semWrite_ref on acq ops confirmed _).trans
    ((withRef_good good _).trans (if_neg busy))), ⟨blocked.inst, blocked.insts, blocked.seqs, blocked.phys, blocked.host,
    blocked.ports⟩, ?_, ?_⟩
  · rw [Cur.tile_block Tile.decq (fun _ _ => rfl), tile]
  · rw [Cur.tile_block Tile.sems (fun _ _ => rfl), tile]

variable (far : c.i.ctx.remoteOpen = false)
include far

/-- `SIG` adds to the value in one step of the semaphore, after its release (R248). -/
theorem execSig_steps :
    let y : Ctx := { (s.captureAll c.i.ctx) with regs := c.regs.eat taken }
    let rel : State := s.semRelease c.die (r.toNat / 2 ^ 8 % 32) (r.toNat % 256) (y.ord.release 2)
    ∃ t, execSig g b s = .next t ∧
      c.Leaves (rel.semStep c.die (r.toNat / 2 ^ 8 % 32) (r.toNat % 256) (Claims.semAt s c r + v))
        ((c.i.withCtx y).past c.pc 8).committed t := by
  obtain rfl := State.cur_s h.cur
  rw [← refTile_eq, ← refIdx_eq, ← semOf_eq]
  intro y rel
  have sem : rel.semAdd c.die (refTile r) (refIdx r) v.toNat = rel.semStep c.die (refTile r) (refIdx r) (c.semOf r + v) := by
    have value : rel.sem c.die (refTile r) (refIdx r) = c.semOf r := (State.semRelease_keeps ..).2.2
    rw [State.semAdd, value, BitVec.ofNat_toNat, BitVec.setWidth_eq]
  rw [← sem]
  exact semWrite_leaves (op := fun s => s.semAdd c.die (refTile r) (refIdx r) v.toNat) h kind
    ((semWrite_ref on acq ops confirmed _).trans ((withRef_good good _).trans
      (release_open far (fun sys => absurd sys Bool.false_ne_true) _)))

/-- `SEMSET` replaces it. -/
theorem execSemset_steps :
    let y : Ctx := { (s.captureAll c.i.ctx) with regs := c.regs.eat taken }
    let rel : State := s.semRelease c.die (r.toNat / 2 ^ 8 % 32) (r.toNat % 256) (y.ord.release 2)
    ∃ t, execSemset g b s = .next t ∧ c.Leaves (rel.semStep c.die (r.toNat / 2 ^ 8 % 32) (r.toNat % 256) v)
      ((c.i.withCtx y).past c.pc 8).committed t := by
  obtain rfl := State.cur_s h.cur
  rw [← refTile_eq, ← refIdx_eq]
  exact semWrite_leaves (op := fun s => s.semStep c.die (refTile r) (refIdx r) v) h kind
    ((semWrite_ref on acq ops confirmed _).trans ((withRef_good good _).trans
      (release_open far (fun sys => absurd sys Bool.false_ne_true) _)))

end

/-! ## The obligation -/

/-- Settles O17: each word by its reference and the value that stands there, then one step of a semaphore. -/
theorem semaphores : Obligations.Semaphores := by
  unfold Obligations.Semaphores
  refine ⟨⟨?words, ?semrd⟩, fun s d t k v alone => ⟨State.sem_semStep alone v, fun t' k' other _ _ => State.sem_semStep_ne alone v other⟩⟩
  case words =>
    intro g b s c r v tr tv taken h kind on confirmed acq ops t0 k x x' y rel sem next
    refine ⟨semWord_bad h kind on acq ops confirmed, fun good => ⟨execWaits_passes h kind on acq ops good,
      execWaits_blocks h kind on acq ops good, execWaitsDec_passes h kind on acq ops confirmed good,
      execWaitsDec_blocks h kind on acq ops confirmed good, execSig_steps h kind on acq ops confirmed good,
      execSemset_steps h kind on acq ops confirmed good⟩⟩
  case semrd =>
    intro g b s c r tr taken h kind on acq ops room x z
    exact ⟨execSemrd_bad h kind on acq ops room, execSemrd_reads h kind on acq ops room⟩

end Sys2Proof.Machine
end

section
/-! # Queue inspection, leases and chains (O18) -/

namespace Sys2Proof.Machine

/-! ## Filled and pending entries (R54, R211) -/

theorem Queue.occ_eq {α : Type} (q : Queue α) : q.occ = q.items.countP Option.isSome := (List.countP_eq_length_filter ..).symm

theorem Queue.pend_eq {α : Type} (q : Queue α) : q.pend = q.items.countP Option.isNone := by
  have others : q.items.countP (fun e => decide ¬ e.isSome = true) = q.items.countP Option.isNone :=
    List.countP_congr fun e _ => by cases e <;> simp
  have all := List.length_eq_countP_add_countP Option.isSome (l := q.items)
  rw [Queue.pend, Queue.occ_eq, all, others, Nat.add_sub_cancel_left]

theorem Queue.pend_eq_zero {α : Type} {q : Queue α} : q.pend = 0 ↔ ∀ e ∈ q.items, e ≠ none := by
  simp [Queue.pend_eq, List.countP_eq_zero]

/-- An emptied queue. -/
theorem Queue.consume_all {α : Type} (q : Queue α) : q.consume q.items.length = ⟨q.head + q.items.length, []⟩ := by
  rw [Queue.consume, List.drop_length]

section
variable {s : State} {c : Cur} {g : Guard} {b : RBody} (h : s.Issues c) (on : guardAt c.regs g 0 = true)
include h on

/-- `QCNT` gives the numbers of filled and of pending entries. -/
theorem execQcnt_counts (room : c.room b.dst.toNat 1 = true) :
    let filled : Nat := if b.m then (c.regs.getVq (b.a.toNat % 4)).items.countP Option.isSome
      else (c.regs.getQ (b.a.toNat - 56)).items.countP Option.isSome
    let pending : Nat := if b.m then (c.regs.getVq (b.a.toNat % 4)).items.countP Option.isNone
      else (c.regs.getQ (b.a.toNat - 56)).items.countP Option.isNone
    ∃ t, execQcnt g b s = .next t ∧ c.Leaves s ((c.i.withCtx (c.scalarResult .empty b.dst.toNat 1
      (BitVec.ofNat 32 (filled + 16 * pending)) false)).past c.pc 8) t := by
  intro filled pending
  have filled_eq : (if b.m then ((c.regs.getVq (b.a.toNat % 4)).occ, (c.regs.getVq (b.a.toNat % 4)).pend)
      else ((c.regs.getQ (b.a.toNat - 56)).occ, (c.regs.getQ (b.a.toNat - 56)).pend)).1 = filled := by
    simp only [filled, ← Queue.occ_eq]
    split <;> rfl
  have pending_eq : (if b.m then ((c.regs.getVq (b.a.toNat % 4)).occ, (c.regs.getVq (b.a.toNat % 4)).pend)
      else ((c.regs.getQ (b.a.toNat - 56)).occ, (c.regs.getQ (b.a.toNat - 56)).pend)).2 = pending := by
    simp only [pending, ← Queue.pend_eq]
    split <;> rfl
  rw [← filled_eq, ← pending_eq]
  exact word_ok h c.may_all ((guarded_true on _).trans (needRoom_true room _)) (Cur.same_putS ..)
    ((Cur.putS_s ..).trans (State.cur_s h.cur)) (Cur.putS_ctx c .empty ..)

/-- `QDRN` empties a queue that has no pending entry. -/
theorem execQdrn_scalar (scalar : b.m = false) (ready : ∀ e ∈ (c.regs.getQ (b.a.toNat - 56)).items, e ≠ none) :
    let q := c.regs.getQ (b.a.toNat - 56)
    ∃ t, execQdrn g b s = .next t ∧ c.Leaves s ((c.i.withCtx { c.i.ctx with
      regs := c.regs.setQ (b.a.toNat - 56) ⟨q.head + q.items.length, []⟩ }).past c.pc 8) t := by
  intro q
  obtain rfl := State.cur_s h.cur
  rw [← Queue.consume_all]
  exact word_ok h c.may_all ((guarded_true on _).trans ((if_neg (by simp [scalar])).trans (if_pos (Queue.pend_eq_zero.2 ready))))
    ⟨rfl, rfl, rfl, rfl, rfl⟩ rfl rfl

theorem execQdrn_vector (vector : b.m = true) (ready : ∀ e ∈ (c.regs.getVq (b.a.toNat % 4)).items, e ≠ none) :
    let q := c.regs.getVq (b.a.toNat % 4)
    ∃ t, execQdrn g b s = .next t ∧ c.Leaves s ((c.i.withCtx { c.i.ctx with
      regs := c.regs.setVq (b.a.toNat % 4) ⟨q.head + q.items.length, []⟩ }).past c.pc 8) t := by
  intro q
  obtain rfl := State.cur_s h.cur
  rw [← Queue.consume_all]
  exact word_ok h c.may_all ((guarded_true on _).trans ((if_pos vector).trans (if_pos (Queue.pend_eq_zero.2 ready))))
    ⟨rfl, rfl, rfl, rfl, rfl⟩ rfl rfl

/-- With a pending entry it stays at issue. -/
theorem execQdrn_waits (pending : b.m = false ∧ none ∈ (c.regs.getQ (b.a.toNat - 56)).items ∨
      b.m = true ∧ none ∈ (c.regs.getVq (b.a.toNat % 4)).items) : execQdrn g b s = .next (c.after 1) := by
  rcases pending with ⟨scalar, mem⟩ | ⟨vector, mem⟩
  · exact issueLen_stall h.cur c.may_all ((guarded_true on _).trans ((if_neg (by simp [scalar])).trans
      (if_neg fun none => Queue.pend_eq_zero.1 none _ mem rfl)))
  · exact issueLen_stall h.cur c.may_all ((guarded_true on _).trans ((if_pos vector).trans
      (if_neg fun none => Queue.pend_eq_zero.1 none _ mem rfl)))

/-! ## Leases (R212, R213) -/

/-- `LEASE` blocks past the word and asks the arbitration. -/
theorem execLease_asks (ordinary : c.Ordinary) : ∃ t, execLease g b s = .next t ∧
    c.Blocks s (.lease (b.c.toNat + 1) false) (c.i.past c.pc 8).ctx.pc t ∧
    (c.q % 4, c.uid, b.c.toNat + 1) ∈ (t.tile c.die c.tile).eng.asks := by
  obtain rfl := State.cur_s h.cur
  have blocked := ((c.fallThrough 8).blocks_block (.lease (b.c.toNat + 1) false)).of_stream (c := c) rfl rfl rfl rfl
  refine ⟨_, issueLen_done h (ordinary.may ..) (guarded_true on _),
    ⟨blocked.inst, blocked.insts, blocked.seqs, blocked.phys, blocked.host, blocked.ports⟩, ?_⟩
  rw [State.askLease, State.updEng, State.tile_updTile]
  exact List.mem_append_right _ (List.mem_singleton_self _)

/-- `UNLEASE` ends the stream's lease. -/
theorem execUnlease_ends (ordinary : c.Ordinary) : ∃ t, execUnlease g b s = .next t ∧
    c.Leaves (s.endLease c.die c.tile c.uid) (c.i.past c.pc 8) t := by
  obtain rfl := State.cur_s h.cur
  exact word_ok h (ordinary.may ..) (guarded_true on _) ⟨rfl, rfl, rfl, rfl, rfl⟩ rfl rfl

end

/-! ## Chains (R214) -/

/-- A stream that is left up to what is carried to it is left up to what the memory model keeps. -/
theorem Cur.Leaves.upTo {c : Cur} {b t : State} {i j : Inst} (h : c.Leaves b j t) (o : Ledger) (inst : j = i.withOrd o) :
    Claims.Leaves c b i t := by
  subst inst
  exact ⟨o, b.phys.relaxed, h⟩

/-- A result on its way on a stream that has performed its loads. -/
theorem Cur.scalarResult_captured (c : Cur) (s : State) (sel : Producer → Bool) (taken : FMap Nat) (dst lat : Nat) (v : Word) (t : Bool) :
    (c.mapCtx fun x => s.capture x sel).scalarResult taken dst lat v t = { c.scalarResult taken dst lat v t with
      prods := (s.capture c.i.ctx sel).prods
      ord := (s.capture c.i.ctx sel).ord } := by
  unfold Cur.scalarResult
  split <;> rfl

section
variable {s : State} {c : Cur} {g : Guard} {b : RBody} {w : Word} {tw : Bool} {taken : FMap Nat} (h : s.Issues c)
  (kind : c.i.who.kind ≠ .prologue) (on : guardAt c.regs g 0 = true) (confirmed : c.i.ex.unconf = false)
  (acq : c.i.ctx.acqOpen = false) (ops : c.regs.reads [opB b] = .vals [(w, tw)] taken) (room : c.room b.dst.toNat 1 = true)

include h kind on confirmed acq ops room

omit h kind in
/-- `CHAIN` comes to its address. -/
theorem execChain_address (k : List Word → Bool → (Cur → Cur) → Eff) :
    (guarded c g <| commitStall c <| withOps c [opB b] fun l t eat => needRoom c b.dst.toNat 1 <| afterAcquire c <| k l t eat) =
      k [w] tw fun x => x.mapRegs fun y => y.eat taken := by
  have taint : [(w, tw)].any Prod.snd = tw := Bool.or_false tw
  rw [guarded_true on, commitStall_of_confirmed confirmed, withOps_vals ops, needRoom_true room, afterAcquire_of_none acq, taint]
  rfl

theorem execChain_misaligned (odd : (c.regs.getPair b.a.toNat).toNat % 32 ≠ 0) :
    execChain g b s = .next (State.takeTrap c 0x0A 0 0 c.pc (c.regs.getPair b.a.toNat)) :=
  issueLen_trap h.cur (Cur.may_hand kind) ((execChain_address on confirmed acq ops room _).trans (if_pos odd))

variable (aligned : (c.regs.getPair b.a.toNat).toNat % 32 = 0)
include aligned

theorem execChain_far (high : 2 ^ 55 ≤ (c.regs.getPair b.a.toNat).toNat) :
    execChain g b s = .next (State.takeTrap c 0x0B 0 0 c.pc (c.regs.getPair b.a.toNat)) :=
  issueLen_trap h.cur (Cur.may_hand kind) ((execChain_address on confirmed acq ops room _).trans ((if_neg (not_not.2 aligned)).trans
    (if_pos (by omega))))

variable (low : (c.regs.getPair b.a.toNat).toNat < 2 ^ 55) (far : c.i.ctx.remoteOpen = false)
include low far

/-- A chain of no command gives the status 0. -/
theorem execChain_none (zero : w.toNat % 2 ^ 16 = 0) : ∃ t, execChain g b s = .next t ∧
    Claims.Leaves c s ((c.i.withCtx { (c.scalarResult taken b.dst.toNat 1 0 (tw || c.regs.taintPair b.a.toNat)) with
      prods := (s.captureAll c.i.ctx).prods }).past c.pc 8).committed t := by
  obtain rfl := State.cur_s h.cur
  have near : ¬ (c.regs.getPair b.a.toNat).toNat / 2 ^ 55 ≠ 0 := by omega
  obtain ⟨f, word, eff⟩ : ∃ f, execChain g b c.s = issue false true c.s f ∧ f c = .ok (((c.mapCtx fun x => c.s.captureAll x).commit.putS
      b.dst.toNat 1 0 (tw || c.regs.taintPair b.a.toNat)).mapRegs fun x => x.eat taken) := ⟨_, rfl,
    (execChain_address on confirmed acq ops room _).trans ((if_neg (not_not.2 aligned)).trans ((if_neg near).trans
      ((if_pos zero).trans (release_open far (fun sys => absurd sys Bool.false_ne_true) _))))⟩
  have same : c.Same (c.mapCtx fun x => c.s.captureAll x).commit := ⟨rfl, rfl, rfl, rfl, rfl⟩
  obtain ⟨t, next, leaves⟩ := word_ok (len := 8) h (Cur.may_hand kind) eff ((same.trans (Cur.same_putS ..)).trans (Cur.same_mapRegs ..))
    (Cur.putS_s ..) (Cur.putS_ctx ..)
  rw [show (c.mapCtx fun x => c.s.captureAll x).commit.scalarResult taken b.dst.toNat 1 0 (tw || c.regs.taintPair b.a.toNat) = _ from
    Cur.scalarResult_captured c c.s (fun _ => true) ..] at leaves
  exact ⟨t, word.trans next, leaves.upTo _ rfl⟩

/-- A chain is handed to the copy engine, and its status is to be delivered. -/
theorem execChain_starts (some : w.toNat % 2 ^ 16 ≠ 0) (room' : (s.tile c.die c.tile).eng.chains.cells.length < 8)  :
    let e := (s.tile c.die c.tile).eng
    let q := c.regs.getQ (b.dst.toNat - 56)
    let x := (s.captureAll (Claims.ordered s c.i.ctx (c.regs.taintPair b.a.toNat))).reserves b.dst.toNat 1
      (.chain e.nextChain) (tw || c.regs.taintPair b.a.toNat) false false
    ∃ t view, execChain g b s = .next t ∧
      Claims.Leaves c (s.updEng c.die c.tile fun y => y.addChain ⟨c.uid, c.asid, c.i.who.queue, (c.regs.getPair b.a.toNat).toNat,
          w.toNat % 2 ^ 16, 0, 0, none, c.regs.s, seqKey c.die c.q, b.dst.toNat - 56, q.tailPos, view⟩)
        ((c.i.withCtx { x with regs := x.regs.eat taken }).past c.pc 8).committed t := by
  obtain rfl := State.cur_s h.cur
  intro e q x
  have near : ¬ (c.regs.getPair b.a.toNat).toNat / 2 ^ 55 ≠ 0 := by omega
  have room'' : ¬ 8 ≤ (c.s.tile c.die c.tile).eng.chains.cells.length := by omega
  have regs : (c.released (c.regs.taintPair b.a.toNat)).regs = c.regs := Claims.ordered_regs ..
  obtain ⟨f, word, eff⟩ : ∃ f, execChain g b c.s = issue false true c.s f ∧
      f c = .ok ((((c.released (c.regs.taintPair b.a.toNat)).commit.produce b.dst.toNat 1 (.chain e.nextChain)
        (tw || c.regs.taintPair b.a.toNat) false false).mapS fun s => s.updEng c.die c.tile fun y => y.addChain
          ⟨c.uid, c.asid, c.i.who.queue, (c.regs.getPair b.a.toNat).toNat, w.toNat % 2 ^ 16, 0, 0, none,
            (c.released (c.regs.taintPair b.a.toNat)).regs.s, seqKey c.die c.q, b.dst.toNat - 56,
            ((c.released (c.regs.taintPair b.a.toNat)).regs.getQ (b.dst.toNat - 56)).tailPos,
            (c.released (c.regs.taintPair b.a.toNat)).i.ctx.ord.fork 2⟩).mapRegs fun x => x.eat taken) := ⟨_, rfl,
    (execChain_address on confirmed acq ops room _).trans ((if_neg (not_not.2 aligned)).trans ((if_neg near).trans
      ((if_neg some).trans ((if_neg room'').trans
        (release_orderTaint _ far (fun sys => absurd sys Bool.false_ne_true) _)))))⟩
  rw [regs] at eff
  have pc : (c.released (c.regs.taintPair b.a.toNat)).i.ctx.pc = c.i.ctx.pc := Claims.ordered_pc ..
  obtain ⟨t, next, leaves⟩ := word_ok (len := 8) h (Cur.may_hand kind) eff ⟨rfl, rfl, rfl, rfl, pc⟩ rfl rfl
  exact ⟨t, _, word.trans next, leaves.upTo _ rfl⟩

end

/-! ## The obligation -/

/-- Settles O18: each word by the queue, the lease or the chain that it names. -/
theorem queueAndLeaseWords : Obligations.QueueAndLeaseWords := by
  unfold Obligations.QueueAndLeaseWords
  refine ⟨?queues, ?leases, ?chains⟩
  case queues =>
    intro g b s c h on r n k
    exact ⟨execQcnt_counts h on, execQdrn_scalar h on, execQdrn_vector h on, execQdrn_waits h on⟩
  case leases =>
    intro g b s c h ordinary on n
    exact ⟨execLease_asks h on ordinary, execUnlease_ends (b := b) h on ordinary⟩
  case chains =>
    intro g b s c w tw taken h kind on confirmed acq ops room queue a e n
    exact ⟨execChain_misaligned h kind on confirmed acq ops room, execChain_far h kind on confirmed acq ops room,
      fun aligned low zero far => execChain_none h kind on confirmed acq ops room aligned low far zero,
      fun aligned low some free far => execChain_starts h kind on confirmed acq ops room aligned low far some free⟩

end Sys2Proof.Machine
end

section
/-! # Futures (O16)

A cell of a future is read, or filled, once its address is translated; what an uncommitted reader of an empty cell gives up, and what
filling sets off. -/

namespace Sys2Proof.Machine

/-! ## Reports and wakes do not look beside memory -/

namespace State.Beside
variable {s t : State}

theorem setAccessed (h : s.Beside t) (epa : Nat) (a : Bool) : (s.setAccessed epa a).Beside (t.setAccessed epa a) := by
  have byte : t.byteAt epa = s.byteAt epa := by obtain ⟨_, _, rfl⟩ := h; exact s.byteAt_updRelaxed ..
  unfold State.setAccessed
  rw [byte]
  split
  · exact h.rmwPa ..
  · exact h

theorem feResolve (h : s.Beside t) (asid va : Nat) (k : Acc) :
    (s.feResolve asid va k).1.Beside (t.feResolve asid va k).1 ∧ (t.feResolve asid va k).2 = (s.feResolve asid va k).2 := by
  have walk : t.walk asid va k = s.walk asid va k := by obtain ⟨_, _, rfl⟩ := h; exact s.walk_updRelaxed ..
  have sequence : t.inSequence asid va = s.inSequence asid va := by obtain ⟨_, _, rfl⟩ := h; rfl
  have check (pa : Nat) : t.checkPa pa = s.checkPa pa := by obtain ⟨_, _, rfl⟩ := h; rfl
  unfold State.feResolve
  rw [walk, sequence]
  split
  · exact ⟨h, rfl⟩
  · split
    · exact ⟨h, rfl⟩
    · split
      · exact ⟨h.setAccessed .., check _⟩
      all_goals exact ⟨h, rfl⟩

theorem setReportOrd (h : s.Beside t) (queue : Option Nat) (o : Ledger) : (s.setReportOrd queue o).Beside (t.setReportOrd queue o) := by
  obtain ⟨heads, scs, rfl⟩ := h
  refine ⟨heads, scs, ?_⟩
  cases queue with
  | none => simp only [State.setReportOrd, State.updHost_updRelaxed]
  | some q => simp only [State.setReportOrd, State.queueOrd, State.updQueue_updRelaxed]

theorem reportOrd (h : s.Beside t) (queue : Option Nat) : t.reportOrd queue = s.reportOrd queue := by
  obtain ⟨_, _, rfl⟩ := h
  cases queue <;> rfl

theorem sendSpan (h : s.Beside t) (m : SpanMsg) : (s.sendSpan m).Beside (t.sendSpan m) :=
  h.map (op := fun s => s.sendSpan m) fun _ _ => rfl

/-- A record of an error is written, or refused, the same. -/
theorem recordWrite (h : s.Beside t) (queue : Option Nat) (asid va v : Nat) :
    (s.recordWrite queue asid va v).1.Beside (t.recordWrite queue asid va v).1 ∧
      (t.recordWrite queue asid va v).2 = (s.recordWrite queue asid va v).2 := by
  obtain ⟨state, result⟩ := h.feResolve asid va .write
  unfold State.recordWrite
  rcases hs : s.feResolve asid va .write with ⟨s', r⟩
  rcases ht : t.feResolve asid va .write with ⟨t', r'⟩
  rw [hs, ht] at state result
  obtain rfl : r' = r := result
  cases r' with
  | ok pa =>
    have cyc : (t'.die 0).cyc = (s'.die 0).cyc := by obtain ⟨_, _, rfl⟩ := state; rfl
    dsimp only
    rw [state.reportOrd, state.oldsAt]
    split
    · rw [cyc]
      exact ⟨(State.beside_awayWrite ..).symm.trans ((state.sendSpan _).trans (State.beside_awayWrite ..)), rfl⟩
    · obtain ⟨written, carried⟩ := state.writeAs (((s'.reportOrd queue).meet (s'.oldsAt pa 32))) pa 32 v
        (((s'.reportOrd queue).meet (s'.oldsAt pa 32)).release 4) (((s'.reportOrd queue).meet (s'.oldsAt pa 32)).release 4)
      rw [carried]
      exact ⟨written.setReportOrd .., rfl⟩
  | _ => exact ⟨state, rfl⟩

theorem updHost (h : s.Beside t) (f : HostDie → HostDie) : (s.updHost f).Beside (t.updHost f) :=
  h.map (op := fun s => s.updHost f) fun s r => s.updHost_updRelaxed r f

/-- An error is reported, or its record dropped, the same. -/
theorem err (h : s.Beside t) (queue : Option Nat) (code asid die tile info0 info1 : Nat) :
    (s.err queue code asid die tile info0 info1).Beside (t.err queue code asid die tile info0 info1) := by
  have host : t.host = s.host := by obtain ⟨_, _, rfl⟩ := h; rfl
  have ring : t.ringFor queue asid = s.ringFor queue asid := by obtain ⟨_, _, rfl⟩ := h; cases queue <;> rfl
  have cyc : (t.die die).cyc = (s.die die).cyc := by obtain ⟨_, _, rfl⟩ := h; rfl
  unfold State.err
  rw [ring, cyc]
  generalize s.ringFor queue asid = n
  generalize errBits code asid die tile info0 info1 (s.die die).cyc = r
  unfold State.ringPut State.ringDrop
  rw [host]
  dsimp only
  generalize s.host.rings.get 0 n = ring
  generalize fieldOf ring 200 192 = a
  generalize fieldOf ring 63 0 + 32 * (fieldOf ring 127 96 % 2 ^ (fieldOf ring 67 64 + 4)) = va
  split
  · obtain ⟨state, result⟩ := h.recordWrite queue a va r.toNat
    rcases hs : s.recordWrite queue a va r.toNat with ⟨s', b⟩
    rcases ht : t.recordWrite queue a va r.toNat with ⟨t', b'⟩
    rw [hs, ht] at state result
    obtain rfl : b' = b := result
    cases b' <;> exact state.updHost _
  · exact h.updHost _

end State.Beside

/-- The waiters that are woken are the same. -/
theorem State.wakeCell_updRelaxed (s : State) (r : Relaxed → Relaxed) (pa : Nat) (sel : Waiter → Bool) :
    (s.updRelaxed r).wakeCell pa sel = (s.wakeCell pa sel).updRelaxed r := by
  have waiters : (s.updRelaxed r).waitersAt pa = s.waitersAt pa := by
    simp only [State.waitersAt, State.homeOf_updRelaxed]
    rfl
  have set (l : List Waiter) : (s.updRelaxed r).setWaiters pa l = (s.setWaiters pa l).updRelaxed r := by
    simp only [State.setWaiters, State.homeOf_updRelaxed]
    cases (s.homeOf pa).bind homeDie with
    | none => exact State.updHost_updRelaxed ..
    | some d => exact State.updDie_updRelaxed ..
  unfold State.wakeCell
  rw [waiters, set]
  exact updRelaxed_foldl (op := fun (s : State) (w : Waiter) => s.updInst w.uid fun i => i.readyAgain (s.die i.who.die).cyc)
    (fun w s r => s.updInst_updRelaxed r w.uid _) _ _ r

/-- The confirmations that come due are the same. -/
theorem State.confirmDue_updRelaxed (s : State) (r : Relaxed → Relaxed) (pa : Nat) :
    (s.updRelaxed r).confirmDue pa = (s.confirmDue pa).updRelaxed r := by
  refine updRelaxed_foldl (fun d s r => ?_) (List.range 20) s r
  dsimp only
  rw [State.die_updRelaxed]
  split
  · rfl
  · exact State.updDie_updRelaxed ..

theorem State.Beside.wakeCell {s t : State} (h : s.Beside t) (pa : Nat) (sel : Waiter → Bool) :
    (s.wakeCell pa sel).Beside (t.wakeCell pa sel) :=
  h.map (op := fun s => s.wakeCell pa sel) fun s r => s.wakeCell_updRelaxed r pa sel
theorem State.Beside.confirmDue {s t : State} (h : s.Beside t) (pa : Nat) : (s.confirmDue pa).Beside (t.confirmDue pa) :=
  h.map (op := fun s => s.confirmDue pa) fun s r => s.confirmDue_updRelaxed r pa

theorem Claims.lowered_eq (s : State) (c : Cur) (pa v : Nat) : Claims.lowered s c pa v = s.boundLower pa v c.asid c.i.who.queue := rfl

/-- The lowering that a filled cell asks for is the same (R205). -/
theorem State.Beside.boundLower {s t : State} (h : s.Beside t) (pa v asid : Nat) (queue : Option Nat) :
    (s.boundLower pa v asid queue).Beside (t.boundLower pa v asid queue) := by
  have home : t.homeOf pa = s.homeOf pa := by obtain ⟨_, _, rfl⟩ := h; exact s.homeOf_updRelaxed ..
  unfold State.boundLower
  rw [home]
  dsimp only
  split
  · exact h
  · split
    · exact h.map (op := fun s => s.updSch (v / 2 ^ 45 % 32) fun x =>
          { x with lowerings := x.lowerings ++ [⟨v / 2 ^ 34 % 2048, asid, queue⟩] })
        fun s r => State.updDie_updRelaxed ..
    · exact h.err ..

/-! ## What a squash gives up (R43) -/

theorem State.inst_cohortLeave {s : State} {u : Nat} {i : Inst} (hi : s.inst u = some i) (d : Nat) :
    (s.cohortLeave d u).inst u = some { i with coh := none } := by
  unfold State.cohortLeave
  rw [hi]
  cases coh : i.coh with
  | none =>
    have : { i with coh := none } = i := by rw [← coh]
    simp only [Option.bind_some, coh, this, hi]
  | some id => simp [coh, State.inst_updInst, State.setCohort, hi]

/-- A stream that is squashed stands in no cohort. -/
theorem State.inst_released_coh {s : State} {u : Nat} {i : Inst} (hi : s.inst u = some i) :
    (s.released u i).inst u = some { i with coh := none } := by
  have inst := State.inst_cohortLeave (s := s.endLease i.who.die i.tileNo u) hi i.who.die
  rw [State.released, State.inst, State.insts_forget, State.leaveSlot]
  split <;> exact inst

theorem State.phys_cohortLeave (s : State) (d u : Nat) : (s.cohortLeave d u).phys = s.phys := by
  unfold State.cohortLeave
  split
  · rfl
  · exact State.updInst_phys ..

theorem State.phys_dropWaiter (s : State) (u : Nat) : (s.dropWaiter u).phys = s.phys := by
  unfold State.dropWaiter
  rw [State.updHost_phys]
  exact State.foldl_keeps State.phys (fun t d => by split <;> rfl) ..

theorem State.phys_forget (s : State) (u : Nat) (i : Inst) : (s.forget u i).phys = s.phys := by
  unfold State.forget
  rw [State.foldl_keeps State.phys fun t d => by split <;> rfl]
  simp [State.phys_dropWaiter]

theorem State.phys_squash (s : State) (u : Nat) (fut : Bool) : (s.squash u fut).phys = s.phys := by
  unfold State.squash
  split
  · rfl
  · refine (State.updInst_phys ..).trans ((State.phys_forget ..).trans ?_)
    unfold State.leaveSlot
    split <;> exact State.phys_cohortLeave ..

/-- A stream squashed for a future waits for it, out of its slot, at its first instruction. -/
theorem State.squash_awaits {s : State} {u : Nat} {i : Inst} (hi : s.inst u = some i) : ∃ j, (s.squash u true).inst u = some j ∧
    j.sched.status = .awaiting ∧ j.sched.seq = none ∧ j.ctx.pc = i.ex.entry ∧ j.ctx.flights = [] ∧ j.ctx.prods = [] ∧ j.coh = none := by
  have inst := State.inst_released_coh hi
  obtain ⟨ex, -⟩ := (s.released u i).startExt_keeps { i with coh := none }
  have coh : ((s.released u i).startExt { i with coh := none }).coh = none := by
    unfold State.startExt
    repeat' split
    all_goals rfl
  unfold State.squash
  rw [hi]
  exact ⟨_, (State.inst_updInst ..).trans ((if_pos rfl).trans (congrArg _ inst)), rfl, rfl, congrArg Extra.entry ex, rfl, rfl, coh⟩

theorem State.setWaiters_keeps (s : State) (pa : Nat) (l : List Waiter) :
    (s.setWaiters pa l).phys = s.phys ∧ (s.setWaiters pa l).insts = s.insts := by
  unfold State.setWaiters
  split <;> exact ⟨rfl, rfl⟩

/-- An uncommitted reader of an empty cell. -/
theorem Cur.emptyFuture_awaits (c : Cur) (pa : Nat) (own : Bool) : (c.emptyFuture pa own).phys = c.s.phys ∧ ∃ j,
    (c.emptyFuture pa own).inst c.uid = some j ∧ j.sched.status = .awaiting ∧ j.sched.seq = none ∧ j.ctx.pc = c.i.ex.entry ∧
    j.ctx.flights = [] ∧ j.ctx.prods = [] ∧ j.coh = none := by
  have awaits := State.squash_awaits (State.inst_setInst c.s c.uid c.i)
  have phys : (c.save.squash c.uid true).phys = c.s.phys := State.phys_squash ..
  unfold Cur.emptyFuture
  dsimp only
  split
  · obtain ⟨waited, insts⟩ := State.setWaiters_keeps ((c.save.squash c.uid true).updSeq c.die c.q fun x => { x with clk := c.clk + 8 }) pa
      (((c.save.squash c.uid true).updSeq c.die c.q fun x => { x with clk := c.clk + 8 }).waitersAt pa ++ [⟨pa, c.uid, own⟩])
    rw [State.inst, insts, waited]
    exact ⟨phys, awaits⟩
  · exact ⟨phys, awaits⟩

/-! ## Reading a cell (R204, R304) -/

/-- What `RDF` and `SHAPE` do at the cell, on a stream that its address has ordered; `w` is what they deliver. -/
def futureAt (va : Word64) (pa dst : Nat) (w : Word) (c : Cur) : Eff :=
  if isSpan pa then .trap 0x10 va
  else if c.s.badAt pa 8 then eccAbort c pa
  else if cellBad (c.s.readPa pa 8) then .trap 0x10 va
  else if cellFull (c.s.readPa pa 8) then .ok ((c.reads pa 8 (some 3)).produce dst 1 (.known [w]) false true false)
  else if c.i.sched.committed then .trap 0x11 va
  else .done (c.emptyFuture pa false)

theorem cellBad_of_le {v : Nat} (reserved : 2 ^ 50 ≤ v) : cellBad v = true := bne_iff_ne.2 (by omega)
theorem cellBad_of_lt {v : Nat} (clean : v < 2 ^ 50) : cellBad v = false := bne_eq_false_iff_eq.2 (by omega)
theorem cellFull_iff {v : Nat} : cellFull v = true ↔ v / 2 ^ 32 % 2 = 1 := beq_iff_eq

/-- At an empty cell the reader faults or is squashed (R43). -/
theorem futureAt_empty {c : Cur} {va : Word64} {pa dst : Nat} {w : Word} (home : isSpan pa = false) (sound : c.s.badAt pa 8 = false)
    (clean : c.s.readPa pa 8 < 2 ^ 50) (empty : c.s.readPa pa 8 / 2 ^ 32 % 2 = 0) :
    futureAt va pa dst w c = if c.i.sched.committed then .trap 0x11 va else .done (c.emptyFuture pa false) := by
  have notFull : ¬ cellFull (c.s.readPa pa 8) = true := fun full => by have := cellFull_iff.1 full; omega
  unfold futureAt
  rw [if_neg (by simp [home]), if_neg (by simp [sound]), if_neg (by simp [cellBad_of_lt clean]), if_neg notFull]

/-- The stream that reads is not predicted, so the cell is not its record's. -/
theorem Cur.ownCell_of_unpredicted {c : Cur} (free : c.i.ex.pred = false) (pa : Nat) : c.ownCell pa = false := by
  rw [Cur.ownCell, free, Bool.false_and]

/-- `RDF` comes to its cell. -/
theorem execRdf_effect {s : State} {c : Cur} {g : Guard} {b : IBody} {pa : Nat} (h : s.Issues c) (on : guardAt c.regs g 0 = true)
    (room : c.room b.dst.toNat 1 = true) (acq : c.i.ctx.acqOpen = false) (aligned : (c.ea b).toNat % 8 = 0)
    (held : s.translate c.die c.asid (c.ea b).toNat .read = .ok pa) : ∃ f, execRdf g b s = issueLen 8 false true s f ∧
      f c = futureAt (c.ea b) pa b.dst.toNat (BitVec.ofNat 32 (s.readPa pa 8))
        (c.mapCtx fun x => Claims.ordered s x (c.regs.taintPair b.a.toNat)) := by
  obtain rfl := State.cur_s h.cur
  refine ⟨_, rfl, (guarded_true on _).trans ((needRoom_true room _).trans ((afterAcquire_of_none acq _).trans
    ((access_held aligned held _).trans ?_)))⟩
  have same : (c.mapCtx fun x => Claims.ordered c.s x (c.regs.taintPair b.a.toNat)).ea b = c.ea b := by
    unfold Cur.ea Cur.regs Cur.mapCtx
    rw [Claims.ordered_regs]
  rw [Cur.orderTaint_eq]
  unfold futureAt
  dsimp only
  rw [same]
  rfl

/-- `SHAPE` of a cell that is not its record's comes to it. -/
theorem execShape_effect {s : State} {c : Cur} {g : Guard} {b : IBody} {pa : Nat} (h : s.Issues c) (on : guardAt c.regs g 0 = true)
    (room : c.room b.dst.toNat 1 = true) (acq : c.i.ctx.acqOpen = false) (free : c.i.ex.pred = false)
    (aligned : (c.regs.getPair b.a.toNat).toNat % 8 = 0)
    (held : s.translate c.die c.asid (c.regs.getPair b.a.toNat).toNat .read = .ok pa) : ∃ f,
      execShape g b s = issueLen 8 false false s f ∧
      f c = futureAt (c.regs.getPair b.a.toNat) pa b.dst.toNat (BitVec.ofNat 32 (Nat.min (s.readPa pa 8 % 2 ^ 32) 65535))
        (c.mapCtx fun x => Claims.ordered s x (c.regs.taintPair b.a.toNat)) := by
  obtain rfl := State.cur_s h.cur
  have other : (c.mapCtx fun x => Claims.ordered c.s x (c.regs.taintPair b.a.toNat)).ownCell pa = false :=
    Cur.ownCell_of_unpredicted free pa
  refine ⟨_, rfl, (guarded_true on _).trans ((needRoom_true room _).trans ((afterAcquire_of_none acq _).trans
    ((access_held aligned held _).trans ?_)))⟩
  rw [Cur.orderTaint_eq]
  unfold futureAt
  dsimp only
  rw [other]
  rfl

section
variable {s : State} {c : Cur} {hand : Bool} {f : Cur → Eff} {va : Word64} {pa dst : Nat} {w : Word} {t : Bool} (h : s.Issues c)
  (ordinary : c.Ordinary) (eff : f c = futureAt va pa dst w (c.mapCtx fun x => Claims.ordered s x t))
include h ordinary eff

/-- A cell of another module faults (R203). -/
theorem futureAt_away (away : isSpan pa = true) : issueLen 8 false hand s f = .next (State.takeTrap c 0x10 0 0 c.pc va) :=
  issueLen_trap h.cur (ordinary.may ..) (eff.trans (if_pos away))

variable (home : isSpan pa = false) (sound : s.badAt pa 8 = false)
include home sound

theorem futureAt_reserved (reserved : 2 ^ 50 ≤ s.readPa pa 8) :
    issueLen 8 false hand s f = .next (State.takeTrap c 0x10 0 0 c.pc va) := by
  obtain rfl := State.cur_s h.cur
  exact issueLen_trap h.cur (ordinary.may ..) (eff.trans ((if_neg (by simp [home])).trans ((if_neg (by simp [Cur.mapCtx, sound])).trans
    (if_pos (cellBad_of_le reserved)))))

variable (clean : s.readPa pa 8 < 2 ^ 50)
include clean

/-- A full cell delivers. -/
theorem futureAt_full (full : s.readPa pa 8 / 2 ^ 32 % 2 = 1) : ∃ u, issueLen 8 false hand s f = .next u ∧
    Claims.Leaves c s ((c.i.withCtx ((s.captureFor (Claims.ordered s c.i.ctx t) pa 8).reserves dst 1 (.known [w]) false true false)).past
      c.pc 8) u := by
  obtain rfl := State.cur_s h.cur
  have done := eff.trans ((if_neg (by simp [home])).trans ((if_neg (by simp [Cur.mapCtx, sound])).trans
    ((if_neg (by simp [Cur.mapCtx, cellBad_of_lt clean])).trans (if_pos (cellFull_iff.2 full)))))
  have alike := (((Cur.Alike.refl (c.mapCtx fun x => Claims.ordered c.s x t)).reads pa 8 (some 3)).produceAs dst 1 (.known [w])
    false true false none false)
  exact word_alike h (ordinary.may ..) done alike ((c.same_ordered t).trans ⟨rfl, rfl, rfl, rfl, rfl⟩) rfl rfl

variable (empty : s.readPa pa 8 / 2 ^ 32 % 2 = 0)
include empty

/-- An empty cell makes a committed reader fault. -/
theorem futureAt_committed (committed : c.i.sched.committed = true) :
    issueLen 8 false hand s f = .next (State.takeTrap c 0x11 0 0 c.pc va) := by
  obtain rfl := State.cur_s h.cur
  have come := futureAt_empty (va := va) (dst := dst) (w := w) (c := c.mapCtx fun x => Claims.ordered c.s x t) home sound clean empty
  exact issueLen_trap h.cur (ordinary.may ..) (eff.trans (come.trans (if_pos committed)))

/-- And squashes another (R43). -/
theorem futureAt_squashed (free : c.i.sched.committed = false) : ∃ u j, issueLen 8 false hand s f = .next u ∧
    u.inst c.uid = some j ∧ j.sched.status = .awaiting ∧ j.sched.seq = none ∧ j.ctx.pc = c.i.ex.entry ∧
    j.ctx.flights = [] ∧ j.ctx.prods = [] ∧ j.coh = none ∧ u.phys = s.phys := by
  obtain rfl := State.cur_s h.cur
  have come := futureAt_empty (va := va) (dst := dst) (w := w) (c := c.mapCtx fun x => Claims.ordered c.s x t) home sound clean empty
  have active : ¬ (c.mapCtx fun x => Claims.ordered c.s x t).i.sched.committed = true := by simp [Cur.mapCtx, free]
  obtain ⟨phys, j, inst, status, seq, pc, flights, prods, coh⟩ := (c.mapCtx fun x => Claims.ordered c.s x t).emptyFuture_awaits pa false
  exact ⟨_, j, issueLen_done h (ordinary.may ..) (eff.trans (come.trans (if_neg active))), inst, status, seq, pc, flights, prods, coh,
    phys⟩

end

/-! ## Filling a cell (R205) -/

/-- Loads that a release has performed read no byte any more. -/
theorem State.captureFor_captureAll (s t : State) (x : Ctx) (pa n : Nat) :
    t.captureFor (s.captureAll x) pa n = s.captureAll x := by
  have performed (l : List Producer) (o : Ledger) : ∀ p ∈ (s.performAll (fun _ => true) l o).2, p.src.meets pa n = false := by
    induction l generalizing o with
    | nil => simp [State.performAll]
    | cons p l ih =>
      simp only [State.performAll, List.forall_mem_cons, if_true]
      exact ⟨s.meets_perform .., ih _⟩
  unfold State.captureFor State.captureAll State.capture
  rw [t.performAll_of_none (performed x.prods x.ord)]

/-- The write of a stream that has released performs no load again. -/
theorem Cur.Alike.write_released {c : Cur} {s : State} {x : Ctx} (released : c.i.ctx = s.captureAll x) (pa n v : Nat)
    (l : List Head) : (c.mapS fun s => s.writePa pa n v).Alike (c.write pa n v l) := by
  have ctx : c.s.captureFor c.i.ctx pa n = c.i.ctx := by rw [released, State.captureFor_captureAll]
  refine ⟨rfl, rfl, rfl, State.beside_putHeads .., (c.s.writeAs c.i.ctx.ord pa n v l).2, ?_⟩
  unfold Cur.write
  rw [ctx]
  rfl

/-- A word that releases, writes `v` and has `op` follow it completes so. -/
theorem issue_write_released {c : Cur} {f : Cur → Eff} {op : State → State} {pa v : Nat} {l : List Head} {taken : FMap Nat}
    (h : c.s.Issues c) (kind : c.i.who.kind ≠ .prologue)
    (blind : ∀ t, (c.s.writePa pa 8 v).Beside t → (op (c.s.writePa pa 8 v)).Beside (op t))
    (done : f c = .ok ((((c.mapCtx fun x => c.s.captureAll x).commit.write pa 8 v l).mapS op).mapRegs fun r => r.eat taken)) :
    ∃ u, issue false true c.s f = .next u ∧ Claims.Leaves c (op (c.s.writePa pa 8 v))
      ((c.i.withCtx { (c.s.captureAll c.i.ctx) with regs := c.regs.eat taken }).past c.pc 8).committed u := by
  have write := Cur.Alike.write_released (c := (c.mapCtx fun x => c.s.captureAll x).commit) (s := c.s) (x := c.i.ctx) rfl pa 8 v l
  have alike := (write.mapS (f := op) (f' := op) (blind _ write.state)).mapRegs fun r => r.eat taken
  obtain ⟨u, next, leaves⟩ := word_alike (len := 8) h (Cur.may_hand kind) done alike ⟨rfl, rfl, rfl, rfl, rfl⟩ rfl rfl
  exact ⟨u, next, leaves⟩

/-- What a fill sets going beside the cell: its waiters, the lowering that its old value `v` names, and confirmations. -/
def State.afterFill (pa v asid : Nat) (queue : Option Nat) (s : State) : State :=
  ((s.wakeCell pa fun x => !x.own).boundLower pa v asid queue).confirmDue pa

theorem State.Beside.afterFill {s t : State} (h : s.Beside t) (pa v asid : Nat) (queue : Option Nat) :
    (State.afterFill pa v asid queue s).Beside (State.afterFill pa v asid queue t) :=
  ((h.wakeCell pa fun x => !x.own).boundLower pa v asid queue).confirmDue pa

/-- What `FILL` does at the cell. -/
def fillAt (va : Word64) (pa : Nat) (w : Word) (taken : FMap Nat) (c : Cur) : Eff :=
  let v := c.s.readPa pa 8
  if isSpan pa then .trap 0x10 va
  else if c.s.badAt pa 8 then eccAbort c pa
  else if cellFull v || cellBad v then .trap 0x10 va
  else release c false fun c => if !c.mayStore pa then .ok (c.commit.filtered.mapRegs fun r => r.eat taken) else
    .ok (((c.commit.write pa 8 (w.toNat + 2 ^ 32 + v / 2 ^ 33 * 2 ^ 33) (c.i.ctx.ord.release 3)).mapS
      (State.afterFill pa v c.asid c.i.who.queue)).mapRegs fun r => r.eat taken)

/-- `FILL` comes to its cell. -/
theorem execFill_effect {s : State} {c : Cur} {g : Guard} {b : RBody} {w : Word} {tw : Bool} {taken : FMap Nat} {pa : Nat}
    (h : s.Issues c) (on : guardAt c.regs g 0 = true) (confirmed : c.i.ex.unconf = false) (acq : c.i.ctx.acqOpen = false)
    (ops : c.regs.reads [opB b] = .vals [(w, tw)] taken) (aligned : (c.regs.getPair b.a.toNat).toNat % 8 = 0)
    (held : s.translate c.die c.asid (c.regs.getPair b.a.toNat).toNat .write = .ok pa) : ∃ f,
      execFill g b s = issue false true s f ∧ f c = fillAt (c.regs.getPair b.a.toNat) pa w taken c := by
  obtain rfl := State.cur_s h.cur
  refine ⟨_, rfl, (guarded_true on _).trans ((commitStall_of_confirmed confirmed _).trans ((withOps_vals ops _).trans
    ((afterAcquire_of_none acq _).trans ((access_held aligned held _).trans ?_))))⟩
  unfold fillAt
  rfl

section
variable {s : State} {c : Cur} {f : Cur → Eff} {va : Word64} {pa : Nat} {w : Word} {taken : FMap Nat} (h : s.Issues c)
  (kind : c.i.who.kind ≠ .prologue) (eff : f c = fillAt va pa w taken c) (sound : s.badAt pa 8 = false)
include h kind eff sound

/-- A cell of another module, a full one and one with a reserved bit make it fault. -/
theorem fillAt_fault (refused : isSpan pa = true ∨ s.readPa pa 8 / 2 ^ 32 % 2 = 1 ∨ 2 ^ 50 ≤ s.readPa pa 8) :
    issue false true s f = .next (State.takeTrap c 0x10 0 0 c.pc va) := by
  obtain rfl := State.cur_s h.cur
  refine issueLen_trap h.cur (Cur.may_hand kind) (eff.trans ?_)
  unfold fillAt
  rw [sound]
  by_cases away : isSpan pa = true
  · exact if_pos away
  · have unfit : (cellFull (c.s.readPa pa 8) || cellBad (c.s.readPa pa 8)) = true := by
      rcases refused with away' | full | reserved
      · exact absurd away' away
      · rw [cellFull_iff.2 full, Bool.true_or]
      · rw [cellBad_of_le reserved, Bool.or_true]
    exact (if_neg away).trans ((if_neg Bool.false_ne_true).trans (if_pos unfit))

variable (far : c.i.ctx.remoteOpen = false) (home : isSpan pa = false) (empty : s.readPa pa 8 / 2 ^ 32 % 2 = 0)
  (clean : s.readPa pa 8 < 2 ^ 50)
include far home empty clean

omit kind in
/-- At an empty cell it releases. -/
theorem fillAt_releases (released : Cur) (after : released = c.mapCtx fun x => c.s.captureAll x) : f c =
    if !c.mayStore pa then .ok (released.commit.filtered.mapRegs fun r => r.eat taken)
    else .ok (((released.commit.write pa 8 (w.toNat + 2 ^ 32 + s.readPa pa 8 / 2 ^ 33 * 2 ^ 33) (released.i.ctx.ord.release 3)).mapS
      (State.afterFill pa (s.readPa pa 8) c.asid c.i.who.queue)).mapRegs fun r => r.eat taken) := by
  obtain rfl := State.cur_s h.cur
  subst after
  have fit : ¬ (cellFull (c.s.readPa pa 8) || cellBad (c.s.readPa pa 8)) = true := by
    have notFull : cellFull (c.s.readPa pa 8) = false := Bool.eq_false_iff.2 fun full => by have := cellFull_iff.1 full; omega
    rw [notFull, cellBad_of_lt clean]
    exact Bool.false_ne_true
  refine eff.trans ?_
  unfold fillAt
  rw [sound]
  exact (if_neg (by simp [home])).trans ((if_neg Bool.false_ne_true).trans ((if_neg fit).trans
    (release_open far (fun sys => absurd sys Bool.false_ne_true) _)))

/-- A filter that lets nothing through counts it (R368). -/
theorem fillAt_filtered (barred : c.mayStore pa = false) : ∃ u, issue false true s f = .next u ∧ c.Leaves (Claims.filtered s)
    ((c.i.withCtx { (s.captureAll c.i.ctx) with regs := c.regs.eat taken }).past c.pc 8).committed u := by
  have done := (fillAt_releases h eff sound far home empty clean _ rfl).trans (if_pos (by simp [barred]))
  obtain rfl := State.cur_s h.cur
  have same : c.Same ((c.mapCtx fun x => c.s.captureAll x).commit.filtered.mapRegs fun r => r.eat taken) := ⟨rfl, rfl, rfl, rfl, rfl⟩
  exact issueLen_leaves h (Cur.may_hand kind) done same

/-- The cell is full, its waiters go on, and the lowering that it names sets out. -/
theorem fillAt_fills (may : c.mayStore pa = true) : ∃ u, issue false true s f = .next u ∧
    Claims.Leaves c ((Claims.lowered ((s.writePa pa 8 (w.toNat + 2 ^ 32 + s.readPa pa 8 / 2 ^ 33 * 2 ^ 33)).wakeCell pa
      fun y => !y.own) c pa (s.readPa pa 8)).confirmDue pa)
      ((c.i.withCtx { (s.captureAll c.i.ctx) with regs := c.regs.eat taken }).past c.pc 8).committed u := by
  have done := (fillAt_releases h eff sound far home empty clean _ rfl).trans (if_neg (by simp [may]))
  obtain rfl := State.cur_s h.cur
  obtain ⟨u, next, leaves⟩ := issue_write_released h kind
    (fun _ beside => beside.afterFill pa (c.s.readPa pa 8) c.asid c.i.who.queue) done
  rw [Claims.lowered_eq]
  exact ⟨u, next, leaves⟩

end

/-! ## The obligation -/

/-- Settles O16: each word comes to its cell; a read delivers, faults or squashes, and a fill wakes. -/
theorem futures : Obligations.Futures := by
  unfold Obligations.Futures
  refine ⟨?reads, ?fill⟩
  case reads =>
    intro e he g b s c pa h ordinary on room acq va aligned held sound own v x w
    obtain ⟨hand, f, word, eff⟩ : ∃ hand f, exec (e.1 g b) s = issueLen 8 false hand s f ∧
        f c = futureAt va pa b.dst.toNat w (c.mapCtx fun x => Claims.ordered s x (c.regs.taintPair b.a.toNat)) := by
      rcases List.mem_pair.1 he with rfl | rfl
      · exact ⟨true, execRdf_effect h on room acq aligned held⟩
      · exact ⟨false, execShape_effect h on room acq (own rfl) aligned held⟩
    rw [word]
    exact ⟨futureAt_away h ordinary eff, fun home => ⟨futureAt_reserved h ordinary eff home sound,
      futureAt_full h ordinary eff home sound, futureAt_committed h ordinary eff home sound,
      futureAt_squashed h ordinary eff home sound⟩⟩
  case fill =>
    intro g b s c w tw taken pa h kind on confirmed acq far ops va aligned held sound v
    obtain ⟨f, word, eff⟩ := execFill_effect h on confirmed acq ops aligned held
    have word : exec (.fill g b) s = issue false true s f := word
    rw [word]
    exact ⟨fillAt_fault h kind eff sound, fun home empty clean => fillAt_filtered h kind eff sound far home empty clean,
      fun home empty clean => fillAt_fills h kind eff sound far home empty clean⟩

end Sys2Proof.Machine
end
